-- ==== Sys2Proof/Word.lean ====
section
/-!
DEFINITION. The word types of the manual (R5: little-endian fields of 8, 16, 32 and 64 bits).
-/
namespace Sys2Proof

/-- One byte. -/
abbrev Byte := BitVec 8
/-- A 16-bit field. -/
abbrev W16 := BitVec 16
/-- A 32-bit field; every status word is one (R14). -/
abbrev W32 := BitVec 32
/-- A 64-bit field. -/
abbrev W64 := BitVec 64

/-- A table that holds entries only for the keys in use, in rising order of the key. -/
abbrev Tab (α : Type) := List (Nat × α)

end Sys2Proof
end

