-- ==== Sys2Proof/Syntax.lean ====
section
/-!
DEFINITION. The commands of the device: one constructor per row of the spec's table of operations and events
(opcode_table.json), with the operands that name the unit, instance or value the row acts on. The table
gives no bits.
-/
namespace Sys2Proof

/-! ## Operand types -/

/-- A ring identifier (R54). -/
abbrev RingId := BitVec 20
/-- A job number (R96). -/
abbrev JobId := BitVec 6
/-- A video stream number (R298). -/
abbrev StreamId := BitVec 10
/-- A view number (R319). -/
abbrev ViewId := BitVec 5
/-- A ROOM window, that is a logical index (R49). -/
abbrev RoomIdx := BitVec 7
/-- A Larder pool (R272). -/
abbrev PoolId := BitVec 8
/-- A fabric port (R424). -/
abbrev PortId := BitVec 3
/-- An MSI-X vector (R416). -/
abbrev VectorId := BitVec 11
/-- A pseudo-channel of the HBM (R377). -/
abbrev PcId := BitVec 7
/-- A bank of a pseudo-channel (R377). -/
abbrev BankId := BitVec 6
/-- A decode or encode pipe (R307). -/
abbrev PipeId := BitVec 5
/-- A regulated memory port (R395). -/
abbrev MemPort := BitVec 5
/-- A fabric virtual channel (R429): 0 NEIGHBOUR, 1 COLLECTIVE, 2 BULK, 3 CONTROL. -/
abbrev Vc := BitVec 2

/-- Where a packet was taken from: a COMMAND ring, or the Hearth mailbox (R512). -/
inductive Src where
  | ring (r : RingId)
  | mailbox
  deriving DecidableEq, Repr

/-- The register blocks that have a KEY register (R48, R51). -/
inductive BlockId where
  | global | porch | ring | plan | room | larder | seq | video | capt | track | mem | fab | pwr | ras | hearth
  deriving DecidableEq, Repr

/-- The accesses a doorbell takes (R59): 32 bits at the register, 32 bits at its high word, 64 bits. -/
inductive DoorbellForm where
  | low (v : W32)
  | high (v : W32)
  | both (v : W64)
  deriving DecidableEq, Repr

/-- An aligned register write of 4 or 8 bytes (R407). -/
inductive WriteForm where
  | w32 (v : W32)
  | w64 (v : W64)
  deriving DecidableEq, Repr

/-- Which part of a 64-bit register a read reaches (R407). -/
inductive ReadPart where
  | low | high | both
  deriving DecidableEq, Repr

/-- A read of ROOM_QCLIP in a Room's window: of its low word, or, where `wide`, of the whole register (R242, R407). -/
structure QclipRead where
  window : RoomIdx
  wide : Bool
  deriving DecidableEq, Repr

/-- How a completion of a device read ends (R412, R413): success, success with EP set, UR, CA. -/
inductive CplStatus where
  | sc | poisoned | ur | ca
  deriving DecidableEq, Repr

/-- A unit that rate retirement can retire (R472). -/
inductive LadderUnit where
  | room (n : RoomIdx)
  | decPipe (p : PipeId)
  | encPipe (p : PipeId)
  | attic (slice : BitVec 3)
  deriving DecidableEq, Repr

/-- What stops a Room (R166, R463): the first access that oversteps its resource, which the model computes
from the descriptor; or parity, a failed issue check or a poisoned input met at a ROOM_CYCLE. -/
inductive RoomFaultCause where
  | resource
  | parity (rclk : W32)
  | issue (rclk : W32)
  | poison
  deriving DecidableEq, Repr

/-- A request at a Larder port (R273 to R281). -/
inductive LarderReq where
  | allocate (pool : PoolId)
  | increment (handle : W64) (delta : W32)
  | decrement (handle : W64)
  deriving DecidableEq, Repr

/-- What shows a hostile partner (R435). -/
inductive HostileCause where
  | tagFailures | reservedBits | forgedSource
  deriving DecidableEq, Repr

/-- A HELLO of discovery (R433). -/
structure Hello where
  addr : Byte
  port : Byte
  serial : W64
  tableCrc : W32
  deriving DecidableEq, Repr

/-- The content of a payload that the manual names without giving it a layout (R264, R433, R437 to R439). -/
inductive Ctrl where
  | none
  | hello (h : Hello)
  /-- A member's CRC-32C of a span's parameters (R437). -/
  | spanCrc (span crc : W32)
  /-- FREEZE and THAW of a spanning job (R264). -/
  | freeze (span : W32)
  | thaw (span : W32)
  /-- A member's highest started task index of each admitted instance, by its number in the job, plus 1 (R264). -/
  | started (span : W32) (top : List (Nat × Nat))
  /-- The largest reported indices (R264). -/
  | cut (span : W32) (top : List (Nat × Nat))
  /-- Bytes of the halo section `sec` of footprint position `pos` from `off` on, of task `task` of the job's
  instance number `run` (R438); `gaps`: places among them that hold no byte (R145). -/
  | halo (span : W32) (run task pos sec off : Nat) (gaps : List Nat)
  /-- Bytes of the contribution of footprint position `pos` of the member `src` from `off` on (R439). -/
  | part (span : W32) (run task pos off : Nat)
  deriving DecidableEq, Repr

/-- A fabric frame after its seal is opened (R429). -/
structure Frame where
  ftype : Byte
  vc : Byte
  dst : Byte
  src : Byte
  ttl : Byte
  fflags : Byte
  plen : W16
  lseq : W32
  ack : W16
  crVc : Byte
  crN : Byte
  payload : List Byte
  ctrl : Ctrl
  deriving DecidableEq, Repr

/-- The outcome of the receiver's FEC and GCM checks (R430). -/
inductive FrameCheck where
  | good | fecBad | tagBad
  deriving DecidableEq, Repr

/-- A firmware image as the flash holds it, with the outcome of its authentication (R503, R504). -/
structure FlashImage where
  kind : Byte
  stepLo : Byte
  stepHi : Byte
  ifver : W16
  seqno : W32
  length : W32
  qual : List (Byte × W16)
  /-- Magic, kind and length valid, digest matches, signature verifies. -/
  authentic : Bool
  deriving DecidableEq, Repr

/-- What the steps of a cold start find (R500). -/
structure ColdStartResult where
  /-- Physical Rooms that pass the self-test. -/
  rooms : BitVec 128
  /-- Every other store passes, or is repaired from its spare rows. -/
  sram : Bool
  /-- The two flash slots, four images each in kind order; an empty list is a flash that reads as ones. -/
  slotA : List FlashImage
  slotB : List FlashImage
  /-- HBM training passes at all eight rates, and the memory test finds spares for every fault. -/
  train : Bool
  memSpare : Bool
  /-- Lanes that fail training: pseudo-channel and lane, 32 and up for command/address (R396). -/
  lanes : List (PcId × BitVec 6)
  /-- Decode and encode pipes that pass, and root PLLs that pass. -/
  decPipes : BitVec 18
  encPipes : BitVec 5
  pll0 : Bool
  pll1 : Bool
  /-- Entropy for the neighbour-refresh seed (R391). -/
  entropy : W64
  deriving DecidableEq, Repr

/-- What the steps of a warm start find (R501). -/
structure WarmStartResult where
  train : Bool
  quick : Bool
  hashes : Bool
  entropy : W64
  deriving DecidableEq, Repr

/-- Requests answered with Unsupported Request (R421). -/
inductive UrKind where
  | io | memory | message
  deriving DecidableEq, Repr

/-- Errors for which a received TLP is discarded (R421). -/
inductive TlpError where
  | malformed | ecrc | flowControl | dataLink | overflow
  deriving DecidableEq, Repr


/-- The commands, in the order of the table. -/
inductive Instr where
  /-- NOP (R69). -/
  | nop (src : Src)
  /-- CONFIGURE (R507). -/
  | configure (src : Src)
  /-- QUERY (R513). -/
  | query (src : Src)
  /-- RING_CREATE (R85). -/
  | ringCreate
  /-- RING_DESTROY (R86). -/
  | ringDestroy
  /-- RING_DESTROY_DONE (R80). -/
  | ringDestroyDone (ring : RingId)
  /-- POOL_CREATE (R285). -/
  | poolCreate (ring : RingId)
  /-- BUF_ALLOC (R287). -/
  | bufAlloc (ring : RingId)
  /-- BUF_FREE (R288). -/
  | bufFree (ring : RingId)
  /-- BUF_REF (R288). -/
  | bufRef (ring : RingId)
  /-- GRAPH_LOAD (R106). -/
  | graphLoad (ring : RingId)
  /-- GRAPH_UNLOAD (R108). -/
  | graphUnload (ring : RingId)
  /-- GRAPH_RUN (R108). -/
  | graphRun (ring : RingId)
  /-- JOB_OPEN (R96). -/
  | jobOpen (ring : RingId)
  /-- JOB_CLOSE (R100). -/
  | jobClose (ring : RingId)
  /-- JOB_CLOSE_DONE (R100). -/
  | jobCloseDone (job : JobId)
  /-- JOB_PREEMPT (R268). -/
  | jobPreempt (ring : RingId)
  /-- JOB_RESUME_RESTORE (R268). -/
  | jobResumeRestore (job : JobId)
  /-- SEQ_JOIN (R248). -/
  | seqJoin (ring : RingId)
  /-- SEQ_LEAVE (R250). -/
  | seqLeave (ring : RingId)
  /-- STEP_POLICY (R251). -/
  | stepPolicy (ring : RingId)
  /-- STREAM_OPEN (R299). -/
  | streamOpen (ring : RingId)
  /-- STREAM_DATA (R300). -/
  | streamData (ring : RingId)
  /-- STREAM_CLOSE (R302). -/
  | streamClose (ring : RingId)
  /-- STREAM_CLOSE_DONE (R302). -/
  | streamCloseDone (stream : StreamId)
  /-- VIEW_OPEN (R319). -/
  | viewOpen (ring : RingId)
  /-- VIEW_CLOSE (R325). -/
  | viewClose (ring : RingId)
  /-- VIEW_CLOSE_DONE (R325). -/
  | viewCloseDone (view : ViewId)
  /-- CAPTURE_DATA (R331). -/
  | captureData (ring : RingId)
  /-- DICT_LOAD (R339). -/
  | dictLoad (ring : RingId)
  /-- TRACK_POLICY (R355). -/
  | trackPolicy (ring : RingId)
  /-- FABRIC_JOIN (R436). -/
  | fabricJoin (ring : RingId)
  /-- COLLECTIVE_CFG (R437). -/
  | collectiveCfg (ring : RingId)
  /-- SPAN_CONFIG_TIMEOUT (R437). -/
  | spanConfigTimeout
  /-- RECORD_START (R477). -/
  | recordStart (ring : RingId)
  /-- RECORD_STOP (R479). -/
  | recordStop (ring : RingId)
  /-- REPLAY (R480). -/
  | replay (ring : RingId)
  /-- REPLAY_PACKET (R480). -/
  | replayPacket
  /-- DOORBELL_WRITE (R60). -/
  | doorbellWrite (ring : RingId) (form : DoorbellForm)
  /-- PACKET_FETCH (R64). -/
  | packetFetch (ring : RingId)
  /-- PACKET_DISPATCH (R459). -/
  | packetDispatch
  /-- COMPLETION_RECORD_WRITE (R74). -/
  | completionRecordWrite (ring : RingId)
  /-- METADATA_RECORD_WRITE (R367). -/
  | metadataRecordWrite (ring : RingId)
  /-- MSIX_MESSAGE (R417). -/
  | msixMessage (vector : VectorId)
  /-- MSIX_VECTOR_UNMASK (R417). -/
  | msixVectorUnmask (vector : VectorId)
  /-- INTX_ASSERT (R419). -/
  | intxAssert
  /-- INTX_DEASSERT (R419). -/
  | intxDeassert
  /-- INTX_PEND_CLEAR (R420). -/
  | intxPendClear (k : BitVec 6) (value : W32)
  /-- DEVICE_READ_COMPLETION (R412). -/
  | deviceReadCompletion (tag : Nat) (status : CplStatus) (data : List Byte)
  /-- COMPLETION_TIMEOUT (R411). -/
  | completionTimeout (tag : Nat)
  /-- BUS_MASTER_ENABLE_CLEAR (R414). -/
  | busMasterEnableClear
  /-- BUS_MASTER_ENABLE_SET (R415). -/
  | busMasterEnableSet
  /-- HOST_LOSS (R415). -/
  | hostLoss
  /-- POWER_STATE_WRITE (R403). -/
  | powerStateWrite (value : BitVec 2)
  /-- BAR_SIZE_WRITE (R405). -/
  | barSizeWrite (size : BitVec 6)
  /-- WINDOW_READ (R406). -/
  | windowRead (offset : Nat) (size : Nat)
  /-- WINDOW_WRITE (R406). -/
  | windowWrite (offset : Nat) (data : List (Option Byte))
  /-- HOST_POISONED_WRITE (R421). -/
  | hostPoisonedWrite
  /-- LINK_UP (R500). -/
  | linkUp (rate : BitVec 4) (width : BitVec 5) (flit : Bool)
  /-- LINK_RECOVERY (R421). -/
  | linkRecovery
  /-- LINK_DOWN (R498). -/
  | linkDown
  /-- BLOCK_KEY_WRITE (R10). -/
  | blockKeyWrite (block : BlockId) (value : W32)
  /-- ADMIN_RINGS_ENABLE (R88). -/
  | adminRingsEnable (value : W32)
  /-- ADMIN_RINGS_DISABLE (R89). -/
  | adminRingsDisable (value : W32)
  /-- RING_SEL_WRITE (R88). -/
  | ringSelWrite (value : W32)
  /-- SEQ_SEL_WRITE (R269). -/
  | seqSelWrite (value : W32)
  /-- LARDER_POOL_SEL_WRITE (R291). -/
  | larderPoolSelWrite (value : W32)
  /-- VIDEO_STREAM_SEL_WRITE (R326). -/
  | videoStreamSelWrite (value : W32)
  /-- CAPT_SRC_SEL_WRITE (R348). -/
  | captSrcSelWrite (value : W32)
  /-- TRACK_SEL_WRITE (R375). -/
  | trackSelWrite (value : W32)
  /-- FAB_PORT_SEL_WRITE (R442). -/
  | fabPortSelWrite (value : W32)
  /-- RAS_LOG_SEL_WRITE (R481). -/
  | rasLogSelWrite (value : W32)
  /-- ROOM_ACT_CLEAR (R225). -/
  | roomActClear (window : RoomIdx) (value : W32)
  /-- ROOM_QCLIP_SNAPSHOT (R242). -/
  | roomQclipSnapshot (read : QclipRead)
  /-- ROOM_QEVENT_CLEAR (R241). -/
  | roomQeventClear (window : RoomIdx) (value : W32)
  /-- VIEW_CIDX_WRITE (R323). -/
  | viewCidxWrite (view : ViewId) (value : W32)
  /-- VIDEO_EGRESS_WRITE (R318). -/
  | videoEgressWrite (value : W32)
  /-- MAILBOX_GO (R512). -/
  | mailboxGo (value : W32)
  /-- RESTART_WARM (R498). -/
  | restartWarm
  /-- RESTART_COLD (R498). -/
  | restartCold
  /-- DRAIN (R502). -/
  | drain
  /-- RESUME (R498). -/
  | resume
  /-- MAINT_ENTER (R510). -/
  | maintEnter
  /-- MAINT_EXIT (R511). -/
  | maintExit
  /-- OVERRIDE (R506). -/
  | override
  /-- REGISTER_WRITE (R9). -/
  | registerWrite (offset : Nat) (form : WriteForm)
  /-- RING_ORPHAN_READ (R88). -/
  | ringOrphanRead
  /-- RING_FAULT_READ (R88). -/
  | ringFaultRead
  /-- RING_FAULT_INFO_READ (R88). -/
  | ringFaultInfoRead
  /-- PLAN_SLIP_READ (R129). -/
  | planSlipRead
  /-- PLAN_REFUSE_READ (R129). -/
  | planRefuseRead
  /-- PLAN_DUPTILE_READ (R129). -/
  | planDuptileRead
  /-- PLAN_PREEMPT_READ (R270). -/
  | planPreemptRead
  /-- ROOM_STORE_READ (R154). -/
  | roomStoreRead (window : RoomIdx)
  /-- ROOM_SAT_READ (R154). -/
  | roomSatRead (window : RoomIdx)
  /-- ROOM_FAULT_READ (R154). -/
  | roomFaultRead (window : RoomIdx)
  /-- SEQ_PAUSE_EVT_READ (R269). -/
  | seqPauseEvtRead
  /-- SEQ_SKIP_READ (R269). -/
  | seqSkipRead
  /-- SEQ_STEP_ERR_READ (R269). -/
  | seqStepErrRead
  /-- LARDER_ERR_READ (R291). -/
  | larderErrRead
  /-- LARDER_DFREE_READ (R291). -/
  | larderDfreeRead
  /-- VIDEO_REFUSE_READ (R326). -/
  | videoRefuseRead
  /-- VIDEO_SLOW_READ (R326). -/
  | videoSlowRead
  /-- VIDEO_CONCEAL_READ (R326). -/
  | videoConcealRead
  /-- VIDEO_VIEW_DROP_READ (R326). -/
  | videoViewDropRead (view : ViewId)
  /-- CAPT_CNT_READ (R348). -/
  | captCntRead (part : ReadPart)
  /-- CAPT_DAMAGE_READ (R348). -/
  | captDamageRead
  /-- TRACK_DROP_READ (R375). -/
  | trackDropRead
  /-- TRACK_QDROP_READ (R375). -/
  | trackQdropRead
  /-- TRACK_REJECT_READ (R375). -/
  | trackRejectRead
  /-- MEM_FWD_READ (R397). -/
  | memFwdRead (part : ReadPart)
  /-- MEM_CE_READ (R397). -/
  | memCeRead
  /-- MEM_UE_READ (R397). -/
  | memUeRead
  /-- MEM_REG_WAIT_READ (R397). -/
  | memRegWaitRead (port : MemPort)
  /-- PORCH_LINK_READ (R423). -/
  | porchLinkRead
  /-- PORCH_ERR_READ (R423). -/
  | porchErrRead
  /-- PORCH_RETRY_READ (R423). -/
  | porchRetryRead
  /-- FAB_ERR_READ (R442). -/
  | fabErrRead
  /-- FAB_DROP_READ (R442). -/
  | fabDropRead
  /-- RAS_LOG_LOST_READ (R481). -/
  | rasLogLostRead
  /-- RAS_REPLAN_READ (R481). -/
  | rasReplanRead
  /-- PWR_DROOP_READ (R496). -/
  | pwrDroopRead
  /-- HEARTH_MBOX_STAT_READ (R514). -/
  | hearthMboxStatRead
  /-- ADMISSION (R94). -/
  | admission
  /-- ADMISSION_COMPLETE (R93). -/
  | admissionComplete
  /-- ENTRY_RESERVATION (R93). -/
  | entryReservation
  /-- PREFETCH_START (R141). -/
  | prefetchStart (inst : Nat) (task : Nat)
  /-- TASK_START (R142). -/
  | taskStart (inst : Nat) (task : Nat) (arrived : Bool)
  /-- TASK_BODY_END (R167). -/
  | taskBodyEnd (inst : Nat) (task : Nat)
  /-- TASK_COMMIT (R147). -/
  | taskCommit (inst : Nat) (task : Nat) (accepted : Bool)
  /-- ROOM_FAULT (R166). -/
  | roomFault (inst : Nat) (task : Nat) (position : Nat) (cause : RoomFaultCause)
  /-- LADDER_STEP (R465). -/
  | ladderStep (inst : Nat) (task : Nat)
  /-- RATE_RETIREMENT (R472). -/
  | rateRetirement (unit : LadderUnit)
  /-- TILE_CLAIM (R124). -/
  | tileClaim (inst : Nat) (task : Nat) (position : Nat) (q : W32)
  /-- CLAIM_ROUND_SERVE (R124). -/
  | claimRoundServe (inst : Nat) (task : Nat)
  /-- TILE_CLAIM_RESEND (R125). -/
  | tileClaimResend (inst : Nat) (task : Nat) (position : Nat)
  /-- SEM_HOLD_LIMIT (R128). -/
  | semHoldLimit (sem : BitVec 8)
  /-- FAB_LATE (R438). -/
  | fabLate (inst : Nat) (task : Nat) (position : Nat) (rclk : W32)
  /-- ATTIC_PARITY (R463). -/
  | atticParity (slice : BitVec 3) (inst : Nat) (again : Bool)
  /-- PREEMPT_REQUEST (R262). -/
  | preemptRequest (inst : Nat)
  /-- VICTIM_FREEZE (R262). -/
  | victimFreeze (job : JobId)
  /-- SWITCH_START (R262). -/
  | switchStart (job : JobId)
  /-- SWITCH_COMPLETE (R265). -/
  | switchComplete (job : JobId)
  /-- ROOMS_RETURN (R263). -/
  | roomsReturn (job : JobId)
  /-- SPAN_FREEZE (R264). -/
  | spanFreeze (span : W32)
  /-- SPAN_FREEZE_CUT (R264). -/
  | spanFreezeCut (span : W32) (cut : List (Nat × Nat))
  /-- SPAN_THAW (R264). -/
  | spanThaw (span : W32)
  /-- STEP_BUILD (R254). -/
  | stepBuild
  /-- STEP_COLLECT (R258). -/
  | stepCollect (job : JobId)
  /-- LARDER_REQUEST (R281). -/
  | larderRequest (port : BitVec 5) (seqno : W16) (req : LarderReq)
  /-- LARDER_FREELIST_REBUILD (R278). -/
  | larderFreelistRebuild (pool : PoolId)
  /-- PICTURE_ASSIGN (R308). -/
  | pictureAssign
  /-- BLOCK_ROW_BOUNDARY (R308). -/
  | blockRowBoundary (pipe : PipeId)
  /-- PICTURE_CONTEXT_SAVED (R308). -/
  | pictureContextSaved (pipe : PipeId)
  /-- PICTURE_RESUME (R308). -/
  | pictureResume (pipe : PipeId)
  /-- PICTURE_ABANDON (R311). -/
  | pictureAbandon (pipe : PipeId)
  /-- PICTURE_RECONSTRUCTED (R314). -/
  | pictureReconstructed (pipe : PipeId)
  /-- PER_FRAME_GRAPH_SUBMIT (R314). -/
  | perFrameGraphSubmit (stream : StreamId)
  /-- PIPE_FAULT (R309). -/
  | pipeFault (encode : Bool) (pipe : PipeId)
  /-- VIEW_AU_ENCODE (R320). -/
  | viewAuEncode (view : ViewId)
  /-- TRACKER_UPDATE (R357). -/
  | trackerUpdate (stream : StreamId)
  /-- MEM_READ_REQUEST (R382). -/
  | memReadRequest (port : MemPort) (addr : Nat)
  /-- MEM_WRITE_REQUEST (R382). -/
  | memWriteRequest (port : MemPort) (addr : Nat) (data : List (Option Byte))
  /-- PORT_ADMIT (R395). -/
  | portAdmit (port : MemPort)
  /-- PC_COMMAND_ISSUE (R383). -/
  | pcCommandIssue (pc : PcId)
  /-- ACTIVATION_THRESHOLD (R390). -/
  | activationThreshold (pc : PcId) (bank : BankId)
  /-- MEM_READ_RETURN (R393). -/
  | memReadReturn (pc : PcId) (errors : List (Nat × Byte))
  /-- REFRESH_INTERVAL (R386). -/
  | refreshInterval (pc : PcId) (bank : BankId)
  /-- PAGE_IDLE_TIMEOUT (R384). -/
  | pageIdleTimeout (pc : PcId) (bank : BankId)
  /-- SOFT_ROW_REPAIR (R396). -/
  | softRowRepair
  /-- ROW_REPAIR_DONE (R396). -/
  | rowRepairDone (pc : PcId) (bank : BankId)
  /-- PATROL_SCRUB (R394). The operand says nothing: the controllers choose the block. -/
  | patrolScrub (none_ : Unit)
  /-- MEM_TEMP_UPDATE (R386). -/
  | memTempUpdate (t : W32)
  /-- LANE_PARITY_LIMIT (R396). -/
  | laneParityLimit (pc : PcId) (lane : BitVec 6)
  /-- PORT_SIGNAL_DETECT (R426). -/
  | portSignalDetect (port : PortId)
  /-- PORT_NO_SIGNAL_TIMEOUT (R426). -/
  | portNoSignalTimeout (port : PortId)
  /-- TRAINING_LOCK (R426). -/
  | trainingLock (port : PortId)
  /-- TRAINING_TIMEOUT (R426). -/
  | trainingTimeout (port : PortId)
  /-- AUTH_COMPLETE (R427). -/
  | authComplete (port : PortId) (hello : Hello)
  /-- AUTH_FAIL (R426). -/
  | authFail (port : PortId)
  /-- FRAME_RECEIVE (R430). -/
  | frameReceive (port : PortId) (check : FrameCheck) (frame : Frame)
  /-- NAK_RECEIVE (R430). -/
  | nakReceive (port : PortId) (lseq : W32)
  /-- FRAME_TRANSMIT (R431). -/
  | frameTransmit (port : PortId) (vc : Vc)
  /-- REPLAY_TIMER (R430). -/
  | replayTimer (port : PortId)
  /-- RETRY_EXHAUSTED (R430). -/
  | retryExhausted (port : PortId)
  /-- LOSS_OF_LOCK (R426). -/
  | lossOfLock (port : PortId)
  /-- LANE_FAILURE (R425). -/
  | laneFailure (port : PortId)
  /-- LANE_RETRAIN_DONE (R425). -/
  | laneRetrainDone (port : PortId)
  /-- CREDIT_STALL (R435). -/
  | creditStall (port : PortId) (vc : Vc)
  /-- SLOW_RECOVERY (R426). -/
  | slowRecovery (port : PortId)
  /-- HOSTILE_DETECT (R435). -/
  | hostileDetect (port : PortId) (cause : HostileCause)
  /-- LINK_REKEY (R428). -/
  | linkRekey (port : PortId)
  /-- TRANSPORT_GAP_TIMEOUT (R432). -/
  | transportGapTimeout (src : Byte) (vc : Vc)
  /-- POWER_INTERVAL_END (R490). -/
  | powerIntervalEnd (measured : Nat)
  /-- PSTATE_STEP_BEGIN (R486). -/
  | pstateStepBegin
  /-- PSTATE_STEP_END (R486). -/
  | pstateStepEnd
  /-- MODEL_DEVIATION (R491). -/
  | modelDeviation (measured : Nat) (model : Nat)
  /-- DROOP_DETECT (R487). -/
  | droopDetect
  /-- DROOP_END (R487). -/
  | droopEnd
  /-- PLL_LOSS_OF_LOCK (R473). -/
  | pllLossOfLock
  /-- HEARTH_CROSSCHECK_FAIL (R473). -/
  | hearthCrosscheckFail
  /-- THERMAL_SAMPLE (R495). -/
  | thermalSample (die : List Byte) (temps : W32)
  /-- THERMTRIP_COMPARATOR (R532). -/
  | thermtripComparator
  /-- DOMAIN_OFF_TIMER (R489). -/
  | domainOffTimer (domain : Nat)
  /-- DOMAIN_FAIL (R489). -/
  | domainFail (domain : Nat)
  /-- PG_IN_ASSERT (R526). -/
  | pgInAssert
  /-- PG_IN_DEASSERT (R498). -/
  | pgInDeassert
  /-- PERST_ASSERT (R498). -/
  | perstAssert
  /-- PERST_DEASSERT (R498). -/
  | perstDeassert
  /-- SUPPLY_FAULT (R524). -/
  | supplyFault
  /-- COLD_START (R500). -/
  | coldStart (r : ColdStartResult)
  /-- WARM_START (R501). -/
  | warmStart (r : WarmStartResult)
  /-- START_STEP_FAIL (R498). -/
  | startStepFail (code : W16)
  /-- START_COMPLETE (R498). -/
  | startComplete
  /-- DRAIN_COMPLETE (R502). -/
  | drainComplete
  /-- CONFIGURATION_WRITE (R417). -/
  | configurationWrite (offset : Nat) (size : Nat) (value : W32)
  /-- RATE_WINDOW_END (R472). -/
  | rateWindowEnd
  /-- UNSUPPORTED_REQUEST (R421). -/
  | unsupportedRequest (kind : UrKind)
  /-- MALFORMED_TLP (R421). -/
  | malformedTlp (kind : TlpError)
  /-- BAR_ACCESS (R407). -/
  | barAccess (offset : Nat) (size : Nat)
  deriving DecidableEq, Repr

end Sys2Proof
end

