-- ==== Sys2Proof/WellFormed.lean ====
section
/-!
DEFINITION. Well-formed commands: operands that name units, places and sizes the device has. A meaning is total on every
command; this says which ones a sender can send.
-/
namespace Sys2Proof

/-- A unit of rate retirement that exists (R471, R472). -/
def LadderUnit.wf : LadderUnit → Bool
  | .room _ => true
  | .decPipe p => decide (p.toNat < 18)
  | .encPipe p => decide (p.toNat < 5)
  | .attic _ => true

/-- Bytes of a codeword that can be in error: 64 data and 4 check (R392). -/
def errorsWf (e : List (Nat × Byte)) : Bool := e.all (fun p => decide (p.1 < 68))

/-- A flash slot reads as ones, or holds its four images (R503). -/
def slotWf (l : List FlashImage) : Bool := l.isEmpty || l.length == 4

/-- Room index and position ranges (R49, R118). -/
def positionWf (p : Nat) : Bool := decide (p < 128)

def Instr.wf : Instr → Bool
  | .windowRead off n => decide (1 ≤ n ∧ n ≤ 4096 ∧ off + n ≤ 2 ^ 37)          -- R405, R406
  | .windowWrite off d => decide (1 ≤ d.length ∧ d.length ≤ 4096 ∧ off + d.length ≤ 2 ^ 37)
  | .registerWrite off _ => decide (off < 2 ^ 26)                               -- R401
  | .barAccess off n => decide (off < 2 ^ 26 ∧ 1 ≤ n ∧ n ≤ 4096)
  | .configurationWrite off n v =>
    decide ((n = 1 ∨ n = 2 ∨ n = 4) ∧ off % n = 0 ∧ off + n ≤ 4096 ∧ v.toNat < 2 ^ (8 * n))
  | .larderRequest port _ _ => decide (port.toNat < 28)                         -- R281
  | .pictureContextSaved p | .blockRowBoundary p | .pictureResume p | .pictureAbandon p | .pictureReconstructed p =>
    decide (p.toNat < 18)                                                       -- R307
  | .pipeFault encode p => decide (p.toNat < if encode then 5 else 18)
  | .rateRetirement u => u.wf
  | .memReadRequest port _ => decide (port.toNat < 24)                          -- R395
  | .memWriteRequest port a d => decide (port.toNat < 24 ∧ 1 ≤ d.length ∧ a % 64 + d.length ≤ 64)
  | .portAdmit port | .memRegWaitRead port => decide (port.toNat < 24)
  | .activationThreshold _ b | .refreshInterval _ b | .pageIdleTimeout _ b | .rowRepairDone _ b =>
    decide (b.toNat < 48)                                                       -- R377
  | .memReadReturn _ e => errorsWf e
  | .roomFault _ _ p _ | .tileClaim _ _ p _ | .tileClaimResend _ _ p | .fabLate _ _ p _ => positionWf p
  | .thermalSample die _ => decide (die.length = 32)                            -- R495
  | .domainOffTimer d | .domainFail d => decide (d < 41)                        -- R488
  | .coldStart r => slotWf r.slotA && slotWf r.slotB
  | _ => true

end Sys2Proof
end

