-- ==== Sys2Proof/Config.lean ====
section
/-!
DEFINITION. What one implementation fixes and the values the manual leaves open: constants without a body, of which
nothing can be computed or proved.
-/
namespace Sys2Proof.Config

/-- The `n`-th free value that a step draws, where the manual states no value (log entry 4). -/
opaque freeWord : Nat → W64

/-- ifver of each block's ID register (R51: "per block", no value stated; log entry 5). -/
opaque ifver : Nat → W16

/-- A ring's context is not among the 65,536 that the ring manager holds on chip, by the ring and the number of rings that are
not FREE (R87 gives the number held and no rule of replacement; log entry 119). -/
opaque ctxAway (ring count : Nat) : Bool

/-- What a read of the DBG block of a debug-unlocked part gives, by offset and reads before (R50 gives the block no register;
log entry 116). -/
opaque dbgWord (off n : Nat) : W32

/-- What a word of configuration space reads that a capability holds and the spec gives no content for, by offset and free value
counter: the AER header log and the lane capabilities (R402, R421; log entry 123). -/
opaque cfgWord (off n : Nat) : W32

/-- A VARIES task's reduction of so many blocks is split across a footprint row of so many Rooms (R122 lets it be; log entry 97). -/
opaque varySplit (width blocks : Nat) : Bool

/-- Soft-repair spare rows of a bank (R396 gives no number; log entry 17). -/
opaque spareRows : Nat

/-- A command of a pseudo-channel meets a command/address or write-data parity error (R378); the argument is the number of the
draw. -/
opaque parityError (n : Nat) : Bool

/-- Where the choice between two neighbouring fp32 results of the function unit turns, where the manual leaves both open (R204,
R209): by function code, sign and the encoding of the neighbour of smaller magnitude, the distance from their midpoint, in units of the
unrounded result, from which on the neighbour of larger magnitude results. One turning point for each pair of neighbours keeps the
results of a monotone function in order (R207, R210; log entry 18). -/
opaque fnTurn (fn : Nat) (neg : Bool) (lo : Nat) : Int

/-- Direct ports between two other members of a span (R438: fixed at COLLECTIVE_CFG; no rule tells a device the count
between two others; log entry 22). -/
opaque directPorts : Byte → Byte → Nat

/-- What the conversion of a NaN to an integer gives (R344 states none; log entry 32). -/
opaque nanToInt : Int

/-! ## Codecs (R294: ITU-T H.264 and H.265, which the manual names and does not repeat; log entry 33)

What the manual itself says of the coded data (the byte stream, the units it discards, the checks, the counts, the budgets, the
order of output, the references' buffers, concealment) is computed by the model from the values of the functions below. -/

/-- Values that a sequence parameter set carries (R294, R295, R304, R305, R319). -/
structure SpsInfo where
  profile : Nat
  chroma : Nat
  bitLuma : Nat
  bitChroma : Nat
  /-- H.264 frame_mbs_only_flag. -/
  frameOnly : Bool
  /-- H.265: a range, screen-content, scalable or multiview profile. -/
  extension : Bool
  /-- Coded dimensions; those after cropping, and the cropped picture's first column and row. -/
  wc : Nat
  hc : Nat
  wo : Nat
  ho : Nat
  x0 : Nat
  y0 : Nat
  /-- Ten times the claimed level. -/
  level : Nat
  /-- H.264 max_dec_frame_buffering, H.265 sps_max_dec_pic_buffering_minus1. -/
  maxDec : Nat
  /-- num_units_in_tick and time_scale of the VUI, when it carries timing. -/
  timing : Option (Nat × Nat)
  /-- H.264 MaxFrameNum. -/
  maxFrameNum : Nat
  deriving DecidableEq, Repr, Inhabited

/-- What the model asks of a slice header. -/
structure SliceInfo where
  /-- H.264 first_mb_in_slice. -/
  first : Nat
  /-- It is the first slice of a picture. -/
  starts : Bool
  /-- H.264 frame_num, H.265 PicOrderCnt. -/
  place : Int
  deriving DecidableEq, Repr, Inhabited

/-- A decoded picture. -/
structure Decoded where
  /-- Active vclk before any separate warp pass (R310). -/
  cycles : Nat
  /-- Samples of the coded picture in row order; those of concealed rows do not matter. -/
  y : List Nat
  u : List Nat
  v : List Nat
  /-- Runs of block rows that no slice gives: the slice's offset, the first block row and how many (R313). -/
  missing : List (Nat × Nat × Nat)
  /-- Motion vectors of the 16 × 16 blocks in row order, in quarter samples: zero where a block has none. -/
  vectors : List (Int × Int)
  /-- Its entry among the references, for a reference picture, and the entries that stay beside it. -/
  entry : Option Nat
  keep : List Nat
  /-- Its motion field (R304). -/
  field : List Byte
  /-- The decoder's next state. -/
  next : Nat
  deriving DecidableEq, Repr, Inhabited

/-- The entry of a picture that repeats the one before it, the entries that stay, and the decoder's next state (R311). -/
structure Repeated where
  entry : Option Nat
  keep : List Nat
  next : Nat
  deriving DecidableEq, Repr, Inhabited

/-- Parameter sets and slice headers, by codec, parser state and the unit's bytes. -/
opaque readSps (h265 : Bool) (ctx : Nat) (unit : List Byte) : SpsInfo
/-- H.264 picture parameter set: slice groups, redundant pictures. -/
opaque readPps (ctx : Nat) (unit : List Byte) : Bool × Bool
/-- H.265 video parameter set: it names a profile of the last row of R295; its num_units_in_tick and time_scale. -/
opaque readVps (unit : List Byte) : Bool × Option (Nat × Nat)
/-- The count of a recovery point SEI; none for any other SEI unit. -/
opaque readRecovery (h265 : Bool) (unit : List Byte) : Option Nat
opaque readSlice (h265 : Bool) (ctx : Nat) (unit : List Byte) : SliceInfo
/-- The parser's state after a unit. -/
opaque parserNext (h265 : Bool) (ctx : Nat) (unit : List Byte) : Nat
/-- Pictures that the decoding of a picture outputs, in output order, as distances back in decode order (R303). -/
opaque bumpOrder (h265 : Bool) (ctx : Nat) : List Nat
/-- The pictures still to be output when a stream ends, as distances back in decode order. -/
opaque flushOrder (h265 : Bool) (ctx : Nat) : List Nat
/-- The decoder, by codec, parser and decoder state, the picture's units, the reference pictures by entry with the offsets of their
poisoned 64-byte blocks (R464), and the picture that stands for a reference that does not exist (R312). -/
opaque decodePicture (h265 : Bool) (ctx dec : Nat) (units : List (Nat × List Byte)) (refs : List (Nat × List Byte × List Nat))
    (absent : List Byte) : Decoded
/-- The references after a picture that repeats the previous one (R311). -/
opaque repeatPicture (h265 : Bool) (ctx dec : Nat) (units : List (Nat × List Byte)) : Repeated
/-- A sample between the samples of a reference plane, by the codec's filter: luma or chroma, samples, width, height, the whole
position, and the fraction in quarter (luma) or eighth (chroma) samples (R313 in mode MOTION). -/
opaque interpolate (h265 chroma : Bool) (p : List Nat) (w h : Nat) (x y fx fy : Int) : Nat
/-- A block row of an encoded picture (R320 to R322): the bits it takes and the encoder's next state, from the luma samples of
the crop, the chroma planes of level 0 and the crop, the row, its QP, the columns coded intra, the columns to which the motion
vectors of refreshed blocks are limited, and whether it is an IDR. -/
opaque encodeRow (h265 : Bool) (enc : Nat) (luma u v : List Nat) (crop : Nat × Nat × Nat × Nat) (row qp : Nat)
    (intra : Nat × Nat) (limit : Nat) (idr : Bool) : Nat × Nat
/-- The payload of the picture whose rows are encoded, with a recovery point SEI of the count given, and the references after it. -/
opaque encodeEnd (h265 : Bool) (enc : Nat) (recovery : Option Nat) : List Byte × Nat

end Sys2Proof.Config
end

