-- ==== Sys2Proof/Machine/Codes.lean ====
section
/-!
DEFINITION. The status words of every owner range (R14, R18): class in bits 31:16, owner and detail below.
-/
namespace Sys2Proof.Machine.Code

/-- The class field of a status word (R14): 0 none, 1 CORRECTED, 2 TRANSIENT, 3 LASTING, 4 FATAL. -/
def cls (s : W32) : Nat := s.toNat / 65536

/-- The same code under another class (R462). -/
def withCls (s : W32) (c : Nat) : W32 := BitVec.ofNat 32 (c * 65536 + s.toNat % 65536)

/-- The low 16 bits of a status word, as the latches hold them. -/
def low (s : W32) : W16 := BitVec.ofNat 16 s.toNat

/-- Success (R15). -/
def ok : W32 := 0

/-! ## Owner 0x1 (R90) -/

/-- PKT_ZERO_LEN. -/
def pktZeroLen : W32 := 0x00031001
/-- PKT_RESERVED. -/
def pktReserved : W32 := 0x00031002
/-- PKT_OPCODE. -/
def pktOpcode : W32 := 0x00031003
/-- PKT_LENGTH. -/
def pktLength : W32 := 0x00031004
/-- PKT_SEQUENCE. -/
def pktSequence : W32 := 0x00031005
/-- PKT_LEN_RING. -/
def pktLenRing : W32 := 0x00031006
/-- DB_OVERRUN. -/
def dbOverrun : W32 := 0x00031010
/-- DB_NO_RING. -/
def dbNoRing : W32 := 0x00031011
/-- RING_EXISTS. -/
def ringExists : W32 := 0x00031020
/-- RING_ID. -/
def ringId : W32 := 0x00031021
/-- RING_SIZE. -/
def ringSize : W32 := 0x00031022
/-- RING_BASE. -/
def ringBase : W32 := 0x00031023
/-- RING_BIND. -/
def ringBind : W32 := 0x00031024
/-- RING_BUSY. -/
def ringBusy : W32 := 0x00021025
/-- RING_NOT_FOUND. -/
def ringNotFound : W32 := 0x00031026
/-- RING_PARAM. -/
def ringParam : W32 := 0x00031027
/-- PKT_COMPAT. -/
def pktCompat : W32 := 0x00031030

/-! ## Owner 0x2 (R130) -/

/-- GRAPH_FORMAT. -/
def graphFormat : W32 := 0x00032001
/-- GRAPH_CRC. -/
def graphCrc : W32 := 0x00032002
/-- GRAPH_LIMIT. -/
def graphLimit : W32 := 0x00032003
/-- GRAPH_OP. -/
def graphOp : W32 := 0x00032004
/-- GRAPH_DEPEND. -/
def graphDepend : W32 := 0x00032005
/-- GRAPH_FOOTPRINT. -/
def graphFootprint : W32 := 0x00032006
/-- GRAPH_CYCLES. -/
def graphCycles : W32 := 0x00032007
/-- GRAPH_ID. -/
def graphId : W32 := 0x00032008
/-- GRAPH_BUSY. -/
def graphBusy : W32 := 0x00022009
/-- GRAPH_NO_SPACE. -/
def graphNoSpace : W32 := 0x0002200A
/-- GRAPH_PARAM. -/
def graphParam : W32 := 0x0003200B
/-- JOB_ID. -/
def jobId : W32 := 0x00032010
/-- JOB_NO_SUITE. -/
def jobNoSuite : W32 := 0x00022011
/-- JOB_NO_ATTIC. -/
def jobNoAttic : W32 := 0x00022012
/-- JOB_MODE. -/
def jobMode : W32 := 0x00032013
/-- JOB_NOT_OPEN. -/
def jobNotOpen : W32 := 0x00032014
/-- JOB_BUSY. -/
def jobBusy : W32 := 0x00022015
/-- ADM_SHAPE_OVER. -/
def admShapeOver : W32 := 0x00032020
/-- ADM_DIMS. -/
def admDims : W32 := 0x00032021
/-- ADM_BINDING. -/
def admBinding : W32 := 0x00032022
/-- CTR_SEQUENCE. -/
def ctrSequence : W32 := 0x00032030
/-- SEM_HOLD_LIMIT. -/
def semHoldLimit : W32 := 0x00032031
/-- SEM_UNRELEASED. -/
def semUnreleased : W32 := 0x00032032
/-- SEM_ORDER. -/
def semOrder : W32 := 0x00032033

/-! ## Owner 0x3 (R179) -/

/-- STORE_OVER. -/
def storeOver : W32 := 0x00033001
/-- BUF_OVER. -/
def bufOver : W32 := 0x00033002
/-- ATTIC_OVER. -/
def atticOver : W32 := 0x00033003
/-- DECLASS_OVER. -/
def declassOver : W32 := 0x00033004
/-- HALO_DEPTH. -/
def haloDepth : W32 := 0x00033005
/-- LINE_OVER. -/
def lineOver : W32 := 0x00033006
/-- TILE_OVER. -/
def tileOver : W32 := 0x00033007

/-! ## Owner 0x5 (R271) -/

/-- SEQ_ID. -/
def seqId : W32 := 0x00035001
/-- SEQ_NOT_FOUND. -/
def seqNotFound : W32 := 0x00035002
/-- SEQ_NO_POLICY. -/
def seqNoPolicy : W32 := 0x00035003
/-- SEQ_PARAM. -/
def seqParam : W32 := 0x00035004
/-- SEQ_HANDLE. -/
def seqHandle : W32 := 0x00035005
/-- STEP_PARAM. -/
def stepParam : W32 := 0x00035010
/-- STEP_GRAPH. -/
def stepGraph : W32 := 0x00035011
/-- STEP_BUSY. -/
def stepBusy : W32 := 0x00025012
/-- PRE_CLASS. -/
def preClass : W32 := 0x00035020
/-- PRE_STATE. -/
def preState : W32 := 0x00035021
/-- SEQ_PAUSE_LIMIT. -/
def seqPauseLimit : W32 := 0x00025030

/-! ## Owner 0x4 (R292) -/

/-- POOL_ID. -/
def poolId : W32 := 0x00034001
/-- POOL_PARAM. -/
def poolParam : W32 := 0x00034002
/-- POOL_RANGE. -/
def poolRange : W32 := 0x00034003
/-- POOL_BUSY. -/
def poolBusy : W32 := 0x00024004
/-- BUF_EMPTY. -/
def bufEmpty : W32 := 0x00024010
/-- BUF_SIZE. -/
def bufSize : W32 := 0x00034011
/-- BUF_HANDLE. -/
def bufHandle : W32 := 0x00034012
/-- BUF_STALE. -/
def bufStale : W32 := 0x00034013
/-- BUF_DOUBLE_FREE. -/
def bufDoubleFree : W32 := 0x00034014
/-- BUF_REF_OVER. -/
def bufRefOver : W32 := 0x00034015
/-- BUF_FREED. -/
def bufFreed : W32 := 0x00034016
/-- BUF_PARAM. -/
def bufParam : W32 := 0x00034017

/-! ## Owner 0x6 (R327, R350, R376) -/

/-- VID_STREAM_ID. -/
def vidStreamId : W32 := 0x00036001
/-- VID_PARAM. -/
def vidParam : W32 := 0x00036002
/-- VID_GRAPH. -/
def vidGraph : W32 := 0x00036003
/-- VID_MESH. -/
def vidMesh : W32 := 0x00036004
/-- VID_NOT_OPEN. -/
def vidNotOpen : W32 := 0x00036005
/-- VID_BUSY. -/
def vidBusy : W32 := 0x00026006
/-- VID_DIM_OVER. -/
def vidDimOver : W32 := 0x00036010
/-- VID_LEVEL_OVER. -/
def vidLevelOver : W32 := 0x00036011
/-- VID_TOOL. -/
def vidTool : W32 := 0x00036012
/-- VID_REFUSED. -/
def vidRefused : W32 := 0x00036013
/-- VID_NO_BUFFER. -/
def vidNoBuffer : W32 := 0x00026014
/-- VID_REF_SIZE. -/
def vidRefSize : W32 := 0x00036015
/-- VID_SLOW. -/
def vidSlow : W32 := 0x00026020
/-- VID_CONCEAL. -/
def vidConceal : W32 := 0x00016021
/-- VID_NO_PYRAMID. -/
def vidNoPyramid : W32 := 0x00026022
/-- VIEW_EGRESS. -/
def viewEgress : W32 := 0x00036030
/-- VIEW_ID. -/
def viewId : W32 := 0x00036031
/-- VIEW_LIMIT. -/
def viewLimit : W32 := 0x00026032
/-- CAP_PARAM. -/
def capParam : W32 := 0x00036801
/-- CAP_HANDLE. -/
def capHandle : W32 := 0x00036802
/-- CAP_CONCEAL. -/
def capConceal : W32 := 0x00016803
/-- CAP_AUDIO_FULL. -/
def capAudioFull : W32 := 0x00036804
/-- CAP_SIDE_FULL. -/
def capSideFull : W32 := 0x00036805
/-- DICT_FORMAT. -/
def dictFormat : W32 := 0x00036810
/-- DICT_CRC. -/
def dictCrc : W32 := 0x00036811
/-- DICT_SPACE. -/
def dictSpace : W32 := 0x00026812
/-- DICT_ENTRY. -/
def dictEntry : W32 := 0x00036813
/-- DICT_JOB. -/
def dictJob : W32 := 0x00036814
/-- TRK_BLOCK. -/
def trkBlock : W32 := 0x00026040
/-- TRK_PARTITION. -/
def trkPartition : W32 := 0x00026041

/-! ## Owner 0x7 (R398) -/

/-- MEM_CE. -/
def memCe : W32 := 0x00017001
/-- MEM_UE_RETRY. -/
def memUeRetry : W32 := 0x00027002
/-- MEM_UE. -/
def memUe : W32 := 0x00037003
/-- MEM_PARITY. -/
def memParity : W32 := 0x00027004
/-- MEM_LANE_SPARED. -/
def memLaneSpared : W32 := 0x00017005
/-- MEM_ROW_SPARED. -/
def memRowSpared : W32 := 0x00017006
/-- MEM_NO_SPARE. -/
def memNoSpare : W32 := 0x00037007
/-- MEM_TRAIN. -/
def memTrain : W32 := 0x00047010
/-- MEM_TRAIN_STALE. -/
def memTrainStale : W32 := 0x00037011

/-! ## Owner 0x8 (R422) -/

/-- READ_RETRY. -/
def readRetry : W32 := 0x00028001
/-- READ_TIMEOUT. -/
def readTimeout : W32 := 0x00038002
/-- READ_POISON. -/
def readPoison : W32 := 0x00038003
/-- READ_REJECTED. -/
def readRejected : W32 := 0x00038004
/-- BME_HOLD. -/
def bmeHold : W32 := 0x00028010
/-- HOST_LOSS. -/
def hostLoss : W32 := 0x00048011
/-- RX_POISON. -/
def rxPoison : W32 := 0x00038020
/-- BAR_ACCESS. -/
def barAccess : W32 := 0x00038021
/-- WIN_RANGE. -/
def winRange : W32 := 0x00038022
/-- TX_POISON. -/
def txPoison : W32 := 0x00038023
/-- LINK_DEGRADED. -/
def linkDegraded : W32 := 0x00018030
/-- LINK_RECOVERY. -/
def linkRecovery : W32 := 0x00018031
/-- LINK_DOWN. -/
def linkDown : W32 := 0x00048032
/-- UNEXPECTED_CPL. -/
def unexpectedCpl : W32 := 0x00018040

/-! ## Owner 0x9 (R443) -/

/-- FAB_PARAM. -/
def fabParam : W32 := 0x00039001
/-- FAB_ADDR. -/
def fabAddr : W32 := 0x00039002
/-- FAB_BUSY. -/
def fabBusy : W32 := 0x00029003
/-- SPAN_ID. -/
def spanId : W32 := 0x00039010
/-- SPAN_MISMATCH. -/
def spanMismatch : W32 := 0x00039011
/-- SPAN_TOPOLOGY. -/
def spanTopology : W32 := 0x00039012
/-- SPAN_TIMEOUT. -/
def spanTimeout : W32 := 0x00029013
/-- LANE_SPARED. -/
def laneSpared : W32 := 0x00019020
/-- LINK_PORT_DOWN. -/
def linkPortDown : W32 := 0x00039021
/-- PARTNER_QUARANTINED. -/
def partnerQuarantined : W32 := 0x00039022
/-- ROUTE_ALT. -/
def routeAlt : W32 := 0x00019023
/-- FAB_LATE. -/
def fabLate : W32 := 0x00029024
/-- PATH_LOST. -/
def pathLost : W32 := 0x00039025

/-! ## Owner 0xE (R482) -/

/-- RCV_RETRIED. -/
def rcvRetried : W32 := 0x0002E001
/-- RCV_SUBSTITUTED. -/
def rcvSubstituted : W32 := 0x0003E002
/-- RCV_FAILED. -/
def rcvFailed : W32 := 0x0003E003
/-- RCV_NO_SPARE. -/
def rcvNoSpare : W32 := 0x0003E004
/-- RCV_STORE_LOST. -/
def rcvStoreLost : W32 := 0x0003E005
/-- ROOM_LOST. -/
def roomLost : W32 := 0x0003E006
/-- RCV_RETIRED_RATE. -/
def rcvRetiredRate : W32 := 0x0001E007
/-- ROOM_PARITY. -/
def roomParity : W32 := 0x0000E010
/-- ROOM_ISSUE. -/
def roomIssue : W32 := 0x0000E011
/-- PIPE_FAULT. -/
def pipeFault : W32 := 0x0000E012
/-- SRAM_PARITY. -/
def sramParity : W32 := 0x0003E013
/-- HEARTH_FAILOVER. -/
def hearthFailover : W32 := 0x0001E020
/-- PLL_FAILOVER. -/
def pllFailover : W32 := 0x0001E021
/-- HEARTH_LOST. -/
def hearthLost : W32 := 0x0004E022
/-- CLOCK_LOST. -/
def clockLost : W32 := 0x0004E023
/-- REC_PARAM. -/
def recParam : W32 := 0x0003E030
/-- REC_STATE. -/
def recState : W32 := 0x0003E031
/-- REC_FULL. -/
def recFull : W32 := 0x0003E032
/-- REPLAY_STATE. -/
def replayState : W32 := 0x0003E033
/-- REPLAY_MISMATCH. -/
def replayMismatch : W32 := 0x0003E034

/-! ## Owner 0xA (R497) -/

/-- THERM_THROTTLE. -/
def thermThrottle : W32 := 0x0001A001
/-- HBM_HOT. -/
def hbmHot : W32 := 0x0001A002
/-- THERM_TRIP. -/
def thermTrip : W32 := 0x0004A003
/-- CAP_FLOOR. -/
def capFloor : W32 := 0x0001A010
/-- MODEL_DEVIATION. -/
def modelDeviation : W32 := 0x0001A011
/-- DOMAIN_FAIL. -/
def domainFail : W32 := 0x0002A020
/-- SUPPLY_FAULT. -/
def supplyFault : W32 := 0x0004A030

/-! ## Owner 0xB (R515) -/

/-- CFG_FORMAT. -/
def cfgFormat : W32 := 0x0003B001
/-- CFG_CRC. -/
def cfgCrc : W32 := 0x0003B002
/-- CFG_RANGE. -/
def cfgRange : W32 := 0x0003B003
/-- CFG_STATE. -/
def cfgState : W32 := 0x0003B004
/-- CFG_READ. -/
def cfgRead : W32 := 0x0003B005
/-- QUERY_PARAM. -/
def queryParam : W32 := 0x0003B006
/-- FW_SLOT. -/
def fwSlot : W32 := 0x0001B010
/-- FW_AUTH. -/
def fwAuth : W32 := 0x0004B011
/-- FW_COMPAT. -/
def fwCompat : W32 := 0x0004B012
/-- FW_HASH. -/
def fwHash : W32 := 0x0003B013
/-- FW_LOCKED. -/
def fwLocked : W32 := 0x0003B014
/-- START_SRAM. -/
def startSram : W32 := 0x0003B020
/-- START_QUICK. -/
def startQuick : W32 := 0x0003B021
/-- START_GIVEUP. -/
def startGiveup : W32 := 0x0004B022
/-- ACTION_STATE. -/
def actionState : W32 := 0x0003B023
/-- MAINT_STRAP. -/
def maintStrap : W32 := 0x0003B024

end Sys2Proof.Machine.Code
end

