-- ==== Sys2Proof/Machine/Bits.lean ====
section
/-!
DEFINITION. Byte order, tables, sparse memory and saturating counters: the helpers every unit uses.
-/
namespace Sys2Proof.Machine

/-! ## Byte order (R5) -/

/-- The number that a list of bytes spells, least significant byte first (R5). -/
def leNat : List Byte → Nat
  | [] => 0
  | b :: bs => b.toNat + 256 * leNat bs

/-- The `n` little-endian bytes of a number (R5). -/
def leBytes : Nat → Nat → List Byte
  | 0, _ => []
  | n + 1, v => BitVec.ofNat 8 v :: leBytes n (v / 256)

/-- The bytes `[off, off + n - 1]`, read as zero beyond the end. -/
def slice (b : List Byte) (off n : Nat) : List Byte :=
  let c := (b.drop off).take n
  c ++ List.replicate (n - c.length) 0

/-- The little-endian field of `n` bytes at offset `off`. -/
def rd (b : List Byte) (off n : Nat) : Nat := leNat (slice b off n)

def rd8 (b : List Byte) (off : Nat) : Byte := b.getD off 0
def rd16 (b : List Byte) (off : Nat) : W16 := BitVec.ofNat 16 (rd b off 2)
def rd32 (b : List Byte) (off : Nat) : W32 := BitVec.ofNat 32 (rd b off 4)
def rd64 (b : List Byte) (off : Nat) : W64 := BitVec.ofNat 64 (rd b off 8)

/-- The bytes `[off, off + n - 1]` are all zero (R8). -/
def zeroAt (b : List Byte) (off n : Nat) : Bool := (slice b off n).all (· == 0)

def le16 (v : W16) : List Byte := leBytes 2 v.toNat
def le32 (v : W32) : List Byte := leBytes 4 v.toNat
def le64 (v : W64) : List Byte := leBytes 8 v.toNat

/-- `b` filled with zeros, or cut, to `n` bytes. -/
def padTo (n : Nat) (b : List Byte) : List Byte := slice b 0 n

/-- A list cut into consecutive pieces of `k`; `fuel` bounds the pieces. -/
def chunks {α : Type} (k : Nat) : Nat → List α → List (List α)
  | 0, _ => []
  | fuel + 1, b => if b.isEmpty then [] else b.take k :: chunks k fuel (b.drop k)

/-! ## Words and bits -/

/-- The upper limit of rounding up a division. -/
def ceilDiv (a b : Nat) : Nat := (a + (b - 1)) / b

/-- Pieces of at most `k` in a run of `n`: start and length. -/
def pieces (k n : Nat) : List (Nat × Nat) := (List.range (ceilDiv n k)).map (fun i => (k * i, min k (n - k * i)))

/-- The bit field `[lo, lo + n - 1]` of a number. -/
def field (v lo n : Nat) : Nat := v / 2 ^ lo % 2 ^ n

def bit (b : Bool) : Nat := if b then 1 else 0

/-- A counter of `w` bits that saturates at its all-ones value (R6). -/
def satAdd {w : Nat} (c : BitVec w) (k : Nat) : BitVec w :=
  BitVec.ofNat w (min (c.toNat + k) (2 ^ w - 1))

/-- A number cut to `w` bits by saturation (R6). -/
def satNat (w v : Nat) : BitVec w := BitVec.ofNat w (min v (2 ^ w - 1))

/-- Bit `i` of a vector set. -/
def setBit {w : Nat} (v : BitVec w) (i : Nat) : BitVec w := v ||| (1#w <<< i)
/-- Bit `i` of a vector cleared. -/
def clearBit {w : Nat} (v : BitVec w) (i : Nat) : BitVec w := v &&& ~~~(1#w <<< i)

/-! ## Tables -/

/-- The entry of a key. -/
def tget {α : Type} (t : Tab α) (k : Nat) : Option α :=
  match t with
  | [] => none
  | (j, a) :: r => if j = k then some a else tget r k

/-- The entry of a key, or a default for a key with none. -/
def tgetD {α : Type} (t : Tab α) (k : Nat) (d : α) : α := (tget t k).getD d

def thas {α : Type} (t : Tab α) (k : Nat) : Bool := (tget t k).isSome

/-- The table with key `k` at `a`, its keys kept rising. -/
def tset {α : Type} (t : Tab α) (k : Nat) (a : α) : Tab α :=
  match t with
  | [] => [(k, a)]
  | (j, b) :: r => if k < j then (k, a) :: (j, b) :: r
                   else if k = j then (k, a) :: r
                   else (j, b) :: tset r k a

/-- The table without key `k`. -/
def tdel {α : Type} (t : Tab α) (k : Nat) : Tab α := t.filter (fun p => p.1 != k)

/-- The table with `f` applied to the entry of `k`, if it has one. -/
def tmod {α : Type} (t : Tab α) (k : Nat) (f : α → α) : Tab α :=
  t.map (fun p => if p.1 = k then (k, f p.2) else p)

/-- The table with `f` applied to the entry of `k`, or to `d` where it has none. -/
def tup {α : Type} (t : Tab α) (k : Nat) (d : α) (f : α → α) : Tab α :=
  tset t k (f (tgetD t k d))

/-- The keys rise strictly. -/
def tsorted {α : Type} : Tab α → Bool
  | [] => true
  | [_] => true
  | (j, _) :: (k, b) :: r => decide (j < k) && tsorted ((k, b) :: r)

/-- The first number from `lo`, among the next `fuel`, at which `p` holds. -/
def findNat (p : Nat → Bool) : Nat → Nat → Option Nat
  | 0, _ => none
  | fuel + 1, lo => if p lo then some lo else findNat p fuel (lo + 1)

/-- The list with its entry `i` changed by `f`. -/
def lmod {α : Type} (l : List α) (i : Nat) (f : α → α) : List α :=
  match l, i with
  | [], _ => []
  | a :: r, 0 => f a :: r
  | a :: r, i + 1 => a :: lmod r i f

/-- The list with its entry `i` replaced. -/
def lset {α : Type} (l : List α) (i : Nat) (a : α) : List α := lmod l i (fun _ => a)

/-! ## Sparse memory: cells in strictly rising address, none holding 0, unlisted bytes read 0 -/

/-- A sparse memory. -/
abbrev Memory := List Host.Cell

/-- The byte at an address; an unlisted byte reads 0 (HBM: R500 step 4 zero-fills; other stores: DESIGN CHOICE). -/
def Memory.byte (m : Memory) (a : Nat) : Byte :=
  match m with
  | [] => 0
  | (k, b) :: r => if k = a then b else Memory.byte r a

/-- The memory with one byte written, in canonical form. -/
def Memory.put (m : Memory) (a : Nat) (v : Byte) : Memory :=
  match m with
  | [] => if v = 0 then [] else [(a, v)]
  | (k, b) :: r =>
    if a < k then (if v = 0 then (k, b) :: r else (a, v) :: (k, b) :: r)
    else if a = k then (if v = 0 then r else (a, v) :: r)
    else (k, b) :: Memory.put r a v

/-- `n` bytes from an address upwards. -/
def Memory.read (m : Memory) (a n : Nat) : List Byte :=
  (List.range n).map (fun i => m.byte (a + i))

/-- The memory with consecutive bytes written from an address upwards. -/
def Memory.write (m : Memory) (a : Nat) (bs : List Byte) : Memory :=
  match bs with
  | [] => m
  | b :: r => Memory.write (m.put a b) (a + 1) r

/-- The memory with the enabled bytes written from an address upwards. -/
def Memory.writeMasked (m : Memory) (a : Nat) (bs : List (Option Byte)) : Memory :=
  match bs with
  | [] => m
  | none :: r => Memory.writeMasked m (a + 1) r
  | some b :: r => Memory.writeMasked (m.put a b) (a + 1) r

/-- The memory with the bytes `[lo, hi - 1]` zero (a scrub, R501). -/
def Memory.zero (m : Memory) (lo hi : Nat) : Memory :=
  m.filter (fun c => decide (c.1 < lo) || decide (hi ≤ c.1))

/-- The canonical form: strictly rising addresses, no zero byte listed. -/
def Memory.wf : Memory → Bool
  | [] => true
  | [(_, v)] => v != 0
  | (j, v) :: (k, w) :: r => (v != 0) && decide (j < k) && Memory.wf ((k, w) :: r)

end Sys2Proof.Machine
end

