-- ==== Sys2Proof/Machine/Ecc.lean ====
section
/-!
DEFINITION. The inline ECC of the HBM: a Reed-Solomon code over GF(2^8) (R392).
-/
namespace Sys2Proof.Machine

/-! ## GF(2^8), field polynomial 0x11D -/

/-- Multiplication by α. -/
def gfDouble (a : Byte) : Byte := if a.getLsbD 7 then (a <<< 1) ^^^ 0x1D else a <<< 1

/-- α^n times `a`. -/
def gfScale (a : Byte) : Nat → Byte
  | 0 => a
  | n + 1 => gfDouble (gfScale a n)

def gfMul (a b : Byte) : Byte :=
  (List.range 8).foldl (fun acc i => if b.getLsbD i then acc ^^^ gfScale a i else acc) 0

/-! ## The code -/

/-- The generator polynomial, highest coefficient first: roots α^0 to α^3 (R392). -/
def rsGen : List Byte :=
  (List.range 4).foldl (fun g j => List.zipWith (· ^^^ ·) (g ++ [0]) (0 :: g.map (fun a => gfMul a (gfScale 1 j)))) [1]

/-- One byte of the message enters the division by the generator. -/
def rsStep (r : List Byte) (d : Byte) : List Byte :=
  let f := rd8 r 0 ^^^ d
  List.zipWith (· ^^^ ·) (r.drop 1 ++ [0]) ((rsGen.drop 1).map (gfMul f))

/-- The 4 check bytes of a block: over its 64 data bytes followed by its 8-byte address (R392). -/
def rsCheck (data : List Byte) (block : Nat) : List Byte :=
  (data ++ leBytes 8 (64 * block)).foldl rsStep [0, 0, 0, 0]

/-- The poison check differs from the computed one by 0xA5A5_A5A5 (R392). -/
def poisonOf (check : List Byte) : List Byte := check.map (· ^^^ 0xA5)

/-- The check that stands in the DRAM beside a block: the computed one, or the poison check. -/
def checkOf (data : List Byte) (block : Nat) (bad : Bool) : List Byte :=
  if bad then poisonOf (rsCheck data block) else rsCheck data block

/-! ## The decoder -/

/-- Bytes of a codeword: 64 data, 8 address, 4 check (R392). -/
def codeLen : Nat := 76

/-- Value of a received word at α^j. -/
def syndrome (j : Nat) (w : List Byte) : Byte := w.foldl (fun acc b => gfScale acc j ^^^ b) 0

/-- What the decoder reports of a block. -/
inductive Decoded where
  | clean
  /-- One byte corrected: its codeword position and the correction. -/
  | fixed (pos : Nat) (v : Byte)
  | bad
  deriving DecidableEq, Repr

/-- The single error that gives these syndromes, if one does. -/
def locate (s0 s1 s2 s3 : Byte) : Option Nat :=
  findNat (fun p =>
    let x := codeLen - 1 - p
    s1 == gfScale s0 x && s2 == gfScale s1 x && s3 == gfScale s2 x) codeLen 0

/-- The decoder (R392): compares for the poison check first, then corrects one erroneous byte; the address is part
of the codeword and cannot be the byte in error. -/
def decodeEcc (data : List Byte) (block : Nat) (check : List Byte) : Decoded :=
  let want := rsCheck data block
  if check = want then .clean
  else if check = poisonOf want then .bad
  else
    let w := data ++ leBytes 8 (64 * block) ++ check
    if syndrome 0 w = 0 then .bad
    else match locate (syndrome 0 w) (syndrome 1 w) (syndrome 2 w) (syndrome 3 w) with
      | some p => if 64 ≤ p && p < 72 then .bad else .fixed p (syndrome 0 w)
      | none => .bad

/-- Bytes with errors at some places: 0 to 63 the data, 64 to 67 the check. -/
def applyErrors (e : List (Nat × Byte)) (d : List Byte) : List Byte :=
  e.foldl (fun d p => lmod d p.1 (· ^^^ p.2)) d

end Sys2Proof.Machine
end

