-- ==== Sys2Proof/Machine/Blocks/Link.lean ====
section
/-!
DEFINITION. State of the packets, rings, host link and Porch (chapters 02 and 15).
-/
namespace Sys2Proof.Machine

/-! ## Link output -/

/-- What the device issues on its PCI Express link, in issue order (R76, R408, R412). -/
inductive OutReq where
  /-- A posted memory write; `ro` is the Relaxed Ordering attribute (R77, R408). -/
  | write (addr : W64) (data : List Byte) (ro : Bool)
  /-- A read of host memory under a tag (R411). -/
  | read (tag : Nat) (addr : W64) (len : Nat)
  /-- Assert_INTA (true) or Deassert_INTA (false) (R419). -/
  | inta (up : Bool)
  /-- The completion of a host read; `ep` marks it poisoned (R410, R421). -/
  | cpl (data : List Byte) (ep : Bool)
  /-- A completion with status Unsupported Request (R421). -/
  | unsupported
  deriving DecidableEq, Repr

/-! ## Packets being executed -/

/-- What a finished operation's record will hold (R70). -/
structure Fin where
  status : W32
  timestamp : W64
  energy : W32
  slips : W16
  /-- cflags.held (R72). -/
  held : Bool
  deriving DecidableEq, Repr

/-- The host-resident payload of a packet (R412, R413). -/
inductive Payload where
  | unread
  /-- The read is outstanding, or waits to be issued. -/
  | waiting
  | arrived (data : List Byte)
  deriving DecidableEq, Repr

/-- A dispatched packet whose record is not yet written or discarded. -/
structure Op where
  /-- MODEL: a number that names the packet inside the machine. -/
  id : Nat
  /-- Index of the packet's first slot. -/
  idx : W32
  seq : W32
  tag : W64
  /-- Flag bits 7:0 of R66. -/
  flags : Byte
  opcode : Nat
  /-- The packet in the 64-byte form of R66. -/
  bytes : List Byte
  /-- Its unit has taken it up. -/
  started : Bool
  payload : Payload
  /-- The unit waits for something else before it finishes the operation. -/
  waits : Bool
  fin : Option Fin
  deriving DecidableEq, Repr

/-! ## Rings -/

/-- Ring kinds (R54). -/
inductive RingKind where
  | command | completion | metadata
  deriving DecidableEq, Repr

/-- Ring states other than FREE, which is the absence of a context (R80). -/
inductive RingState where
  | active | faulted | destroying
  deriving DecidableEq, Repr

/-- A packet wholly fetched and not dispatched, or the fault record owed in its place (R80, R81). -/
structure Fetched where
  idx : W32
  bytes : List Byte
  /-- aclk time of the doorbell that first covered it (R459). -/
  bell : W64
  /-- Nonzero: this entry only reports that fault. -/
  fault : W32
  deriving DecidableEq, Repr

/-- A metadata record waiting for ring space (R65, R367); the message flag is LAST (R368). -/
structure MetaRec where
  bytes : List Byte
  irq : Bool
  deriving DecidableEq, Repr

/-- The context of a ring that is not FREE (R87), with the ring manager's work in progress on it. -/
structure RingCtx where
  kind : RingKind
  state : RingState
  log2Size : Nat
  /-- true: HBM, base is a window offset; false: host memory. -/
  hbm : Bool
  prio : Nat
  vector : Nat
  base : W64
  bind : Nat
  pidx : W32
  cidx : W32
  seqNext : W32
  fault : W32
  faultIdx : W32
  /-- COMMAND: packets dispatched and not complete; COMPLETION: reservations held (R87). -/
  outstanding : Nat
  /-- Accepted doorbells not yet consumed: new P and aclk time (R459, R61). -/
  bells : List (W32 × W64)
  /-- A device read of the packet's slots is outstanding. -/
  reading : Bool
  /-- The first slot of the packet being fetched, once read and checked. -/
  head : List Byte
  /-- A ring fault that follows the packet whose slots are being read (R81). -/
  pendFault : W32
  fetched : List Fetched
  /-- Dispatched packets in ring order (R74). -/
  ops : List Op
  /-- METADATA: records waiting for space, in order (R65). -/
  waiting : List MetaRec
  /-- METADATA: producers bound (R86). -/
  producers : Nat
  /-- DESTROYING: the RING_DESTROY packet (its `id`) to complete; none for the admin pair (R80, R86, R88). -/
  destroyer : Option Nat
  deriving DecidableEq, Repr

/-- The ring manager and the RING block (R88). -/
structure Rings where
  ctx : Tab RingCtx
  /-- RING_ADMIN_CTL. -/
  admVector : BitVec 11
  admLog2 : BitVec 4
  admHbm : Bool
  admEnable : Bool
  /-- RING_ADMIN_CMD_BASE and RING_ADMIN_CPL_BASE. -/
  cmdBase : W64
  cplBase : W64
  sel : BitVec 20
  /-- RING_CTX[0..15], the snapshot. -/
  snap : List Byte
  orphanValid : Bool
  orphanCount : BitVec 11
  orphanRing : BitVec 20
  faultValid : Bool
  faultKind : BitVec 2
  faultRing : BitVec 20
  /-- Code of the latched fault, shown by the next read of RING_FAULT (R88). -/
  faultPend : W16
  dropped : W16
  faultCode : W16
  /-- MODEL: the next packet's `id`. -/
  nextOp : Nat
  /-- COMMAND rings whose oldest packet has finished, in the order in which its record became writable (R74). -/
  ready : List Nat
  deriving DecidableEq, Repr

def Rings.reset : Rings :=
  { ctx := [], admVector := 0, admLog2 := 6, admHbm := false, admEnable := false, cmdBase := 0, cplBase := 0,
    sel := 0, snap := List.replicate 64 0, orphanValid := false, orphanCount := 0, orphanRing := 0,
    faultValid := false, faultKind := 0, faultRing := 0, faultPend := 0, dropped := 0, faultCode := 0,
    nextOp := 0, ready := [] }

/-! ## Porch -/

/-- What a device read of host memory was issued for (R412, R413). -/
inductive ReadFor where
  /-- First slot of the packet at C of a ring. -/
  | slot (ring : Nat)
  /-- The other slots of that packet. -/
  | rest (ring : Nat)
  /-- The payload of the packet with this `id` on this ring. -/
  | payload (ring op : Nat)
  /-- The payload of the mailbox packet (R507). -/
  | mailbox
  deriving DecidableEq, Repr

/-- A device read outstanding on the link (R411 to R414). -/
structure DevRead where
  tag : Nat
  what : ReadFor
  addr : W64
  len : Nat
  /-- Offset of these bytes in what is read: Max Read Request Size cuts a long read (R399). -/
  off : Nat
  /-- It is the reissue of a read that failed once (R412). -/
  again : Bool
  /-- It was outstanding when Bus Master Enable cleared: its completion is discarded (R414). -/
  stale : Bool
  /-- aclk at issue, and the timer in aclk ticks, fixed at issue (R411). -/
  issued : W64
  timer : Nat
  deriving DecidableEq, Repr

/-- A request held while Bus Master Enable is 0 (R414). -/
inductive Held where
  | write (addr : W64) (data : List Byte) (ro : Bool)
  | read (what : ReadFor) (addr : W64) (len off : Nat) (again : Bool)
  /-- An MSI-X message owed on a vector. -/
  | msi (vector : Nat)
  deriving DecidableEq, Repr

/-- An MSI-X table entry (R416). -/
structure MsixEntry where
  addr : W64
  data : W32
  masked : Bool
  deriving DecidableEq, Repr

/-- Configuration space (R401 to R405, R421, R534): the fields that software or the device changes. -/
structure ConfigSpace where
  mse : Bool
  bme : Bool
  per : Bool
  serr : Bool
  intDis : Bool
  intLine : Byte
  /-- PowerState is D3hot. -/
  d3 : Bool
  /-- Memory Space and Bus Master Enable as they were before D3hot (R403). -/
  saved : Bool × Bool
  bar0 : W64
  bar2 : W64
  bar4 : W64
  /-- log2 of the BAR4/5 size, in [28, 37] (R405). -/
  barLog2 : Nat
  /-- Device Control and Device Control 2 of the PCI Express capability. -/
  devCtl : W16
  devCtl2 : W16
  msixEnable : Bool
  funcMask : Bool
  /-- AER Uncorrectable and Correctable Error Status (R421). -/
  aerUnc : W32
  aerCor : W32
  /-- AER masks and severities, and ECRC generation and checking (R399, R421). -/
  aerUncMask : W32
  aerUncSev : W32
  aerCorMask : W32
  aerCtl : W32
  /-- Error bits of Status, and Device Status (R401). -/
  status : W16
  devStatus : W16
  /-- Link Control, whose ASPM field enables L1, and Link Control 2 (R399, R402). -/
  linkCtl : W16
  linkCtl2 : W16
  deriving DecidableEq, Repr

/-- The configuration space after a reset of the function (R534); field places and their reset
values that the spec does not give are PCI Express's own (PRESUMED, log entry 123). -/
def ConfigSpace.reset (barLog2 : Nat) : ConfigSpace :=
  { mse := false, bme := false, per := false, serr := false, intDis := false, intLine := 0, d3 := false,
    saved := (false, false), bar0 := 0, bar2 := 0, bar4 := 0, barLog2 := barLog2, devCtl := 0x2810,
    devCtl2 := 0, msixEnable := false, funcMask := false, aerUnc := 0, aerCor := 0, aerUncMask := 0x00400000,
    aerUncSev := 0x00462030, aerCorMask := 0x6000, aerCtl := 0, status := 0, devStatus := 0, linkCtl := 0,
    linkCtl2 := 6 }

/-- The Porch (chapter 15). -/
structure Porch where
  cfg : ConfigSpace
  /-- Table entries that differ from the reset entry (address 0, data 0, masked). -/
  msix : Tab MsixEntry
  /-- MSI-X Pending Bit Array (R416). -/
  pba : BitVec 2048
  /-- MODEL: vectors that owe a message after the records it covers (R76). -/
  owed : BitVec 2048
  /-- PORCH_INTX_PEND (R423). -/
  intx : BitVec 2048
  /-- INTA is asserted (R419). -/
  inta : Bool
  /-- PORCH_LINK. -/
  up : Bool
  flit : Bool
  rate : BitVec 4
  width : BitVec 5
  recoveries : Byte
  /-- PORCH_CTL. -/
  evtVec : BitVec 11
  hostlossMs : BitVec 14
  /-- PORCH_HOLD. -/
  held : Bool
  lost : Bool
  holdMs : W16
  /-- aclk ticks of the current hold below one ms. -/
  holdTicks : Nat
  /-- PORCH_ERR, and the ring of the latched error. -/
  errValid : Bool
  errCode : W16
  errPend : Option Nat
  /-- PORCH_ERR_RING. -/
  errRing : Option Nat
  /-- PORCH_RETRY. -/
  retryPoison : W16
  retryTimeout : W16
  /-- A low word held for the next write of its high word: register offset and word (R407). -/
  low : Option (Nat × W32)
  reads : List DevRead
  /-- Reads waiting for one of the 512 that may be outstanding, in issue order (R399). -/
  backlog : List Held
  /-- Bytes of a cut read that have arrived, by what is read and offset, until the rest has (R399). -/
  parts : List (ReadFor × Nat × List Byte)
  /-- Tags abandoned at a timeout or poison, with the ring of the read (R412). -/
  abandoned : List (Nat × Option Nat)
  nextTag : Nat
  /-- Requests held while Bus Master Enable is 0, in issue order (R414, R415). -/
  queue : List Held
  deriving DecidableEq, Repr

def Porch.reset : Porch :=
  { cfg := ConfigSpace.reset 28, msix := [], pba := 0, owed := 0, intx := 0, inta := false, up := false,
    flit := false, rate := 0, width := 0, recoveries := 0, evtVec := 0, hostlossMs := 100, held := false,
    lost := false, holdMs := 0, holdTicks := 0, errValid := false, errCode := 0, errPend := none,
    errRing := none, retryPoison := 0, retryTimeout := 0, low := none, reads := [], backlog := [],
    parts := [], abandoned := [], nextTag := 0, queue := [] }

end Sys2Proof.Machine
end

