-- ==== Sys2Proof/Machine/Blocks/Core.lean ====
section
/-!
DEFINITION. State of the device as a whole, the Hearth, the recovery unit and the power controller
(chapters 00, 01, 18, 19, 20 and 21).
-/
namespace Sys2Proof.Machine

/-! ## The part -/

/-- What manufacture fixes in one part: its fuses (R1, R24, R53, R307, R326, R402, R485, R498). -/
structure Part where
  /-- true: FQP-112; false: FQP-96 (R1). -/
  grade112 : Bool
  /-- Physical Rooms not fused off at manufacture test (R24). -/
  goodRooms : BitVec 128
  /-- Debug-unlocked part (R50, R506). -/
  debug : Bool
  /-- Device Serial Number (R402). -/
  serial : W64
  /-- PWR_VID[0..7] in mV (R485, R496). -/
  vid : List W16
  deriving DecidableEq, Repr

/-- Rooms per group, E (R23). -/
def Part.e (p : Part) : Nat := if p.grade112 then 7 else 6
/-- Rows of the logical grid (R1). -/
def Part.rows (p : Part) : Nat := 2 * p.e
/-- Rooms of the logical grid (R1). -/
def Part.rooms (p : Part) : Nat := 8 * p.rows

/-! ## Device state -/

/-- The device states (R20). -/
inductive DevState where
  | off | starting | held | serving | maintenance | draining
  deriving DecidableEq, Repr

/-- Reasons of HELD (R498). -/
inductive HeldReason where
  | none | unconfigured | drained | fatal | fwMismatch | giveup
  deriving DecidableEq, Repr

/-- The layout in force, sizes in MiB (R508 to R510). -/
structure Layout where
  win : Nat
  strong : Nat
  save : Nat
  deriving DecidableEq, Repr

/-- A Hallway detour flow (R33): its origin, the other end, and which candidate path it took. -/
structure Flow where
  /-- Logical index of the origin end, and of the other end. -/
  origin : Nat
  other : Nat
  /-- The path runs along the column first. -/
  colFirst : Bool
  deriving DecidableEq, Repr

/-- The logical grid (R22 to R33, R53, R470). -/
structure Grid where
  /-- Physical Room behind each logical index. -/
  phys : List Nat
  /-- Logical positions at which a spare stands in since the last cold start, rising. -/
  subst : List Nat
  /-- Logical positions left empty by a retirement without substitution, rising (R470). -/
  lost : List Nat
  /-- Physical Rooms out of service: fused off, failed at self-test, or retired. -/
  bad : List Nat
  flows : List Flow
  deriving DecidableEq, Repr

/-- GLOBAL block and the device state (R20, R48 to R53, R448, R498). -/
structure Global where
  dev : DevState
  reason : HeldReason
  override : Bool
  cause : W16
  layout : Option Layout
  /-- The state from which DRAIN was taken (R498). -/
  drainFrom : DevState
  /-- A FATAL code stopped the outputs; the next start clears it (R474). -/
  stopped : Bool
  /-- Straps as sampled at the last start (R511). -/
  maint : Bool
  compat : Bool
  /-- Armed bit of each block, by block number (R10 to R13). -/
  armed : BitVec 15
  /-- GLOBAL_DCTL.vcomb (R450). -/
  vcomb : Bool
  grid : Grid
  deriving DecidableEq, Repr

/-- Instructions of the test port: those that IEEE 1149.1 makes mandatory, and any other, by its number (R520). -/
inductive TapInstr where
  | bypass | samplePreload | extest
  | other (n : Nat)
  deriving DecidableEq, Repr

/-- The test port (R519, R520): the instruction loaded, the bypass register and the boundary register. No command of the table
moves its balls, so it stays as reset leaves it (log entry 125). -/
structure Tap where
  ir : TapInstr
  bypass : Bool
  boundary : List Bool
  deriving DecidableEq, Repr

/-- The test port after its reset, which TRST#, pulled down, gives at power-up: BYPASS (R519; PRESUMED, log entry 125). -/
def Tap.reset : Tap := { ir := .bypass, bypass := false, boundary := [] }

/-- The instruction that a part obeys: the mandatory ones on every part; any other only on a debug-unlocked part, and as BYPASS
otherwise (R520). -/
def Part.tapObeys (p : Part) (i : TapInstr) : TapInstr :=
  match i with
  | .other n => if p.debug then .other n else .bypass
  | i => i

/-- What a shift of the data register does under the instruction loaded: BYPASS has one stage, SAMPLE/PRELOAD and EXTEST shift the
boundary register (R520); under another instruction the spec gives no register, and nothing moves. Answers the port and TDO. -/
def Tap.shift (t : Tap) (p : Part) (tdi : Bool) : Tap × Bool :=
  match p.tapObeys t.ir with
  | .bypass => ({ t with bypass := tdi }, t.bypass)
  | .other _ => (t, false)
  | _ => ({ t with boundary := t.boundary.drop 1 ++ [tdi] }, t.boundary.headD false)

/-- Pins (R519). Inputs: platform power good, PERST# (true: asserted), straps. Outputs: THERMTRIP#. -/
structure Pins where
  pgIn : Bool
  perst : Bool
  strapCompat : Bool
  strapMaint : Bool
  thermtrip : Bool
  /-- The test port behind TCK, TMS, TDI, TDO and TRST# (R519, R520). -/
  tap : Tap
  deriving DecidableEq, Repr

/-! ## Hearth -/

/-- A firmware image's header fields (R503). -/
structure FwImage where
  kind : Byte
  stepLo : Byte
  stepHi : Byte
  ifver : W16
  seqno : W32
  length : W32
  /-- Entries of qual: kind and interface version. -/
  qual : List (Byte × W16)
  deriving DecidableEq, Repr

/-- How far the start in progress has come (R500, R501, R506). -/
inductive StartPhase where
  /-- At its beginning. -/
  | begin
  /-- Past the compatibility step by OVERRIDE. -/
  | overridden
  /-- Every step passed. -/
  | passed
  /-- A step failed with this code. -/
  | failed (code : W32)
  deriving DecidableEq, Repr

/-- The Hearth and its block (R473, R498 to R514). -/
structure Hearth where
  /-- Always-on storage (R499, R514, R525). -/
  aonValid : Bool
  fails : BitVec 2
  lastFail : W16
  preserve : Bool
  nextCold : Bool
  /-- Layout of the last configuration, kept for the scrub of a warm start (R501). -/
  lastLayout : Option Layout
  /-- The Strongroom range kept by preserve, in MiB: base and size (R509). -/
  preserved : Option (Nat × Nat)
  /-- HEARTH_BOOT.kind: the last start was warm. -/
  warm : Bool
  /-- HEARTH_BOOT.slot: false A, true B. -/
  slotB : Bool
  /-- A start is in progress or held: its kind (true warm) and phase. -/
  start : Option (Bool × StartPhase)
  /-- Duration of the last start in ms (R513). -/
  startMs : W32
  /-- The function was reset since the last start (R405, R534). -/
  funcReset : Bool
  /-- HEARTH_ACTION. -/
  action : Byte
  result : W16
  /-- HEARTH_MBOX_STAT.done; busy is `mbox` being occupied. -/
  done : Bool
  /-- HEARTH_MBOX. -/
  mboxRegs : List W32
  /-- HEARTH_MBOX_CPL. -/
  mboxCpl : List Byte
  /-- HEARTH_REPORT. -/
  report : List Byte
  /-- The mailbox packet being served. -/
  mbox : Option Op
  /-- An action written while a mailbox packet is served (R512). -/
  actionWaits : Option Byte
  /-- The four images of the slot in force. -/
  images : List FwImage
  /-- Entries of the mismatch report: a.kind, b.kind, b.ifver (R506). -/
  mismatch : List (Byte × Byte × W16)
  /-- The CONFIGURE blob in force (R513). -/
  blob : List Byte
  /-- The standby sequencer is available (R473). -/
  standby : Bool
  deriving DecidableEq, Repr

def Hearth.reset : Hearth :=
  { aonValid := false, fails := 0, lastFail := 0, preserve := false, nextCold := false, lastLayout := none,
    preserved := none, warm := false, slotB := false, start := none, startMs := 0, funcReset := false,
    action := 0, result := 0, done := false, mboxRegs := List.replicate 16 0,
    mboxCpl := List.replicate 32 0, report := List.replicate 128 0, mbox := none, actionWaits := none,
    images := [], mismatch := [], blob := [], standby := true }

/-! ## Recovery -/

/-- An entry of the RAS log (R476), 128 bytes. -/
structure RasEntry where
  lseq : W32
  bytes : List Byte
  deriving DecidableEq, Repr

/-- A recording in progress (R477 to R479). -/
structure Recording where
  addr : W64
  size : Nat
  /-- Bytes written. -/
  used : Nat
  entries : Nat
  full : Bool
  deriving DecidableEq, Repr

/-- A replay in progress (R480). -/
structure Replay where
  /-- `id` of the REPLAY packet and its ring. -/
  ring : Nat
  op : Nat
  bytes : List Byte
  /-- Offset of the next entry to take. -/
  pos : Nat
  /-- PLAN_BEAT at the first PACKET, and its recorded beat. -/
  base : Option (W64 × W64)
  /-- Packets dispatched and not yet compared: recorded ring, packet id. -/
  running : List (Nat × Nat)
  /-- Results produced: ring, index, CRC of the result bytes. -/
  results : List (Nat × Nat × W32)
  deriving DecidableEq, Repr

/-- RAS block (R476 to R481). -/
structure Ras where
  /-- Entries held, oldest first, at most 1,024. -/
  log : List RasEntry
  /-- RAS_LOG_HEAD. -/
  head : W32
  ack : W32
  lost : W32
  sel : W32
  snap : List Byte
  rateLimit : Byte
  windowH : Byte
  /-- aclk at which the window began (R472). -/
  windowAt : W64
  evtMask : BitVec 4
  /-- RAS_SPARES.dec, .enc, .pll. -/
  spDec : BitVec 2
  spEnc : BitVec 1
  spPll : BitVec 1
  retired : Byte
  replan : W32
  /-- TRANSIENT counts in the window (R472): Rooms, decode pipes, encode pipes, Attic slices. -/
  cntRoom : Tab Nat
  cntDec : Tab Nat
  cntEnc : Tab Nat
  cntAttic : Tab Nat
  /-- Units whose count reached the limit and wait for their idle point. -/
  due : List (Nat × Nat)
  recording : Option Recording
  replay : Option Replay
  /-- RAS_REC.mib. -/
  recMib : BitVec 30
  /-- SRAM rows logged for repair at the next start: unit kind and index (R463, R471). -/
  rows : List (Nat × Nat)
  deriving DecidableEq, Repr

def Ras.reset : Ras :=
  { log := [], head := 0, ack := 0, lost := 0, sel := 0, snap := List.replicate 128 0, rateLimit := 16,
    windowH := 24, windowAt := 0, evtMask := 0b1100, spDec := 2, spEnc := 1, spPll := 1, retired := 0, replan := 0,
    cntRoom := [], cntDec := [], cntEnc := [], cntAttic := [], due := [], recording := none,
    replay := none, recMib := 0, rows := [] }

/-! ## Clocks and power -/

/-- A P-state step that has begun or is decided (R486): the P-state it goes to. -/
structure PStep where
  goal_ : Nat
  /-- aclk at which it began. -/
  at_ : W64
  deriving DecidableEq, Repr

/-- Event counts of the interval that the energy model adds up (R493): key k + 16 × p counts the events of
coefficient k in P-state p. -/
abbrev EnergyCounts := Tab Nat

/-- PWR block, clocks and sensors (chapter 19). -/
structure Pwr where
  /-- aclk ticks since power came up: the time of every timestamp (R70, R484). -/
  aclk : W64
  /-- Root cycles not yet making up an aclk tick. -/
  aclkRem : Nat
  pstate : BitVec 3
  droop : Bool
  /-- The step in progress. -/
  ramp : Option PStep
  /-- The step decided and not begun. -/
  next : Option PStep
  /-- Core voltage in mV. -/
  mv : W16
  /-- PWR_CTL: mode (true REPEATABLE), slow, fast. -/
  repeatable : Bool
  slow : BitVec 3
  fast : BitVec 3
  /-- PWR_CAP. -/
  cap : BitVec 10
  /-- Mode in force since the last interval boundary (R491). -/
  modeNow : Bool
  droops : W32
  /-- PWR_DOMAIN bits 40:0. -/
  domains : BitVec 41
  /-- Domains that are on and no longer needed, with the aclk at which their last condition was found ended (R489). -/
  idle : Tab W64
  dieMax : Byte
  hbmMax : Byte
  throttle : Byte
  /-- A throttle episode, and a stack episode, is in progress (R495). -/
  thermEp : Bool
  hbmEp : Bool
  /-- CAP_FLOOR has been logged in the present run of intervals (R490). -/
  floorRun : Bool
  modelPower : W16
  measuredPower : W16
  /-- PWR_E_DEVICE: energy of the device in fJ. -/
  eDevice : Nat
  /-- PWR_JOB_E[j]: energy in fJ of each job. -/
  eJob : Tab Nat
  coef : List W32
  /-- Event counts of the interval (R491, R493). -/
  counts : EnergyCounts
  /-- PLAN_BEAT and aclk at which the interval began. -/
  intBeat : W64
  intAclk : W64
  /-- The root PLL that is active: false the first, true the spare (R473). -/
  spareActive : Bool
  deriving DecidableEq, Repr

/-- The reference coefficients of R493, in fJ. -/
def refCoef : List W32 :=
  [280, 20000, 20, 1500, 3000, 1150000, 1250000, 900000, 800000, 1500000, 200000, 1666667, 1333333, 200000000, 0, 0]

/-- The power block at reset on a grade, with the fused P0 voltage (R496). -/
def Pwr.reset (grade112 : Bool) (vid0 : W16) : Pwr :=
  let cap : BitVec 10 := if grade112 then 420 else 360
  { aclk := 0, aclkRem := 0, pstate := 0, droop := false, ramp := none, next := none, mv := vid0,
    repeatable := true, slow := 7, fast := 0, cap := cap, modeNow := true, droops := 0,
    domains := 0, idle := [], dieMax := 0, hbmMax := 0, throttle := 100, thermEp := false,
    hbmEp := false, floorRun := false, modelPower := 0, measuredPower := 0, eDevice := 0,
    eJob := [], coef := refCoef, counts := [], intBeat := 0, intAclk := 0, spareActive := false }

end Sys2Proof.Machine
end

