-- ==== Sys2Proof/Machine/Blocks/Fab.lean ====
section
/-!
DEFINITION. State of the Bigarlink fabric (chapter 16).
-/
namespace Sys2Proof.Machine

/-- Port states (R426). -/
inductive PortState where
  | disabled | down | training | auth | up | slow | quarantined | failed
  deriving DecidableEq, Repr

/-- A frame in a transmit queue or retry buffer: the routing table it came by (8: this device's own), and whether it still
holds a place in that port's receive buffer (R431, R434). -/
structure Queued where
  table : Nat
  owes : Bool
  frame : Frame
  deriving DecidableEq, Repr

/-- A fabric port (R424 to R431). -/
structure Port where
  state : PortState
  /-- aclk at which it entered its state (R426). -/
  since : W64
  /-- The spare lane is in use (R425). -/
  spared : Bool
  /-- A spare-lane retrain is in progress (R425). -/
  retrain : Bool
  /-- A fresh authentication runs without the port leaving UP (R428, R436). -/
  reauth : Bool
  partner : Byte
  partnerPort : Byte
  partnerSerial : W64
  partnerTable : W32
  fails : Byte
  /-- Keys and salts are installed (R427). -/
  keyed : Bool
  /-- Next lseq to send, and the count of its wraps (R428). -/
  txSeq : W32
  txWraps : Nat
  /-- Expected lseq of the next frame received. -/
  rxSeq : W32
  /-- Frames sent and not acknowledged, oldest first (R430). -/
  unacked : List Queued
  /-- Consecutive resends of the oldest frame without progress (R430). -/
  resends : Nat
  /-- aclk of the last progress, or of the last resend, of the frames not acknowledged (R430). -/
  progressAt : W64
  /-- Frames waiting to be sent, in order. -/
  queue : List Queued
  /-- Credits held per VC (R431). -/
  credits : List Nat
  /-- aclk at which the credits of a VC last came to zero, and at which the last stall that reached the limit ended (R426, R435). -/
  zeroAt : List W64
  backAt : W64
  /-- Frames in the receive buffer per VC, whose credits are not yet returned. -/
  rxHeld : List Nat
  /-- Credits owed to the partner, per VC, to be sent in cr_n. -/
  owed : List Nat
  tagfail : W32
  resent : W32
  /-- A tag has failed since the last accepted frame: the next failure counts toward hostile (R435). -/
  tagRetry : Bool
  /-- aclk times of counted tag failures and of frames with reserved bits in the last second (R435). -/
  tagTimes : List W64
  rsvTimes : List W64
  /-- A CONTROL frame whose src is not the partner's address arrived (R435). -/
  forged : Bool
  /-- Frames issued on the link, oldest first: the port's output. -/
  sent : List Frame
  deriving DecidableEq, Repr

def Port.reset : Port :=
  { state := .disabled, since := 0, spared := false, retrain := false, reauth := false, partner := 0, partnerPort := 0,
    partnerSerial := 0, partnerTable := 0, fails := 0, keyed := false, txSeq := 0, txWraps := 0, rxSeq := 0,
    unacked := [], resends := 0, progressAt := 0, queue := [], credits := [0, 0, 0, 0], zeroAt := [0, 0, 0, 0],
    backAt := 0, rxHeld := [0, 0, 0, 0],
    owed := [0, 0, 0, 0], tagfail := 0, resent := 0, tagRetry := false, tagTimes := [], rsvTimes := [], forged := false,
    sent := [] }

/-- A configured span (R437). -/
structure Span where
  m : Nat
  a : Nat
  b : Nat
  w : Nat
  h : Nat
  members : List Byte
  /-- CRC-32C of the parameters. -/
  crc : W32
  /-- Least number of direct ports to a grid neighbour, p_e, by neighbour address (R438). -/
  direct : Tab Nat
  deriving DecidableEq, Repr

/-- A COLLECTIVE_CFG whose CRC exchange is in progress (R437). -/
structure SpanCfg where
  id : W32
  span : Span
  ring : Nat
  op : Nat
  /-- Members that have reported, with the value. -/
  reports : Tab W32
  /-- aclk at which the exchange began. -/
  at_ : W64
  deriving DecidableEq, Repr

/-- Receive side of a transport triple (R432). -/
structure Triple where
  expect : W32
  /-- Frames held ahead of a gap: tseq, aclk of arrival, frame. -/
  held : List (W32 × W64 × Frame)
  ended : Bool
  deriving DecidableEq, Repr

/-- The fabric unit and the FAB block (R442). -/
structure Fab where
  joined : Bool
  addr : Byte
  /-- Site anchor public key, when one is installed. -/
  anchor : List Byte
  /-- 9 tables of 256 entries; empty before the first JOIN (R434). -/
  tables : List (List W16)
  ports : List Port
  spans : Tab Span
  cfg : Option SpanCfg
  /-- Receive triples by 4 × src + vc, transmit tseq by 4 × dst + vc (R432). -/
  rx : Tab Triple
  tx : Tab W32
  /-- Words and contributions delivered and not yet used: span tasks read them (R438, R439). -/
  inbox : List Frame
  /-- CRC reports that came before their COLLECTIVE_CFG: sender, span, value (R437). -/
  early : List (Byte × W32 × W32)
  tagMax : Byte
  stallMs : W16
  portSel : PortId
  snapStat : W32
  snapCnt : W64
  errValid : Bool
  errPort : PortId
  errCode : W16
  dup : W16
  route : W16
  deriving DecidableEq, Repr

def Fab.reset : Fab :=
  { joined := false, addr := 0, anchor := [], tables := [], ports := List.replicate 8 Port.reset, spans := [],
    cfg := none, rx := [], tx := [], inbox := [], early := [], tagMax := 16, stallMs := 10, portSel := 0,
    snapStat := 0, snapCnt := 0, errValid := false, errPort := 0, errCode := 0, dup := 0, route := 0 }

end Sys2Proof.Machine
end

