-- ==== Sys2Proof/Machine/Blocks/Plan.lean ====
section
/-!
DEFINITION. State of the Planner, the graph store, jobs, instances and Rooms (chapters 03 to 09).
-/
namespace Sys2Proof.Machine

/-! ## Graph images (R101 to R112, R155) -/

/-- A loop level (R155). -/
structure Level where
  trips : Nat
  role : Nat
  dyn : Bool
  sIn0 : Nat
  sIn1 : Nat
  sAux : Nat
  sOut : Nat
  deriving DecidableEq, Repr

/-- An operand entry (R112). -/
structure Operand where
  slot : Nat
  space : Nat
  bytes : Nat
  offset : Nat
  deriving DecidableEq, Repr

/-- A task descriptor (R109). -/
structure Task where
  op : Nat
  fmtAct : Nat
  fmtWt : Nat
  fmtOut : Nat
  flags : Nat
  predFirst : Nat
  npred : Nat
  dim : Option Nat
  fpW : Nat
  fpH : Nat
  sem : Nat
  cycles : List Nat
  loops : List Level
  in0 : Operand
  in1 : Operand
  aux : Operand
  out : Operand
  counter : Nat
  hN : Nat
  hS : Nat
  hE : Nat
  hW : Nat
  /-- op_param, 32 bytes. -/
  param : List Byte
  deriving DecidableEq, Repr

/-- A loaded graph image (R101 to R105). -/
structure Graph where
  job : Nat
  size : Nat
  tasks : List Task
  /-- Dependence table: pred and kind (0 FAR, 1 NEAR, 2 ORDER). -/
  deps : List (Nat × Nat)
  /-- Buckets of each dimension (R103). -/
  dims : List (List Nat)
  /-- Slots: min_bytes and access (R104). -/
  slots : List (Nat × Nat)
  deriving DecidableEq, Repr

/-! ## Instances (R93) -/

/-- Who submitted an instance: a packet, a stream for a frame (R314), or the step builder (R254). -/
inductive Submitter where
  | packet (ring op : Nat)
  | frame (stream : Nat) (frame : Nat)
  | step (job : Nat)
  deriving DecidableEq, Repr

/-- Instance states (R93). -/
inductive InstState where
  | queued | waiting | running | ending
  deriving DecidableEq, Repr

/-- Task states within an admitted instance. -/
inductive TaskState where
  /-- Planned; its prefetch has not begun. -/
  | planned
  /-- The Room DMA fetches its far operands (R141). -/
  | prefetch
  | running
  | writeback
  /-- A Room of its footprint faulted; the other Rooms run on (R168). -/
  | faulted
  /-- A faulted task past its commit check: the Planner has not acknowledged (R153, R168). -/
  | discarded
  | committed
  /-- Cancelled before its dispatch, or ended without a commit (R93). -/
  | ended
  deriving DecidableEq, Repr

/-- The fault record of R171. -/
structure FaultRec where
  status : W32
  index : Nat
  graph : Nat
  phase : Nat
  operand : Nat
  position : Nat
  rclk : Nat
  idx : List Nat
  addr : Nat
  deriving DecidableEq, Repr

/-- One operand block written back at commit: the place and the masked bytes. -/
structure WriteBack where
  /-- 1 HBM, 2 Attic, 3 or 4 a Room store. -/
  space : Nat
  /-- Logical Room of spaces 3 and 4; unused otherwise. -/
  room : Nat
  addr : Nat
  data : List (Option Byte)
  deriving DecidableEq, Repr

/-- What a Room counted in a task and adds at its commit (R154, R225, R240, R493). -/
structure RoomCount where
  conv : Nat
  clip : Nat
  fnFp32 : Nat
  fnShort : Nat
  fed : Nat
  mac : Nat
  gated : Nat
  deriving DecidableEq, Repr

/-- A fault of the present attempt: the footprint position and its record, and whether it enters the ladder (R463). -/
structure TaskFault where
  pos : Nat
  rec_ : FaultRec
  ladder : Bool
  deriving DecidableEq, Repr

/-- A planned task of an instance (R117, R465). -/
structure TaskRun where
  /-- Chosen cycle count, and beats D_t and L_t. -/
  c : Nat
  d : Nat
  l : Nat
  s : Nat
  e : Nat
  /-- Suite coordinates of the footprint's origin. -/
  x : Nat
  y : Nat
  state : TaskState
  /-- The attempt of R465. -/
  attempt : Nat
  /-- Logical Rooms whose ladder has begun: they faulted once (R465). -/
  once : List Nat
  /-- A poisoned input, or a late word, has failed an attempt (R463). -/
  poisoned : Bool
  late : Bool
  /-- Poisoned blocks that landed in this attempt: position, operand and device address (R463). -/
  bad : List (Nat × Nat × Nat)
  /-- MODEL: what the Room DMA has fetched: position, and the bytes of in0, in1 and aux. -/
  fetched : List (Nat × List (List Byte))
  /-- Faults of the present attempt, and the beat of the first. -/
  faults : List TaskFault
  fbeat : Nat
  /-- Recovery beats charged so far (R467). -/
  recovery : Nat
  /-- Halo sections of footprint positions sent to other devices: position and section (R438). -/
  sent : List (Nat × Nat)
  /-- Write-back of the staged results, computed at the end of the body. -/
  stage : List WriteBack
  /-- What each Room counted: logical Room and counts. -/
  counts : List (Nat × RoomCount)
  deriving DecidableEq, Repr

/-- A graph instance (R93). -/
structure Inst where
  who : Submitter
  job : Nat
  graph : Nat
  cls : Nat
  v : List Nat
  handles : List W64
  state : InstState
  /-- MODEL: number of the instance within its job, which names it to the other members of a span. -/
  run : Nat
  /-- Bucket index of each dimension (R113). -/
  b : List Nat
  /-- vcomb as at the beginning of admission (R448). -/
  once : Bool
  /-- First beat (R120), and G as planned with (R129). -/
  b0 : Nat
  guard : Nat
  /-- Entry reservation (R118). -/
  k : Nat
  tasks : List TaskRun
  /-- MODEL: its place in dispatch order, by packet numbers (R93). -/
  order : Nat
  slips : W16
  /-- Lowest faulted task and its status (R95). -/
  fault : Option (Nat × W32)
  /-- Outcome of a recovery, reported CORRECTED (R475). -/
  recovered : Option W32
  /-- A Room store was lost in a substitution: the instance completes with RCV_STORE_LOST (R468). -/
  lostStore : Bool
  /-- A recovery held its record (R78). -/
  heldRec : Bool
  /-- Remaining DECLASS budget (R43). -/
  declass : Nat
  /-- Energy of its tasks in fJ (R494). -/
  energy : Nat
  deriving DecidableEq, Repr

/-- Tile claims of a dispatched TILED task (R123 to R126, R164). -/
structure Claims where
  inst : Nat
  task : Nat
  /-- Per footprint position: last q served and the value returned (R124). -/
  served : Tab (W32 × W32)
  /-- Claims of the present round: position and q. -/
  arrived : Tab W32
  /-- Values answered, in order: position and value. -/
  answered : List (Nat × W32)
  /-- Repeated claims answered from the stored value: position and value (R125). -/
  twice : List (Nat × W32)
  /-- Rounds served so far (R124). -/
  rounds : Nat
  /-- Tiles whose bit is set in the tile-claim bitmap of the present entry (R126, R164). -/
  bits : List Nat
  deriving DecidableEq, Repr

/-! ## Jobs (R96 to R100) -/

/-- How far a pre-emption of a victim job has come (R262 to R268). -/
inductive PrePhase where
  /-- Requested; the victim still starts tasks until a boundary without a semaphore hold. -/
  | requested
  | frozen
  /-- The overlapped Rooms are SAVING until the beat given. -/
  | saving (till : Nat)
  /-- Switched out. -/
  | out
  /-- The Rooms switch back until the beat given. -/
  | restoring (till : Nat)
  deriving DecidableEq, Repr

/-- A pre-emption in force on a job. -/
structure Preempt where
  /-- The ON_DEMAND job that claims the Rooms; 64 for JOB_PREEMPT (R268); 65 for a member of the job's span (R264). -/
  by_ : Nat
  phase : PrePhase
  /-- Beat of the request (R262). -/
  at_ : Nat
  /-- Rooms under switch, or switched out, from the start of the switch on (R262, R263). -/
  rooms : List Nat
  deriving DecidableEq, Repr

/-- What a switch saves of a Room (R265). -/
structure SavedRoom where
  store : Memory
  acc0 : Tab W32
  acc1 : Tab W32
  half : Bool
  lines : Memory
  live : BitVec 11
  sealed : List (Nat × Nat)
  deriving DecidableEq, Repr

/-- A step policy (R251). -/
structure Policy where
  graph : Nat
  ndims : Nat
  nslots : Nat
  bdim : Nat
  v : List Nat
  pool : Nat
  wlSlot : Nat
  resSlot : Nat
  tpp : Nat
  maxBatch : Nat
  pauseUs : Nat
  handles : List W64
  deriving DecidableEq, Repr

/-- A row of a step's batch (R256): its sequence, and FIRST. -/
structure StepRow where
  seq : Nat
  first : Bool
  deriving DecidableEq, Repr

/-- A step in progress (R254 to R259). -/
structure StepRun where
  rows : List StepRow
  /-- Device address of the result array. -/
  resAddr : Nat
  /-- The instance ended, with this status; a recovery held its record (R78). -/
  done : Option (W32 × Bool)
  deriving DecidableEq, Repr

/-- A dictionary entry (R340). -/
structure DictEntry where
  special : Bool
  bytes : List Byte
  deriving DecidableEq, Repr

/-- A dictionary (R339 to R341). -/
structure Dict where
  byteBase : Nat
  entries : List DictEntry
  sbytes : Nat
  deriving DecidableEq, Repr

/-- An open job (R96). -/
structure Job where
  onDemand : Bool
  prio : Nat
  /-- Rectangle on this device's logical grid (R34). -/
  x : Nat
  y : Nat
  w : Nat
  h : Nat
  /-- Attic grant in 64 KiB units: its first unit and its length, and its contents (R38, R99). -/
  atticAt : Nat
  attic : Nat
  atticMem : Memory
  /-- A sealed result was written to the Attic grant (R42, R44). -/
  atticSealed : Bool
  /-- Spanning Suite identifier, or 0. -/
  span : W32
  /-- Work counters (R123). -/
  ctrs : Tab W32
  /-- MODEL: instances created so far. -/
  runs : Nat
  /-- JOB_CLOSE waits: its ring and its packet (R100). -/
  closing : Option (Nat × Nat)
  /-- An ON_DEMAND job holds its Rooms (R263). -/
  holds : Bool
  pre : List Preempt
  /-- Agreed cut of a spanning job's freeze: instance number and highest task index + 1 (R264). -/
  cut : Option (List (Nat × Nat))
  /-- JOB_PREEMPT packets that wait, by ring and packet: for the suspension, or, once suspended, for the resumption (R268). -/
  waiters : List (Nat × Nat)
  /-- Suspended by JOB_PREEMPT (R268). -/
  suspended : Bool
  /-- Its save region in HBM is reserved, in KiB (R266). -/
  save : Nat
  /-- State of the Rooms switched out, by logical index (R265). -/
  saved : Tab SavedRoom
  /-- ROOM_STORE.live of each Room when an ON_DEMAND job last gave it back: the incoming job's value at its next claim (R265). -/
  lives : Tab (BitVec 11)
  /-- A save of its Rooms was incomplete: its next instance completes with RCV_STORE_LOST (R469). -/
  storeLost : Bool
  /-- Frames of the BULK VC that a switch withdrew, in their order (R440). -/
  withdrawn : List Queued
  policy : Option Policy
  /-- A replacement that takes effect at the next build (R251). -/
  newPolicy : Option Policy
  step : Option StepRun
  dict : Option Dict
  /-- QUALITY ring, or 0 (R356). -/
  qring : Nat
  deriving DecidableEq, Repr

/-- A rectangle of the logical grid. -/
structure Rect where
  x : Nat
  y : Nat
  w : Nat
  h : Nat
  deriving DecidableEq, Repr

/-- A placed task: where, when, its window and what it counts (R117, R118). -/
structure Placed where
  rect : Rect
  s : Nat
  e : Nat
  opens : Nat
  counter : Option Nat
  deriving DecidableEq, Repr

/-- An admission in progress (R94): the instance, the chunks of 1,024 tasks planned so far, and what its timetable rests on, as it
stood when the admission began: the beat, G, and the occupancy planned for the job's Suite. -/
structure Admit where
  inst : Nat
  done : Nat
  began : Nat
  guard : Nat
  occ : List Placed
  /-- Beats for which it has been suspended. -/
  paused : Nat
  deriving DecidableEq, Repr

/-- A held semaphore: its instance, the task that acquired it, and when (R127, R128). -/
structure SemHold where
  inst : Nat
  task : Nat
  at_ : W64
  deriving DecidableEq, Repr

/-- The Planner (R93 to R129). -/
structure Plan where
  jobs : Tab Job
  graphs : Tab Graph
  insts : Tab Inst
  nextInst : Nat
  /-- Admissions under way, the innermost (highest class) first; the others are suspended (R94). -/
  admits : List Admit
  claims : List Claims
  /-- Held semaphores (R127). -/
  sems : Tab SemHold
  /-- References that drop once a record is written: ring, packet, handles (R284). -/
  refsDue : List (Nat × Nat × List W64)
  guard : BitVec 4
  semLimit : BitVec 10
  beat : W64
  slipValid : Bool
  slipJob : BitVec 6
  slipBeats : W16
  /-- Beat boundary at which a recovery last shifted each job, and by how many beats (R467, R469). -/
  lastShift : Tab (Nat × Nat)
  refValid : Bool
  refJob : BitVec 6
  refDim : BitVec 3
  refCode : W16
  /-- v of the latched refusal, and PLAN_REFUSE_VAL. -/
  refPend : W32
  refVal : W32
  dupTile : W32
  varies : W32
  /-- PLAN_PREEMPT and PLAN_SWITCH (R270). -/
  preValid : Bool
  preJob : BitVec 6
  preCount : W16
  switchBeats : W32
  deriving DecidableEq, Repr

def Plan.reset : Plan :=
  { jobs := [], graphs := [], insts := [], nextInst := 0, admits := [], claims := [],
    sems := [], refsDue := [], guard := 2, semLimit := 50, beat := 0, slipValid := false, slipJob := 0, slipBeats := 0,
    lastShift := [], refValid := false, refJob := 0, refDim := 0, refCode := 0, refPend := 0, refVal := 0,
    dupTile := 0, varies := 0, preValid := false, preJob := 0, preCount := 0, switchBeats := 0 }

/-! ## Rooms (R153, R154) -/

/-- Room states (R153). -/
inductive RoomState where
  | offline | idle | run | writeback | fault | saving
  deriving DecidableEq, Repr

/-- A Room at its logical position: its window registers and its store. -/
structure Room where
  state : RoomState
  job : BitVec 6
  /-- Accumulator half now accumulating: true H1. -/
  half : Bool
  /-- The two accumulator halves: 32-bit cells, by index; unlisted cells 0 (R136). -/
  acc0 : Tab W32
  acc1 : Tab W32
  graph : BitVec 12
  index : W16
  cycle : W32
  peak : BitVec 11
  live : BitVec 11
  sat : W32
  fault : W32
  zgateOff : Bool
  fed : W64
  mac : W64
  gated : W64
  fnFp32 : W32
  fnShort : W32
  /-- Live clip and conversion counters and their snapshots (R240, R242). -/
  qclip : W64
  qconv : W64
  qclipSnap : W64
  qconvSnap : W64
  /-- ROOM_QTHRESH, ROOM_QEVENT, ROOM_QEVENT_SHARE (R241, R243). -/
  qShare : W16
  qMinK : W16
  qevValid : Bool
  qevGraph : BitVec 12
  qevIndex : W16
  qevEvents : W16
  qevShare : W16
  frec : List Byte
  store : Memory
  /-- 131,072 B of line buffers (R183). -/
  lines : Memory
  /-- Ranges of the store that hold sealed bytes: start and length (R44). -/
  sealed : List (Nat × Nat)
  deriving DecidableEq, Repr

/-- A Room in service after a start (R153, R154). -/
def Room.reset : Room :=
  { state := .idle, job := 0, half := false, acc0 := [], acc1 := [], graph := 0, index := 0,
    cycle := 0, peak := 0, live := 0, sat := 0, fault := 0, zgateOff := false, fed := 0, mac := 0,
    gated := 0, fnFp32 := 0, fnShort := 0, qclip := 0, qconv := 0, qclipSnap := 0, qconvSnap := 0,
    qShare := 0x0040, qMinK := 4, qevValid := false, qevGraph := 0, qevIndex := 0, qevEvents := 0,
    qevShare := 0, frec := List.replicate 48 0, store := [], lines := [], sealed := [] }

end Sys2Proof.Machine
end

