-- ==== Sys2Proof/Machine/Blocks/Units.lean ====
section
/-!
DEFINITION. State of the Larder, the sequence table, video, capture, the Tracker and the memory controllers
(chapters 09 to 14).
-/
namespace Sys2Proof.Machine

/-! ## The Larder (chapter 10) -/

/-- A pool of the Larder (R272, R277). -/
structure Pool where
  log2Size : Nat
  /-- Its buffers lie in the Strongroom (R285). -/
  strong : Bool
  first : Nat
  count : Nat
  /-- Window or Strongroom offset of its first buffer. -/
  base : Nat
  /-- The head of the free list; the list runs on through the links in its buffers (R277, R278). -/
  head : Option Nat
  /-- How many buffers the free list has (LARDER_POOL_FREE). -/
  listed : Nat
  /-- The never-used index counter (R277). -/
  fresh : Nat
  /-- The successor of the last pop is unknown: the free list is to be rebuilt (R278). -/
  rebuild : Bool
  deriving DecidableEq, Repr

/-- A buffer's record and state bit (R275). -/
structure BufRec where
  count : W32
  gen : W16
  alloc : Bool
  deriving DecidableEq, Repr

/-- What the Larder keeps of a port: the last sequence number served and its result (R283). -/
structure LarderPort where
  seqno : W16
  code : W32
  handle : W64
  deriving DecidableEq, Repr

/-- The Larder and its block (R272 to R292). -/
structure Larder where
  pools : Tab Pool
  /-- Records by buffer index; an index not listed has count 0, gen 0, state bit 0 (R500 step 4). -/
  recs : Tab BufRec
  ports : Tab LarderPort
  /-- LARDER_POOL_SEL and its snapshot: CFG, FREE and NEW. -/
  sel : PoolId
  snapCfg : W32
  snapFree : W32
  snapNew : W32
  /-- LARDER_ERR, with the handle latched behind it, and LARDER_ERR_HANDLE. -/
  errValid : Bool
  errPort : BitVec 5
  errPos : BitVec 10
  errCode : W16
  errPend : W64
  errHandle : W64
  /-- LARDER_DFREE. -/
  dfree : W32
  deriving DecidableEq, Repr

def Larder.reset : Larder :=
  { pools := [], recs := [], ports := [], sel := 0, snapCfg := 0, snapFree := 0, snapNew := 0, errValid := false,
    errPort := 0, errPos := 0, errCode := 0, errPend := 0, errHandle := 0, dfree := 0 }

/-! ## Sequences (chapter 09) -/

/-- Sequence states; FREE is the absence of an entry (R245). -/
inductive SeqState where
  | joining | active | paused | leaving
  deriving DecidableEq, Repr

/-- A sequence entry (R247), with the Larder handles behind its addresses and its prefix tokens. -/
structure SeqEnt where
  state : SeqState
  job : Nat
  prio : Nat
  /-- The leave and pause_reported flags. -/
  leave : Bool
  reported : Bool
  ring : Nat
  enc : Nat
  encHandle : W64
  utag : W64
  len : W32
  maxTokens : W32
  endToken : W32
  lastToken : W32
  pages : List W64
  prefix_ : List W32
  joinOrder : W32
  pauseStart : W64
  /-- Pending bytes of an unfinished code point (R342). -/
  pend : List Byte
  /-- SEQ_LEAVE that waits: its ring and its packet (R250). -/
  leaver : List (Nat × Nat)
  deriving DecidableEq, Repr

/-- The sequence table and the SEQ block (R245 to R261, R269). -/
structure Seqs where
  ents : Tab SeqEnt
  /-- The device join counter (R246). -/
  counter : W32
  sel : BitVec 14
  snap : List Byte
  pauseValid : Bool
  pauseCount : BitVec 15
  pauseSeq : BitVec 14
  stepJob : BitVec 6
  stepBatch : BitVec 13
  stepDeferred : BitVec 13
  skip : W32
  stepErr : W32
  deriving DecidableEq, Repr

def Seqs.reset : Seqs :=
  { ents := [], counter := 0, sel := 0, snap := List.replicate 64 0, pauseValid := false, pauseCount := 0,
    pauseSeq := 0, stepJob := 0, stepBatch := 0, stepDeferred := 0, skip := 0, stepErr := 0 }

/-! ## Video (chapter 11) -/

/-- Stream states; CLOSED is the absence of a stream (R298). -/
inductive StreamState where
  | syncing | refreshing | running | refused | closing
  deriving DecidableEq, Repr

/-- A warp mesh as a grid of source positions (R343, R344). -/
structure Mesh where
  log2Step : Nat
  outW : Nat
  outH : Nat
  points : List (Int × Int)
  deriving DecidableEq, Repr

/-- Where a picture stands (R307, R308). -/
inductive PicPhase where
  | ready
  | pipe (p : Nat)
  /-- Its context is being saved; it then stays with the pipe. -/
  | saving (p : Nat)
  | suspended (p : Nat)
  deriving DecidableEq, Repr

/-- What an accepted sequence parameter set fixes (R304, R305, R310, R316, R319). -/
structure SeqParams where
  wc : Nat
  hc : Nat
  wo : Nat
  ho : Nat
  tenBit : Bool
  /-- fps_milli, when the stream carries timing. -/
  fps : Option Nat
  /-- H.264 MaxFrameNum. -/
  frameNums : Nat
  /-- The cropped picture's first column and row in the coded picture. -/
  x0 : Nat
  y0 : Nat
  /-- Its reference buffers; in SEPARATE mode the last is the extra one (R304, R317). -/
  bufs : List W64
  /-- The warp mode is SEPARATE. -/
  separate : Bool
  /-- Size of level 0. -/
  outW : Nat
  outH : Nat
  deriving DecidableEq, Repr

/-- A STREAM_STATUS record to be attached to a frame: status, position, first row and rows (R373). -/
structure Note where
  status : W32
  pos : W64
  row : Nat
  rows : Nat
  deriving DecidableEq, Repr

/-- A picture between its packet and its reconstruction (R300, R307). -/
structure Pic where
  /-- The units of its packet that count for it, with the offsets of their first bytes (R301). -/
  units : List (Nat × List Byte)
  /-- Position counter before its packet (R301). -/
  pos : W64
  /-- Its packet's place in the order of dispatch (R308). -/
  order : Nat
  pts : W64
  /-- Parser state after its packet, its place in decode order, and the outputs it brings about (R303). -/
  ctx : Nat
  num : Nat
  bump : List Nat
  par : SeqParams
  /-- The first picture of its sequence parameter set: M is set anew (R310). -/
  newSeq : Bool
  /-- It is output: it does not precede the recovery point (R312). -/
  shown : Bool
  phase : PicPhase
  /-- Budget, and the concealment mode in force at its assignment (R310, R449). -/
  budget : Nat
  motion : Bool
  /-- Pipe faults so far (R309). -/
  faults : Nat
  /-- The recovery of an earlier picture delays it (R78, R309). -/
  late : Bool
  deriving DecidableEq, Repr

/-- A reconstructed picture that waits for its turn in output order (R303). -/
structure HeldPic where
  num : Nat
  /-- Its pyramid, or 0 (R314). -/
  pyr : W64
  /-- Its pyramid is written by the device; false for an alias (R311). -/
  own : Bool
  pts : W64
  par : SeqParams
  notes : List Note
  /-- A recovery held it (R309). -/
  late : Bool
  deriving DecidableEq, Repr

/-- Where an output frame stands (R314, R357). -/
inductive FramePhase where
  | waiting
  | running
  /-- Its instance ended with this status; a recovery held its record (R78). -/
  | ended (status : W32) (held : Bool)
  /-- It has no instance. -/
  | none
  deriving DecidableEq, Repr

/-- An output frame (R314, R354). -/
structure FrameSt where
  k : W32
  pyr : W64
  pts : W64
  par : SeqParams
  phase : FramePhase
  notes : List Note
  late : Bool
  deriving DecidableEq, Repr

/-- The samples of a coded picture in row order. -/
structure Shot where
  w : Nat
  h : Nat
  y : List Nat
  u : List Nat
  v : List Nat
  deriving DecidableEq, Repr

/-- A reference picture: its entry among the decoder's references and the buffer that holds it, 0 for none; an alias holds a
reference of its own on the buffer (R311). -/
structure RefEntry where
  no : Nat
  buf : W64
  alias_ : Bool
  deriving DecidableEq, Repr

/-- An open stream (R298, R299). -/
structure Stream where
  state : StreamState
  job : Nat
  prio : Nat
  ring : Nat
  h265 : Bool
  budgetX : Nat
  maxW : Nat
  maxH : Nat
  refPool : Nat
  pyrPool : Nat
  graph : Nat
  nslots : Nat
  ndims : Nat
  pyrSlot : Nat
  declass : Nat
  meshHandle : W64
  mesh : Option Mesh
  v : List Nat
  handles : List W64
  /-- The position counter (R301). -/
  pos : W64
  empty : W16
  discarded : W16
  output : W32
  /-- SLOW, and pictures within budget in a row (R311). -/
  slow : Bool
  within : Nat
  /-- The accepted sequence parameter set: set, and its reference buffers (R304). -/
  sps : Option SeqParams
  refs : List W64
  /-- Buffers of an earlier sequence, with the last picture that uses them. -/
  oldRefs : List (Nat × List W64)
  /-- M of R310. -/
  mean : W32
  /-- num_units_in_tick and time_scale of the video parameter set, when it carries timing (R319). -/
  vpsTiming : Option (Nat × Nat)
  /-- The refresh in progress: place of the picture with its recovery point SEI, and its count (R312). -/
  refresh : Option (Int × Nat)
  /-- RASL pictures are discarded: the last IRAP picture is a starting CRA, or a BLA (R312). -/
  raslSkip : Bool
  /-- The reference pictures, and the previous picture in decode order: its samples, and the buffer that holds it if it is a
  reference (R311, R313, R317). -/
  entries : List RefEntry
  shot : Option Shot
  lastBuf : W64
  /-- State of the parser and of the decoder (MODEL: numbers that stand for what the codec keeps). -/
  ctx : Nat
  dec : Nat
  /-- The next picture's place in decode order. -/
  nextNum : Nat
  /-- The next picture is the first of its sequence parameter set. -/
  newSeq : Bool
  /-- Output has begun: the pictures of later packets are output (R312). -/
  outputting : Bool
  pics : List Pic
  held : List HeldPic
  /-- The pyramid of the previous picture in decode order, with a reference of its own (R311). -/
  lastPyr : W64
  /-- Output frame number of the next output (R354). -/
  nextK : W32
  frames : List FrameSt
  /-- A refusal whose record waits for the earlier pictures: status, position, pts (R306). -/
  refusal : Option (W32 × W64 × W64)
  /-- STREAM_CLOSE waits: its ring and its packet (R302). -/
  closer : Option (Nat × Nat)
  deriving DecidableEq, Repr

/-- A frame that a view is to encode (R320): its number, its pyramid with a reference, and its sequence. -/
structure ViewFrame where
  k : W32
  pyr : W64
  pts : W64
  par : SeqParams
  deriving DecidableEq, Repr

/-- An open framing-encode view (R319). -/
structure View where
  h265 : Bool
  stream : Nat
  width : Nat
  height : Nat
  kbps : Nat
  refresh : Nat
  lag : Nat
  qpMin : Nat
  qpMax : Nat
  target : W32
  log2Out : Nat
  vector : Nat
  outBase : Nat
  idxAddr : Nat
  fps : Nat
  /-- Encode pipe, and its load when placed in samples per 1,000 s. -/
  pipe : Nat
  load : Nat
  /-- P and the drop count of the index word (R323, R324). -/
  pidx : W32
  drops : W32
  todo : List ViewFrame
  /-- The view's first frame, and pictures encoded so far. -/
  firstK : Option W32
  count : Nat
  /-- QP the next picture starts at, and the encoder's references (MODEL: a number). -/
  qp : Nat
  enc : Nat
  /-- Pipe faults of the AU in progress (R309). -/
  faults : Nat
  /-- VIEW_CLOSE waits: its ring and its packet; or the view closes with its egress (R318, R325). -/
  closer : Option (Nat × Nat)
  closing : Bool
  deriving DecidableEq, Repr

/-- The video unit and the VIDEO block (R293 to R327). -/
structure Video where
  /-- VIDEO_CTL.conceal: MOTION. -/
  conceal : Bool
  /-- VIDEO_EGRESS. -/
  lock : Bool
  declass : Bool
  allow : Bool
  maxViews : BitVec 6
  /-- VIDEO_PIPES. -/
  dec : BitVec 18
  enc : BitVec 5
  /-- Spare pipes that stand by. -/
  decSpare : BitVec 18
  encSpare : BitVec 5
  streams : Tab Stream
  views : Tab View
  sel : StreamId
  snapStat : W32
  snapPos : W64
  snapCnt : W64
  refValid : Bool
  refStream : StreamId
  refCode : W16
  refPend : W64
  refPos : W64
  slow : W32
  concealed : W32
  /-- VIDEO_VIEW_CIDX and VIDEO_VIEW_DROP by view. -/
  cidx : Tab W32
  dropped : Tab W32
  deriving DecidableEq, Repr

def Video.reset : Video :=
  { conceal := false, lock := false, declass := false, allow := false, maxViews := 0, dec := 0, enc := 0,
    decSpare := 0, encSpare := 0, streams := [], views := [], sel := 0, snapStat := 0, snapPos := 0, snapCnt := 0,
    refValid := false, refStream := 0, refCode := 0, refPend := 0, refPos := 0, slow := 0, concealed := 0,
    cidx := [], dropped := [] }

/-! ## Capture (chapter 12) -/

/-- A capture source: its format, channels and rate, and next (R332, R333). -/
structure CaptSrc where
  fmt : Option (Nat × Nat)
  next : Option W64
  deriving DecidableEq, Repr

/-- The CAPT block (R348); dictionaries belong to their jobs. -/
structure Capt where
  srcs : Tab CaptSrc
  sel : BitVec 12
  snapStat : W32
  snapNext : W64
  damaged : W32
  empty : W32
  dmgValid : Bool
  dmgReason : BitVec 3
  dmgSource : BitVec 12
  dmgPend : W32
  dmgPos : W32
  deriving DecidableEq, Repr

def Capt.reset : Capt :=
  { srcs := [], sel := 0, snapStat := 0, snapNext := 0, damaged := 0, empty := 0, dmgValid := false, dmgReason := 0,
    dmgSource := 0, dmgPend := 0, dmgPos := 0 }

/-! ## The Tracker (chapter 13) -/

/-- Track states; FREE is the absence of an entry (R353). -/
inductive TrkState where
  | tentative | confirmed | lost
  deriving DecidableEq, Repr

/-- A track entry (R353). -/
structure TrackEnt where
  state : TrkState
  hits : Byte
  misses : Byte
  id : W32
  x : W32
  y : W32
  w : W32
  h : W32
  vx : W32
  vy : W32
  cls : W16
  score : W16
  born : W32
  last : W32
  deriving DecidableEq, Repr

/-- A STREAM-form policy (R355). -/
structure TrackPolicy where
  cap : Nat
  confirm : Nat
  maxMiss : Nat
  rounds : Nat
  alpha : Nat
  beta : Nat
  gate : Nat
  birth : Nat
  assocSlot : Nat
  candSlot : Nat
  tent : Bool
  deriving DecidableEq, Repr

/-- A stream's partition of the track table (R351, R354, R372). -/
structure Partition where
  /-- First entry ÷ 16. -/
  base : Nat
  policy : TrackPolicy
  tracks : Tab TrackEnt
  nextId : W32
  /-- Entry index of each candidate of the present candidate block (R358). -/
  cands : List Nat
  deriving DecidableEq, Repr

/-- A TRACK_POLICY that waits for the boundary before the stream's next update (R356). -/
structure TrackPend where
  ring : Nat
  op : Nat
  enable : Bool
  reset : Bool
  policy : TrackPolicy
  deriving DecidableEq, Repr

/-- A framing decision in force for a target: target, crop x0 y0 cw ch, followed track (R372). -/
structure FramingT where
  target : W32
  x0 : Nat
  y0 : Nat
  cw : Nat
  ch : Nat
  track : W32
  clamped : Bool
  deriving DecidableEq, Repr

/-- The Tracker unit and the TRACK block (R351 to R376). -/
structure Track where
  parts : Tab Partition
  pend : Tab TrackPend
  /-- Target table of each stream (R372). -/
  targets : Tab (List FramingT)
  /-- Frames whose records are done, and the decisions of the last frames, by stream (R320). -/
  done : Tab W32
  decisions : Tab (List (W32 × List FramingT))
  sel : StreamId
  snapPart : W32
  snapCount : W32
  drop : W32
  qdrop : W32
  rejValid : Bool
  rejCount : BitVec 21
  rejStream : StreamId
  deriving DecidableEq, Repr

def Track.reset : Track :=
  { parts := [], pend := [], targets := [], done := [], decisions := [], sel := 0, snapPart := 0, snapCount := 0,
    drop := 0, qdrop := 0, rejValid := false, rejCount := 0, rejStream := 0 }

/-! ## Memory controllers (chapter 14) -/

/-- Whom a read of the controllers serves: the requester at its port, the drain of a partial write (R389), or the patrol scrub
(R394). -/
inductive ReadUse where
  | port
  | drain
  | scrub
  deriving DecidableEq, Repr

/-- A read in a pseudo-channel (R382, R388, R393). -/
structure MemRead where
  /-- Regulated port of the requester. -/
  port : Nat
  /-- The 64 B block: device address / 64. -/
  block : Nat
  /-- mclk of its acceptance, by the clock of its pseudo-channel. -/
  at_ : Nat
  use : ReadUse
  /-- The block's bytes in the DRAM at its acceptance, and whether the block's check was then the poison check: what a later
  write puts there is not for this read (R388). -/
  data : List Byte
  bad : Bool
  /-- Bytes of the write-queue entry that it found when it was accepted (R388). -/
  fwd : List (Option Byte)
  /-- It is the re-read after an uncorrectable result; the activate that the re-read asks for is done (R393). -/
  retry : Bool
  fresh : Bool
  deriving DecidableEq, Repr

/-- A write-queue entry: one block, its masked bytes (R382, R387). -/
structure MemWrite where
  block : Nat
  data : List (Option Byte)
  /-- The read of its read-modify-write: not begun, on its way, done (true: the block is uncorrectable) (R389). -/
  reading : Bool
  filled : Option Bool
  deriving DecidableEq, Repr

/-- A bank (R384, R386, R390, R396). -/
structure Bank where
  row : Option Nat
  /-- mclk at which its idle timer reaches 0; none: no column command since the row was opened (R384). -/
  idleAt : Option Nat
  /-- The controller holds the check block of the open page, and has changed it (R393). -/
  check : Bool
  dirty : Bool
  /-- First mclk at which it may be activated again, and at which its REFpb, RFMpb or repair ends. -/
  actFrom : Nat
  busyTo : Nat
  debt : BitVec 4
  /-- aclk at which its last tREFI ended; none: none has ended since the start (R386). -/
  refAt : Option W64
  actIndex : W32
  actCount : W16
  /-- An RFMpb is scheduled; it is forced. -/
  rfm : Bool
  forced : Bool
  /-- A soft row repair holds the bank: mclk at which it began. -/
  held : Option Nat
  deriving DecidableEq, Repr

def Bank.reset : Bank :=
  { row := none, idleAt := none, check := false, dirty := false, actFrom := 0, busyTo := 0, debt := 0, refAt := none,
    actIndex := 0, actCount := 0, rfm := false, forced := false, held := none }

/-- The second BL8 burst of a 64 B block, due in the next mclk (R378): its bank, whether it ends an access to a data block, and
whether it is a queued read's. -/
structure Burst where
  bank : Nat
  last : Bool
  read : Bool
  deriving DecidableEq, Repr

/-- A pseudo-channel (R382, R383). -/
structure Pc where
  /-- MODEL: its mclk count since the start. -/
  clk : Nat
  rq : List MemRead
  wq : List MemWrite
  /-- Reads on their way back from the DRAM, the oldest first. -/
  flight : List MemRead
  burst : Option Burst
  /-- Its last command met a parity error and is issued once more (R378, R398). -/
  retrying : Bool
  draining : Bool
  lastRef : Option Nat
  banks : Tab Bank
  deriving DecidableEq, Repr

def Pc.reset : Pc :=
  { clk := 0, rq := [], wq := [], flight := [], burst := none, retrying := false, draining := false, lastRef := none, banks := [] }

/-- A request at a port (R395): a read, or a write with its bytes; `scrub`: the patrol scrub's (R394). -/
structure PortReq where
  block : Nat
  write : Option (List (Option Byte))
  scrub : Bool
  deriving DecidableEq, Repr

/-- What a read has delivered to a port; `at_`: mclk of the read's acceptance. -/
structure MemGiven where
  port : Nat
  block : Nat
  at_ : Nat
  data : List Byte
  bad : Bool
  deriving DecidableEq, Repr

/-- A regulated port (R395, R397). -/
structure MemPortState where
  enable : Bool
  rate : BitVec 15
  burst : W16
  tokens : Nat
  /-- 256ths of a token. -/
  frac : Byte
  wait : W32
  waiting : List PortReq
  /-- mclk of this beat that the bucket has already gained. -/
  at_ : Nat
  /-- Tokens that Room DMA requests still wait for (R141). -/
  owed : Nat
  deriving DecidableEq, Repr

/-- Reset rate and burst of the ports (R395). -/
def portSetting (p : Nat) : Nat × Nat :=
  if p < 14 then (2048, 256)
  else [(640, 256), (128, 64), (64, 64), (64, 64), (128, 64), (1024, 256), (1024, 256), (128, 64), (8192, 1024),
        (16, 16)].getD (p - 14) (0, 1)

def MemPortState.reset (p : Nat) : MemPortState :=
  let r := portSetting p
  { enable := true, rate := BitVec.ofNat 15 r.1, burst := BitVec.ofNat 16 r.2, tokens := r.2, frac := 0, wait := 0,
    waiting := [], at_ := 0, owed := 0 }

/-- Neighbour-refresh settings (R390, R391, R397). -/
structure NrCtl where
  seeded : Bool
  log2p : BitVec 4
  thresh : W16
  deriving DecidableEq, Repr

def NrCtl.reset : NrCtl := { seeded := false, log2p := 8, thresh := 512 }

/-- The HBM, its controllers and the MEM block (R377 to R398). -/
structure Mem where
  /-- HBM contents by device address (R380); unlisted bytes read 0 (R500 step 4). -/
  dram : Memory
  /-- 64 B blocks that report MEM_UE, by block number (R392, R393). -/
  poison : List Nat
  /-- Inline ECC is in force (R380, R394), and MEM_ECC_CTL.next. -/
  ecc : Bool
  eccNext : Bool
  pcs : Tab Pc
  /-- MODEL: mclk from the start to this beat (R377). -/
  base : Nat
  ports : List MemPortState
  /-- Requests for single blocks that passed their ports and wait at their Hallway stops for room in a queue (R382). -/
  hall : List (Nat × PortReq)
  /-- What reads have delivered, the oldest first. -/
  given : List MemGiven
  pageIdle : BitVec 10
  debtMax : BitVec 4
  /-- MEM_NR_CTL as written, and in force since the last start (R391). -/
  nrNext : NrCtl
  nr : NrCtl
  /-- The SEEDED seed as written, and the seed in force. -/
  nrSeedNext : W64
  nrSeed : W64
  wqHi : BitVec 7
  wqLo : BitVec 7
  scrubHours : Byte
  /-- Next block the patrol scrub reads. -/
  scrubAt : Nat
  /-- aclk from which the period of MEM_SCRUB_CTL runs, and the blocks read since (R394). -/
  scrubFrom : W64
  scrubDone : Nat
  /-- aclk at which the last start brought the controllers into service: the first tREFI begins there (R386). -/
  served : W64
  trained : Bool
  trainWarm : Bool
  temp : W32
  fwdFull : W32
  fwdPartial : W32
  nrForced : W32
  nrDrawn : W32
  ce : W32
  ueValid : Bool
  uePc : BitVec 7
  ueCode : W16
  uePend : W64
  ueAddr : W64
  /-- Rows queued for repair: pseudo-channel, bank, row (R393, R396). -/
  repairs : List (Nat × Nat × Nat)
  /-- Soft row repairs in force, by bank 64 × pc + bank (always-on storage). -/
  rows : Tab Nat
  /-- Spare lanes in use: 2 × pc + half for DQ halves, 256 + channel for command/address, with the lane
  (always-on storage, R396). -/
  lanes : Tab Nat
  /-- Lanes to be remapped at the next start. -/
  laneMarks : List (Nat × Nat)
  deriving DecidableEq, Repr

def Mem.reset : Mem :=
  { dram := [], poison := [], ecc := true, eccNext := true, pcs := [], base := 0,
    ports := (List.range 24).map MemPortState.reset, hall := [], given := [], pageIdle := 64, debtMax := 8, nrNext := NrCtl.reset, nr := NrCtl.reset, nrSeedNext := 0, nrSeed := 0,
    wqHi := 48, wqLo := 16, scrubHours := 24, scrubAt := 0, scrubFrom := 0, scrubDone := 0, served := 0, trained := false, trainWarm := false, temp := 0,
    fwdFull := 0, fwdPartial := 0, nrForced := 0, nrDrawn := 0, ce := 0, ueValid := false, uePc := 0, ueCode := 0,
    uePend := 0, ueAddr := 0, repairs := [], rows := [], lanes := [], laneMarks := [] }

end Sys2Proof.Machine
end

