-- ==== Sys2Proof/Machine/State.lean ====
section
/-!
DEFINITION. The device's whole state, its faults and refusals, and the state right after reset.
-/
namespace Sys2Proof.Machine

/-- Reasons for which a step stops with a fault. -/
inductive Fault where
  /-- A memory command names a device address at or above C, where R380 says that no memory exists.
  Raised by MEM_READ_REQUEST and MEM_WRITE_REQUEST. Safe: the model stops. -/
  | noSuchAddress
  deriving DecidableEq, Repr

/-- Reasons for which a step has no meaning. -/
inductive Refusal where
  /-- A command that has no meaning yet, by its mnemonic. Safe: the model stops. -/
  | notModelled (mnemonic : String)
  /-- A DBG access on a debug-unlocked part, which lies outside the behaviour the manual describes (R50).
  Raised by REGISTER_WRITE. Safe: the model stops. -/
  | dbgBlock
  deriving DecidableEq, Repr

/-- The state of the device. -/
structure State where
  /-- Commands that wait, first in, first out. -/
  pending : List Instr
  /-- MODEL: number of free values drawn so far. -/
  free : Nat
  part : Part
  pins : Pins
  glb : Global
  ring : Rings
  porch : Porch
  /-- What the device has issued on its link, oldest first. -/
  out : List OutReq
  hearth : Hearth
  plan : Plan
  /-- Rooms by logical index; a Room not listed is as `Room.reset` (R153). -/
  rooms : Tab Room
  larder : Larder
  seqs : Seqs
  video : Video
  capt : Capt
  track : Track
  mem : Mem
  fab : Fab
  pwr : Pwr
  ras : Ras
  deriving DecidableEq, Repr

/-- The grid before the first fuse load: no Room has a position. -/
def Grid.reset : Grid := { phys := [], subst := [], lost := [], bad := [], flows := [] }

/-- GLOBAL at power-up: OFF, nothing in force (R20). -/
def Global.reset : Global :=
  { dev := .off, reason := .none, override := false, cause := 0, layout := none, drainFrom := .serving,
    stopped := false, maint := false, compat := false, armed := 0, vcomb := false, grid := Grid.reset }

/-- The part the model starts with (log entry 3, DESIGN CHOICE): an FQP-112 with every Room good. -/
def Part.reset : Part :=
  { grade112 := true, goodRooms := BitVec.allOnes 128, debug := false, serial := 0,
    vid := [850, 825, 800, 775, 750, 725, 700, 675] }

/-- The device before any supply: OFF, every register at its reset value (R20, R499). -/
def State.reset : State :=
  { pending := [], free := 0, part := Part.reset,
    pins := { pgIn := false, perst := true, strapCompat := false, strapMaint := false, thermtrip := false, tap := Tap.reset },
    glb := Global.reset, ring := Rings.reset, porch := Porch.reset, out := [], hearth := Hearth.reset,
    plan := Plan.reset, rooms := [], larder := Larder.reset, seqs := Seqs.reset, video := Video.reset,
    capt := Capt.reset, track := Track.reset, mem := Mem.reset, fab := Fab.reset,
    pwr := Pwr.reset true 850, ras := Ras.reset }

end Sys2Proof.Machine
end

