-- ==== Sys2Proof/Machine/Hbm.lean ====
section
/-!
DEFINITION. HBM contents as every reader sees them: address interleave, write queues, poisoned blocks (R380, R381, R387,
R388, R392).
-/
namespace Sys2Proof.Machine

/-! ## Address interleave (R381) -/

/-- Pseudo-channel of a 64 B block. -/
def pcOf (block : Nat) : Nat :=
  let g := block / 4
  (g ^^^ (g / 128) ^^^ (g / 16384)) % 128

/-- D: data slots to a page. -/
def slotsOf (ecc : Bool) : Nat := if ecc then 15 else 16

/-- k: number of a block within its pseudo-channel. -/
def placeOf (block : Nat) : Nat := block / 512 * 4 + block % 4

/-- rp: page number of a block within its pseudo-channel, and its slot there: page bytes [64 × slot, 64 × slot + 63]. -/
def pageOf (ecc : Bool) (block : Nat) : Nat := placeOf block / slotsOf ecc
def slotOf (ecc : Bool) (block : Nat) : Nat := placeOf block % slotsOf ecc

/-- The block with number `k` of a pseudo-channel: the map is a bijection (R381). -/
def blockAt (pc k : Nat) : Nat := (k / 4 * 128 + (pc ^^^ (k / 4) ^^^ (k / 512)) % 128) * 4 + k % 4

/-- Bank of a page: 16 × sid + 4 × bg + bank. -/
def bankOf (page : Nat) : Nat := 16 * (page / 16 % 3) + 4 * (page % 4) + page / 4 % 4
def rowOf (page : Nat) : Nat := page / 48

/-! ## Contents -/

/-- Page `rp` of a pseudo-channel as the DRAM holds it (R381, R392): its data slots and, with inline ECC, the check block in slot
15: 4 check bytes to a slot, then 4 bytes of zeros. -/
def Mem.page (m : Mem) (pc rp : Nat) : List Byte :=
  let blocks := (List.range (slotsOf m.ecc)).map (fun i => blockAt pc (slotsOf m.ecc * rp + i))
  blocks.flatMap (fun b => m.dram.read (64 * b) 64)
    ++ (if m.ecc then blocks.flatMap (fun b => checkOf (m.dram.read (64 * b) 64) b (m.poison.contains b)) ++ [0, 0, 0, 0] else [])

/-- The write-queue entry of a block (R387: at most one). -/
def Mem.entry (m : Mem) (block : Nat) : Option MemWrite :=
  match tget m.pcs (pcOf block) with
  | some p => p.wq.find? (fun w => w.block == block)
  | none => none

/-- A byte of the HBM after every write accepted so far (R388). -/
def Mem.byte (m : Mem) (a : Nat) : Byte :=
  match (m.entry (a / 64)).bind (fun w => w.data.getD (a % 64) none) with
  | some v => v
  | none => m.dram.byte a

/-- `n` bytes from a device address upwards. -/
def Mem.read (m : Mem) (a n : Nat) : List Byte := (List.range n).map (fun i => m.byte (a + i))

/-- Bytes of `new` where it has one, of `old` elsewhere. -/
def mergeBytes : List (Option Byte) → List Byte → List Byte
  | some v :: r, _ :: t => v :: mergeBytes r t
  | none :: r, b :: t => b :: mergeBytes r t
  | [], t => t
  | _, [] => []

/-- One mask over another: the newer byte where there is one (R387). -/
def mergeMask : List (Option Byte) → List (Option Byte) → List (Option Byte)
  | some v :: r, _ :: t => some v :: mergeMask r t
  | none :: r, b :: t => b :: mergeMask r t
  | [], t => t
  | r, [] => r

/-- The part of a write of `bs` at `a` that falls in a block. -/
def blockPart (a : Nat) (bs : List (Option Byte)) (block : Nat) : List (Option Byte) :=
  (List.range 64).map (fun i =>
    if 64 * block + i < a then none else bs.getD (64 * block + i - a) none)

/-- The write queues see a write that reaches the DRAM at once: a queued byte it covers is replaced (R387). -/
def patchQueue (a : Nat) (bs : List (Option Byte)) (w : MemWrite) : MemWrite :=
  if 64 * w.block + 64 ≤ a || a + bs.length ≤ 64 * w.block then w
  else
    let new := blockPart a bs w.block
    { w with data := (List.range 64).map (fun i =>
        match w.data.getD i none, new.getD i none with
        | some _, some v => some v
        | o, _ => o) }

/-- Blocks of a list that a write does not replace whole; those stay poisoned (R389). -/
def stillPoisoned (a : Nat) (bs : List (Option Byte)) (poison : List Nat) : List Nat :=
  poison.filter (fun b => !((blockPart a bs b).all (·.isSome)))

/-- A write of bytes, with byte enables, from a device address upwards. -/
def Mem.writeMasked (m : Mem) (a : Nat) (bs : List (Option Byte)) : Mem :=
  { m with dram := m.dram.writeMasked a bs,
           pcs := m.pcs.map (fun p => (p.1, { p.2 with wq := p.2.wq.map (patchQueue a bs) })),
           poison := stillPoisoned a bs m.poison }

/-- Blocks of a range that report MEM_UE (R392). -/
def Mem.poisoned (m : Mem) (a n : Nat) : Bool :=
  m.poison.any (fun b => decide (b * 64 < a + n) && decide (a < b * 64 + 64))

end Sys2Proof.Machine
end

