-- ==== Sys2Proof/Machine/Ops.lean ====
section
/-!
DEFINITION. The operations that the meanings of many commands share: time, the link output, the RAS log,
FATAL codes, messages, packets and their completion, metadata records.
-/
namespace Sys2Proof.Machine

/-- The outcome of a step. -/
abbrev Outcome := Host.Outcome State Fault Refusal

/-! ## Device state -/

/-- Packets are fetched and dispatched (R20, R498). -/
def State.serving (s : State) : Bool :=
  (s.glb.dev == .serving || s.glb.dev == .maintenance) && !s.glb.stopped

/-- Work goes on: SERVING, MAINTENANCE or DRAINING (R502). -/
def State.working (s : State) : Bool :=
  (s.glb.dev == .serving || s.glb.dev == .maintenance || s.glb.dev == .draining) && !s.glb.stopped

/-- The aclk time, which every timestamp reads (R70). -/
def State.now (s : State) : W64 := s.pwr.aclk

/-- aclk ticks per µs, and per ms (R484: 150 MHz in every P-state). -/
def ticksPerUs : Nat := 150
def ticksPerMs : Nat := 1000 * ticksPerUs

/-- `n` aclk ticks have passed since `t`. -/
def State.passed (s : State) (t : W64) (n : Nat) : Bool := decide (n ≤ (s.now - t).toNat)

/-- V in bytes: the host-visible region of the layout in force (R406, R509). -/
def State.vBytes (s : State) : Nat :=
  match s.glb.layout with
  | some l => l.win * 1048576
  | none => 0

/-- Device address of the region that begins `mib` MiB above the save region (R509). -/
def State.aboveSave (s : State) (mib : Nat) : Nat :=
  match s.glb.layout with
  | some l => (l.win + l.strong + l.save + mib) * 1048576
  | none => mib * 1048576

/-- A range lies inside the BAR4/5 window region (R406). -/
def State.inWindow (s : State) (a n : Nat) : Bool := decide (a + n ≤ s.vBytes)

/-- Draws a free value: a number no statement can know (log entry 4). -/
def State.draw (s : State) : State × W64 := ({ s with free := s.free + 1 }, Config.freeWord s.free)

/-! ## HBM contents (R380, R387, R392) -/

/-- Bytes of the HBM as every read sees them: every accepted write included (R387). -/
def State.hbmRead (s : State) (a n : Nat) : List Byte := s.mem.read a n

/-- Some block of a range reports MEM_UE (R392). -/
def State.poisoned (s : State) (a n : Nat) : Bool := s.mem.poisoned a n

/-- A write of a unit to the HBM, with byte enables. -/
def State.hbmWriteMasked (s : State) (a : Nat) (bs : List (Option Byte)) : State :=
  { s with mem := s.mem.writeMasked a bs }

def State.hbmWrite (s : State) (a : Nat) (bs : List Byte) : State := s.hbmWriteMasked a (bs.map some)

/-! ## Link output (R408, R414, R415) -/

/-- Max Payload Size in force: Device Control bits 7:5, at most 512 B (R399). -/
def State.mps (s : State) : Nat := min 512 (128 * 2 ^ field s.porch.cfg.devCtl.toNat 5 3)

/-- A write cut at Max Payload Size and at 4 KiB boundaries, in ascending address order (R408). -/
def splitWrite (mps : Nat) : Nat → Nat → List Byte → List (Nat × List Byte)
  | 0, _, _ => []
  | fuel + 1, a, bs =>
    if bs.isEmpty then []
    else
      let k := min mps (4096 - a % 4096)
      (a, bs.take k) :: splitWrite mps fuel (a + k) (bs.drop k)

/-- A hold begins when a request waits while Bus Master Enable is 0 (R415). -/
def Porch.beginHold (p : Porch) : Porch :=
  if p.held || p.cfg.bme || p.queue.isEmpty then p
  else { p with held := true, holdMs := 0, holdTicks := 0 }

/-- Puts a request behind those already held (R414). -/
def Porch.hold (p : Porch) (h : Held) : Porch := ({ p with queue := p.queue ++ [h] }).beginHold

/-- Outputs are stopped: after a FATAL code (R474), after HOST_LOSS (R415), while replaying (R480) or
where nothing responds (R20). -/
def State.silent (s : State) : Bool :=
  s.glb.stopped || s.porch.lost || s.ras.replay.isSome || s.glb.dev == .off || s.glb.dev == .starting

/-- A posted write to host memory; `ro` asks for Relaxed Ordering (R77). -/
def State.hostWrite (s : State) (a : Nat) (bs : List Byte) (ro : Bool) : State :=
  if s.silent || bs.isEmpty then s
  else if s.porch.cfg.bme then
    let pieces := splitWrite s.mps bs.length a bs
    { s with out := s.out ++ pieces.map (fun p => OutReq.write (BitVec.ofNat 64 p.1) p.2 ro) }
  else { s with porch := s.porch.hold (.write (BitVec.ofNat 64 a) bs ro) }

/-- A data write of an operation: Relaxed Ordering as Device Control enables it (bit 4; R77). -/
def State.dataWrite (s : State) (a : Nat) (bs : List Byte) : State :=
  s.hostWrite a bs (s.porch.cfg.devCtl.getLsbD 4)

/-- The completion timer in aclk ticks (R411). -/
def cplTimer (devCtl2 : W16) : Nat :=
  let us := match field devCtl2.toNat 0 4 with
    | 0b0001 => 80
    | 0b0010 => 8000
    | 0b0101 => 40000
    | 0b0110 => 160000
    | 0b1001 => 700000
    | 0b1010 => 3000000
    | 0b1101 => 10000000
    | 0b1110 => 50000000
    | _ => 16000
  us * ticksPerUs

/-- Device reads of host memory that may be outstanding (R399). -/
def maxReads : Nat := 512

/-- Max Read Request Size in force: Device Control bits 14:12, honoured up to 4,096 B (R399). -/
def State.mrrs (s : State) : Nat := min 4096 (128 * 2 ^ field s.porch.cfg.devCtl.toNat 12 3)

/-- Issues a read request under a new tag, or leaves it waiting while 512 are outstanding (R399, R411, R412). -/
def State.issueRead (s : State) (what : ReadFor) (a : W64) (len off : Nat) (again : Bool) : State :=
  if maxReads ≤ s.porch.reads.length then
    { s with porch := { s.porch with backlog := s.porch.backlog ++ [.read what a len off again] } }
  else
    let r : DevRead := { tag := s.porch.nextTag, what := what, addr := a, len := len, off := off, again := again,
                         stale := false, issued := s.now, timer := cplTimer s.porch.cfg.devCtl2 }
    { s with porch := { s.porch with reads := s.porch.reads ++ [r], nextTag := s.porch.nextTag + 1 },
             out := s.out ++ [.read s.porch.nextTag a len] }

/-- One request of a read of host memory: issued, or held while Bus Master Enable is 0 (R414). -/
def State.readPiece (s : State) (what : ReadFor) (a : W64) (len off : Nat) (again : Bool) : State :=
  if s.glb.stopped || s.porch.lost then s
  else if s.porch.cfg.bme then s.issueRead what a len off again
  else { s with porch := s.porch.hold (.read what a len off again) }

/-- The requests of a read of `len` bytes: offset and length of each, at most Max Read Request Size (R399). -/
def readCuts (mrrs len : Nat) : List (Nat × Nat) :=
  (List.range ((len + mrrs - 1) / mrrs)).map (fun i => (i * mrrs, min mrrs (len - i * mrrs)))

/-- A read of host memory, cut at Max Read Request Size (R399, R412). -/
def State.hostRead (s : State) (what : ReadFor) (a : W64) (len : Nat) : State :=
  (readCuts s.mrrs len).foldl (fun s c => s.readPiece what (a + BitVec.ofNat 64 c.1) c.2 c.1 false) s

/-- A waiting or held request reads that. -/
def Held.isFor (h : Held) (w : ReadFor) : Bool :=
  match h with
  | .read x _ _ _ _ => x == w
  | _ => false

/-- What is left of a read that failed is given up: data still to come are discarded, requests not issued are dropped. -/
def Porch.dropWhat (p : Porch) (w : ReadFor) : Porch :=
  { p with reads := p.reads.map (fun r => if r.what = w then { r with stale := true } else r),
           backlog := p.backlog.filter (fun h => !h.isFor w), queue := p.queue.filter (fun h => !h.isFor w),
           parts := p.parts.filter (fun x => x.1 != w) }

/-- A vector owes a message after the records written so far (R76, R417). -/
def State.oweMsi (s : State) (v : Nat) : State :=
  if s.ras.replay.isSome then s else { s with porch := { s.porch with owed := setBit s.porch.owed v } }

/-! ## The RAS log (R476) and PORCH_ERR (R422) -/

/-- What a log entry says (R476). -/
structure LogEntry where
  status : W32
  unit : Nat := 0
  attempt : Nat := 0
  index : Nat := 0
  action : Nat := 0
  job : Nat := 0xFF
  graph : Nat := 0xFFFF
  task : Nat := 0
  beats : Nat := 0
  ctx : W32 := 0
  addr : Nat := 0
  frec : List Byte := []

/-- The 128 bytes of an entry (R476). -/
def LogEntry.bytes (e : LogEntry) (lseq : W32) (t : W64) : List Byte :=
  le32 e.status ++ le32 lseq ++ le64 t ++ leBytes 1 e.unit ++ leBytes 1 e.attempt ++ leBytes 2 e.index
    ++ leBytes 1 e.action ++ leBytes 1 e.job ++ leBytes 2 e.graph ++ leBytes 2 e.task
    ++ leBytes 2 (min e.beats 0xFFFF) ++ le32 e.ctx ++ leBytes 8 e.addr ++ padTo 48 e.frec
    ++ List.replicate 40 0

/-- Number of entries the log holds (R476). -/
def rasDepth : Nat := 1024

/-- An entry enters the circular log; one overwritten before ACK passed it is counted (R476, R481). -/
def Ras.append (r : Ras) (b : List Byte) : Ras :=
  let e : RasEntry := { lseq := r.head, bytes := b }
  let r := { r with head := r.head + 1 }
  if r.log.length < rasDepth then { r with log := r.log ++ [e] }
  else match r.log with
    | [] => { r with log := [e] }
    | o :: rest =>
      { r with log := rest ++ [e],
               lost := if (o.lseq - r.ack).toNat < 2 ^ 31 then satAdd r.lost 1 else r.lost }

/-- AER status bits that internal errors raise (R421; bit places are PCI Express's own, PRESUMED). -/
def aerCorInternal : Nat := 14
def aerUncInternal : Nat := 22

/-- The place of Unsupported Request among the uncorrectable errors. -/
def aerUnsupported : Nat := 20

/-- An uncorrectable error: its AER bit, and the bits that Device Status and Status keep of it (R401, R421; PRESUMED, log entry
123). -/
def Porch.aerUnc (p : Porch) (i : Nat) : Porch :=
  let c := p.cfg
  let d := setBit c.devStatus (if c.aerUncSev.getLsbD i then 2 else 1)
  { p with cfg := { c with
      aerUnc := setBit c.aerUnc i,
      devStatus := if i = aerUnsupported then setBit d 3 else d,
      status := if c.serr && !c.aerUncMask.getLsbD i then setBit c.status 14 else c.status } }

/-- A correctable error (R421). -/
def Porch.aerCor (p : Porch) (i : Nat) : Porch :=
  { p with cfg := { p.cfg with aerCor := setBit p.cfg.aerCor i, devStatus := setBit p.cfg.devStatus 0 } }

/-- A log entry is written, and its event message owed when evt_mask selects its class (R476, R421). -/
def State.log (s : State) (e : LogEntry) : State :=
  let c := Code.cls e.status
  let s := { s with ras := s.ras.append (e.bytes s.ras.head s.now) }
  let s := if c = 4 then { s with porch := s.porch.aerUnc aerUncInternal }
    else if c = 1 && field e.status.toNat 12 4 == 8 then { s with porch := s.porch.aerCor aerCorInternal }
    else s
  if 1 ≤ c && s.ras.evtMask.getLsbD (c - 1) then s.oweMsi s.porch.evtVec.toNat else s

/-- PORCH_ERR latches the first host-interface code since its last read (R423). `ring` is the ring that issued
the read, for the codes of R412 and R413. -/
def State.porchLatch (s : State) (code : W32) (ring : Option Nat) : State :=
  if s.porch.errValid then s
  else { s with porch := { s.porch with errValid := true, errCode := Code.low code, errPend := ring } }

/-- A host-interface code: latched and logged (R422, R423). -/
def State.porchErr (s : State) (code : W32) (ring : Option Nat) : State :=
  let ctx : W32 := match ring with
    | some r => BitVec.ofNat 32 (2 ^ 31 + r)
    | none => 0
  (s.porchLatch code ring).log { status := code, unit := 9, ctx := ctx }

/-- Every open view begins to close (R318: when the device leaves SERVING). -/
def State.closeViews (s : State) : State :=
  { s with video := { s.video with views := s.video.views.map (fun v => (v.1, { v.2 with closing := true })) } }

/-- A FATAL code: logged, outputs stopped, the device HELD (R474, R498). -/
def State.fatal (s : State) (e : LogEntry) : State :=
  let s := s.log { e with action := 5 }
  if s.glb.dev == .serving || s.glb.dev == .maintenance || s.glb.dev == .draining then
    let s := s.closeViews
    { s with glb := { s.glb with dev := .held, reason := .fatal, cause := Code.low e.status, stopped := true } }
  else s

/-! ## Rings and packets in execution -/

/-- The number that stands for the mailbox where a ring is named. -/
def mboxRing : Nat := 0x100000

/-- The ring a source names. -/
def srcRing : Src → Nat
  | .ring r => r.toNat
  | .mailbox => mboxRing

def State.ringCtx (s : State) (r : Nat) : Option RingCtx := tget s.ring.ctx r

def State.modRing (s : State) (r : Nat) (f : RingCtx → RingCtx) : State :=
  { s with ring := { s.ring with ctx := tmod s.ring.ctx r f } }

/-- A ring of a kind that is ACTIVE. -/
def State.activeRing (s : State) (r : Nat) (k : RingKind) : Bool :=
  match s.ringCtx r with
  | some c => c.kind == k && c.state == .active
  | none => false

/-- The packets in execution of a ring, or of the mailbox. -/
def State.opsOf (s : State) (r : Nat) : List Op :=
  if r = mboxRing then s.hearth.mbox.toList
  else match s.ringCtx r with
    | some c => c.ops
    | none => []

def State.findOp (s : State) (r id : Nat) : Option Op := (s.opsOf r).find? (fun o => o.id == id)

def State.modOp (s : State) (r id : Nat) (f : Op → Op) : State :=
  if r = mboxRing then { s with hearth := { s.hearth with mbox := s.hearth.mbox.map f } }
  else s.modRing r (fun c => { c with ops := c.ops.map (fun o => if o.id = id then f o else o) })

/-- The packet its unit takes next: the first of the source not yet taken up (R39, R74). -/
def State.nextOp (s : State) (src : Src) : Option Op :=
  (s.opsOf (srcRing src)).find? (fun o => !o.started && o.fin.isNone)

/-- Energy in fJ as a record states it: µJ, rounded to the nearest, saturating (R70, R494). -/
def microJoule (fj : Nat) : W32 := satNat 32 ((fj + 500000000) / 1000000000)

/-- The 32 bytes of a completion record, phase not yet set (R70). -/
def Op.record (o : Op) (f : Fin) : List Byte :=
  le32 f.status ++ le32 o.seq ++ le64 o.tag ++ le64 f.timestamp ++ le32 f.energy ++ le16 f.slips
    ++ leBytes 2 (2 * bit f.held + 4 * bit (o.flags.getLsbD 0))

/-- The oldest packet of a ring has finished: its record is writable from now on (R74). -/
def State.noteReady (s : State) (r : Nat) : State :=
  if ((s.opsOf r).head?.any (fun o => o.fin.isSome)) && !s.ring.ready.contains r then
    { s with ring := { s.ring with ready := s.ring.ready ++ [r] } }
  else s

/-- The operation of a packet finishes (R70): its record waits for its turn, and one that recovery delays says so (R78). A
mailbox packet's record goes to HEARTH_MBOX_CPL at once (R512, R514). -/
def State.finishOp (s : State) (r id : Nat) (status : W32) (slips : W16) (energy : Nat) (held : Bool) : State :=
  match s.findOp r id with
  | none => s
  | some o =>
    let f : Fin := { status := status, timestamp := s.now, energy := microJoule energy, slips := slips, held := held }
    if r = mboxRing then
      { s with hearth := { s.hearth with mboxCpl := o.record f, done := true, mbox := none } }
    else (s.modOp r id (fun o => { o with started := true, waits := false, fin := some f })).noteReady r

/-- The operation finishes with a status and nothing else to report. -/
def State.finish (s : State) (r id : Nat) (status : W32) : State := s.finishOp r id status 0 0 false

/-- The unit takes the packet up and its operation goes on. -/
def State.beginOp (s : State) (r id : Nat) : State := s.modOp r id (fun o => { o with started := true, waits := true })

/-- The source's packets are executed: those of a ring while the device works (R502), the mailbox's also in STARTING and
HELD (R512). -/
def State.takes (s : State) (src : Src) : Bool := srcRing src = mboxRing || s.working

/-- Runs `f` on the packet a source offers next, if it carries the opcode; otherwise nothing happens. -/
def State.withOp (s : State) (src : Src) (opcode : Nat) (f : Op → State → State) : State :=
  match s.nextOp src with
  | some o => if o.opcode = opcode && s.takes src then f o s else s
  | none => s

/-- The shape of most commands: the parameters are checked in order, and the first failing check's code
completes the packet; otherwise `act` gives the effect, and the packet completes with success. -/
def State.checked (s : State) (r : Nat) (o : Op) (checks : List (Bool × W32)) (act : State → State) : State :=
  match checks.find? (fun c => !c.1) with
  | some c => s.finish r o.id c.2
  | none => (act s).finish r o.id Code.ok

/-! ## Metadata records (R65, R84, R366) -/

/-- A metadata record joins the queue of its ring; a FAULTED ring's record is dropped and counted (R84). -/
def State.postMeta (s : State) (r : Nat) (bytes : List Byte) (irq : Bool) : State :=
  match s.ringCtx r with
  | some c =>
    if c.kind != .metadata then s
    else if c.state == .active then
      s.modRing r (fun c => { c with waiting := c.waiting ++ [{ bytes := bytes, irq := irq }] })
    else if c.state == .faulted then { s with ring := { s.ring with dropped := satAdd s.ring.dropped 1 } }
    else s
  | none => s

/-- A producer binds to, or leaves, a METADATA ring (R57, R86). -/
def State.bindRing (s : State) (r : Nat) (up : Bool) : State :=
  s.modRing r (fun c => { c with producers := if up then c.producers + 1 else c.producers - 1 })

/-! ## Rooms and energy -/

def State.room (s : State) (n : Nat) : Room := tgetD s.rooms n Room.reset

def State.modRoom (s : State) (n : Nat) (f : Room → Room) : State :=
  { s with rooms := tup s.rooms n Room.reset f }

/-- `n` events of coefficient `k` enter the interval's model energy, at the P-state in force (R493). -/
def State.count (s : State) (k n : Nat) : State :=
  { s with pwr := { s.pwr with counts := tup s.pwr.counts (k + 16 * s.pwr.pstate.toNat) 0 (· + n) } }

/-- Reference voltage of a P-state in mV (R485). -/
def refMv (p : Nat) : Nat := 850 - 25 * p

/-- Energy in fJ of `n` events of coefficient `k`, by the coefficients in PWR_COEF (R493). -/
def State.energyOf (s : State) (k n : Nat) : Nat :=
  let v := refMv s.pwr.pstate.toNat
  (s.pwr.coef.getD k 0).toNat * n * v * v / (850 * 850)

/-- Energy of the device that belongs to no job (R494). -/
def State.deviceEnergy (s : State) (fj : Nat) : State :=
  { s with pwr := { s.pwr with eDevice := s.pwr.eDevice + fj } }

/-- Energy in fJ is added to a job's total and to the device's (R494). -/
def State.jobEnergy (s : State) (j fj : Nat) : State :=
  { s with pwr := { s.pwr with eJob := tup s.pwr.eJob j 0 (· + fj), eDevice := s.pwr.eDevice + fj } }

end Sys2Proof.Machine
end

