-- ==== Sys2Proof/Machine/MetaRec.lean ====
section
/-!
DEFINITION. The 64-byte metadata records (R366, R369 to R374).
-/
namespace Sys2Proof.Machine

/-- Kinds of records (R366). -/
def kindTrack : Nat := 1
def kindSpeaker : Nat := 2
def kindToken : Nat := 3
def kindText : Nat := 4
def kindFraming : Nat := 5
def kindStatus : Nat := 6
def kindQuality : Nat := 7

/-- A record with its header; the phase bit is set when it is written (R71, R366). `held` is bit 1, `last` bit 2 and
`seq` bit 3 of mflags. -/
def metaRec (kind : Nat) (held last seq : Bool) (src : Nat) (num : W32) (tag : W64) (body : List Byte) : List Byte :=
  leBytes 1 kind ++ leBytes 1 (2 * bit held + 4 * bit last + 8 * bit seq) ++ leBytes 2 src ++ le32 num ++ le64 tag
    ++ padTo 48 body

/-- Body of a STREAM_STATUS record (R373). -/
def statusBody (status : W32) (pos : W64) (row rows pauseUs : Nat) : List Byte :=
  le32 status ++ [0, 0, 0, 0] ++ le64 pos ++ leBytes 2 row ++ leBytes 2 rows ++ leBytes 4 (min pauseUs 0xFFFFFFFF)

/-- Body of a QUALITY record (R374). -/
def qualityBody (graph index room : Nat) (share : W16) (clip conv : Nat) : List Byte :=
  leBytes 2 (graph % 4096) ++ leBytes 2 index ++ leBytes 2 room ++ le16 share ++ leBytes 4 (min clip 0xFFFFFFFF)
    ++ leBytes 4 (min conv 0xFFFFFFFF)

end Sys2Proof.Machine
end

