-- ==== Sys2Proof/Machine/Grid.lean ====
section
/-!
DEFINITION. The logical grid: fuse load, spares, Hallway detours and substitution (R22 to R33, R53, R470).
-/
namespace Sys2Proof.Machine

/-- Physical column and row of physical Room `p` (R22). -/
def physXY (p : Nat) : Nat × Nat := (p / 8 % 8, 8 * (p / 64) + p % 8)

/-- The group behind a logical index (R23). -/
def groupOf (e n : Nat) : Nat := n / 8 / e * 8 + n % 8

/-- The good Rooms of a group, lowest position first. -/
def goodOf (good : BitVec 128) (g : Nat) : List Nat :=
  ((List.range 8).map (fun k => 8 * g + k)).filter (fun p => good.getLsbD p)

/-- Every group has at least E good Rooms (R500 step 1). -/
def gridOk (e : Nat) (good : BitVec 128) : Bool := (List.range 16).all (fun g => decide (e ≤ (goodOf good g).length))

/-- The physical Room of each logical index at fuse load (R24). -/
def fuseMap (e : Nat) (good : BitVec 128) : List Nat :=
  (List.range (16 * e)).map (fun n => (goodOf good (groupOf e n)).getD (n / 8 % e) 0)

/-- The steps from `a` towards `b`, as nodes reached. -/
def walk : Nat → Nat → Nat → List Nat
  | 0, _, _ => []
  | fuel + 1, a, b =>
    if a < b then (a + 1) :: walk fuel (a + 1) b
    else if b < a then (a - 1) :: walk fuel (a - 1) b
    else []

/-- The nodes of a candidate path from physical Room `p` to `q` (R33): along the row of `p` and then the column, or
the column first. -/
def pathNodes (p q : Nat) (colFirst : Bool) : List (Nat × Nat) :=
  let (x, y) := physXY p
  let (u, v) := physXY q
  if colFirst then (x, y) :: ((walk 16 y v).map (fun j => (x, j)) ++ (walk 8 x u).map (fun i => (i, v)))
  else (x, y) :: ((walk 8 x u).map (fun i => (i, y)) ++ (walk 16 y v).map (fun j => (u, j)))

/-- The link directions a path uses, both ways (R33): from node, to node. -/
def pathLinks : List (Nat × Nat) → List ((Nat × Nat) × (Nat × Nat))
  | a :: b :: r => (a, b) :: (b, a) :: pathLinks (b :: r)
  | _ => []

/-- The link directions of a placed flow. -/
def Grid.flowLinks (g : Grid) (f : Flow) : List ((Nat × Nat) × (Nat × Nat)) :=
  pathLinks (pathNodes (g.phys.getD f.origin 0) (g.phys.getD f.other 0) f.colFirst)

/-- A candidate is free: at most 9 hops, and on no link direction of a placed flow (R33). -/
def Grid.flowFits (g : Grid) (f : Flow) : Bool :=
  let nodes := pathNodes (g.phys.getD f.origin 0) (g.phys.getD f.other 0) f.colFirst
  let used := g.flows.flatMap g.flowLinks
  decide (nodes.length ≤ 10) && (pathLinks nodes).all (fun l => !used.contains l)

/-- Places a flow on the first candidate that fits (R33). -/
def Grid.placeFlow (g : Grid) (origin other : Nat) : Option Grid :=
  let a : Flow := { origin := origin, other := other, colFirst := false }
  let b : Flow := { origin := origin, other := other, colFirst := true }
  if g.flowFits a then some { g with flows := g.flows ++ [a] }
  else if g.flowFits b then some { g with flows := g.flows ++ [b] }
  else none

/-- Places several flows from one origin in order, or none of them. -/
def Grid.placeFlows (g : Grid) (origin : Nat) : List Nat → Option Grid
  | [] => some g
  | o :: r => (g.placeFlow origin o).bind (fun g => g.placeFlows origin r)

/-- East–west logical neighbours in different physical rows, by ascending origin: the fuse-time flows (R31, R33). -/
def fusePairs (phys : List Nat) : List Nat :=
  (List.range phys.length).filter (fun n =>
    n % 8 != 7 && (physXY (phys.getD n 0)).2 != (physXY (phys.getD (n + 1) 0)).2)

/-- The grid at fuse load (R24, R33). A flow that fits no path is left out: such parts do not ship (R33). -/
def fuseGrid (e : Nat) (good : BitVec 128) : Grid :=
  let bad := (List.range 128).filter (fun p => !good.getLsbD p)
  let g : Grid := { phys := fuseMap e good, subst := [], lost := [], bad := bad, flows := [] }
  (fusePairs g.phys).foldl (fun g n => (g.placeFlow n (n + 1)).getD g) g

/-- The spares of a group: Rooms that are good, not retired and hold no position (R24, R26). -/
def Grid.spares (g : Grid) (grp : Nat) : List Nat :=
  ((List.range 8).map (fun k => 8 * grp + k)).filter (fun p => !g.bad.contains p && !g.phys.contains p)

/-- Spares left in the device (R53, R481). -/
def Grid.spareCount (g : Grid) : Nat :=
  if g.phys.isEmpty then 0 else ((List.range 16).map (fun i => (g.spares i).length)).sum

/-- The logical neighbours of a position in the order north, south, east, west (R33). -/
def Grid.neighbours (g : Grid) (n : Nat) : List Nat :=
  let rows := g.phys.length / 8
  (if 8 ≤ n then [n - 8] else []) ++ (if n / 8 + 1 < rows then [n + 8] else [])
    ++ (if n % 8 < 7 then [n + 1] else []) ++ (if 0 < n % 8 then [n - 1] else [])

/-- Stands spare `p` in at position `n`, if its detours can be placed (R26, R33). A lost neighbour has no Room, and no flow is
placed to it; the spec is silent on such flows (DESIGN CHOICE, log entry 124). -/
def Grid.trySpare (g : Grid) (n p : Nat) : Option Grid :=
  let old := g.phys.getD n 0
  let g' : Grid :=
    { phys := lset g.phys n p, subst := if g.subst.contains n then g.subst else g.subst ++ [n],
      lost := g.lost, bad := g.bad ++ [old],
      flows := g.flows.filter (fun f => f.origin != n && f.other != n) }
  g'.placeFlows n ((g'.neighbours n).filter (fun m => !g.lost.contains m))

/-- Substitution at position `n`: the spare at the lower position first (R26); none where no spare can be placed. -/
def Grid.substitute (g : Grid) (e n : Nat) : Option Grid :=
  (g.spares (groupOf e n)).findSome? (fun p => g.trySpare n p)

/-- Retirement of position `n` without substitution (R470). Flows already placed with an end there stay placed and keep their links
(DESIGN CHOICE, log entry 124). -/
def Grid.lose (g : Grid) (n : Nat) : Grid :=
  { g with lost := if g.lost.contains n then g.lost else g.lost ++ [n],
           bad := if g.bad.contains (g.phys.getD n 0) then g.bad else g.bad ++ [g.phys.getD n 0] }

/-- A logical neighbour of the position is reached by bypass or by Hallway detour (R31, R53). -/
def Grid.detour (g : Grid) (n : Nat) : Bool :=
  let (x, y) := physXY (g.phys.getD n 0)
  (g.neighbours n).any (fun m =>
    let (u, v) := physXY (g.phys.getD m 0)
    g.subst.contains n || g.subst.contains m || !(decide (x = u) && (v = y + 1 || y = v + 1) || decide (y = v)))

/-- GLOBAL_ROOMMAP[n] (R53). -/
def Grid.mapWord (g : Grid) (n : Nat) : Nat :=
  if n < g.phys.length then
    2 ^ 31 + 256 * bit (g.detour n) + 128 * bit (g.subst.contains n) + g.phys.getD n 0
  else 0

end Sys2Proof.Machine
end

