-- ==== Sys2Proof/Machine/Domains.lean ====
section
/-!
DEFINITION. Power domains: what keeps them on, and switching on (R488, R489).
-/
namespace Sys2Proof.Machine

def domAttic : List Nat := (List.range 8).map (· + 16)
def domViews : Nat := 33
def domCapture : Nat := 38
def domTracker : Nat := 39
def domDebug : Nat := 40

/-- Room groups of the Suites of open jobs. -/
def State.jobGroups (s : State) : List Nat :=
  s.plan.jobs.flatMap (fun j =>
    (List.range j.2.h).flatMap (fun y => (List.range j.2.w).map (fun x =>
      groupOf s.part.e (8 * (j.2.y + y) + j.2.x + x))))

/-- Logical Rooms of the Suites of open jobs, each once. -/
def State.jobRooms (s : State) : List Nat :=
  (s.plan.jobs.flatMap (fun j =>
    (List.range j.2.h).flatMap (fun y => (List.range j.2.w).map (fun x => 8 * (j.2.y + y) + j.2.x + x)))).eraseDups

/-- A packet of the capture unit is executing. -/
def State.capturing (s : State) : Bool :=
  s.ring.ctx.any (fun c => c.2.ops.any (fun o =>
    (o.opcode = 0x60 || o.opcode = 0x61) && o.fin.isNone && o.payload != .unread))

/-- The condition of a domain holds (R488). -/
def State.domainNeeded (s : State) (d : Nat) : Bool :=
  if d < 16 then s.jobGroups.contains d
  else if d < 24 then s.plan.jobs.any (fun j => j.2.attic != 0)
  else if d < 33 then
    !s.video.streams.isEmpty && (s.video.dec.getLsbD (2 * (d - 24)) || s.video.dec.getLsbD (2 * (d - 24) + 1))
  else if d = domViews then !s.video.views.isEmpty
  else if d < 38 then
    [2 * (d - 34), 2 * (d - 34) + 1].any (fun p => (s.fab.ports.getD p Port.reset).state != .disabled)
  else if d = domCapture then s.plan.jobs.any (fun j => j.2.dict.isSome) || s.capturing
  else if d = domTracker then !s.track.parts.isEmpty
  else d = domDebug && s.part.debug

/-- Switches on every domain that is needed, and those named (R489). -/
def State.powerUp (s : State) (more : List Nat) : State :=
  let on := ((List.range 41).filter s.domainNeeded ++ more).foldl setBit s.pwr.domains
  { s with pwr := { s.pwr with domains := on, idle := s.pwr.idle.filter (fun p => !s.domainNeeded p.1) } }

/-- The time from which a domain is no longer needed is noted (R489). -/
def State.noteIdle (s : State) : State :=
  { s with pwr := { s.pwr with idle := (List.range 41).filterMap (fun d =>
      if s.pwr.domains.getLsbD d && !s.domainNeeded d then some (d, tgetD s.pwr.idle d s.now) else none) } }

end Sys2Proof.Machine
end

