-- ==== Sys2Proof/Machine/Packets.lean ====
section
/-!
DEFINITION. Command packets: their layouts, fetch, dispatch, completion and metadata records (R63 to R92, R366,
R367, R459, R477 to R480).
-/
namespace Sys2Proof.Machine

/-! ## Layouts (R8, R66, R68, R69) -/

/-- The opcodes of R69. -/
def opcodes : List Nat :=
  [0x01, 0x02, 0x03, 0x10, 0x11, 0x20, 0x21, 0x22, 0x23, 0x30, 0x31, 0x32, 0x33, 0x34, 0x35, 0x40, 0x41, 0x42,
   0x50, 0x51, 0x52, 0x53, 0x54, 0x60, 0x61, 0x70, 0x80, 0x81, 0xF0, 0xF1, 0xF2]

/-- The len that an opcode's owner defines, in slots, from the packet's own counts. -/
def lenOk (op : Nat) (b : List Byte) (len : Nat) : Bool :=
  match op with
  | 0x22 | 0x23 =>                                  -- R288: BUF_PARAM is reported before a wrong len
    let n := rd b 16 2
    n = 0 || 1024 < n || (op = 0x23 && rd b 18 2 = 0) || len == 1 + ceilDiv n 8
  | 0x32 => len == 1 + ceilDiv (rd b 20 2) 8        -- R116
  | 0x40 => len == if rd8 b 48 = 0 then 1 else 2    -- R248
  | 0x42 => len == 2 + ceilDiv (rd b 20 2) 8        -- R251
  | 0x50 => len == 2 + ceilDiv (rd b 34 2) 8        -- R299
  | 0x80 | 0x81 => len == 2                         -- R436, R437
  | _ => len == 1

/-- Reserved bytes of an opcode's parameters, as offset and length; the last entry of each runs to the end of
the opcode's last slot. -/
def reservedBytes (op : Nat) (b : List Byte) : List (Nat × Nat) :=
  let last := 64 * (rd8 b 3).toNat
  let tail (o : Nat) : List (Nat × Nat) := [(o, last - o)]
  match op with
  | 0x01 => tail 16
  | 0x02 => (20, 4) :: tail 32
  | 0x03 => (17, 7) :: tail 32
  | 0x10 => (38, 2) :: tail 44
  | 0x11 => tail 20
  | 0x20 => [(19, 1), (28, 4)] ++ tail 40
  | 0x21 => (17, 1) :: tail 32
  | 0x22 => (18, 46) :: tail (64 + 8 * rd b 16 2)
  | 0x23 => (20, 44) :: tail (64 + 8 * rd b 16 2)
  | 0x30 => tail 32
  | 0x31 => (19, 1) :: tail 19
  | 0x32 => [(22, 2), (56, 8)] ++ tail (64 + 8 * rd b 20 2)
  | 0x33 => [(23, 1), (26, 2)] ++ tail 32
  | 0x34 => tail 17
  | 0x35 => tail 18
  | 0x40 => (49, 15) :: (if rd8 b 48 = 0 then [] else tail (64 + 4 * min 16 (rd b 48 1)))
  | 0x41 => tail 19
  | 0x42 => tail (128 + 8 * rd b 20 2)              -- R271: the table's own reserved fields give STEP_PARAM
  | 0x50 => [(38, 2), (44, 4), (56, 8), (96, 32)] ++ tail (128 + 8 * rd b 34 2)
  | 0x51 => tail 40
  | 0x52 => tail 18
  | 0x53 => (37, 1) :: tail 60
  | 0x54 => tail 17
  | 0x60 => []
  | 0x61 => (18, 2) :: tail 32
  | 0x70 => if rd8 b 16 = 1 then [(17, 1), (19, 1)] ++ tail 24 else (25, 1) :: tail 36
  | 0x80 => [(22, 2), (32, 32)] ++ tail 113
  | 0x81 => (26, 38) :: tail 128
  | 0xF0 => tail 32
  | 0xF1 => tail 16
  | 0xF2 => tail 32
  | _ => []

/-- Reserved high bits of a parameter: offset, bytes, first reserved bit. -/
def reservedBits (op : Nat) (b : List Byte) : List (Nat × Nat × Nat) :=
  match op with
  | 0x10 | 0x11 => [(16, 4, 20)]
  | 0x40 => [(20, 4, 20)]                           -- R271: bits 15:14 of seq are SEQ_ID
  | 0x50 => [(20, 4, 20)]                           -- R327: bits 15:10 of stream are VID_STREAM_ID
  | 0x51 => [(19, 1, 1)]
  | 0x60 => [(16, 2, 12), (19, 1, 1)]
  | 0x70 => if rd8 b 16 = 1 then [(20, 4, 20)] else [(17, 1, 3)]
  | 0x81 => [(23, 1, 1)]
  | _ => []

/-- No reserved flag bit, byte or bit of the packet is set (R8, R66). -/
def reservedOk (op : Nat) (b : List Byte) : Bool :=
  decide ((rd8 b 2).toNat < 8)
    && (reservedBytes op b).all (fun p => zeroAt b p.1 p.2)
    && (reservedBits op b).all (fun p => decide (rd b p.1 p.2.1 < 2 ^ p.2.2))

/-- The checks of a packet at dispatch, in the order len = 0, opcode, length, reserved (R68; the order of the
last three is log entry 8). `admin` tells whether the packet came from ring 0 (R56). Under COMPAT a broken
reserved rule is PKT_COMPAT (R90). -/
def packetFault (compat admin : Bool) (b : List Byte) : Option W32 :=
  let op := rd b 0 2
  let len := (rd8 b 3).toNat
  if len = 0 then some Code.pktZeroLen
  else if !opcodes.contains op || ((op = 0x10 || op = 0x11) && !admin) then some Code.pktOpcode
  else if !lenOk op b len then some Code.pktLength
  else if !reservedOk op b then some (if compat then Code.pktCompat else Code.pktReserved)
  else none

/-- A 48-byte-slot packet in the 64-byte form (R92). Flag bits above FENCE are kept out of range, so that
they stay a broken reserved rule. -/
def fromCompat (b : List Byte) : List Byte :=
  let len := (rd8 b 3).toNat
  let fl := (rd8 b 2).toNat
  let flags := fl % 4 + (if fl < 4 then 0 else 8)
  let nlen := if len = 0 then 0 else ceilDiv (48 * len + 4) 64
  padTo (64 * max nlen 1)
    (leBytes 2 (rd b 0 2) ++ leBytes 1 flags ++ leBytes 1 nlen ++ slice b 4 4 ++ slice b 8 4
      ++ List.replicate 4 0 ++ slice b 12 (48 * len - 12))

/-! ## Fetch (R63, R64, R67, R79 to R83) -/

/-- Bytes of a COMMAND slot (R54, R91). -/
def State.slotSize (s : State) : Nat := if s.glb.compat then 48 else 64

/-- Address of the slot of an index (R58). -/
def RingCtx.slotAddr (c : RingCtx) (size : Nat) (i : W32) : Nat :=
  c.base.toNat + size * (i.toNat % 2 ^ c.log2Size)

/-- Announced slots not yet consumed: P − C (R58). -/
def RingCtx.occupancy (c : RingCtx) : Nat := (c.pidx - c.cidx).toNat

/-- A fault entry in the place of a packet: it completes with the code after every earlier packet (R80, R81).
`head` is the faulting packet's first slot, or empty for a fault no packet can report. -/
def RingCtx.faultEntry (c : RingCtx) (code : W32) (head : List Byte) : Fetched :=
  { idx := c.cidx,
    bytes := if head.isEmpty then padTo 64 (List.replicate 4 0 ++ le32 c.seqNext) else padTo 64 head,
    bell := (c.bells.head?.map (·.2)).getD 0, fault := code }

/-- A COMMAND ring faults: its fetching stops and the record of the fault takes its turn (R80, R81). Where a packet being read
fails with a DB_OVERRUN pending behind it, the ring has one fault: the packet's, and the DB_OVERRUN gets no record (DESIGN
CHOICE, log entry 121). -/
def RingCtx.cmdFault (c : RingCtx) (code : W32) (head : List Byte) : RingCtx :=
  { c with state := .faulted, fault := code, faultIdx := c.cidx, reading := false, head := [], pendFault := 0,
           fetched := c.fetched ++ [c.faultEntry code head] }

/-- The doorbells up to the one that first covers the `n` slots from C, and that one's time (R459). -/
def bellFor (bells : List (W32 × W64)) (cidx : W32) (n : Nat) (now : W64) : List (W32 × W64) × W64 :=
  match bells with
  | [] => ([], now)
  | (p, t) :: r => if n ≤ (p - cidx).toNat then ((p, t) :: r, t) else bellFor r cidx n now

/-- A wholly fetched packet joins the ring's undispatched packets; C and the expected seq move on (R66, R68).
C advances here (log entry 9). A DB_OVERRUN that came meanwhile follows it (R81). -/
def RingCtx.deliver (c : RingCtx) (bytes : List Byte) (compat : Bool) (n : Nat) (now : W64) : RingCtx :=
  let (bells, t) := bellFor c.bells c.cidx n now
  let native := if compat then fromCompat bytes else bytes
  let c' := { c with bells := bells, cidx := c.cidx + BitVec.ofNat 32 n, seqNext := c.seqNext + 1, reading := false,
                     head := [],
                     fetched := c.fetched ++ [{ idx := c.cidx, bytes := native, bell := t, fault := 0 }] }
  if c'.pendFault = 0 then c' else c'.cmdFault c'.pendFault []

/-- The first slot of a packet in the 64-byte form (R92). -/
def nativeHead (compat : Bool) (b : List Byte) : List Byte := if compat && !b.isEmpty then fromCompat b else b

/-- The first slot has been read: seq is checked first, then len against the ring (R67); a one-slot packet is
delivered, a longer one waits for its other slots (R64). -/
def RingCtx.gotHead (c : RingCtx) (b : List Byte) (compat : Bool) (now : W64) : RingCtx :=
  let len := (rd8 b 3).toNat
  if rd32 b 4 != c.seqNext then c.cmdFault Code.pktSequence (nativeHead compat b)
  else if 2 ^ c.log2Size < len then c.cmdFault Code.pktLenRing (nativeHead compat b)
  else if len ≤ 1 then c.deliver b compat 1 now
  else
    let c := { c with reading := false, head := b }
    if c.pendFault != 0 && c.occupancy < len then c.cmdFault c.pendFault [] else c

/-- The ring still reads slots: ACTIVE, or faulted by DB_OVERRUN behind the packet being read (R81). -/
def RingCtx.fetching (c : RingCtx) : Bool := c.state == .active || (c.state == .faulted && c.pendFault != 0)

/-- A ring's slots being read: a read is outstanding, or the head is read and the rest is announced (R81). -/
def RingCtx.busy (c : RingCtx) : Bool :=
  c.reading || (!c.head.isEmpty && decide ((rd8 c.head 3).toNat ≤ c.occupancy))

/-- The slots `[i, i + n - 1]` of a ring in HBM, wrapping past its last slot (R66). -/
def State.hbmSlots (s : State) (c : RingCtx) (i : W32) (n : Nat) : List Byte :=
  (List.range n).flatMap (fun k => s.hbmRead (c.slotAddr s.slotSize (i + BitVec.ofNat 32 k)) s.slotSize)

/-- Any of those slots reports MEM_UE (R464). -/
def State.hbmSlotsBad (s : State) (c : RingCtx) (i : W32) (n : Nat) : Bool :=
  (List.range n).any (fun k => s.poisoned (c.slotAddr s.slotSize (i + BitVec.ofNat 32 k)) s.slotSize)

/-- Slots of the packet being read that are here. -/
def RingCtx.haveSlots (c : RingCtx) (size : Nat) : Nat := c.head.length / size

/-- Slots that the next read of the packet's rest covers: up to its end, or to the ring's last slot (R66). -/
def RingCtx.nextSlots (c : RingCtx) (size : Nat) : Nat :=
  min ((rd8 c.head 3).toNat - c.haveSlots size)
    (2 ^ c.log2Size - (c.cidx.toNat + c.haveSlots size) % 2 ^ c.log2Size)

/-- PACKET_FETCH (R64): the ring manager reads the next part of the packet at C. A ring in HBM gives it at once;
for one in host memory a device read is issued. A packet that wraps past the ring's last slot is read in two reads
after its first slot (log entry 10). -/
def State.fetch (s : State) (r : Nat) : State :=
  match s.ringCtx r with
  | none => s
  | some c =>
    if c.kind != .command || !c.fetching || c.reading || c.occupancy = 0 || !s.serving then s
    else if c.head.isEmpty then
      if c.hbm then
        if s.hbmSlotsBad c c.cidx 1 then
          (s.modRing r (fun c => c.cmdFault Code.memUe [])).log
            { status := Code.memUe, unit := 11, ctx := BitVec.ofNat 32 (2 ^ 31 + r) }
        else s.modRing r (fun _ => c.gotHead (s.hbmSlots c c.cidx 1) s.glb.compat s.now)
      else
        (s.modRing r (fun c => { c with reading := true })).hostRead (.slot r)
          (BitVec.ofNat 64 (c.slotAddr s.slotSize c.cidx)) s.slotSize
    else
      let len := (rd8 c.head 3).toNat
      if c.occupancy < len then s
      else if c.hbm then
        if s.hbmSlotsBad c (c.cidx + 1) (len - 1) then
          (s.modRing r (fun c => c.cmdFault Code.memUe (nativeHead s.glb.compat c.head))).log
            { status := Code.memUe, unit := 11, ctx := BitVec.ofNat 32 (2 ^ 31 + r) }
        else s.modRing r (fun _ => c.deliver (c.head ++ s.hbmSlots c (c.cidx + 1) (len - 1)) s.glb.compat len s.now)
      else
        (s.modRing r (fun c => { c with reading := true })).hostRead (.rest r)
          (BitVec.ofNat 64 (c.slotAddr s.slotSize (c.cidx + BitVec.ofNat 32 (c.haveSlots s.slotSize))))
          (s.slotSize * c.nextSlots s.slotSize)

/-- The data of a fetch read has arrived (R412). -/
def State.fetched (s : State) (r : Nat) (rest : Bool) (d : List Byte) : State :=
  s.modRing r (fun c =>
    if !c.fetching || !c.reading then { c with reading := false }
    else if rest then
      let len := (rd8 c.head 3).toNat
      let b := c.head ++ padTo (s.slotSize * c.nextSlots s.slotSize) d
      if b.length < s.slotSize * len then { c with reading := false, head := b }
      else c.deliver b s.glb.compat len s.now
    else c.gotHead (padTo s.slotSize d) s.glb.compat s.now)

/-- A fetch read has failed for good: the ring faults with the code; a claimed slot's packet carries it
(R79, R81, R412, R413). -/
def State.fetchFailed (s : State) (r : Nat) (code : W32) : State :=
  s.modRing r (fun c => if c.fetching && c.reading then c.cmdFault code (nativeHead s.glb.compat c.head) else c)

/-! ## Recording (R477 to R479) -/

/-- An entry of the recording: header, body, padding to 16 B (R478). -/
def recEntry (kind : Nat) (beat : W64) (body : List Byte) : List Byte :=
  let n := 16 * ceilDiv (16 + body.length) 16
  padTo n (leBytes 1 kind ++ [0, 0, 0] ++ leBytes 4 n ++ le64 beat ++ body)

/-- Appends an entry to the recording in progress; one that does not fit stops it (R479). -/
def State.record (s : State) (kind : Nat) (body : List Byte) : State :=
  match s.ras.recording with
  | none => s
  | some r =>
    let e := recEntry kind s.plan.beat body
    if r.full then s
    else if r.used + e.length ≤ r.size then
      let s := s.dataWrite (r.addr.toNat + r.used) e
      { s with ras := { s.ras with
          recording := some { r with used := r.used + e.length, entries := r.entries + 1 },
          recMib := satNat 30 ((r.used + e.length) / 1048576) } }
    else
      let en := recEntry 5 s.plan.beat (leBytes 4 (r.entries + 1))
      let room := decide (r.used + en.length ≤ r.size)
      let s := if room then s.dataWrite (r.addr.toNat + r.used) en else s
      { s with ras := { s.ras with recording := some { r with full := true } } }

/-! ## Payloads of packets (R406, R412, R413, R478, R480) -/

/-- Bytes of the BAR4/5 window as a unit reads them: 0 at and beyond V (R406). -/
def State.windowBytes (s : State) (a n : Nat) : List Byte :=
  padTo n (s.hbmRead a (min n (s.vBytes - a)))

/-- The payload of a packet: from the BAR4/5 window at once, or from host memory by a device read; in a replay, from the
recording. `k` receives the bytes once they are there. -/
def State.withPayload (s : State) (r : Nat) (o : Op) (hbm : Bool) (a n : Nat)
    (k : List Byte → State → State) : State :=
  match o.payload with
  | .arrived d => k d s
  | .waiting => s
  | .unread =>
    if hbm then
      let d := s.windowBytes a n
      k d (s.record 3 d)
    else
      (s.modOp r o.id (fun o => { o with payload := .waiting })).hostRead
        (if r = mboxRing then .mailbox else .payload r o.id) (BitVec.ofNat 64 a) n

/-- Some block of a window range that a unit reads reports MEM_UE. -/
def State.windowPoisoned (s : State) (a n : Nat) : Bool := s.poisoned a (min n (s.vBytes - a))

/-! ## Dispatch (R39, R56, R66, R68, R75, R459) -/

/-- Unreserved slots of a COMPLETION ring (R75); none unless it is ACTIVE (R82). -/
def State.freeSlots (s : State) (r : Nat) : Nat :=
  match s.ringCtx r with
  | some c => if c.kind == .completion && c.state == .active then 2 ^ c.log2Size - c.occupancy - c.outstanding else 0
  | none => 0

/-- The packet a ring offers for dispatch: not behind a FENCE (R66), with a completion slot to reserve (R75). -/
def State.offer (s : State) (c : RingCtx) : Option Fetched :=
  match c.fetched with
  | [] => none
  | f :: _ =>
    if c.kind != .command || (c.state != .active && c.state != .faulted) then none
    else if (rd8 f.bytes 2).getLsbD 1 && f.fault = 0 && !c.ops.isEmpty then none
    else if s.freeSlots c.bind = 0 then none
    else some f

/-- Class, doorbell time and ring: the order of R459. -/
def dispatchKey (r : Nat) (c : RingCtx) (f : Fetched) : Nat := (c.prio * 2 ^ 64 + f.bell.toNat) * 2 ^ 20 + r

/-- The ring whose packet the Hearth dispatches next (R459). -/
def State.pickRing (s : State) : Option (Nat × Fetched) :=
  let offers := s.ring.ctx.filterMap (fun p => (s.offer p.2).map (fun f => (dispatchKey p.1 p.2 f, p.1, f)))
  (offers.foldl (fun b o => match b with
    | none => some o
    | some x => if o.1 < x.1 then some o else some x) none).map (·.2)

/-- A packet as an operation in execution. -/
def mkOp (id : Nat) (f : Fetched) : Op :=
  let op := rd f.bytes 0 2
  { id := id, idx := f.idx, seq := rd32 f.bytes 4, tag := rd64 f.bytes 8,
    flags := if f.fault = 0 then rd8 f.bytes 2 else rd8 f.bytes 2 &&& 1,
    opcode := op, bytes := f.bytes, started := false, payload := .unread, waits := false, fin := none }

/-- Puts a packet in execution on a ring, reserving its completion slot (R75, R87). -/
def State.startOp (s : State) (r : Nat) (f : Fetched) : State :=
  let id := s.ring.nextOp
  let cpl := match s.ringCtx r with
    | some c => c.bind
    | none => 0
  let s := s.modRing r (fun c => { c with fetched := c.fetched.drop 1, ops := c.ops ++ [mkOp id f],
                                          outstanding := c.outstanding + 1 })
  let s := s.modRing cpl (fun c => { c with outstanding := c.outstanding + 1 })
  { s with ring := { s.ring with nextOp := id + 1 } }

/-- PACKET_DISPATCH (R459): the Hearth dispatches the next packet; one that breaks a packet rule, or stands for
a ring fault, completes at once and nothing else happens (R68, R80). -/
def State.dispatch (s : State) : State :=
  if !s.serving then s
  else match s.pickRing with
    | none => s
    | some (r, f) =>
      let id := s.ring.nextOp
      let s := s.startOp r f
      if f.fault != 0 then s.finish r id f.fault
      else
        let s := s.record 2 (leBytes 4 r ++ f.bytes)
        match packetFault s.glb.compat (r = 0) f.bytes with
        | some code => s.finish r id code
        | none => s

/-! ## Completion records (R70 to R78) -/

/-- The phase bit of index `i` on a ring of 2^`s` slots (R71). -/
def phaseBit (s : Nat) (i : W32) : Nat := 1 - i.toNat / 2 ^ s % 2

/-- Bytes written to a ring slot: in host memory without Relaxed Ordering (R77), or in HBM. -/
def State.ringWrite (s : State) (c : RingCtx) (a : Nat) (b : List Byte) : State :=
  if c.hbm then
    if s.silent then s else s.hbmWrite a b
  else s.hostWrite a b false

/-- The hold buffer has room for another request (R414: 1,024 requests and 256 KiB). -/
def State.holdRoom (s : State) (n : Nat) : Bool :=
  s.porch.cfg.bme ||
    (decide (s.porch.queue.length < 1024) &&
      decide ((s.porch.queue.map (fun h => match h with
        | .write _ d _ => d.length
        | _ => 0)).sum + n ≤ 262144))

/-- Records and results of a replay: compared later (R480). -/
def State.noteResult (s : State) (r : Nat) (idx : W32) (crc : W32) : State :=
  let s := s.record 4 (leBytes 4 r ++ le32 idx ++ le32 crc)
  match s.ras.replay with
  | none => s
  | some p => { s with ras := { s.ras with replay := some { p with results := p.results ++ [(r, idx.toNat, crc)] } } }

/-- A finished packet's record has waited behind an earlier record of its ring (R72). -/
def Op.behind (o : Op) : Op := { o with fin := o.fin.map (fun f => { f with held := true }) }

/-- Takes the oldest packet of a COMMAND ring out of execution, returning its reservation (R75). Where its record is
written, the finished packets behind it have waited for it (R72). -/
def State.retireOp (s : State) (r cpl : Nat) (wrote : Bool) : State :=
  let s := s.modRing r (fun c => { c with ops := (c.ops.drop 1).map (fun o => if wrote then o.behind else o),
                                          outstanding := c.outstanding - 1 })
  let s := s.modRing cpl (fun c => { c with outstanding := c.outstanding - 1 })
  ({ s with ring := { s.ring with ready := s.ring.ready.filter (· != r) } }).noteReady r

/-- No ring that shares the COMPLETION ring has a record that became writable earlier (R74). -/
def State.recordTurn (s : State) (r cpl : Nat) : Bool :=
  (s.ring.ready.takeWhile (· != r)).all (fun q => !(s.ringCtx q).any (fun c => c.bind == cpl))

/-- COMPLETION_RECORD_WRITE (R74): the record of the ring's oldest packet, once finished, goes to its COMPLETION
ring, after those of other rings that became writable before it. A NOCPL success writes none and returns its reservation (R66, R75). A record with IRQ set, or a status
other than success, owes a message (R76). Records are held while the COMPLETION ring is FAULTED (R82). -/
def State.writeRecord (s : State) (r : Nat) : State :=
  match s.ringCtx r with
  | none => s
  | some c =>
    match c.ops with
    | [] => s
    | o :: _ =>
      match o.fin with
      | none => s
      | some f =>
        if s.silent && !s.ras.replay.isSome || !s.holdRoom 32 then s
        else match s.ringCtx c.bind with
          | none => s
          | some k =>
            let quiet := f.status = 0 && o.flags.getLsbD 2
            if k.state != .active || !s.recordTurn r c.bind then s
            else
              let s := s.retireOp r c.bind (!quiet)
              if quiet then s
              else
                let rec0 := o.record f
                let b := rec0.take 30 ++ leBytes 2 (rd rec0 30 2 + phaseBit k.log2Size k.pidx)
                let s := s.ringWrite k (k.slotAddr 32 k.pidx) b
                let s := s.modRing c.bind (fun k => { k with pidx := k.pidx + 1 })
                let s := s.noteResult c.bind k.pidx (crc32c (le32 f.status ++ le32 o.seq ++ le64 o.tag))
                if o.flags.getLsbD 0 || f.status != 0 then s.oweMsi k.vector else s

/-- METADATA_RECORD_WRITE (R367): the oldest waiting record of a METADATA ring is written once its slot lies
below C + 2^s (R65); LAST owes a message (R368). -/
def State.writeMeta (s : State) (r : Nat) : State :=
  match s.ringCtx r with
  | none => s
  | some c =>
    match c.waiting with
    | [] => s
    | m :: rest =>
      if c.kind != .metadata || c.state != .active || 2 ^ c.log2Size ≤ c.occupancy
          || (s.silent && !s.ras.replay.isSome) || !s.holdRoom 64 then s
      else
        let fl := (rd8 m.bytes 1).toNat
        let b := m.bytes.take 1 ++ leBytes 1 (fl - fl % 2 + phaseBit c.log2Size c.pidx) ++ m.bytes.drop 2
        let s := s.ringWrite c (c.slotAddr 64 c.pidx) b
        let s := s.modRing r (fun c => { c with waiting := rest, pidx := c.pidx + 1 })
        let s := s.noteResult r c.pidx (crc32c (slice m.bytes 0 1 ++ [0] ++ slice m.bytes 2 6 ++ slice m.bytes 16 48))
        if m.irq then s.oweMsi c.vector else s

end Sys2Proof.Machine
end

