-- ==== Sys2Proof/Machine/Rings.lean ====
section
/-!
DEFINITION. Rings: doorbells, creation, destruction, the admin pair and the RING block (R54 to R92).
-/
namespace Sys2Proof.Machine

/-! ## Register writes in two halves (R407) -/

/-- Offsets of the two 64-bit registers without an RW-L field that take writes: the admin ring bases (R88). -/
def offCmdBase : Nat := 0x200018
def offCplBase : Nat := 0x200020

/-- The admin fields accept writes only while enable and busy are 0 (R89). -/
def State.admOpen (s : State) : Bool := !s.ring.admEnable && (s.ringCtx 0).isNone && (s.ringCtx 1).isNone

/-- A base with its low or high half replaced, bits 11:0 reading 0 (R88). -/
def putHalf (base : W64) (high : Bool) (v : W32) : W64 :=
  let b := base.toNat
  if high then BitVec.ofNat 64 (v.toNat * 2 ^ 32 + b % 2 ^ 32)
  else BitVec.ofNat 64 (b / 2 ^ 32 * 2 ^ 32 + v.toNat / 4096 * 4096)

/-- Writes half of an admin base register, where it accepts writes (R89). -/
def State.putBase (s : State) (off : Nat) (high : Bool) (v : W32) : State :=
  if !s.admOpen then s
  else if off = offCmdBase then { s with ring := { s.ring with cmdBase := putHalf s.ring.cmdBase high v } }
  else { s with ring := { s.ring with cplBase := putHalf s.ring.cplBase high v } }

/-- A held low word takes effect alone when another BAR0/1 write arrives (R407). -/
def State.flushLow (s : State) : State :=
  match s.porch.low with
  | none => s
  | some (off, v) => { (s.putBase off false v) with porch := { s.porch with low := none } }

/-- Host accesses reach the BARs: the link is up and Memory Space Enable is 1 (R20, R414, R421, R498: in OFF, and while PERST# keeps
the link down, nothing responds). -/
def State.regsUp (s : State) : Bool := s.glb.dev != .off && s.porch.up && s.porch.cfg.mse

/-- A write of a register on the host interface: nothing while the device is OFF; a held low word takes effect first
(R407). -/
def State.hostWriteReg (s : State) (f : State → State) : State := if s.regsUp then f s.flushLow else s

/-! ## Ring contexts (R87) -/

def kindCode : RingKind → Nat
  | .command => 1
  | .completion => 2
  | .metadata => 3

def ringStateCode : RingState → Nat
  | .active => 1
  | .faulted => 2
  | .destroying => 3

/-- The 64 bytes of a ring's context; zeros for a FREE ring (R87). -/
def ctxBytes : Option RingCtx → List Byte
  | none => List.replicate 64 0
  | some c => padTo 64
      (leBytes 1 (kindCode c.kind) ++ leBytes 1 (ringStateCode c.state) ++ leBytes 1 c.log2Size
        ++ leBytes 1 (bit c.hbm) ++ leBytes 1 c.prio ++ leBytes 1 0 ++ leBytes 2 c.vector ++ le64 c.base
        ++ leBytes 4 c.bind ++ le32 c.pidx ++ le32 c.cidx ++ le32 c.seqNext ++ le32 c.fault ++ le32 c.faultIdx
        ++ leBytes 4 c.outstanding)

/-- A new context: P, C and the expected seq initialised (R80). -/
def newRing (kind : RingKind) (log2Size : Nat) (hbm : Bool) (prio vector : Nat) (base : W64) (bind : Nat)
    (seq0 : W32) : RingCtx :=
  { kind := kind, state := .active, log2Size := log2Size, hbm := hbm, prio := prio, vector := vector, base := base,
    bind := bind, pidx := 0, cidx := 0, seqNext := seq0, fault := 0, faultIdx := 0, outstanding := 0, bells := [],
    reading := false, head := [], pendFault := 0, fetched := [], ops := [], waiting := [], producers := 0,
    destroyer := none }

/-! ## Doorbells (R58 to R62, R80 to R84) -/

/-- A COMPLETION or METADATA ring faults: logged, latched, and a message sent whatever evt_mask holds (R84). -/
def State.recordRingFault (s : State) (r : Nat) (code : W32) : State :=
  match s.ringCtx r with
  | none => s
  | some c =>
    let n := c.waiting.length
    let s := s.modRing r (fun c => { c with state := .faulted, fault := code, waiting := [] })
    let g := s.ring
    let g := if g.faultValid then g
      else { g with faultValid := true, faultKind := BitVec.ofNat 2 (kindCode c.kind),
                    faultRing := BitVec.ofNat 20 r, faultPend := Code.low code }
    let s := { s with ring := { g with dropped := satAdd g.dropped n } }
    (s.log { status := code, unit := 11, ctx := BitVec.ofNat 32 (2 ^ 31 + r) }).oweMsi s.porch.evtVec.toNat

/-- A doorbell out of bounds on a COMMAND ring (R60, R81): behind the packet being read, or at once. -/
def RingCtx.overrun (c : RingCtx) : RingCtx :=
  if c.busy then { c with state := .faulted, fault := Code.dbOverrun, faultIdx := c.cidx, pendFault := Code.dbOverrun }
  else c.cmdFault Code.dbOverrun []

/-- Device address of a ring's context in HBM (R87, R509). -/
def State.ctxAddr (s : State) (r : Nat) : Nat := s.aboveSave 0 + 64 * r

/-- The ring manager holds 65,536 contexts on chip; those of more rings lie in HBM (R87). -/
def State.ctxAway (s : State) (r : Nat) : Bool :=
  decide (65536 < s.ring.ctx.length) && Config.ctxAway r s.ring.ctx.length

/-- A context that reads as poisoned: its ring faults with MEM_UE, and the case is logged (R464). -/
def State.ctxLost (s : State) (r : Nat) (c : RingCtx) : State :=
  if c.kind == .command then
    (s.modRing r (fun c => c.cmdFault Code.memUe [])).log { status := Code.memUe, unit := 11, ctx := BitVec.ofNat 32 (2 ^ 31 + r) }
  else s.recordRingFault r Code.memUe

/-- A doorbell write of an index (R60, R62, R80); it fetches a context that is not on chip (R87). -/
def State.doorbell (s : State) (r : Nat) (v : W32) : State :=
  match s.ringCtx r with
  | none =>
    let g := s.ring
    { s with ring := { g with orphanValid := true, orphanCount := satAdd g.orphanCount 1,
                              orphanRing := if g.orphanValid then g.orphanRing else BitVec.ofNat 20 r } }
  | some c =>
    match c.state with
    | .destroying =>
      let g := s.ring
      { s with ring := { g with orphanValid := true, orphanCount := satAdd g.orphanCount 1,
                                orphanRing := if g.orphanValid then g.orphanRing else BitVec.ofNat 20 r } }
    | .faulted => s
    | .active =>
      if s.ctxAway r && s.poisoned (s.ctxAddr r) 64 then s.ctxLost r c
      else match c.kind with
      | .command =>
        if v = c.pidx then s
        else if 2 ^ c.log2Size < (v - c.cidx).toNat then s.modRing r RingCtx.overrun
        else s.modRing r (fun c => { c with pidx := v, bells := c.bells ++ [(v, s.now)] })
      | _ =>
        if v = c.cidx then s
        else if (c.pidx - c.cidx).toNat < (v - c.cidx).toNat then s.recordRingFault r Code.dbOverrun
        else s.modRing r (fun c => { c with cidx := v })

/-- DOORBELL_WRITE (R59, R60): a 64-bit write acts by its low word; a write of the high word is ignored. -/
def execDoorbellWrite (ring : RingId) (form : DoorbellForm) (s : State) : Outcome :=
  if !s.regsUp then .next s
  else match form with
    | .low v => .next (s.doorbell ring.toNat v)
    | .high _ => .next s
    | .both v => .next (s.doorbell ring.toNat (BitVec.ofNat 32 v.toNat))

/-- PACKET_FETCH (R64). -/
def execPacketFetch (ring : RingId) (s : State) : Outcome := .next (s.fetch ring.toNat)

/-- PACKET_DISPATCH (R459). -/
def execPacketDispatch (s : State) : Outcome := .next s.dispatch

/-- METADATA_RECORD_WRITE (R367). -/
def execMetadataRecordWrite (ring : RingId) (s : State) : Outcome := .next (s.writeMeta ring.toNat)

/-! ## RING_CREATE and RING_DESTROY (R85, R86) -/

/-- Bytes of a slot of a kind (R54, R91). -/
def State.kindSlot (s : State) (kind : Nat) : Nat :=
  match kind with
  | 1 => s.slotSize
  | 2 => 32
  | _ => 64

/-- kind, location, prio and vector in range, and the fields that are 0 for the kind are 0 (R85 check 4). -/
def ringParamOk (b : List Byte) : Bool :=
  let kind := rd b 20 1
  let prio := rd b 23 1
  decide (1 ≤ kind ∧ kind ≤ 3 ∧ rd b 22 1 ≤ 1) &&
    (if kind = 1 then decide (prio ≤ 4 ∧ rd b 36 2 = 0)
     else decide (prio = 0 ∧ rd b 32 4 = 0 ∧ rd b 36 2 < 2048 ∧ rd b 40 4 = 0))

/-- The checks of RING_CREATE in order (R85). -/
def State.ringCreateChecks (s : State) (b : List Byte) : List (Bool × W32) :=
  let ring := rd b 16 4
  let kind := rd b 20 1
  let sz := rd b 21 1
  let base := rd b 24 8
  [ (decide (ring < 2 ^ 20), Code.pktReserved),
    (decide (2 ≤ ring), Code.ringId),
    ((s.ringCtx ring).isNone, Code.ringExists),
    (ringParamOk b, Code.ringParam),
    (decide (6 ≤ sz ∧ sz ≤ 16), Code.ringSize),
    (decide (base % 4096 = 0) && (rd b 22 1 != 1 || s.inWindow base (2 ^ sz * s.kindSlot kind)), Code.ringBase),
    (kind != 1 || s.activeRing (rd b 32 4) .completion, Code.ringBind) ]

/-- The ring a RING_CREATE packet describes (R85). -/
def ringOfPacket (b : List Byte) : RingCtx :=
  let kind := match rd b 20 1 with
    | 1 => RingKind.command
    | 2 => .completion
    | _ => .metadata
  newRing kind (rd b 21 1) (rd b 22 1 = 1) (rd b 23 1) (rd b 36 2) (rd64 b 24) (rd b 32 4) (rd32 b 40)

def State.setRing (s : State) (r : Nat) (c : RingCtx) : State :=
  { s with ring := { s.ring with ctx := tset s.ring.ctx r c } }

/-- RING_CREATE (R85). -/
def execRingCreate (s : State) : Outcome :=
  .next (s.withOp (.ring 0) 0x10 (fun o s =>
    s.checked 0 o (s.ringCreateChecks o.bytes) (fun s => s.setRing (rd o.bytes 16 4) (ringOfPacket o.bytes))))

/-- A COMPLETION ring with a COMMAND ring bound, or a METADATA ring with a producer bound (R86). -/
def State.ringBound (s : State) (r : Nat) : Bool :=
  match s.ringCtx r with
  | none => false
  | some c =>
    match c.kind with
    | .completion => s.ring.ctx.any (fun p => p.2.kind == .command && p.2.bind = r)
    | .metadata => decide (0 < c.producers)
    | .command => false

/-- Fetching stops, packets not yet dispatched are dropped (R80, R83). What becomes of records that wait for space on a METADATA
ring the spec does not say: they are dropped, and not counted (DESIGN CHOICE, log entry 120). -/
def RingCtx.destroy (c : RingCtx) (by_ : Option Nat) : RingCtx :=
  { c with state := .destroying, reading := false, head := [], pendFault := 0, fetched := [], bells := [],
           waiting := [], destroyer := by_ }

/-- The ring manager's reads of a ring's slots: their data are not taken any more, and those not issued never are (R83). -/
def Porch.dropFetches (p : Porch) (r : Nat) : Porch := (p.dropWhat (.slot r)).dropWhat (.rest r)

/-- A ring begins to be destroyed (R80, R83). -/
def State.destroyRing (s : State) (r : Nat) (by_ : Option Nat) : State :=
  let s := s.modRing r (fun c => c.destroy by_)
  { s with porch := s.porch.dropFetches r }

/-- RING_DESTROY (R86): the packet completes when the ring becomes FREE. -/
def execRingDestroy (s : State) : Outcome :=
  .next (s.withOp (.ring 0) 0x11 (fun o s =>
    let ring := rd o.bytes 16 4
    let live := match s.ringCtx ring with
      | some c => c.state != .destroying
      | none => false
    if 2 ^ 20 ≤ ring then s.finish 0 o.id Code.pktReserved
    else if ring < 2 then s.finish 0 o.id Code.ringId
    else if !live then s.finish 0 o.id Code.ringNotFound
    else if s.ringBound ring then s.finish 0 o.id Code.ringBusy
    else (s.beginOp 0 o.id).destroyRing ring (some o.id)))

/-- Every record of the ring's packets is written, or will be discarded because its COMPLETION ring is
FAULTED (R80, R82). -/
def State.ringSpent (s : State) (c : RingCtx) : Bool :=
  c.ops.isEmpty ||
    (match s.ringCtx c.bind with
      | some k => k.state == .faulted
      | none => true) && c.ops.all (fun o => o.fin.isSome)

/-- The context is cleared; held records give back their reservations (R80, R82). -/
def State.freeRing (s : State) (r : Nat) (c : RingCtx) : State :=
  let s := s.modRing c.bind (fun k => { k with outstanding := k.outstanding - c.ops.length })
  { s with ring := { s.ring with ctx := tdel s.ring.ctx r, ready := s.ring.ready.filter (· != r) } }

/-! ## The admin pair (R56, R88, R89) -/

/-- RING_ADMIN_CTL's fields other than enable, written while it accepts writes (R89). -/
def State.admFields (s : State) (v : W32) : State :=
  if !s.admOpen then s
  else
    let l := field v.toNat 8 4
    { s with ring := { s.ring with
        admVector := BitVec.ofNat 11 (field v.toNat 16 11),
        admLog2 := BitVec.ofNat 4 (if 6 ≤ l ∧ l ≤ 16 then l else 6),
        admHbm := v.getLsbD 1 } }

/-- Rings 0 and 1 as the admin fields describe them, with seq0 = 0 (R88); their class is P0 (log entry 11). -/
def State.createAdmin (s : State) : State :=
  let g := s.ring
  let n := g.admLog2.toNat
  let s := s.setRing 0 (newRing .command n g.admHbm 0 0 g.cmdBase 1 0)
  let s := s.setRing 1 (newRing .completion n g.admHbm 0 g.admVector.toNat g.cplBase 0 0)
  { s with ring := { s.ring with admEnable := true } }

/-- A write of RING_ADMIN_CTL with enable set. -/
def State.admSet (s : State) (v : W32) : State :=
  if !s.admOpen then s
  else
    let s := s.admFields v
    if s.glb.dev == .serving || s.glb.dev == .maintenance then s.createAdmin else s

/-- A write of RING_ADMIN_CTL with enable clear; ignored while a COMMAND ring other than ring 0 is bound to ring 1. -/
def State.admClear (s : State) (v : W32) : State :=
  if !s.ring.admEnable then s.admFields v
  else if s.ring.ctx.any (fun p => p.1 != 0 && p.2.kind == .command && p.2.bind = 1) then s
  else
    let s := s.destroyRing 0 none
    { s with ring := { s.ring with admEnable := false } }

/-- ADMIN_RINGS_ENABLE (R88): a write of RING_ADMIN_CTL that sets enable. -/
def execAdminRingsEnable (value : W32) (s : State) : Outcome :=
  .next (s.hostWriteReg (fun s => if value.getLsbD 0 then s.admSet value else s))

/-- ADMIN_RINGS_DISABLE (R89): a write of RING_ADMIN_CTL that clears enable. -/
def execAdminRingsDisable (value : W32) (s : State) : Outcome :=
  .next (s.hostWriteReg (fun s => if value.getLsbD 0 then s else s.admClear value))

/-! ## RING registers (R88) -/

/-- The value a host register read returns, in 4 or 8 bytes, on the link (R410). -/
def State.reply (s : State) (n : Nat) (v : Nat) : State :=
  if s.glb.dev == .off then s else { s with out := s.out ++ [.cpl (leBytes n v) false] }

/-- A write of RING_SEL: the selected context's snapshot. -/
def State.ringSel (s : State) (v : W32) : State :=
  let r := field v.toNat 0 20
  { s with ring := { s.ring with sel := BitVec.ofNat 20 r, snap := ctxBytes (s.ringCtx r) } }

/-- RING_SEL_WRITE (R88). -/
def execRingSelWrite (value : W32) (s : State) : Outcome := .next (s.hostWriteReg (fun s => s.ringSel value))

/-- The word of RING_ORPHAN. -/
def Rings.orphanWord (g : Rings) : Nat :=
  bit g.orphanValid * 2 ^ 31 + g.orphanCount.toNat * 2 ^ 20 + g.orphanRing.toNat

/-- The word of RING_FAULT. -/
def Rings.faultWord (g : Rings) : Nat :=
  bit g.faultValid * 2 ^ 31 + g.faultKind.toNat * 2 ^ 29 + g.faultRing.toNat

/-- The word of RING_FAULT_INFO. -/
def Rings.faultInfoWord (g : Rings) : Nat := g.dropped.toNat * 2 ^ 16 + g.faultCode.toNat

/-- RING_ORPHAN_READ (R88). -/
def execRingOrphanRead (s : State) : Outcome :=
  .next (
    if !s.regsUp then s
    else
      let s := s.reply 4 s.ring.orphanWord
      { s with ring := { s.ring with orphanValid := false, orphanCount := 0, orphanRing := 0 } })

/-- RING_FAULT_READ (R88): fixes RING_FAULT_INFO.code; a read that returns no fault shows code 0 (log entry 12). -/
def execRingFaultRead (s : State) : Outcome :=
  .next (
    if !s.regsUp then s
    else
      let s := s.reply 4 s.ring.faultWord
      let g := s.ring
      { s with ring := { g with faultCode := if g.faultValid then g.faultPend else 0, faultValid := false,
                                faultKind := 0, faultRing := 0, faultPend := 0 } })

/-- RING_FAULT_INFO_READ (R88): clears dropped. -/
def execRingFaultInfoRead (s : State) : Outcome :=
  .next (
    if !s.regsUp then s
    else
      let s := s.reply 4 s.ring.faultInfoWord
      { s with ring := { s.ring with dropped := 0 } })

end Sys2Proof.Machine
end

