-- ==== Sys2Proof/Machine/Larder.lean ====
section
/-!
DEFINITION. The Larder Buffer Manager: pools, handles, reference counts (chapter 10).
-/
namespace Sys2Proof.Machine

def State.modLarder (s : State) (f : Larder → Larder) : State := { s with larder := f s.larder }
def State.modPool (s : State) (p : Nat) (f : Pool → Pool) : State :=
  s.modLarder (fun l => { l with pools := tmod l.pools p f })

/-! ## Handles and records (R273, R275) -/

def BufRec.none : BufRec := { count := 0, gen := 0, alloc := false }

/-- The handle of an allocation (R273). -/
def mkHandle (pool index : Nat) (gen : W16) : W64 :=
  BitVec.ofNat 64 (gen.toNat * 2 ^ 32 + pool * 2 ^ 24 + index)

def handlePool (h : W64) : Nat := field h.toNat 24 8
def handleIndex (h : W64) : Nat := field h.toNat 0 24
def handleGen (h : W64) : W16 := BitVec.ofNat 16 (field h.toNat 32 16)

def Pool.owns (p : Pool) (i : Nat) : Bool := decide (p.first ≤ i ∧ i < p.first + p.count)

/-- The pool and index that a nonzero, well-formed handle names; none: BUF_HANDLE (R273). -/
def Larder.place (l : Larder) (h : W64) : Option (Pool × Nat) :=
  if field h.toNat 48 16 != 0 || handleGen h = 0 then none
  else match tget l.pools (handlePool h) with
    | some p => if p.owns (handleIndex h) then some (p, handleIndex h) else none
    | none => none

def Larder.entry (l : Larder) (i : Nat) : BufRec := tgetD l.recs i BufRec.none

/-- The handle is current (R275). -/
def Larder.current (l : Larder) (h : W64) : Bool :=
  match l.place h with
  | some (_, i) => (l.entry i).gen == handleGen h
  | none => false

/-- Device address of the Strongroom (R509: it follows the host-visible region). -/
def State.strongBase (s : State) : Nat := s.vBytes

/-- Bytes of the Strongroom (R509). -/
def State.strongBytes (s : State) : Nat :=
  match s.glb.layout with
  | some l => l.strong * 1048576
  | none => 0

/-- Device address of buffer `i` of a pool (R272, R285). -/
def State.bufAddr (s : State) (p : Pool) (i : Nat) : Nat :=
  (if p.strong then s.strongBase else 0) + p.base + (i - p.first) * 2 ^ p.log2Size

/-- Device address and valid length of a handle; the null handle has length 0 (R274, R275). -/
def State.bufOf (s : State) (h : W64) : Option (Nat × Nat) :=
  if h = 0 then some (0, 0)
  else match s.larder.place h with
    | some (p, i) => some (s.bufAddr p i, 2 ^ p.log2Size)
    | none => none

/-- Device address of a buffer's record: the table lies after the save region, the ring contexts (64 MiB) and the
graph store (1 GiB) (R275, R509). -/
def State.recAddr (s : State) (i : Nat) : Nat :=
  s.aboveSave (64 + 1024) + 8 * i

/-- The record of a buffer reads as poisoned (R278, R464). -/
def State.recPoisoned (s : State) (i : Nat) : Bool := s.poisoned (s.recAddr i) 8

def State.setRec (s : State) (i : Nat) (r : BufRec) : State :=
  s.modLarder (fun l => { l with recs := tset l.recs i r })

/-! ## LARDER_ERR and the log (R291, R292) -/

/-- A request of a port was served: its sequence number follows the port's last one, and its result is kept (R283). The first
request of a port is number 0 (log entry 135). -/
def State.served (s : State) (port : Nat) (code : W32) (h : W64) : State :=
  let no := ((tget s.larder.ports port).map (fun p => p.seqno + 1)).getD 0
  s.modLarder (fun l => { l with ports := tset l.ports port { seqno := no, code := code, handle := h } })

/-- A failed request: latched in LARDER_ERR; from a port other than 0, also logged (R292). A poisoned record is already in the
log (R464). -/
def State.larderFail (s : State) (port pos : Nat) (code : W32) (h : W64) : State :=
  let l := s.larder
  let l := if l.errValid then l
    else { l with errValid := true, errPort := BitVec.ofNat 5 port, errPos := BitVec.ofNat 10 pos,
                  errCode := Code.low code, errPend := h }
  let s := { s with larder := l }
  if port = 0 || code = Code.memUe then s else s.log { status := code, unit := 10, index := port, addr := handleIndex h }

/-! ## The free list (R277 to R279) -/

/-- Writes the link of a freed buffer: the previous head, or all ones (R278). -/
def State.writeLink (s : State) (p : Pool) (i : Nat) (next : Option Nat) : State :=
  s.hbmWrite (s.bufAddr p i) (leBytes 4 (next.getD 0xFFFFFFFF) ++ leBytes 4 0)

/-- Links every buffer of a list to its successor. -/
def State.thread (s : State) (p : Pool) : List Nat → State
  | [] => s
  | i :: r => (s.writeLink p i r.head?).thread p r

/-- Rebuilds the free list from the state bits: ascending index below the never-used counter (R278). -/
def State.rebuildPool (s : State) (n : Nat) : State :=
  match tget s.larder.pools n with
  | none => s
  | some p =>
    if !p.rebuild then s
    else
      let free := ((List.range (p.fresh - p.first)).map (p.first + ·)).filter (fun i => !(s.larder.entry i).alloc)
      (s.thread p free).modPool n (fun p => { p with head := free.head?, listed := free.length, rebuild := false })

/-- The link in a buffer's bytes [0, 3]: the index of its successor, none for 0xFFFF_FFFF (R278). An index has 24 bits (R273). -/
def State.linkOf (s : State) (p : Pool) (i : Nat) : Option Nat :=
  let v := rd (s.hbmRead (s.bufAddr p i) 4) 0 4
  if v = 0xFFFFFFFF then none else some (v % 2 ^ 24)

/-- Takes the next buffer of a pool: the head of its free list, whose link becomes the head, or the never-used index (R277,
R278). A poisoned link leaves the successor unknown. -/
def State.popBuf (s : State) (n : Nat) (p : Pool) : Option (State × Nat) :=
  match p.head with
  | some i =>
    let lost := s.poisoned (s.bufAddr p i) 8
    let next := if lost then none else s.linkOf p i
    some (s.modPool n (fun p => { p with head := next, listed := p.listed - 1, rebuild := lost }), i)
  | none =>
    if p.fresh < p.first + p.count then
      some (s.modPool n (fun p => { p with fresh := p.fresh + 1 }), p.fresh)
    else none

/-- A buffer record that reads as poisoned is logged (R464). -/
def State.logRec (s : State) (i : Nat) : State :=
  s.log { status := Code.memUe, unit := 10, addr := s.recAddr i }

/-- An allocation (R277 to R279): the code and the handle. A buffer whose record is poisoned is never handed out
again; the log takes it (R464) unless the request is for a key/value page (`quiet`, R290). -/
def State.allocBuf (s : State) (quiet : Bool) (n : Nat) : State × W32 × W64 :=
  match tget s.larder.pools n with
  | none => (s, Code.poolId, 0)
  | some _ =>
    let s := s.rebuildPool n
    match (tget s.larder.pools n).bind (s.popBuf n) with
    | none => (s, Code.bufEmpty, 0)
    | some (s, i) =>
      let r := s.larder.entry i
      if s.recPoisoned i then
        let s := s.setRec i { r with alloc := true }
        (if quiet then s else s.logRec i, Code.memUe, 0)
      else
        let gen : W16 := if r.gen = 0xFFFF then 1 else r.gen + 1
        (s.setRec i { count := 1, gen := gen, alloc := true }, Code.ok, mkHandle n i gen)

/-- Buffers a pool can still supply (R277). -/
def Pool.supply (p : Pool) : Nat := p.listed + (p.first + p.count - p.fresh)

/-- An allocation through a port (R283). -/
def State.allocPort (s : State) (port : Nat) (quiet : Bool) (n : Nat) : State × W32 × W64 :=
  match s.allocBuf quiet n with
  | (s, c, h) => (s.served port c h, c, h)

/-- `k` allocations in a row through a port, up to the first that fails. -/
def State.allocMany (s : State) (port : Nat) (quiet : Bool) (n : Nat) : Nat → State × W32 × List W64
  | 0 => (s, Code.ok, [])
  | k + 1 =>
    match s.allocMany port quiet n k with
    | (s, c, hs) =>
      if c != Code.ok then (s, c, hs)
      else match s.allocPort port quiet n with
        | (s, c, h) => (s, c, if c = Code.ok then hs ++ [h] else hs)

/-! ## References (R279, R280, R288, R289) -/

/-- A poisoned record found at a decrement or increment: the buffer is never handed out again (R464). A free one leaves its
pool's free list when it is popped (R278): no link is rewritten. -/
def State.retireBuf (s : State) (i : Nat) : State := s.setRec i { s.larder.entry i with alloc := true }

/-- An increment: the code, and the state after it. -/
def State.incBuf (s : State) (h : W64) (delta : Nat) : State × W32 :=
  if h = 0 then (s, Code.ok)
  else match s.larder.place h with
    | none => (s, Code.bufHandle)
    | some (_, i) =>
      let r := s.larder.entry i
      if s.recPoisoned i then ((s.retireBuf i).logRec i, Code.memUe)
      else if r.gen != handleGen h then (s, Code.bufStale)
      else if !r.alloc then (s, Code.bufFreed)
      else if 2 ^ 32 ≤ r.count.toNat + delta then (s, Code.bufRefOver)
      else (s.setRec i { r with count := r.count + BitVec.ofNat 32 delta }, Code.ok)

/-- A decrement: at count 0 the buffer is pushed onto its pool's free list (R279). -/
def State.decBuf (s : State) (h : W64) : State × W32 :=
  if h = 0 then (s, Code.ok)
  else match s.larder.place h with
    | none => (s, Code.bufHandle)
    | some (_, i) =>
      let n := handlePool h
      let r := s.larder.entry i
      if s.recPoisoned i then ((s.retireBuf i).logRec i, Code.memUe)
      else if r.gen != handleGen h then (s, Code.bufStale)
      else if !r.alloc then (s.modLarder (fun l => { l with dfree := satAdd l.dfree 1 }), Code.bufDoubleFree)
      else if r.count.toNat ≤ 1 then
        let s := s.rebuildPool n
        match tget s.larder.pools n with
        | none => (s, Code.bufHandle)
        | some p =>
          let s := s.writeLink p i p.head
          ((s.setRec i { r with count := 0, alloc := false }).modPool n
            (fun p => { p with head := some i, listed := p.listed + 1 }), Code.ok)
      else (s.setRec i { r with count := r.count - 1 }, Code.ok)

/-- Every buffer of a failed allocation is freed again, the last taken first (log entry 16). -/
def State.undoAlloc (s : State) : List W64 → State
  | [] => s
  | h :: r => (s.decBuf h).1.undoAlloc r

/-- `k` allocations through a port, or none (R287). -/
def State.allocAll (s : State) (port : Nat) (quiet : Bool) (pool k : Nat) : State × W32 × List W64 :=
  match s.allocMany port quiet pool k with
  | (t, c, hs) => if c = Code.ok then (t, c, hs) else (t.undoAlloc hs.reverse, c, [])

/-- The outcome of a unit's request through its port: its result is kept, and a failure is latched and logged (R283, R292). -/
def State.answered (s : State) (port : Nat) (c : W32) (h : W64) : State :=
  let s := s.served port c h
  if c = Code.ok then s else s.larderFail port 0 c h

/-- A unit drops a reference through its port; it has no request to make for the null handle. -/
def State.dropRef (s : State) (port : Nat) (h : W64) : State :=
  if h = 0 then s
  else match s.decBuf h with
    | (s, c) => s.answered port c h

/-- A unit takes a reference through its port; it has no request to make for the null handle. -/
def State.takeRef (s : State) (port : Nat) (h : W64) : State × W32 :=
  if h = 0 then (s, Code.ok)
  else match s.incBuf h 1 with
    | (s, c) => (s.answered port c h, c)

/-- A unit allocates a buffer through its port; a failure is latched and logged (R292). -/
def State.takeBuf (s : State) (port n : Nat) : State × W32 × W64 :=
  match s.allocPort port false n with
  | (s, c, h) => (if c = Code.ok then s else s.larderFail port 0 c 0, c, h)

def State.dropRefs (s : State) (port : Nat) : List W64 → State
  | [] => s
  | h :: r => (s.dropRef port h).dropRefs port r

/-- Handles processed in order up to the first that fails: its code and position (R288). -/
def State.eachHandle (s : State) (act : State → W64 → State × W32) : Nat → List W64 → State × W32
  | _, [] => (s, Code.ok)
  | k, h :: r =>
    match act s h with
    | (s, c) =>
      let s := s.served 0 c h
      if c = Code.ok then s.eachHandle act (k + 1) r else (s.larderFail 0 k c h, c)

/-- A host command that fails one of the checks before any handle is a failed request of port 0 (R282, R291): it is latched in
LARDER_ERR at position 0 with handle 0 (log entry 135), and its record carries the code. -/
def State.larderRefuse (s : State) (r : Nat) (o : Op) (c : W32) : State :=
  ((s.served 0 c 0).larderFail 0 0 c 0).finish r o.id c

/-- `n` handles of a packet from an offset on. -/
def handlesAt (b : List Byte) (off n : Nat) : List W64 := (List.range n).map (fun k => rd64 b (off + 8 * k))

/-! ## Commands (R285 to R289) -/

/-- Two ranges share nothing. -/
def apart (a n b m : Nat) : Bool := decide (n = 0 ∨ m = 0 ∨ a + n ≤ b ∨ b + m ≤ a)

/-- The ranges of a new pool leave those of every other pool alone and lie inside their location (R285). -/
def State.poolFits (s : State) (p : Pool) : Bool :=
  let size := p.count * 2 ^ p.log2Size
  decide (p.first + p.count ≤ 16777216)
    && decide (p.base + size ≤ if p.strong then s.strongBytes else s.vBytes)
    && s.larder.pools.all (fun q =>
      apart p.first p.count q.2.first q.2.count
        && (p.strong != q.2.strong || apart p.base size q.2.base (q.2.count * 2 ^ q.2.log2Size)))

def poolOfPacket (b : List Byte) : Pool :=
  { log2Size := rd b 17 1, strong := rd b 18 1 = 1, first := rd b 20 4, count := rd b 24 4, base := rd b 32 8,
    head := none, listed := 0, fresh := rd b 20 4, rebuild := false }

/-- Some buffer of the pool is allocated (R285). -/
def Larder.busy (l : Larder) (p : Pool) : Bool := l.recs.any (fun r => r.2.alloc && p.owns r.1)

/-- The checks of a POOL_CREATE in order, then its effect (R285). -/
def State.poolChecked (s : State) (r : Nat) (o : Op) (checks : List (Bool × W32)) (act : State → State) : State :=
  match checks.find? (fun c => !c.1) with
  | some c => s.larderRefuse r o c.2
  | none => ((act s).served 0 Code.ok 0).finish r o.id Code.ok

/-- POOL_CREATE (R285): creates a pool, or with count 0 removes it. -/
def execPoolCreate (ring : RingId) (s : State) : Outcome :=
  let r := ring.toNat
  .next (s.withOp (.ring ring) 0x20 (fun o s =>
    let b := o.bytes
    let n := rd b 16 1
    let p := poolOfPacket b
    if p.count = 0 then
      s.poolChecked r o
        [ (thas s.larder.pools n, Code.poolId),
          (match tget s.larder.pools n with
            | some q => !s.larder.busy q
            | none => false, Code.poolBusy) ]
        (fun s => s.modLarder (fun l => { l with pools := tdel l.pools n }))
    else
      s.poolChecked r o
        [ (decide (8 ≤ p.log2Size ∧ p.log2Size ≤ 26 ∧ rd b 18 1 ≤ 1 ∧ p.base % 2 ^ p.log2Size = 0), Code.poolParam),
          (!thas s.larder.pools n, Code.poolId),
          (s.poolFits p, Code.poolRange) ]
        (fun s => s.modLarder (fun l => { l with pools := tset l.pools n p }))))

/-- BUF_ALLOC (R287): its handles are written before its record. One with bytes 0 touches no pool. -/
def execBufAlloc (ring : RingId) (s : State) : Outcome :=
  let r := ring.toNat
  .next (s.withOp (.ring ring) 0x21 (fun o s =>
    let b := o.bytes
    let pool := rd b 16 1
    let n := rd b 18 2
    let bytes := rd b 20 4
    let dest := rd b 24 8
    let give (s : State) (hs : List W64) : State := (s.dataWrite dest (hs.flatMap le64)).finish r o.id Code.ok
    if n = 0 || 1024 < n || dest % 8 != 0 then s.larderRefuse r o Code.bufParam
    else if bytes = 0 then give s (List.replicate n 0)
    else match tget s.larder.pools pool with
      | none => s.larderRefuse r o Code.poolId
      | some p =>
        if 2 ^ p.log2Size < bytes then s.larderRefuse r o Code.bufSize
        else
          let s := s.rebuildPool pool
          if ((tget s.larder.pools pool).map Pool.supply).getD 0 < n then s.larderRefuse r o Code.bufEmpty
          else match s.allocAll 0 false pool n with
            | (s, c, hs) =>
              if c = Code.ok then give s hs else (s.larderFail 0 0 c 0).finish r o.id c))

/-- BUF_FREE (R288, R289): drops one reference per handle. -/
def execBufFree (ring : RingId) (s : State) : Outcome :=
  let r := ring.toNat
  .next (s.withOp (.ring ring) 0x22 (fun o s =>
    let n := rd o.bytes 16 2
    if n = 0 || 1024 < n then s.larderRefuse r o Code.bufParam
    else match s.eachHandle State.decBuf 0 (handlesAt o.bytes 64 n) with
      | (s, c) => s.finish r o.id c))

/-- BUF_REF (R288): adds delta references per handle, as one increment. -/
def execBufRef (ring : RingId) (s : State) : Outcome :=
  let r := ring.toNat
  .next (s.withOp (.ring ring) 0x23 (fun o s =>
    let n := rd o.bytes 16 2
    let delta := rd o.bytes 18 2
    if n = 0 || 1024 < n || delta = 0 then s.larderRefuse r o Code.bufParam
    else match s.eachHandle (fun s h => s.incBuf h delta) 0 (handlesAt o.bytes 64 n) with
      | (s, c) => s.finish r o.id c))

/-! ## Ports (R282, R283) and the rebuild (R278) -/

/-- A request for a key/value page: an allocation of port 1 (R290). -/
def pageRequest (port : Nat) : LarderReq → Bool
  | .allocate _ => port = 1
  | .increment _ _ => false
  | .decrement _ => false

/-- Serves a request of a port. -/
def State.serveLarder (s : State) (port : Nat) (req : LarderReq) : State × W32 × W64 :=
  match req with
  | .allocate pool => s.allocBuf (port = 1) pool.toNat
  | .increment h d => match s.incBuf h d.toNat with
    | (s, c) => (s, c, h)
  | .decrement h => match s.decBuf h with
    | (s, c) => (s, c, h)

/-- The handle a request names. -/
def reqHandle : LarderReq → W64
  | .allocate _ => 0
  | .increment h _ => h
  | .decrement h => h

/-- LARDER_REQUEST (R281 to R283): a request of ports 0 to 27; one that repeats the port's last sequence number
changes nothing. A failure is latched and logged, but for that of a page request (R290, R292). -/
def execLarderRequest (port : BitVec 5) (seqno : W16) (req : LarderReq) (s : State) : Outcome :=
  .next (
    let n := port.toNat
    if !s.working || 28 ≤ n then s
    else if (tget s.larder.ports n).any (fun p => p.seqno == seqno) then s
    else match s.serveLarder n req with
      | (s, c, h) =>
        let s := if c = Code.ok || pageRequest n req then s else s.larderFail n 0 c (reqHandle req)
        s.modLarder (fun l => { l with ports := tset l.ports n { seqno := seqno, code := c, handle := h } }))

/-- LARDER_FREELIST_REBUILD (R278). -/
def execLarderFreelistRebuild (pool : PoolId) (s : State) : Outcome := .next (s.rebuildPool pool.toNat)

/-! ## Registers (R291) -/

/-- LARDER_POOL_CFG's word. -/
def poolCfgWord : Option Pool → Nat
  | none => 0
  | some p => 2 ^ 31 + bit p.strong * 2 ^ 30 + p.log2Size * 2 ^ 24 + p.first % 2 ^ 24

/-- A write of LARDER_POOL_SEL: the snapshot of CFG, FREE and NEW. -/
def State.poolSel (s : State) (v : W32) : State :=
  let p := tget s.larder.pools (v.toNat % 256)
  s.modLarder (fun l =>
    { l with sel := BitVec.ofNat 8 v.toNat, snapCfg := BitVec.ofNat 32 (poolCfgWord p),
             snapFree := BitVec.ofNat 32 ((p.map (·.listed)).getD 0),
             snapNew := BitVec.ofNat 32 ((p.map (fun p => p.first + p.count - p.fresh)).getD 0) })

/-- LARDER_POOL_SEL_WRITE (R291). -/
def execLarderPoolSelWrite (value : W32) (s : State) : Outcome := .next (s.hostWriteReg (fun s => s.poolSel value))

/-- LARDER_ERR's word. -/
def Larder.errWord (l : Larder) : Nat :=
  bit l.errValid * 2 ^ 31 + l.errPort.toNat * 2 ^ 26 + l.errPos.toNat * 2 ^ 16 + l.errCode.toNat

/-- LARDER_ERR_READ (R291): clears the latch; LARDER_ERR_HANDLE takes its handle. -/
def execLarderErrRead (s : State) : Outcome :=
  .next (if !s.regsUp then s
    else (s.reply 4 s.larder.errWord).modLarder (fun l =>
      { l with errValid := false, errPort := 0, errPos := 0, errCode := 0, errPend := 0,
               errHandle := if l.errValid then l.errPend else 0 }))

/-- LARDER_DFREE_READ (R291). -/
def execLarderDfreeRead (s : State) : Outcome :=
  .next (if !s.regsUp then s
    else (s.reply 4 s.larder.dfree.toNat).modLarder (fun l => { l with dfree := 0 }))

end Sys2Proof.Machine
end

