-- ==== Sys2Proof/Machine/Draw.lean ====
section
/-!
DEFINITION. The device's generator of R338.
-/
namespace Sys2Proof.Machine

/-- gen(seed, idx, lane) (R338): the same word on any part and in any order. -/
def gen (seed idx : W64) (lane : W32) : W32 :=
  let x := seed ^^^ (idx * 0x9E3779B97F4A7C15) ^^^ (lane.setWidth 64 * 0xD1B54A32D192ED03)
  let x := (x ^^^ (x >>> 30)) * 0xBF58476D1CE4E5B9
  let x := (x ^^^ (x >>> 27)) * 0x94D049BB133111EB
  let x := x ^^^ (x >>> 31)
  (x >>> 32).setWidth 32

end Sys2Proof.Machine
end

