-- ==== Sys2Proof/Machine/Regulator.lean ====
section
/-!
DEFINITION. The port regulators: 24 token buckets of 64 B tokens (R395, R397).
-/
namespace Sys2Proof.Machine

/-- Tokens a request needs: one per block it touches (R395). -/
def PortReq.cost (r : PortReq) : Nat :=
  match r.write with
  | none => 1
  | some d => ceilDiv d.length 64

/-- Tokens per 256 mclk, and the size of the bucket: values beyond the field's range act as its end (R397). -/
def MemPortState.gain (p : MemPortState) : Nat := min p.rate.toNat 16384
def MemPortState.size (p : MemPortState) : Nat := max p.burst.toNat 1

/-- 256ths of a token in the bucket. -/
def MemPortState.have256 (p : MemPortState) : Nat := p.tokens * 256 + p.frac.toNat

/-- Tokens that what stands at the port's head still waits for: Room DMA requests go before (R141), then the head request. -/
def MemPortState.short (p : MemPortState) : Nat :=
  p.owed + (match p.waiting with
    | r :: _ => r.cost
    | [] => 0)

/-- mclk among the next `k` in which the head waits for tokens (R397). -/
def MemPortState.waited (p : MemPortState) (k : Nat) : Nat :=
  if !p.enable || p.short * 256 ≤ p.have256 then 0
  else if p.gain = 0 then k
  else min k (ceilDiv (p.short * 256 - p.have256) p.gain)

/-- `k` mclk pass: the bucket gains rate ÷ 256 tokens in each and holds at most burst (R395); what Room DMA owes goes off. -/
def MemPortState.pass (p : MemPortState) (k : Nat) : MemPortState :=
  let all := p.have256 + p.gain * k
  let paid := min p.owed (all / 256)
  let left := all - 256 * paid
  { p with tokens := min (left / 256) p.size, frac := if p.size ≤ left / 256 then 0 else BitVec.ofNat 8 (left % 256),
           owed := p.owed - paid, at_ := p.at_ + k, wait := satAdd p.wait (p.waited k) }

/-- mclk until a request of `n` blocks at the head passes: none where the bucket never holds that many (R395). -/
def MemPortState.due (p : MemPortState) (n : Nat) : Option Nat :=
  if !p.enable then some 0
  else if p.size < n then none
  else if (p.owed + n) * 256 ≤ p.have256 then some 0
  else if p.gain = 0 then none
  else some (ceilDiv ((p.owed + n) * 256 - p.have256) p.gain)

/-- A request of `n` blocks passes and removes its tokens; an unregulated port asks for none (R395). -/
def MemPortState.pay (p : MemPortState) (n : Nat) : MemPortState :=
  if p.enable then { p with tokens := p.tokens - n } else p

/-- Room DMA requests of `n` blocks in all pass, now or as tokens come (R141, R395). -/
def MemPortState.owe (p : MemPortState) (n : Nat) : MemPortState :=
  if p.enable then { p with tokens := p.tokens - n, owed := p.owed + (n - p.tokens) } else p

/-- A write of MEM_REG[p]: the tokens are clipped to the new burst (R395). -/
def MemPortState.put (p : MemPortState) (v : W32) : MemPortState :=
  let q := { p with enable := v.getLsbD 31, rate := BitVec.ofNat 15 (field v.toNat 16 15), burst := BitVec.ofNat 16 v.toNat }
  if q.size ≤ p.tokens then { q with tokens := q.size, frac := 0 } else q

/-- Requests of a unit pass a port. -/
def State.drawPort (s : State) (port n : Nat) : State :=
  { s with mem := { s.mem with ports := lmod s.mem.ports port (·.owe n) } }

end Sys2Proof.Machine
end

