-- ==== Sys2Proof/Machine/Memory.lean ====
section
/-!
DEFINITION. The memory controllers: ports, queues, scheduling, refresh, inline ECC, repair (chapter 14).
-/
namespace Sys2Proof.Machine

def State.modMem (s : State) (f : Mem → Mem) : State := { s with mem := f s.mem }
/-- A pseudo-channel: one that nothing has used stands at the beat's first mclk. -/
def Mem.pc (m : Mem) (n : Nat) : Pc := tgetD m.pcs n { Pc.reset with clk := m.base }
def Mem.modPc (m : Mem) (n : Nat) (f : Pc → Pc) : Mem := { m with pcs := tup m.pcs n { Pc.reset with clk := m.base } f }
def Pc.bank (p : Pc) (b : Nat) : Bank := tgetD p.banks b Bank.reset
def Pc.modBank (p : Pc) (b : Nat) (f : Bank → Bank) : Pc := { p with banks := tup p.banks b Bank.reset f }

/-- Usable capacity C in 64 B blocks (R380). -/
def Mem.blocks (m : Mem) : Nat := (if m.ecc then 92160 else 98304) * 16384

/-- Root cycles of a beat, and mclk cycles: the rclk divider is 5 during a droop response (R377, R483, R487). -/
def Pwr.beatRoot (w : Pwr) : Nat := if w.droop then 1280 else 1024
def Pwr.beatMclk (w : Pwr) : Nat := if w.droop then 320 else 256

/-! ## Queues (R382, R387, R388) -/

/-- A mask covers every byte of a block. -/
def fullMask (d : List (Option Byte)) : Bool := !d.isEmpty && d.all (·.isSome)

/-- A read enters its queue, or is served from a write-queue entry with a full mask (R388); none: no room. -/
def Mem.acceptRead (m : Mem) (port block : Nat) (use : ReadUse) : Option Mem :=
  let p := m.pc (pcOf block)
  let old := ((m.entry block).map (·.data)).getD []
  if fullMask old then
    some { m with fwdFull := satAdd m.fwdFull 1,
                  given := if use = .scrub then m.given
                    else m.given ++ [{ port := port, block := block, at_ := p.clk, data := m.read (64 * block) 64, bad := false }] }
  else if 64 ≤ p.rq.length then none
  else some (m.modPc (pcOf block) (fun p => { p with rq := p.rq ++
    [{ port := port, block := block, at_ := p.clk, use := use, data := m.dram.read (64 * block) 64,
       bad := m.poison.contains block, fwd := old, retry := false, fresh := false }] }))

/-- A read of the block accepted in the mclk of the write. -/
def MemRead.meets (e : MemRead) (block clk : Nat) : Bool := e.block = block && e.at_ = clk && !e.retry

/-- What a read is given by a full entry. -/
def MemRead.served (e : MemRead) (d : List (Option Byte)) : MemGiven :=
  { port := e.port, block := e.block, at_ := e.at_, data := mergeBytes d e.data, bad := false }

/-- The reads of a block that were accepted in the mclk of a write to it come behind the write (R387). -/
def Mem.behind (m : Mem) (block : Nat) : Mem :=
  match m.entry block with
  | none => m
  | some w =>
    let p := m.pc (pcOf block)
    let patched := m.given.map (fun g =>
      if g.block = block && g.at_ = p.clk then { g with data := mergeBytes w.data g.data } else g)
    if fullMask w.data then
      let now := p.rq.filter (·.meets block p.clk)
      { m.modPc (pcOf block) (fun p => { p with rq := p.rq.filter (fun e => !e.meets block p.clk) }) with
        fwdFull := satAdd m.fwdFull now.length,
        given := patched ++ (now.filter (·.use = .port)).map (·.served w.data) }
    else
      { m.modPc (pcOf block) (fun p =>
          { p with rq := p.rq.map (fun e => if e.meets block p.clk then { e with fwd := w.data } else e) }) with
        given := patched }

/-- A write of one block enters its queue or merges into the block's entry (R382, R387); none: no room. -/
def Mem.acceptWrite (m : Mem) (block : Nat) (d : List (Option Byte)) : Option Mem :=
  match m.entry block with
  | some _ =>
    some ((m.modPc (pcOf block) (fun p => { p with wq := p.wq.map (fun w =>
      if w.block = block then { w with data := mergeMask d w.data } else w) })).behind block)
  | none =>
    if 64 ≤ (m.pc (pcOf block)).wq.length then none
    else some ((m.modPc (pcOf block) (fun p => { p with wq := p.wq ++
      [{ block := block, data := d, reading := false, filled := none }] })).behind block)

/-- A request for one block enters a queue of its pseudo-channel. -/
def Mem.accept (m : Mem) (port : Nat) (r : PortReq) : Option Mem :=
  match r.write with
  | none => m.acceptRead port r.block (if r.scrub then .scrub else .port)
  | some d => m.acceptWrite r.block d

/-- An earlier request of the same kind and pseudo-channel waits in the Hallway. -/
def Mem.blocked (m : Mem) (r : PortReq) : Bool :=
  m.hall.any (fun h => pcOf h.2.block = pcOf r.block && h.2.write.isSome == r.write.isSome)

/-- A request that passed its port enters a queue, or waits at its Hallway stop, in order, while the queue is full (R382). -/
def Mem.enter (m : Mem) (port : Nat) (r : PortReq) : Mem :=
  match if m.blocked r then none else m.accept port r with
  | some m => m
  | none => { m with hall := m.hall ++ [(port, r)] }

/-- What waits in the Hallway enters the queues that have room. -/
def Mem.leaveHall (m : Mem) : Mem := m.hall.foldl (fun m h => m.enter h.1 h.2) { m with hall := [] }

/-! ## Ports (R395) -/

/-- A mask cut into blocks of 64; the fuel is their number. -/
def cutBlocks : Nat → List (Option Byte) → List (List (Option Byte))
  | 0, _ => []
  | k + 1, d => ((List.range 64).map (fun i => d.getD i none)) :: cutBlocks k (d.drop 64)

/-- The request block by block. -/
def PortReq.blocks (r : PortReq) : List PortReq :=
  match r.write with
  | none => [r]
  | some d => (cutBlocks r.cost d).zipIdx.map (fun q => { r with block := r.block + q.2, write := some q.1 })

/-- A request passes its port: its tokens go, and its blocks go to the queues. -/
def Mem.takeReq (m : Mem) (port : Nat) (r : PortReq) : Mem :=
  r.blocks.foldl (fun m b => m.enter port b) { m with ports := lmod m.ports port (·.pay r.cost) }

/-- A new request of a port: it passes at once, or waits behind the port's earlier ones (R395). -/
def Mem.request (m : Mem) (port : Nat) (r : PortReq) : Mem :=
  match m.ports[port]? with
  | none => m
  | some p =>
    if p.waiting.isEmpty && p.due r.cost = some 0 then m.takeReq port r
    else { m with ports := lmod m.ports port (fun p => { p with waiting := p.waiting ++ [r] }) }

/-- The head of a port's requests passes within the beat of `k` mclk: in the mclk in which the bucket holds enough tokens. -/
def Mem.admitHead (m : Mem) (port k : Nat) : Mem :=
  match m.ports[port]? with
  | none => m
  | some p =>
    match p.waiting with
    | [] => m
    | r :: rest =>
      match p.due r.cost with
      | none => m
      | some w =>
        if k < p.at_ + w then m
        else ({ m with ports := lmod m.ports port (fun p => { p.pass w with waiting := rest }) }).takeReq port r

/-- A write of MEM_REG[p]; what waits at a port that is no longer regulated passes at once (R395). -/
def Mem.putPort (m : Mem) (port : Nat) (v : W32) : Mem :=
  let held := if v.getLsbD 31 then [] else ((m.ports[port]?).map (·.waiting)).getD []
  held.foldl (fun m r => m.takeReq port r)
    { m with ports := lmod m.ports port (fun p =>
        if v.getLsbD 31 then p.put v else { p.put v with waiting := [], owed := 0 }) }

/-- A beat of `k` mclk ends for the controllers (R377, R395). -/
def Mem.elapse (m : Mem) (k : Nat) : Mem :=
  let base := m.base + k
  { m with base := base, ports := m.ports.map (fun p => { p.pass (k - p.at_) with at_ := 0 }),
           pcs := m.pcs.map (fun p => (p.1, { p.2 with clk := max p.2.clk base })) }

/-- An event of the controllers enters the model energy (R493); it belongs to no job. -/
def State.memEvent (s : State) (k n : Nat) : State := (s.count k n).deviceEnergy (s.energyOf k n)

/-- Blocks requested at a port, read (term 5) or written (term 6); those of the Room DMA are counted with their tasks (R493,
R494). -/
def State.portEvent (s : State) (port k n : Nat) : State := if port < 14 then s else s.memEvent k n

/-- MEM_READ_REQUEST (R382, R388, R395). -/
def execMemReadRequest (port : MemPort) (addr : Nat) (s : State) : Outcome :=
  if !s.mem.trained || 24 ≤ port.toNat then .next s
  else if s.mem.blocks ≤ addr / 64 then .fault .noSuchAddress
  else .next ((s.portEvent port.toNat 5 1).modMem (fun m =>
    m.request port.toNat { block := addr / 64, write := none, scrub := false }))

/-- MEM_WRITE_REQUEST (R382, R387, R395). -/
def execMemWriteRequest (port : MemPort) (addr : Nat) (data : List (Option Byte)) (s : State) : Outcome :=
  if !s.mem.trained || 24 ≤ port.toNat || data.isEmpty then .next s
  else if s.mem.blocks * 64 < addr + data.length then .fault .noSuchAddress
  else
    let d := List.replicate (addr % 64) none ++ data
    .next ((s.portEvent port.toNat 6 (ceilDiv d.length 64)).modMem (fun m =>
      m.request port.toNat { block := addr / 64, write := some d, scrub := false }))

/-- PORT_ADMIT (R395): the port's head request passes in the mclk of this beat in which the bucket holds enough tokens. -/
def execPortAdmit (port : MemPort) (s : State) : Outcome :=
  .next (s.modMem (fun m => m.admitHead port.toNat s.pwr.beatMclk))

/-! ## Scheduling (R383, R384, R386, R390) -/

/-- mclk counts of the wall-clock parameters at P-state `p` (R379): row cycle 50 ns, tRFCpb 160 ns, repair 2 µs. -/
def tRowCycle (p : Nat) : Nat := ceilDiv (15 * (16 - p)) 4
def tRfc (p : Nat) : Nat := 12 * (16 - p)
def tRepair (p : Nat) : Nat := 150 * (16 - p)

/-- A DRAM command to one bank. The column commands of a 64 B block are two BL8 bursts (R378): of the page's check block as it
is read and written back, or of a data block. -/
inductive DramCmd where
  | precharge
  | activate (row : Nat)
  | checkRead
  | checkWrite
  | column
  | refresh
  | rfm
  deriving DecidableEq, Repr

/-- What a pseudo-channel does in one mclk: a command to a bank, for a queued read or a queued write. -/
structure PcChoice where
  bank : Nat
  cmd : DramCmd
  read : Option MemRead
  write : Option MemWrite
  deriving DecidableEq, Repr

/-- The bank can take a command: no refresh or repair occupies it. -/
def Pc.free (p : Pc) (b : Nat) : Bool := (p.bank b).held.isNone && decide ((p.bank b).busyTo ≤ p.clk)

/-- Two REFpb of a pseudo-channel are 8 mclk apart (R386). -/
def Pc.spaced (p : Pc) : Bool :=
  match p.lastRef with
  | some t => decide (t + 8 ≤ p.clk)
  | none => true

/-- An open row is closed: a changed check block is written back first (R393). -/
def Pc.close (p : Pc) (b : Nat) : DramCmd := if (p.bank b).dirty then .checkWrite else .precharge

/-- What is due on a bank whose row is closed: the REFpb before the RFMpb (R386); none: not in this mclk. -/
def Pc.upkeep (p : Pc) (ref : Bool) : Option DramCmd :=
  if !ref then some .rfm else if p.spaced then some .refresh else none

/-- The next command of an access to a block: none while its bank cannot take it (R384, R386, R390, R393). `again`: a re-read asks
for an activate of its own. -/
def Pc.access (p : Pc) (m : Mem) (block : Nat) (again : Bool) : Option (Nat × DramCmd) :=
  let page := pageOf m.ecc block
  let b := bankOf page
  let k := p.bank b
  if !p.free b || m.debtMax.toNat ≤ k.debt.toNat then none
  else match k.row with
    | some r =>
      if r = rowOf page && !again then some (b, if m.ecc && !k.check then .checkRead else .column) else some (b, p.close b)
    | none =>
      if k.rfm then (p.upkeep (k.debt != 0)).map (fun c => (b, c))
      else if k.actFrom ≤ p.clk then some (b, .activate (rowOf page)) else none

def Pc.readChoice (p : Pc) (m : Mem) (e : MemRead) : Option PcChoice :=
  (p.access m e.block (e.retry && !e.fresh)).map (fun c => { bank := c.1, cmd := c.2, read := some e, write := none })

/-- The next command of a drain: an entry waits for its own read (R389) and for older reads of its block. -/
def Pc.writeChoice (p : Pc) (m : Mem) (w : MemWrite) : Option PcChoice :=
  if (w.reading && w.filled.isNone) || (p.rq ++ p.flight).any (fun e => e.block == w.block) then none
  else (p.access m w.block false).map (fun c => { bank := c.1, cmd := c.2, read := none, write := some w })

/-- A refresh command, or the closing of the row before it (R386, R390). -/
def Pc.refreshChoice (p : Pc) (b : Nat) (ref : Bool) : Option PcChoice :=
  if !p.free b then none
  else
    (if (p.bank b).row.isSome then some (p.close b) else p.upkeep ref).map (fun c =>
      { bank := b, cmd := c, read := none, write := none })

/-- No queued request names the bank. -/
def Pc.idleBank (p : Pc) (ecc : Bool) (b : Nat) : Bool :=
  p.rq.all (fun e => bankOf (pageOf ecc e.block) != b) && p.wq.all (fun w => bankOf (pageOf ecc w.block) != b)

/-- A drain is under way: it begins at hi entries, or with no read queued, and runs until lo remain (R383). -/
def Pc.drains (p : Pc) (m : Mem) : Bool :=
  let n := p.wq.length
  decide (m.wqHi.toNat ≤ n) || (p.rq.isEmpty && decide (0 < n)) || (p.draining && decide (m.wqLo.toNat < n))

/-- The first of the rules of R383 that applies. -/
def Pc.choose (p : Pc) (m : Mem) : Option PcChoice :=
  let forced := p.banks.findSome? (fun b =>
    if m.debtMax.toNat ≤ b.2.debt.toNat then p.refreshChoice b.1 true
    else if b.2.forced then p.refreshChoice b.1 (b.2.debt != 0) else none)
  let oldest := p.rq.head?
  let late := oldest.bind (fun e => if e.at_ + 600 < p.clk then p.readChoice m e else none)
  let drain := if p.drains m then p.wq.findSome? (p.writeChoice m) else none
  let hit := p.rq.findSome? (fun e => (p.readChoice m e).bind (fun c =>
    if c.cmd = .column || c.cmd = .checkRead then some c else none))
  let next := oldest.bind (p.readChoice m)
  let idle := p.banks.findSome? (fun b =>
    if !p.idleBank m.ecc b.1 then none
    else if b.2.debt != 0 then p.refreshChoice b.1 true
    else if b.2.rfm then p.refreshChoice b.1 false else none)
  (((((forced.orElse (fun _ => late)).orElse (fun _ => drain)).orElse (fun _ => hit)).orElse
    (fun _ => next)).orElse (fun _ => idle))

/-- A draw at an activate (R390): does an RFMpb get scheduled? -/
def nrHit (m : Mem) (pc b : Nat) (index : W32) : Bool :=
  decide ((gen m.nrSeed (index.setWidth 64) (BitVec.ofNat 32 (64 * pc + b))).toNat < 2 ^ (32 - m.nr.log2p.toNat))

/-- An activate (R390); a re-read that asked for it has it (R393). -/
def Mem.activate (m : Mem) (pc b row tRC : Nat) (read : Option MemRead) : Mem :=
  let k := (m.pc pc).bank b
  let index := k.actIndex + 1
  let hit := nrHit m pc b index && !k.rfm
  let m := if hit then { m with nrDrawn := satAdd m.nrDrawn 1 } else m
  m.modPc pc (fun p =>
    { p.modBank b (fun k =>
        { k with row := some row, actFrom := p.clk + tRC, actIndex := index, actCount := satAdd k.actCount 1,
                 rfm := k.rfm || hit }) with
      rq := p.rq.map (fun e => if some e = read then { e with fresh := e.retry } else e) })

/-- The row of a bank is closed: its idle timer and the check block held for the page go (R384, R393). -/
def Bank.closed (k : Bank) : Bank := { k with row := none, idleAt := none, check := false, dirty := false }

/-- The first burst of a column command: the idle timer is reloaded, and the second burst follows (R378, R384). -/
def Pc.burstOn (p : Pc) (m : Mem) (b : Nat) (last read : Bool) : Pc :=
  { p.modBank b (fun k => { k with idleAt := some (p.clk + m.pageIdle.toNat) }) with
    burst := some { bank := b, last := last, read := read } }

/-- The second burst: with idle = 0 the last one of an access carries the auto-precharge (R378, R384). -/
def Pc.burstEnd (p : Pc) (m : Mem) (x : Burst) : Pc :=
  { p.modBank x.bank (fun k =>
      if x.last && m.pageIdle = 0 then k.closed else { k with idleAt := some (p.clk + m.pageIdle.toNat) }) with
    burst := none }

/-- The read of a partial write's read-modify-write sets out (R389). -/
def Mem.beginFill (m : Mem) (pc : Nat) (w : MemWrite) : Mem :=
  m.modPc pc (fun p =>
    { p with wq := p.wq.map (fun x => if x.block = w.block then { x with reading := true } else x),
             flight := p.flight ++ [{ port := 23, block := w.block, at_ := p.clk, use := .drain,
                                      data := m.dram.read (64 * w.block) 64, bad := m.poison.contains w.block, fwd := [],
                                      retry := false, fresh := false }] })

/-- A queue entry goes to the DRAM, with a new check: the poison check where its read-modify-write found the block uncorrectable
(R389); the check block held for the page changes (R393). -/
def Mem.drainTo (m : Mem) (pc b : Nat) (w : MemWrite) : Mem :=
  let m := m.modPc pc (fun p =>
    { p.modBank b (fun k => { k with dirty := m.ecc }) with wq := p.wq.filter (fun x => x.block != w.block) })
  let bad := m.ecc && w.filled == some true && !fullMask w.data
  let m := m.writeMasked (64 * w.block) w.data
  { m with poison := if bad && !m.poison.contains w.block then m.poison ++ [w.block] else m.poison }

/-- The column command of a queued read, or of a queued write (R383, R384, R389). -/
def Mem.column (m : Mem) (pc b : Nat) (c : PcChoice) : Mem :=
  match c.read, c.write with
  | some e, _ =>
    m.modPc pc (fun p => { p.burstOn m b true true with rq := p.rq.erase e, flight := p.flight ++ [e] })
  | none, some w =>
    let fill := m.ecc && !fullMask w.data && w.filled.isNone
    let m := m.modPc pc (fun p => p.burstOn m b true fill)
    if fill then m.beginFill pc w else m.drainTo pc b w
  | none, none => m

/-- One command of a pseudo-channel takes effect at P-state `ps`. -/
def Mem.issue (m : Mem) (pc ps : Nat) (c : PcChoice) : Mem :=
  match c.cmd with
  | .precharge => m.modPc pc (fun p => p.modBank c.bank Bank.closed)
  | .activate row => m.activate pc c.bank row (tRowCycle ps) c.read
  | .checkRead =>
    m.modPc pc (fun p => (p.modBank c.bank (fun k => { k with check := true })).burstOn m c.bank false false)
  | .checkWrite =>
    m.modPc pc (fun p => (p.modBank c.bank (fun k => { k with dirty := false })).burstOn m c.bank false false)
  | .column => m.column pc c.bank c
  | .refresh =>
    m.modPc pc (fun p => { p.modBank c.bank (fun k => { k with debt := k.debt - 1, busyTo := p.clk + tRfc ps })
                           with lastRef := some p.clk })
  | .rfm =>
    m.modPc pc (fun p => p.modBank c.bank (fun k =>
      { k with rfm := false, forced := false, actCount := 0, busyTo := p.clk + tRfc ps }))

/-- Commands that the energy model counts: activate, REFpb, RFMpb (R493, term 7). -/
def DramCmd.counts : DramCmd → Nat
  | .activate _ => 1
  | .refresh => 1
  | .rfm => 1
  | _ => 0

/-- The command of a pseudo-channel's mclk, or the second burst of its last one. A parity error, of which the spec leaves the
moment open, keeps a command from its effect once (R378, R398; log entry 110). -/
def State.pcCommand (s : State) (n : Nat) : State :=
  let p := s.mem.pc n
  match p.burst, p.choose s.mem with
  | some x, _ => s.modMem (fun m => m.modPc n (fun p => p.burstEnd m x))
  | none, none => s
  | none, some c =>
    if !p.retrying && Config.parityError s.free then
      (({ s with free := s.free + 1 }).modMem (fun m => m.modPc n (fun p => { p with retrying := true }))).log
        { status := Code.memParity, unit := 4, index := n }
    else
      (({ s with free := if p.retrying then s.free else s.free + 1 }).memEvent 7 c.cmd.counts).modMem (fun m =>
        (m.modPc n (fun p => { p with retrying := false })).issue n s.pwr.pstate.toNat c)

/-- PC_COMMAND_ISSUE (R383): one mclk of a pseudo-channel, of the 256 or 320 that the beat has (R377). What waits in the Hallway
takes the room that the command made (R382). -/
def execPcCommandIssue (pc : PcId) (s : State) : Outcome :=
  .next (
    let n := pc.toNat
    let p := s.mem.pc n
    if !s.mem.trained || s.mem.base + s.pwr.beatMclk ≤ p.clk then s
    else
      (s.pcCommand n).modMem (fun m =>
        (m.modPc n (fun q =>
          { q with clk := q.clk + 1, draining := p.drains s.mem && decide (m.wqLo.toNat < q.wq.length) })).leaveHall))

/-- ACTIVATION_THRESHOLD (R390): the count has reached thresh and the RFMpb is forced. -/
def execActivationThreshold (pc : PcId) (bank : BankId) (s : State) : Outcome :=
  .next (s.modMem (fun m =>
    let k := (m.pc pc.toNat).bank bank.toNat
    if k.actCount.toNat < m.nr.thresh.toNat || k.forced then m
    else { m.modPc pc.toNat (fun p => p.modBank bank.toNat (fun k => { k with rfm := true, forced := true })) with
           nrForced := satAdd m.nrForced 1 }))

/-- PAGE_IDLE_TIMEOUT (R384): the idle timer has run out and the bank is precharged; the check block held for the page goes back
(R393). -/
def execPageIdleTimeout (pc : PcId) (bank : BankId) (s : State) : Outcome :=
  .next (s.modMem (fun m =>
    let p := m.pc pc.toNat
    match (p.bank bank.toNat).idleAt with
    | none => m
    | some t => if p.clk < t then m else m.modPc pc.toNat (fun p => p.modBank bank.toNat Bank.closed)))

/-- tREFI of a pseudo-channel's stack in aclk ticks (R386). -/
def Mem.tRefi (m : Mem) (pc : Nat) : Nat := if field m.temp.toNat (8 * (pc / 32)) 8 ≤ 85 then 585 else 292

/-- REFRESH_INTERVAL (R386): tREFI has elapsed since the last one ended, and the bank owes one REFpb more. -/
def execRefreshInterval (pc : PcId) (bank : BankId) (s : State) : Outcome :=
  .next (
    let last := (((s.mem.pc pc.toNat).bank bank.toNat).refAt).getD s.mem.served
    let t := s.mem.tRefi pc.toNat
    if !s.mem.trained || 48 ≤ bank.toNat || !s.passed last t then s
    else s.modMem (fun m => m.modPc pc.toNat (fun p => p.modBank bank.toNat (fun k =>
      { k with debt := satAdd k.debt 1, refAt := some (last + BitVec.ofNat 64 t) }))))

/-- MEM_TEMP_UPDATE (R386): each stack's tREFI follows its temperature. -/
def execMemTempUpdate (t : W32) (s : State) : Outcome :=
  .next (if s.glb.dev == .off then s else s.modMem (fun m => { m with temp := t }))

/-! ## Inline ECC (R389, R392, R393) -/

/-- An uncorrectable read is latched (R397). -/
def Mem.latchUe (m : Mem) (pc : Nat) (code : W32) (block : Nat) : Mem :=
  if m.ueValid then m
  else { m with ueValid := true, uePc := BitVec.ofNat 7 pc, ueCode := Code.low code, uePend := BitVec.ofNat 64 (64 * block) }

/-- A read as the DRAM shows it: 64 data bytes and their 4 check bytes, with these errors. -/
def MemRead.raw (e : MemRead) (errors : List (Nat × Byte)) : List Byte :=
  applyErrors errors (e.data ++ checkOf e.data e.block e.bad)

/-- The decoder's report of it; without inline ECC nothing is checked (R392). -/
def MemRead.decode (e : MemRead) (ecc : Bool) (errors : List (Nat × Byte)) : Decoded :=
  if ecc then decodeEcc ((e.raw errors).take 64) e.block ((e.raw errors).drop 64) else .clean

/-- The data bytes that the controller delivers: corrected where the decoder corrects. -/
def MemRead.result (e : MemRead) (errors : List (Nat × Byte)) (d : Decoded) : List Byte :=
  let b := (e.raw errors).take 64
  match d with
  | .fixed p v => if p < 64 then lmod b p (· ^^^ v) else b
  | _ => b

/-- A corrected block is written back, unless the DRAM has taken a write of it since (R393). -/
def Mem.writeBack (m : Mem) (e : MemRead) (data : List Byte) : Mem :=
  if m.dram.read (64 * e.block) 64 = e.data then { m with dram := m.dram.write (64 * e.block) data } else m

/-- A read whose check passed: a correction is written back and counted (R393). -/
def State.passRead (s : State) (e : MemRead) (data : List Byte) (d : Decoded) (pc : Nat) : State :=
  let s := match d with
    | .fixed _ _ =>
      (s.modMem (fun m => { m.writeBack e data with ce := satAdd m.ce 1 })).log
        { status := Code.memCe, unit := 4, index := pc, addr := 64 * e.block }
    | _ => s
  if e.retry then
    (s.modMem (fun m => m.latchUe pc Code.memUeRetry e.block)).log
      { status := Code.memUeRetry, unit := 4, index := pc, addr := 64 * e.block }
  else s

/-- A read uncorrectable twice: latched, logged, its row queued for repair; the block goes on reporting MEM_UE
(R393). -/
def State.failRead (s : State) (block pc : Nat) : State :=
  let page := pageOf s.mem.ecc block
  let row := (pc, bankOf page, rowOf page)
  let s := s.modMem (fun m =>
    { m.latchUe pc Code.memUe block with
      poison := if m.poison.contains block then m.poison else m.poison ++ [block],
      repairs := if m.repairs.contains row then m.repairs else m.repairs ++ [row] })
  s.log { status := Code.memUe, unit := 4, index := pc, addr := 64 * block }

/-- Where a read's bytes go: to its requester, with the bytes of the write entry that it found (R388), or into the write entry
that is drained (R389). -/
def Mem.deliverRead (m : Mem) (e : MemRead) (data : List Byte) (bad : Bool) : Mem :=
  match e.use with
  | .drain =>
    m.modPc (pcOf e.block) (fun p => { p with wq := p.wq.map (fun w =>
      if w.block = e.block then { w with reading := false, filled := some bad } else w) })
  | .port =>
    { m with given := m.given ++
               [{ port := e.port, block := e.block, at_ := e.at_, data := mergeBytes e.fwd data, bad := bad }],
             fwdPartial := if e.fwd.isEmpty then m.fwdPartial else satAdd m.fwdPartial 1 }
  | .scrub => { m with fwdPartial := if e.fwd.isEmpty then m.fwdPartial else satAdd m.fwdPartial 1 }

/-- MEM_READ_RETURN (R393): the oldest read on its way from a pseudo-channel's DRAM returns, once its second burst has been
issued, with these errors; uncorrectable, it is queued again before all others, for a fresh activate. -/
def execMemReadReturn (pc : PcId) (errors : List (Nat × Byte)) (s : State) : Outcome :=
  .next (
    let n := pc.toNat
    let p := s.mem.pc n
    match p.flight with
    | [] => s
    | e :: rest =>
      if rest.isEmpty && p.burst.any (·.read) then s
      else
        let d := e.decode s.mem.ecc errors
        let data := e.result errors d
        let s := s.modMem (fun m => m.modPc n (fun p => { p with flight := rest }))
        if d = .bad then
          if e.retry then (s.failRead e.block n).modMem (fun m => m.deliverRead e data true)
          else (s.memEvent 7 1).modMem (fun m => m.modPc n (fun p => { p with rq := { e with retry := true } :: p.rq }))
        else (s.passRead e data d n).modMem (fun m => m.deliverRead e data false))

/-- aclk ticks in which the patrol scrub reads every block once; more than 168 hours act as 168 (R394, R397). -/
def Mem.scrubPeriod (m : Mem) : Nat := min m.scrubHours.toNat 168 * 3600 * 150000000

/-- The next block's turn has come: the reads are spread over the period. -/
def State.scrubDue (s : State) : Bool :=
  s.mem.scrubHours != 0 && decide (s.mem.scrubDone * s.mem.scrubPeriod ≤ (s.now - s.mem.scrubFrom).toNat * s.mem.blocks)

/-- The patrol scrub goes to the next block; a period ends with the last. -/
def Mem.nextScrub (m : Mem) : Mem :=
  let m := { m with scrubAt := (m.scrubAt + 1) % m.blocks, scrubDone := m.scrubDone + 1 }
  if m.scrubDone < m.blocks then m
  else { m with scrubDone := 0, scrubFrom := m.scrubFrom + BitVec.ofNat 64 m.scrubPeriod }

/-- PATROL_SCRUB (R394): when its turn has come, the next block's read sets out through port 23; what it finds comes with
MEM_READ_RETURN. -/
def execPatrolScrub (_ : Unit) (s : State) : Outcome :=
  .next (
    if !s.mem.trained || !s.scrubDue then s
    else (s.portEvent 23 5 1).modMem (fun m =>
      (m.request 23 { block := m.scrubAt, write := none, scrub := true }).nextScrub))

/-! ## Repair (R396) -/

/-- SOFT_ROW_REPAIR (R396): the first queued row is taken; its bank is held, or the repair refused. -/
def execSoftRowRepair (s : State) : Outcome :=
  .next (
    match s.mem.repairs with
    | [] => s
    | (pc, b, row) :: rest =>
      if ((s.mem.pc pc).bank b).held.isSome || !s.mem.trained then s
      else
        let s := s.modMem (fun m => { m with repairs := rest })
        if Config.spareRows ≤ tgetD s.mem.rows (64 * pc + b) 0 then
          s.log { status := Code.memNoSpare, unit := 4, index := pc, addr := row }
        else s.modMem (fun m => m.modPc pc (fun p => p.modBank b (fun k => { k.closed with held := some p.clk }))))

/-- ROW_REPAIR_DONE (R396): 2 µs later the row is written back and its bank released. -/
def execRowRepairDone (pc : PcId) (bank : BankId) (s : State) : Outcome :=
  .next (
    let p := s.mem.pc pc.toNat
    match (p.bank bank.toNat).held with
    | none => s
    | some t =>
      if p.clk < t + tRepair s.pwr.pstate.toNat then s
      else
        let s := s.modMem (fun m =>
          { m.modPc pc.toNat (fun p => p.modBank bank.toNat (fun k => { k with held := none })) with
            rows := tup m.rows (64 * pc.toNat + bank.toNat) 0 (· + 1) })
        s.log { status := Code.memRowSpared, unit := 4, index := pc.toNat, addr := bank.toNat })

/-- The spare that serves a lane: its DQ half, or its channel's command/address spare. -/
def spareOf (pc lane : Nat) : Nat := if lane < 32 then 2 * pc + lane / 16 else 256 + pc / 2

/-- LANE_PARITY_LIMIT (R396): the lane is remapped at the next start. -/
def execLaneParityLimit (pc : PcId) (lane : BitVec 6) (s : State) : Outcome :=
  .next (
    let k := (spareOf pc.toNat lane.toNat, lane.toNat)
    if !s.mem.trained || s.mem.laneMarks.contains k then s
    else s.modMem (fun m => { m with laneMarks := m.laneMarks ++ [k] }))

/-- Training at a start maps the marked lanes to their spares, one to each half or channel (R396); false: some half
or channel has two failing lanes. -/
def State.remapLanes (s : State) : List (Nat × Nat) → State × Bool
  | [] => (s.modMem (fun m => { m with laneMarks := [] }), true)
  | (k, lane) :: r =>
    match tget s.mem.lanes k with
    | some l => if l = lane then s.remapLanes r else (s, false)
    | none =>
      ((s.modMem (fun m => { m with lanes := tset m.lanes k lane })).log
        { status := Code.memLaneSpared, unit := 4, index := k, addr := lane }).remapLanes r

/-! ## Starts (R391, R394, R397) -/

/-- The controllers at the beginning of a start: what the stacks keep stays, and what always-on storage keeps; with that storage
empty, its values are the reset values (R391, R394, R396). -/
def Mem.atStart (m : Mem) (aon : Bool) : Mem :=
  let m := if aon then m
    else { m with eccNext := true, nrNext := NrCtl.reset, nrSeedNext := 0, rows := [], lanes := [], laneMarks := [] }
  { Mem.reset with dram := m.dram, poison := m.poison, ecc := m.ecc, eccNext := m.eccNext, nrNext := m.nrNext, nr := m.nr,
                   nrSeedNext := m.nrSeedNext, nrSeed := m.nrSeed, scrubAt := m.scrubAt, trained := m.trained,
                   trainWarm := m.trainWarm, rows := m.rows, lanes := m.lanes, laneMarks := m.laneMarks }

/-- What every start applies as the controllers come into service: the neighbour-refresh settings written before it, a seed that
FREE mode draws (R391), and the clocks of refresh and scrub. -/
def Mem.inService (m : Mem) (entropy now : W64) : Mem :=
  { m with nr := m.nrNext, nrSeed := if m.nrNext.seeded then m.nrSeedNext else entropy, served := now, scrubFrom := now }

/-- A cold start: inline ECC as written, full training, every byte 0 (R394, R396, R500). -/
def Mem.coldStart (m : Mem) (entropy now : W64) : Mem :=
  { m.inService entropy now with dram := [], poison := [], ecc := m.eccNext, trained := true, trainWarm := false, scrubAt := 0 }

/-- A warm start restores the saved training (R396). -/
def Mem.warmStart (m : Mem) (entropy now : W64) : Mem := { m.inService entropy now with trainWarm := true }

/-- The on-die error counts of the four stacks are read and logged; the spec gives neither the counts nor a code (R378; log
entry 139). -/
def State.logOnDie (s : State) : State :=
  (List.range 4).foldl (fun s i =>
    let d := s.draw
    d.1.log { status := Code.ok, unit := 4, index := i, addr := d.2.toNat }) s

/-! ## Registers (R397) -/

def Mem.ueWord (m : Mem) : Nat := bit m.ueValid * 2 ^ 31 + m.uePc.toNat * 2 ^ 24 + m.ueCode.toNat

/-- Low and high words of a 64-bit value, as an access reaches them (R407). -/
def readPart (p : ReadPart) (lo hi : Nat) : Nat × Nat :=
  match p with
  | .low => (4, lo)
  | .high => (4, hi)
  | .both => (8, hi * 2 ^ 32 + lo)

/-- MEM_FWD_READ (R397): an access clears the counts that it reaches. -/
def execMemFwdRead (part : ReadPart) (s : State) : Outcome :=
  .next (
    if !s.regsUp then s
    else
      let v := readPart part s.mem.fwdFull.toNat s.mem.fwdPartial.toNat
      (s.reply v.1 v.2).modMem (fun m =>
        { m with fwdFull := if part = .high then m.fwdFull else 0,
                 fwdPartial := if part = .low then m.fwdPartial else 0 }))

/-- MEM_CE_READ (R397). -/
def execMemCeRead (s : State) : Outcome :=
  .next (if !s.regsUp then s
    else (s.reply 4 s.mem.ce.toNat).modMem (fun m => { m with ce := 0 }))

/-- MEM_UE_READ (R397): clears the latch; MEM_UE_ADDR takes its address. -/
def execMemUeRead (s : State) : Outcome :=
  .next (if !s.regsUp then s
    else (s.reply 4 s.mem.ueWord).modMem (fun m =>
      { m with ueValid := false, uePc := 0, ueCode := 0, uePend := 0, ueAddr := if m.ueValid then m.uePend else 0 }))

/-- MEM_REG_WAIT_READ (R397). -/
def execMemRegWaitRead (port : MemPort) (s : State) : Outcome :=
  .next (
    if !s.regsUp then s
    else match s.mem.ports[port.toNat]? with
      | none => s.reply 4 0
      | some p =>
        (s.reply 4 p.wait.toNat).modMem (fun m =>
          { m with ports := lmod m.ports port.toNat (fun p => { p with wait := 0 }) }))

end Sys2Proof.Machine
end

