-- ==== Sys2Proof/Machine/Porch.lean ====
section
/-!
DEFINITION. The Porch: device reads, Bus Master Enable, configuration space, the window, MSI-X, INTx and error
reporting (chapter 15).
-/
namespace Sys2Proof.Machine

/-! ## Device reads (R411 to R413) -/

/-- The ring that issued a read; none for the mailbox (R412). -/
def ReadFor.ring : ReadFor → Option Nat
  | .slot r => some r
  | .rest r => some r
  | .payload r _ => some r
  | .mailbox => none

/-- AER bits of R421 (PCI Express's own places, PRESUMED). -/
def aerDlp : Nat := 4
def aerPoison : Nat := 12
def aerFcp : Nat := 13
def aerTimeout : Nat := 14
def aerUnexpected : Nat := 16
def aerOverflow : Nat := 17
def aerMalformed : Nat := 18
def aerEcrc : Nat := 19
def aerAdvisory : Nat := 13

def State.modPorch (s : State) (f : Porch → Porch) : State := { s with porch := f s.porch }

/-- Takes a read off the outstanding list. -/
def Porch.dropRead (p : Porch) (tag : Nat) : Porch := { p with reads := p.reads.filter (fun r => r.tag != tag) }

/-- Gives up a read's tag (R412). -/
def Porch.abandon (p : Porch) (r : DevRead) : Porch :=
  { p.dropRead r.tag with abandoned := p.abandoned ++ [(r.tag, r.what.ring)] }

/-- Bytes of the same read are still to come. -/
def Porch.awaits (p : Porch) (w : ReadFor) : Bool :=
  p.reads.any (fun r => r.what == w && !r.stale) || p.backlog.any (fun h => h.isFor w) || p.queue.any (fun h => h.isFor w)

/-- Requests that waited are issued as earlier ones end (R399). -/
def State.pumpReads (s : State) : State :=
  if !s.porch.cfg.bme then s
  else
    let n := maxReads - s.porch.reads.length
    let go := s.porch.backlog.take n
    let s := s.modPorch (fun p => { p with backlog := p.backlog.drop n })
    go.foldl (fun s h => match h with
      | .read w a len off again => s.issueRead w a len off again
      | _ => s) s

/-- An error bit of Status (R401; PCI Express's own places, PRESUMED, log entry 123). -/
def Porch.noteStatus (p : Porch) (i : Nat) : Porch := { p with cfg := { p.cfg with status := setBit p.cfg.status i } }

/-- A poisoned TLP was received: Detected Parity Error, and for a completion Master Data Parity Error when Parity Error Response
is 1 (R401, R421; PRESUMED, log entry 123). -/
def Porch.rxPoison (p : Porch) (completion : Bool) : Porch :=
  let p := (p.aerUnc aerPoison).noteStatus 15
  if completion && p.cfg.per then p.noteStatus 8 else p

/-- The packet waiting for the mailbox payload. -/
def State.finishMbox (s : State) (code : W32) : State :=
  match s.hearth.mbox with
  | some o => s.finish mboxRing o.id code
  | none => s

/-- The data of a read go to what it was issued for. -/
def State.deliverRead (s : State) (w : ReadFor) (d : List Byte) : State :=
  match w with
  | .slot ring => s.fetched ring false d
  | .rest ring => s.fetched ring true d
  | .payload ring id => (s.record 3 d).modOp ring id (fun o => { o with payload := .arrived d })
  | .mailbox =>
    { s with hearth := { s.hearth with mbox := s.hearth.mbox.map (fun o => { o with payload := .arrived d }) } }

/-- The pieces of a read in ascending offset. -/
def joinParts (ps : List (ReadFor × Nat × List Byte)) : List Byte :=
  ((ps.map (·.2)).insertionSort (fun a b => a.1 ≤ b.1)).flatMap (·.2)

/-- Data of one request arrive: with the last of a read's requests the whole goes to what it was read for (R399). -/
def State.takePiece (s : State) (r : DevRead) (d : List Byte) : State :=
  let mine := s.porch.parts.filter (fun x => x.1 == r.what) ++ [(r.what, r.off, padTo r.len d)]
  let others := s.porch.parts.filter (fun x => x.1 != r.what)
  if s.porch.awaits r.what then s.modPorch (fun p => { p with parts := others ++ mine })
  else (s.modPorch (fun p => { p with parts := others })).deliverRead r.what (joinParts mine)

/-- A ring faults through a packet's payload read; that packet's record carries the code (R80, R412). Packets wholly fetched
behind it are still dispatched: the spec says only that fetching stops (DESIGN CHOICE, log entry 122). -/
def State.payloadFault (s : State) (ring id : Nat) (code : W32) : State :=
  let idx := ((s.findOp ring id).map (·.idx)).getD 0
  (s.modRing ring (fun c =>
    if c.state == .active then
      { c with state := .faulted, fault := code, faultIdx := idx, reading := false, head := [], pendFault := 0 }
    else c)).finish ring id code

/-- A read has failed for the second time: the ring that issued it faults; CONFIGURE completes with CFG_READ
(R412, R507). -/
def State.readFailed (s : State) (r : DevRead) (code : W32) : State :=
  let s := s.modPorch (·.dropWhat r.what)
  match r.what with
  | .slot ring => s.fetchFailed ring code
  | .rest ring => s.fetchFailed ring code
  | .payload ring id => s.payloadFault ring id code
  | .mailbox => s.finishMbox Code.cfgRead

/-- A completion with status UR or CA (R413). -/
def State.readRejected (s : State) (r : DevRead) : State :=
  let s := s.modPorch (·.dropWhat r.what)
  match r.what with
  | .slot ring => s.fetchFailed ring Code.readRejected
  | .rest ring => s.fetchFailed ring Code.readRejected
  | .payload ring id => s.finish ring id Code.readRejected
  | .mailbox => s.finishMbox Code.cfgRead

/-- The first failure of a read: reissued once, with a new tag and a fresh timer (R412). -/
def State.retryRead (s : State) (r : DevRead) : State :=
  ((s.modPorch (·.abandon r)).porchErr Code.readRetry r.what.ring).readPiece r.what r.addr r.len r.off true

/-- A completion of a device read arrives (R412, R413, R414). -/
def State.readCompletion (s : State) (tag : Nat) (status : CplStatus) (data : List Byte) : State :=
    match s.porch.reads.find? (fun r => r.tag == tag) with
    | some r =>
      if r.stale then s.modPorch (·.dropRead tag)
      else match status with
        | .sc => (s.modPorch (·.dropRead tag)).takePiece r data
        | .poisoned =>
          let s := s.modPorch (·.rxPoison true)
          if r.again then
            ((s.modPorch (·.abandon r)).porchErr Code.readPoison r.what.ring).readFailed r Code.readPoison
          else
            (s.modPorch (fun p => { p with retryPoison := satAdd p.retryPoison 1 })).retryRead r
        | .ur => ((s.modPorch (fun p => (p.dropRead tag).noteStatus 13)).porchErr Code.readRejected r.what.ring).readRejected r
        | .ca => ((s.modPorch (fun p => (p.dropRead tag).noteStatus 12)).porchErr Code.readRejected r.what.ring).readRejected r
    | none =>
      let s := s.modPorch (fun p => (p.aerUnc aerUnexpected).aerCor aerAdvisory)
      match s.porch.abandoned.find? (fun a => a.1 == tag) with
      | some a =>
        (s.modPorch (fun p => { p with abandoned := p.abandoned.filter (fun b => b.1 != tag) })).porchErr
          Code.unexpectedCpl a.2
      | none => s

/-- The timer of an outstanding read has run out (R411, R412). -/
def State.readTimeout (s : State) (tag : Nat) : State :=
    match s.porch.reads.find? (fun r => r.tag == tag) with
    | none => s
    | some r =>
      if r.stale || !s.passed r.issued r.timer then s
      else
        let s := s.modPorch (·.aerUnc aerTimeout)
        if r.again then
          ((s.modPorch (·.abandon r)).porchErr Code.readTimeout r.what.ring).readFailed r Code.readTimeout
        else
          (s.modPorch (fun p => { p with retryTimeout := satAdd p.retryTimeout 1 })).retryRead r

/-! ## MSI-X and INTx (R416 to R420) -/

def msixDefault : MsixEntry := { addr := 0, data := 0, masked := true }

def Porch.entry (p : Porch) (v : Nat) : MsixEntry := tgetD p.msix v msixDefault

/-- The message of a vector, as the entry holds it now (R417). -/
def State.sendMsi (s : State) (v : Nat) : State :=
  let e := s.porch.entry v
  s.hostWrite e.addr.toNat (le32 e.data) false

/-- INTx stands in for MSI-X (R418). -/
def State.intxMode (s : State) : Bool := s.glb.compat || !s.porch.cfg.msixEnable

/-- A message that a vector owes is sent, left pending, held or turned into a PORCH_INTX_PEND bit (R414, R417,
R418). -/
def State.postMsi (s : State) (v : Nat) : State :=
  if s.intxMode then s.modPorch (fun p => { p with intx := setBit p.intx v })
  else if s.porch.cfg.funcMask || (s.porch.entry v).masked then
    s.modPorch (fun p => { p with pba := setBit p.pba v })
  else if !s.porch.cfg.bme then s.modPorch (·.hold (.msi v))
  else s.sendMsi v

/-- MSIX_MESSAGE (R417, R418): a vector owes a message for records written. Under INTx the bit is set only once
no record is held. -/
def execMsixMessage (vector : VectorId) (s : State) : Outcome :=
  .next (
    let v := vector.toNat
    if !s.porch.owed.getLsbD v || s.silent then s
    else if s.intxMode && !s.porch.queue.isEmpty then s
    else (s.modPorch (fun p => { p with owed := clearBit p.owed v })).postMsi v)

/-- A pending vector that nothing masks any more sends its single message (R417). -/
def State.releaseMsi (s : State) (v : Nat) : State :=
  if s.porch.pba.getLsbD v && !s.porch.cfg.funcMask && !(s.porch.entry v).masked && s.porch.cfg.msixEnable
      && !s.silent then
    (s.modPorch (fun p => { p with pba := clearBit p.pba v })).postMsi v
  else s

/-- The host writes an entry of the MSI-X table; a vector that it unmasks sends its pending message. -/
def State.msixPut (s : State) (v : Nat) (f : MsixEntry → MsixEntry) : State :=
  (s.modPorch (fun p => { p with msix := tup p.msix v msixDefault f })).releaseMsi v

/-- MSIX_VECTOR_UNMASK (R417): the host clears the vector's mask bit. -/
def execMsixVectorUnmask (vector : VectorId) (s : State) : Outcome :=
  .next (s.hostWriteReg (fun s => s.msixPut vector.toNat (fun e => { e with masked := false })))

/-- INTX_ASSERT (R419). -/
def execIntxAssert (s : State) : Outcome :=
  .next (
    if s.porch.intx != 0 && !s.porch.cfg.intDis && !s.porch.inta && !s.silent then
      { s.modPorch (fun p => { p with inta := true }) with out := s.out ++ [.inta true] }
    else s)

/-- INTX_DEASSERT (R419). -/
def execIntxDeassert (s : State) : Outcome :=
  .next (
    if (s.porch.intx = 0 || s.porch.cfg.intDis) && s.porch.inta && !s.silent then
      { s.modPorch (fun p => { p with inta := false }) with out := s.out ++ [.inta false] }
    else s)

/-- A W1C write of PORCH_INTX_PEND[k]. -/
def State.intxClear (s : State) (k : Nat) (v : W32) : State :=
  s.modPorch (fun p => { p with intx := p.intx &&& ~~~((v.setWidth 2048) <<< (32 * k)) })

/-- INTX_PEND_CLEAR (R420, R423). -/
def execIntxPendClear (k : BitVec 6) (value : W32) (s : State) : Outcome :=
  .next (s.hostWriteReg (fun s => s.intxClear k.toNat value))

/-! ## Bus Master Enable (R403, R414, R415) -/

/-- Bus Master Enable clears: reads outstanding are to be discarded and reissued; a hold begins if a request
waits (R414, R415). -/
def State.bmeClear (s : State) : State :=
  if !s.porch.cfg.bme then s
  else
    s.modPorch (fun p =>
      let again := (p.reads.filter (fun r => !r.stale)).map (fun r => Held.read r.what r.addr r.len r.off r.again)
      let stale := p.reads.map (fun r => { r with stale := true })
      let p := { p with cfg := { p.cfg with bme := false }, reads := stale, backlog := [],
                        queue := p.queue ++ again ++ p.backlog }
      p.beginHold)

/-- A held request is issued (R415). -/
def State.issueHeld (s : State) (h : Held) : State :=
  match h with
  | .write a d ro => s.hostWrite a.toNat d ro
  | .read w a n off again => s.issueRead w a n off again
  | .msi v => s.postMsi v

/-- Bus Master Enable sets: the hold ends and the held requests are issued in order (R415); after HOST_LOSS they
stay held. -/
def State.bmeSet (s : State) : State :=
  if s.porch.cfg.bme then s
  else if s.porch.lost then s.modPorch (fun p => { p with cfg := { p.cfg with bme := true } })
  else
    let q := s.porch.queue
    let wasHeld := s.porch.held
    let s := s.modPorch (fun p => { p with cfg := { p.cfg with bme := true }, held := false, queue := [] })
    let s := q.foldl State.issueHeld s
    if wasHeld then s.porchErr Code.bmeHold none else s

/-- HOST_LOSS (R415): the hold has reached hostloss_ms. -/
def execHostLoss (s : State) : Outcome :=
  .next (
    if !s.porch.held || s.porch.lost || s.porch.holdMs.toNat < s.porch.hostlossMs.toNat then s
    else
      let s := s.modPorch (fun p => { p with lost := true })
      (s.porchLatch Code.hostLoss none).fatal { status := Code.hostLoss, unit := 9 })

/-! ## Configuration space (R401 to R405, R417, R421, R534)

Fields inside a capability, and the places and reset values that the tables of R401 and R402 do not give, are PCI Express's own
(PRESUMED, log entry 123). -/

/-- Configuration space responds: not in OFF, and only while the link is up (R20, R498). -/
def State.cfgUp (s : State) : Bool := s.glb.dev != .off && s.porch.up

/-- The PowerState field: 3 is D3hot, 0 is D0; the absent states are ignored (R399, R403). -/
def State.powerState (s : State) (value : Nat) : State :=
  if value = 3 && !s.porch.cfg.d3 then
    let s := s.modPorch (fun p =>
      { p with cfg := { p.cfg with d3 := true, saved := (p.cfg.mse, p.cfg.bme), mse := false } })
    s.bmeClear
  else if value = 0 && s.porch.cfg.d3 then
    let was := s.porch.cfg.saved
    let s := s.modPorch (fun p => { p with cfg := { p.cfg with d3 := false, mse := was.1 } })
    if was.2 then s.bmeSet else s
  else s

/-- The host writes Bus Master Enable: only while configuration space responds, and in D3hot into the value that D0 restores
(R403, R414, R415). -/
def State.writeBme (s : State) (on : Bool) : State :=
  if !s.cfgUp then s
  else if s.porch.cfg.d3 then
    s.modPorch (fun p => { p with cfg := { p.cfg with saved := (p.cfg.saved.1, on) } })
  else if on then s.bmeSet
  else s.bmeClear

/-- BUS_MASTER_ENABLE_CLEAR (R414). -/
def execBusMasterEnableClear (s : State) : Outcome := .next (s.writeBme false)

/-- BUS_MASTER_ENABLE_SET (R415). -/
def execBusMasterEnableSet (s : State) : Outcome := .next (s.writeBme true)

/-- POWER_STATE_WRITE (R403). -/
def execPowerStateWrite (value : BitVec 2) (s : State) : Outcome :=
  .next (if s.cfgUp then s.powerState value.toNat else s)

/-- The BAR Size field: ignored while Memory Space Enable is 1 or for a size not reported; it counts from 2^20 B (R405). -/
def State.barSize (s : State) (size : Nat) : State :=
  let n := size + 20
  if s.porch.cfg.mse || n < 28 || 37 < n then s
  else s.modPorch (fun p => { p with cfg := { p.cfg with barLog2 := n, bar4 := 0 } })

/-- BAR_SIZE_WRITE (R405). -/
def execBarSizeWrite (size : BitVec 6) (s : State) : Outcome :=
  .next (if s.cfgUp then s.barSize size.toNat else s)

/-- The new value of a register of `n` bytes at `reg`, after a write of `size` bytes at `off`; none where the write
does not reach it. -/
def overlay (reg n cur off size value : Nat) : Option Nat :=
  if off + size ≤ reg || reg + n ≤ off then none
  else
    let old := leBytes n cur
    let new := leBytes size value
    some (leNat ((List.range n).map (fun i =>
      if off ≤ reg + i ∧ reg + i < off + size then new.getD (reg + i - off) 0 else old.getD i 0)))

/-- The base bits of a BAR of 2^`k` bytes (R404). -/
def barMask (k v : Nat) : W64 := BitVec.ofNat 64 (v / 2 ^ k * 2 ^ k)

/-- The Command register's implemented bits (R401). -/
def ConfigSpace.command (c : ConfigSpace) : Nat :=
  2 * bit c.mse + 4 * bit c.bme + 64 * bit c.per + 256 * bit c.serr + 1024 * bit c.intDis

/-- The Status register: Interrupt Status (R420), Capabilities List, error bits (R401). -/
def Porch.statusWord (p : Porch) : Nat := 8 * bit (p.intx != 0) + 16 + p.cfg.status.toNat

/-- MSI-X Message Control: Table Size 2,047, Function Mask, MSI-X Enable, which reads 0 under COMPAT (R416, R418). -/
def State.msixControl (s : State) : Nat :=
  2047 + 16384 * bit s.porch.cfg.funcMask + 32768 * bit (s.porch.cfg.msixEnable && !s.glb.compat)

/-- PCI device identifier of the grade (R1). -/
def Part.deviceId (p : Part) : Nat := if p.grade112 then 0x4112 else 0x4096

/-- The header of an extended capability: identifier, version 1, next pointer (R402). -/
def extCap (id next : Nat) : Nat := id + 2 ^ 16 + next * 2 ^ 20

/-- The Type 0 header (R401), by aligned offset; fields that the table does not name read 0. -/
def State.cfgHeader (s : State) (o : Nat) : Nat :=
  let c := s.porch.cfg
  match o with
  | 0x00 => s.part.deviceId * 2 ^ 16 + 0x1F3A
  | 0x04 => s.porch.statusWord * 2 ^ 16 + c.command
  | 0x08 => 0x120000 * 2 ^ 8 + 0xB0
  | 0x10 => c.bar0.toNat % 2 ^ 32 + 4
  | 0x14 => c.bar0.toNat / 2 ^ 32
  | 0x18 => c.bar2.toNat % 2 ^ 32 + 4
  | 0x1C => c.bar2.toNat / 2 ^ 32
  | 0x20 => c.bar4.toNat % 2 ^ 32 + 12
  | 0x24 => c.bar4.toNat / 2 ^ 32
  | 0x2C => s.part.deviceId * 2 ^ 16 + 0x1F3A
  | 0x34 => 0x40
  | 0x3C => 0x0100 + c.intLine.toNat
  | _ => 0

/-- The capabilities below 0x100: Power Management, PCI Express, MSI-X (R399, R402, R411, R416). -/
def State.cfgCaps (s : State) (o : Nat) : Nat :=
  let c := s.porch.cfg
  match o with
  | 0x40 => 0x0003 * 2 ^ 16 + 0x5001
  | 0x44 => 8 + 3 * bit c.d3
  | 0x50 => 0x0002 * 2 ^ 16 + 0xA010
  | 0x54 => 2 + 2 ^ 5 + 2 ^ 15
  | 0x58 => (c.devStatus.toNat + 32 * bit (!s.porch.reads.isEmpty)) * 2 ^ 16 + c.devCtl.toNat
  | 0x5C => 6 + 16 * 2 ^ 4 + 2 * 2 ^ 10
  | 0x60 => (s.porch.rate.toNat + s.porch.width.toNat * 2 ^ 4) * 2 ^ 16 + c.linkCtl.toNat
  | 0x74 => 0xF + 2 ^ 16 + 2 ^ 17
  | 0x78 => c.devCtl2.toNat
  | 0x7C => 0x7E
  | 0x80 => c.linkCtl2.toNat
  | 0xA0 => s.msixControl * 2 ^ 16 + 0x0011
  | 0xA4 => 0x001F0000
  | 0xA8 => 0x001F8000
  | _ => 0

/-- The extended capabilities, in the order of R402; the header log and what the lane capabilities hold are free values (R402
names them and gives no content). -/
def State.cfgExt (s : State) (o : Nat) : Nat :=
  let c := s.porch.cfg
  match o with
  | 0x100 => extCap 0x0001 0x150
  | 0x104 => c.aerUnc.toNat
  | 0x108 => c.aerUncMask.toNat
  | 0x10C => c.aerUncSev.toNat
  | 0x110 => c.aerCor.toNat
  | 0x114 => c.aerCorMask.toNat
  | 0x118 => 2 ^ 5 + 2 ^ 7 + c.aerCtl.toNat
  | 0x150 => extCap 0x0003 0x160
  | 0x154 => s.part.serial.toNat % 2 ^ 32
  | 0x158 => s.part.serial.toNat / 2 ^ 32
  | 0x160 => extCap 0x0019 0x190
  | 0x190 => extCap 0x0026 0x1C0
  | 0x1C0 => extCap 0x002A 0x200
  | 0x200 => extCap 0x0031 0x220
  | 0x220 => extCap 0x0027 0x270
  | 0x270 => extCap 0x0025 0x280
  | 0x274 => 2 ^ 31 + 1
  | 0x280 => extCap 0x0015 0
  | 0x284 => 0x3FF * 2 ^ 12
  | 0x288 => 4 + 2 ^ 5 + (c.barLog2 - 20) * 2 ^ 8
  | _ =>
    if (0x11C ≤ o ∧ o < 0x150) ∨ (0x160 ≤ o ∧ o < 0x280) then (Config.cfgWord o s.free).toNat else 0

/-- The word at an aligned offset of configuration space (R401, R402). -/
def State.readConfig (s : State) (o : Nat) : Nat :=
  if o < 0x40 then s.cfgHeader o else if o < 0x100 then s.cfgCaps o else s.cfgExt o

/-- Applies `f` when a configuration write reaches a register. -/
def State.cfgReg (s : State) (w : Nat × Nat × Nat) (reg n cur : Nat) (f : Nat → State → State) : State :=
  match overlay reg n cur w.1 w.2.1 w.2.2 with
  | some v => f v s
  | none => s

/-- The Command register: Memory Space and Bus Master Enable, Parity, SERR#, Interrupt Disable (R401); in D3hot the two enables
stay clear, and the values written take effect at the return to D0 (R403; DESIGN CHOICE, log entry 123). -/
def State.cfgCommand (v : Nat) (s : State) : State :=
  let b (i : Nat) : Bool := field v i 1 = 1
  let s := s.modPorch (fun p => { p with cfg := { p.cfg with per := b 6, serr := b 8, intDis := b 10 } })
  if s.porch.cfg.d3 then s.modPorch (fun p => { p with cfg := { p.cfg with saved := (b 1, b 2) } })
  else
    let s := s.modPorch (fun p => { p with cfg := { p.cfg with mse := b 1 } })
    if b 2 then s.bmeSet else s.bmeClear

/-- MSI-X Message Control: bit 15 MSI-X Enable, ignored under COMPAT (R418), bit 14 Function Mask. Pending messages
go once nothing masks them (R417). -/
def State.cfgMsix (v : Nat) (s : State) : State :=
  let s := s.modPorch (fun p =>
    { p with cfg := { p.cfg with msixEnable := field v 15 1 = 1 && !s.glb.compat, funcMask := field v 14 1 = 1 } })
  if s.porch.pba = 0 || s.porch.cfg.funcMask || !s.porch.cfg.msixEnable then s
  else (List.range 2048).foldl State.releaseMsi s

def State.modCfg (s : State) (f : ConfigSpace → ConfigSpace) : State := s.modPorch (fun p => { p with cfg := f p.cfg })

/-- Bits of a register that the device implements. -/
def maskBits (m v : Nat) : Nat := Nat.land m v

/-- Errors of R421 among the uncorrectable and the correctable bits of AER. -/
def aerUncBits : Nat := 0x5F7010
def aerCorBits : Nat := 0x71C1

/-- A write of the AER capability and of the error bits: write 1 to clear; masks, severities and the ECRC enables (R399, R401,
R421). -/
def State.cfgErrors (s : State) (w : Nat × Nat × Nat) : State :=
  let c := s.porch.cfg
  let s := s.cfgReg w 0x06 2 0 (fun v s => s.modCfg (fun c => { c with status := c.status &&& ~~~(BitVec.ofNat 16 v) }))
  let s := s.cfgReg w 0x5A 2 0 (fun v s => s.modCfg (fun c => { c with devStatus := c.devStatus &&& ~~~(BitVec.ofNat 16 v) }))
  let s := s.cfgReg w 0x104 4 0 (fun v s => s.modCfg (fun c => { c with aerUnc := c.aerUnc &&& ~~~(BitVec.ofNat 32 v) }))
  let s := s.cfgReg w 0x108 4 c.aerUncMask.toNat (fun v s =>
    s.modCfg (fun c => { c with aerUncMask := BitVec.ofNat 32 (maskBits aerUncBits v) }))
  let s := s.cfgReg w 0x10C 4 c.aerUncSev.toNat (fun v s =>
    s.modCfg (fun c => { c with aerUncSev := BitVec.ofNat 32 (maskBits aerUncBits v) }))
  let s := s.cfgReg w 0x110 4 0 (fun v s => s.modCfg (fun c => { c with aerCor := c.aerCor &&& ~~~(BitVec.ofNat 32 v) }))
  let s := s.cfgReg w 0x114 4 c.aerCorMask.toNat (fun v s =>
    s.modCfg (fun c => { c with aerCorMask := BitVec.ofNat 32 (maskBits aerCorBits v) }))
  s.cfgReg w 0x118 4 c.aerCtl.toNat (fun v s =>
    s.modCfg (fun c => { c with aerCtl := BitVec.ofNat 32 (maskBits 0x140 v) }))

/-- A write of the capabilities' control registers (R399, R402, R405, R411, R417): PowerState, Device Control without Function
Level Reset, Device Control 2 without what R399 leaves out, Link Control, BAR Size, MSI-X. -/
def State.cfgControls (s : State) (w : Nat × Nat × Nat) : State :=
  let c := s.porch.cfg
  let s := s.cfgReg w 0x44 1 (3 * bit c.d3) (fun v s => s.powerState (field v 0 2))
  let s := s.cfgReg w 0x58 2 c.devCtl.toNat (fun v s => s.modCfg (fun c => { c with devCtl := BitVec.ofNat 16 (v % 2 ^ 15) }))
  let s := s.cfgReg w 0x60 2 c.linkCtl.toNat (fun v s =>
    s.modCfg (fun c => { c with linkCtl := BitVec.ofNat 16 (maskBits 0xC2 v) }))
  let s := s.cfgReg w 0x78 2 c.devCtl2.toNat (fun v s =>
    s.modCfg (fun c => { c with devCtl2 := BitVec.ofNat 16 (maskBits 0x100F v) }))
  let s := s.cfgReg w 0x80 2 c.linkCtl2.toNat (fun v s => s.modCfg (fun c => { c with linkCtl2 := BitVec.ofNat 16 v }))
  let s := s.cfgReg w 0x289 1 (c.barLog2 - 20) (fun v s => s.barSize (field v 0 6))
  s.cfgReg w 0xA2 2 (32768 * bit c.msixEnable + 16384 * bit c.funcMask) State.cfgMsix

/-- CONFIGURATION_WRITE (R401, R402, R411, R417): 1, 2 or 4 bytes at an offset of configuration space. Fields that the tables do
not name ignore it. -/
def execConfigurationWrite (offset size : Nat) (value : W32) (s : State) : Outcome :=
  .next (
    if !s.cfgUp then s
    else
      let w := (offset, size, value.toNat)
      let c := s.porch.cfg
      let s := s.cfgReg w 0x10 8 c.bar0.toNat (fun v s => s.modCfg (fun c => { c with bar0 := barMask 26 v }))
      let s := s.cfgReg w 0x18 8 c.bar2.toNat (fun v s => s.modCfg (fun c => { c with bar2 := barMask 23 v }))
      let s := s.cfgReg w 0x20 8 c.bar4.toNat (fun v s => s.modCfg (fun c => { c with bar4 := barMask c.barLog2 v }))
      let s := s.cfgReg w 0x3C 1 c.intLine.toNat (fun v s => s.modCfg (fun c => { c with intLine := BitVec.ofNat 8 v }))
      ((s.cfgErrors w).cfgControls w).cfgReg w 0x04 2 c.command State.cfgCommand)

/-! ## The window (R406, R407) -/

/-- WINDOW_READ (R406): HBM data below V, zeros above, a poisoned completion where a block reports MEM_UE (R421). -/
def execWindowRead (offset size : Nat) (s : State) : Outcome :=
  .next (
    if !s.regsUp || 2 ^ s.porch.cfg.barLog2 < offset + size then s
    else
      let v := s.vBytes
      let low := min size (v - offset)
      let bad := s.poisoned offset low && decide (0 < low)
      let d := s.hbmRead offset low ++ List.replicate (size - low) 0
      let s := { s with out := s.out ++ [.cpl d bad] }
      let s := if bad then s.porchErr Code.txPoison none else s
      if v < offset + size then s.porchErr Code.winRange none else s)

/-- WINDOW_WRITE (R406, R407): enabled bytes below V are written, those above discarded. -/
def execWindowWrite (offset : Nat) (data : List (Option Byte)) (s : State) : Outcome :=
  .next (
    if !s.regsUp || 2 ^ s.porch.cfg.barLog2 < offset + data.length then s
    else
      let v := s.vBytes
      let s := s.hbmWriteMasked offset (data.take (v - offset))
      if v < offset + data.length then s.porchErr Code.winRange none else s)

/-- HOST_POISONED_WRITE (R421): the data are discarded. -/
def execHostPoisonedWrite (s : State) : Outcome :=
  .next (if !s.regsUp then s else (s.modPorch (·.rxPoison false)).porchErr Code.rxPoison none)

/-! ## Link and protocol errors (R399, R421, R423) -/

/-- A rate, a width and a mode in which the link can train: 64.0 GT/s only in Flit Mode (R399). -/
def linkMode (rate : BitVec 4) (width : BitVec 5) (flit : Bool) : Bool :=
  [1, 2, 3, 4, 5, 6].contains rate.toNat && [1, 2, 4, 8, 16].contains width.toNat && (rate.toNat != 6 || flit)

/-- LINK_UP (R399, R500): the link has trained; below 64.0 GT/s or x16 it is degraded. -/
def execLinkUp (rate : BitVec 4) (width : BitVec 5) (flit : Bool) (s : State) : Outcome :=
  .next (
    if s.porch.up || s.glb.dev == .off || s.pins.perst || !linkMode rate width flit then s
    else
      let s := s.modPorch (fun p => { p with up := true, rate := rate, width := width, flit := flit })
      if rate.toNat < 6 || width.toNat < 16 then s.porchErr Code.linkDegraded none else s)

/-- LINK_RECOVERY (R421): a retrain in service. -/
def execLinkRecovery (s : State) : Outcome :=
  .next (
    if !s.porch.up then s
    else (s.modPorch (fun p => { p with recoveries := satAdd p.recoveries 1 })).porchErr Code.linkRecovery none)

/-- UNSUPPORTED_REQUEST (R421): memory requests are unsupported only while Memory Space Enable is 0. -/
def execUnsupportedRequest (kind : UrKind) (s : State) : Outcome :=
  .next (
    if !s.cfgUp || (kind == .memory && s.porch.cfg.mse) then s
    else { s.modPorch (·.aerUnc aerUnsupported) with out := s.out ++ [.unsupported] })

/-- MALFORMED_TLP (R421): the TLP is discarded and logged in AER. -/
def execMalformedTlp (kind : TlpError) (s : State) : Outcome :=
  .next (
    if !s.cfgUp then s
    else s.modPorch (·.aerUnc (match kind with
      | .malformed => aerMalformed
      | .ecrc => aerEcrc
      | .flowControl => aerFcp
      | .dataLink => aerDlp
      | .overflow => aerOverflow)))

/-- BAR_ACCESS (R407): a read of BAR0/1 of a bad size or alignment returns 0 and is logged. -/
def execBarAccess (offset size : Nat) (s : State) : Outcome :=
  .next (
    if !s.regsUp || ((size = 4 || size = 8) && offset % size = 0) then s
    else (s.reply size 0).porchErr Code.barAccess none)

/-! ## PORCH registers (R423) -/

def Porch.linkWord (p : Porch) : Nat :=
  bit p.up * 2 ^ 31 + bit p.flit * 2 ^ 30 + p.rate.toNat * 2 ^ 16 + p.width.toNat * 2 ^ 8 + p.recoveries.toNat

def Porch.errWord (p : Porch) : Nat := bit p.errValid * 2 ^ 31 + p.errCode.toNat

def Porch.errRingWord (p : Porch) : Nat :=
  match p.errRing with
  | some r => 2 ^ 31 + r
  | none => 0

def Porch.retryWord (p : Porch) : Nat := p.retryPoison.toNat * 2 ^ 16 + p.retryTimeout.toNat

/-- PORCH_LINK_READ (R423): clears recoveries. -/
def execPorchLinkRead (s : State) : Outcome :=
  .next (if !s.regsUp then s
    else (s.reply 4 s.porch.linkWord).modPorch (fun p => { p with recoveries := 0 }))

/-- PORCH_ERR_READ (R423): fixes PORCH_ERR_RING. -/
def execPorchErrRead (s : State) : Outcome :=
  .next (if !s.regsUp then s
    else (s.reply 4 s.porch.errWord).modPorch (fun p =>
      { p with errRing := if p.errValid then p.errPend else none, errValid := false, errCode := 0, errPend := none }))

/-- PORCH_RETRY_READ (R423). -/
def execPorchRetryRead (s : State) : Outcome :=
  .next (if !s.regsUp then s
    else (s.reply 4 s.porch.retryWord).modPorch (fun p => { p with retryPoison := 0, retryTimeout := 0 }))

end Sys2Proof.Machine
end

