-- ==== Sys2Proof/Machine/Start.lean ====
section
/-!
DEFINITION. Start-up, configuration, actions, the mailbox and firmware (chapters 20 and 21).
-/
namespace Sys2Proof.Machine

def State.modHearth (s : State) (f : Hearth → Hearth) : State := { s with hearth := f s.hearth }
def State.modGlobal (s : State) (f : Global → Global) : State := { s with glb := f s.glb }

/-! ## What a start discards and keeps (R501, R534) -/

/-- The configuration space after a reset of the function; the BAR4/5 size waits for the start (R405, R534). -/
def State.resetFunction (s : State) : State :=
  { s with
    porch := { s.porch with cfg := ConfigSpace.reset s.porch.cfg.barLog2, msix := [], up := false, flit := false,
                            rate := 0, width := 0 },
    hearth := { s.hearth with funcReset := true } }

/-- The Porch at the beginning of a start: held requests, reads and pending bits are discarded, its registers take
their reset values; configuration space, the MSI-X table and the link stay (R415, R423, R501, R534). -/
def Porch.atStart (p : Porch) : Porch :=
  { Porch.reset with cfg := p.cfg, msix := p.msix, up := p.up, flit := p.flit, rate := p.rate, width := p.width,
                     nextTag := p.nextTag }

/-- The recovery unit at the beginning of a start: the spares and retirements stay (R471, R481). -/
def Ras.atStart (r : Ras) : Ras :=
  { Ras.reset with spDec := r.spDec, spEnc := r.spEnc, spPll := r.spPll, retired := r.retired, rows := r.rows }

/-- The power block at the beginning of a start: P0, every register at its reset value; aclk runs on (R484). -/
def Pwr.atStart (p : Pwr) (part : Part) : Pwr :=
  { Pwr.reset part.grade112 (part.vid.getD 0 0) with aclk := p.aclk, aclkRem := p.aclkRem, intAclk := p.aclk,
                                                     spareActive := p.spareActive,
                                                     domains := if part.debug then setBit 0 40 else 0 }

/-- A fabric port at a start: DISABLED, but a FAILED port stays FAILED in a warm start (R426). -/
def Port.atStart (warm : Bool) (p : Port) : Port :=
  if warm && p.state == .failed then { Port.reset with state := .failed, spared := p.spared }
  else { Port.reset with spared := warm && p.spared }

def Fab.atStart (warm : Bool) (f : Fab) : Fab := { Fab.reset with ports := f.ports.map (Port.atStart warm) }

/-- What the Hearth keeps over a start: always-on storage and the images in force (R499, R525). -/
def Hearth.atStart (h : Hearth) : Hearth :=
  { Hearth.reset with aonValid := h.aonValid, fails := h.fails, lastFail := h.lastFail, preserve := h.preserve,
                      nextCold := h.nextCold, lastLayout := h.lastLayout, warm := h.warm, slotB := h.slotB,
                      start := h.start, startMs := h.startMs, funcReset := h.funcReset, images := h.images,
                      mismatch := [] }

/-- The video unit at a start: the pipes in service stay until a cold start tests them (R471). -/
def Video.atStart (v : Video) : Video :=
  { Video.reset with dec := v.dec, enc := v.enc, decSpare := v.decSpare, encSpare := v.encSpare }

/-- Every unit at the beginning of a start: rings, jobs, pools, graphs, streams, views, spans and dictionaries are
discarded and registers take their reset values (R501). An empty position stays OFFLINE until a fuse load assigns it a Room (R153). -/
def State.clearUnits (s : State) (warm : Bool) : State :=
  { s with
    glb := { s.glb with reason := .none, cause := 0, layout := none, stopped := false, armed := 0, vcomb := false },
    ring := { Rings.reset with nextOp := s.ring.nextOp },
    porch := s.porch.atStart, hearth := s.hearth.atStart, plan := Plan.reset,
    rooms := s.glb.grid.lost.foldl (fun t n => tset t n { Room.reset with state := .offline }) [],
    larder := Larder.reset, seqs := Seqs.reset, video := s.video.atStart, capt := Capt.reset, track := Track.reset,
    fab := s.fab.atStart warm, mem := s.mem.atStart s.hearth.aonValid, pwr := s.pwr.atStart s.part,
    ras := { s.ras.atStart with windowAt := s.now } }

/-- A start is cold (R499): it follows OFF or RESTART_COLD, or the kept values ask for it. -/
def State.startsCold (s : State) (asked : Bool) : Bool :=
  asked || s.hearth.nextCold || !s.hearth.aonValid || s.hearth.fails != 0

/-- A start begins (R498): the device is STARTING, units are cleared, next_cold is used up once read (R499). -/
def State.beginStart (s : State) (asked : Bool) : State :=
  let cold := s.startsCold asked
  let s := s.clearUnits (!cold)
  { s with glb := { s.glb with dev := .starting, override := s.glb.override && !cold },
           hearth := { s.hearth with nextCold := false, warm := !cold, start := some (!cold, .begin) } }

/-! ## Pins and supplies (R498, R519, R524 to R527, R532) -/

/-- OFF: nothing responds, everything but the kept values is lost (R20, R498, R525). -/
def State.goOff (s : State) : State :=
  let s := s.clearUnits false
  { s with glb := { s.glb with dev := .off, override := false },
           hearth := { s.hearth with start := none, images := [], funcReset := false },
           porch := Porch.reset, mem := { s.mem with dram := [], poison := [], trained := false },
           pwr := { s.pwr with domains := 0 },
           pins := { s.pins with thermtrip := false, tap := Tap.reset } }

/-- PG_IN_ASSERT (R526). -/
def execPgInAssert (s : State) : Outcome := .next { s with pins := { s.pins with pgIn := true } }

/-- PG_IN_DEASSERT (R498, R532): any state goes to OFF. -/
def execPgInDeassert (s : State) : Outcome :=
  .next { s.goOff with pins := { s.goOff.pins with pgIn := false } }

/-- PERST_ASSERT (R498, R534): outputs stop, the function is reset, a new start waits at its beginning. -/
def execPerstAssert (s : State) : Outcome :=
  .next (
    let s := { s with pins := { s.pins with perst := true } }
    if s.glb.dev == .off then s
    else
      let s := s.resetFunction.clearUnits true
      { s with glb := { s.glb with dev := .starting }, hearth := { s.hearth with start := none } })

/-- PERST_DEASSERT (R498, R499): from OFF with supplies good a cold start begins; a start held by PERST# begins. -/
def execPerstDeassert (s : State) : Outcome :=
  .next (
    let was := s.pins.perst
    let s := { s with pins := { s.pins with perst := false } }
    if !was then s
    else if s.glb.dev == .off then (if s.pins.pgIn then s.beginStart true else s)
    else if s.glb.dev == .starting && s.hearth.start.isNone then s.beginStart false
    else s)

/-- LINK_DOWN (R498, R534): the function is reset and a new start begins at once. -/
def execLinkDown (s : State) : Outcome :=
  .next (if s.glb.dev == .off || !s.porch.up then s else s.resetFunction.beginStart false)

/-- SUPPLY_FAULT (R524). -/
def execSupplyFault (s : State) : Outcome :=
  .next (if s.glb.dev == .off then s else s.fatal { status := Code.supplyFault })

/-- THERMTRIP_COMPARATOR (R532): the pin asserts without firmware. -/
def execThermtripComparator (s : State) : Outcome :=
  .next (if s.glb.dev == .off then s else { s with pins := { s.pins with thermtrip := true } })

/-- ALERT# is asserted (R519). -/
def State.alert (s : State) : Bool :=
  s.glb.dev == .held && (s.glb.reason == .fatal || s.glb.reason == .fwMismatch || s.glb.reason == .giveup)

/-! ## Cold and warm starts (R499 to R506) -/

/-- The four images of a slot authenticate, in kind order 1 to 4 (R504). -/
def slotOk (sl : List FlashImage) : Bool :=
  sl.map (·.kind) == [1, 2, 3, 4] && sl.all (·.authentic)

/-- Release number of a slot: the HEARTH image's seqno (R503). -/
def slotRank (sl : List FlashImage) : Nat := ((sl.head?).map (·.seqno.toNat)).getD 0

/-- The slot the boot ROM settles on (R504): false A, true B, with whether it was the second choice. -/
def chooseSlot (a b : List FlashImage) : Option (Bool × Bool) :=
  let first := decide (slotRank a < slotRank b)
  let sl (x : Bool) := if x then b else a
  if slotOk (sl first) then some (first, false)
  else if slotOk (sl (!first)) then some (!first, true)
  else none

def FlashImage.kept (i : FlashImage) : FwImage :=
  { kind := i.kind, stepLo := i.stepLo, stepHi := i.stepHi, ifver := i.ifver, seqno := i.seqno, length := i.length,
    qual := i.qual }

/-- The stepping (R2, R505). -/
def stepping : Byte := 0xB0

/-- The entries of the mismatch report, in check order (R505, R506). -/
def mismatches (im : List FwImage) : List (Byte × Byte × W16) :=
  (im.filter (fun i => stepping < i.stepLo || i.stepHi < stepping)).map (fun i => (i.kind, 0, stepping.setWidth 16))
    ++ im.flatMap (fun a => (im.filter (fun b => b.kind != a.kind && !a.qual.contains (b.kind, b.ifver))).map
        (fun b => (a.kind, b.kind, b.ifver)))

/-- Marks the start in progress. -/
def State.phase (s : State) (p : StartPhase) : State :=
  s.modHearth (fun h => { h with start := h.start.map (fun q => (q.1, p)) })

/-- Straps are sampled (R511). -/
def State.sampleStraps (s : State) : State :=
  s.modGlobal (fun g => { g with maint := s.pins.strapMaint, compat := s.pins.strapCompat })

/-- Step 1 and 2 of a cold start: fuse load, spare mapping and self-test (R500); none when START_SRAM fails it. -/
def State.fuseLoad (s : State) (r : ColdStartResult) : Option State :=
  let good := s.part.goodRooms &&& r.rooms
  if !gridOk s.part.e good || !r.sram then none
  else
    let plls := bit r.pll0 + bit r.pll1
    some { s.sampleStraps with
      glb := { s.sampleStraps.glb with grid := fuseGrid s.part.e good }, rooms := [],
      ras := { s.ras with spPll := if plls = 2 then 1 else 0, retired := 0, rows := [] },
      pwr := { s.pwr with spareActive := !r.pll0 } }

/-- Step 3: authentication and compatibility (R504, R505). -/
def State.firmware (s : State) (r : ColdStartResult) : State × Option W32 :=
  match chooseSlot r.slotA r.slotB with
  | none => (s, some Code.fwAuth)
  | some (b, second) =>
    let im := (if b then r.slotB else r.slotA).map FlashImage.kept
    let bad := mismatches im
    let s := s.modHearth (fun h => { h with slotB := b, images := im, mismatch := bad })
    let s := if second then s.log { status := Code.fwSlot, unit := 6 } else s
    (s, if bad.isEmpty then none else some Code.fwCompat)

/-- The lowest `n` numbers below `k` of a set, and the others of it. -/
def firstBits {w : Nat} (set : BitVec w) (n : Nat) : BitVec w × BitVec w :=
  let on := (List.range w).filter set.getLsbD
  ((on.take n).foldl setBit 0, (on.drop n).foldl setBit 0)

/-- The pipes that passed their tests are in service again: 16 decode and 4 encode pipes, the others spare (R471). -/
def State.coldUnits (s : State) (r : ColdStartResult) : State :=
  let d := firstBits r.decPipes 16
  let e := firstBits r.encPipes 4
  let count {w : Nat} (b : BitVec w) : Nat := ((List.range w).filter b.getLsbD).length
  { s with
    video := { s.video with dec := d.1, decSpare := d.2, enc := e.1, encSpare := e.2 },
    ras := { s.ras with spDec := BitVec.ofNat 2 (count d.2), spEnc := BitVec.ofNat 1 (count e.2) } }

/-- Steps 4 and 5: HBM training, test and zero-fill, unit initialisation (R500). -/
def State.coldTail (s : State) (r : ColdStartResult) : State :=
  if !r.train then s.phase (.failed Code.memTrain)
  else
    let (s, laneOk) := s.remapLanes (s.mem.laneMarks ++ r.lanes.map (fun l => (spareOf l.1.toNat l.2.toNat, l.2.toNat)))
    if !r.memSpare || !laneOk then s.phase (.failed Code.memNoSpare)
    else
      let s := (s.modMem (fun m => m.coldStart r.entropy s.now)).logOnDie
      let s := s.coldUnits r
      let s := if s.hearth.funcReset && s.porch.cfg.barLog2 != 28 then
          s.modPorch (fun p => { p with cfg := { p.cfg with barLog2 := 28, bar4 := 0 } })
        else s
      (s.modHearth (fun h => { h with funcReset := false, startMs := 1800 })).phase .passed

/-- COLD_START (R500): the steps of a cold start, with what they find; after OVERRIDE it resumes past the
compatibility step (R506). -/
def execColdStart (r : ColdStartResult) (s : State) : Outcome :=
  .next (
    match s.hearth.start with
    | some (false, .begin) =>
      match s.fuseLoad r with
      | none => s.sampleStraps.phase (.failed Code.startSram)
      | some s =>
        match s.firmware r with
        | (s, some c) => s.phase (.failed c)
        | (s, none) => s.coldTail r
    | some (_, .overridden) => s.coldTail r
    | _ => s)

/-- Bytes that the scrub of a warm start writes, in MiB (R501, R509). -/
def scrubMib (l : Layout) (preserve : Bool) : Nat := (if preserve then 0 else l.strong) + l.save + 1344

/-- A scrub writes zeros with valid checks over [lo, hi) (R501). -/
def Mem.scrub (m : Mem) (lo hi : Nat) : Mem :=
  { m with dram := m.dram.zero lo hi, poison := m.poison.filter (fun b => decide (b * 64 < lo) || decide (hi ≤ b * 64)) }

/-- The scrub of a warm start: zeros over the last layout's Strongroom (unless preserved), save region and device
regions (R501 step 5). -/
def State.warmScrub (s : State) : State :=
  match s.hearth.lastLayout with
  | none => s
  | some l =>
    let mib := 1048576
    let lo := if s.hearth.preserve then (l.win + l.strong) * mib else l.win * mib
    let hi := (l.win + l.strong + l.save + 1344) * mib
    { s with
      mem := s.mem.scrub lo hi,
      hearth := { s.hearth with
        preserved := if s.hearth.preserve then some (l.win, l.strong) else none,
        preserve := false,
        startMs := BitVec.ofNat 32 (112 + scrubMib l s.hearth.preserve * mib / 3200000000) } }

/-- WARM_START (R501). -/
def execWarmStart (r : WarmStartResult) (s : State) : Outcome :=
  .next (
    match s.hearth.start with
    | some (true, .begin) =>
      let s := s.sampleStraps
      if !r.train then s.phase (.failed Code.memTrainStale)
      else if !r.quick then s.phase (.failed Code.startQuick)
      else if !r.hashes then s.phase (.failed Code.fwHash)
      else
        let (s, laneOk) := s.remapLanes s.mem.laneMarks
        if !laneOk then s.phase (.failed Code.memNoSpare)
        else
          let s := (s.modMem (fun m => m.warmStart r.entropy s.now)).logOnDie
          let s := s.modHearth (fun h => { h with funcReset := false, startMs := 112 })
          s.warmScrub.phase .passed
    | _ => s)

def State.hold (s : State) (why : HeldReason) (code : W32) : State :=
  s.modGlobal (fun g => { g with dev := .held, reason := why, cause := Code.low code })

/-- START_STEP_FAIL (R498): the failed step's code decides between another cold start and HELD. -/
def execStartStepFail (code : W16) (s : State) : Outcome :=
  .next (
    match s.hearth.start with
    | some (_, .failed c) =>
      if Code.low c != code then s
      else
        let n := s.hearth.fails
        let s := s.log { status := c, unit := 6, action := if Code.cls c = 4 then 5 else 0 }
        let s := s.modHearth (fun h => { h with lastFail := code, start := none })
        let up (s : State) := s.modHearth (fun h => { h with fails := satAdd n 1 })
        if c = Code.fwCompat then s.hold .fwMismatch c
        else if Code.cls c = 4 then (up s).hold .fatal c
        else if n.toNat < 2 then (up s).beginStart true
        else ((up s).log { status := Code.startGiveup, unit := 6, action := 5 }).hold .giveup Code.startGiveup
    | _ => s)

/-- START_COMPLETE (R498): HELD UNCONFIGURED, fails cleared; a completed cold start is recorded (R499). -/
def execStartComplete (s : State) : Outcome :=
  .next (
    match s.hearth.start with
    | some (warm, .passed) =>
      let s := s.modHearth (fun h => { h with start := none, fails := 0, aonValid := h.aonValid || !warm })
      s.hold .unconfigured Code.ok
    | _ => s)

/-! ## Configuration (R507 to R510) -/

/-- C in MiB: MEM_CFG.cap_mib (R380). -/
def State.capMib (s : State) : Nat := if s.mem.ecc then 92160 else 98304

/-- The regions that follow the three sized ones: ring contexts, graph store, Larder records, track table (R509). -/
def deviceMib : Nat := 1344

/-- A layout comes into force (R509): PORCH_WIN takes V; what a preserved Strongroom holds outside the new one is
scrubbed. -/
def State.applyLayout (s : State) (l : Layout) (blob : List Byte) : State :=
  let mib := 1048576
  let s := match s.hearth.preserved with
    | none => s
    | some (base, size) =>
      let lo := base * mib
      let hi := (base + size) * mib
      let a := min hi (max lo (l.win * mib))
      let b := max lo (min hi ((l.win + l.strong) * mib))
      { s with mem := (s.mem.scrub lo a).scrub (max a b) hi }
  { s with glb := { s.glb with layout := some l },
           hearth := { s.hearth with lastLayout := some l, preserved := none, blob := blob } }

/-- The checks of the blob, in order (R508). -/
def State.blobChecks (s : State) (b : List Byte) : List (Bool × W32) :=
  let win := rd b 12 4
  let strong := rd b 16 4
  let save := rd b 20 4
  [ (rd b 0 4 == 0x47464E43 && rd b 4 2 == 1 && rd b 8 4 == 128 && zeroAt b 6 2 && zeroAt b 24 100, Code.cfgFormat),
    (crc32c (slice b 0 124) == rd32 b 124, Code.cfgCrc),
    (decide (win % 64 = 0 ∧ 256 ≤ win ∧ strong % 64 = 0 ∧ 64 ≤ strong ∧ save % 64 = 0
      ∧ win + strong + save + deviceMib ≤ s.capMib), Code.cfgRange) ]

/-- The default layout of MAINT_ENTER (R510). -/
def State.defaultLayout (s : State) : Layout :=
  { win := (s.capMib - 4096 - 1024 - deviceMib) / 64 * 64, strong := 4096, save := 1024 }

/-! ## Actions (R498, R502, R510, R511, R514) -/

/-- Action codes of HEARTH_ACTION (R514). -/
def actRestartWarm : Byte := 1
def actRestartCold : Byte := 2
def actDrain : Byte := 3
def actResume : Byte := 4
def actMaintEnter : Byte := 5
def actMaintExit : Byte := 6
def actOverride : Byte := 7

def State.setResult (s : State) (c : W32) : State := s.modHearth (fun h => { h with result := Code.low c })
def State.setDev (s : State) (d : DevState) : State := s.modGlobal (fun g => { g with dev := d, reason := .none })

/-- An action takes effect, or is refused with ACTION_STATE, MAINT_STRAP or FW_LOCKED (R498, R506, R511). -/
def State.applyAction (s : State) (a : Byte) : State :=
  let bad := s.setResult Code.actionState
  let ok := s.setResult Code.ok
  let drained := s.glb.dev == .held && s.glb.reason == .drained
  if s.glb.dev == .off then s
  else if a = actRestartWarm then ok.beginStart false
  else if a = actRestartCold then ok.beginStart true
  else if a = actDrain then
    if s.glb.dev == .serving || s.glb.dev == .maintenance then
      ((ok.modGlobal (fun g => { g with drainFrom := g.dev })).closeViews).setDev .draining
    else bad
  else if a = actResume then (if drained then ok.setDev s.glb.drainFrom else bad)
  else if a = actMaintEnter then
    if drained || (s.glb.dev == .held && s.glb.reason == .unconfigured) then
      let s := if s.glb.layout.isNone then ok.applyLayout s.defaultLayout [] else ok
      s.setDev .maintenance
    else bad
  else if a = actMaintExit then
    if s.glb.dev != .maintenance then bad
    else if s.glb.maint then s.setResult Code.maintStrap
    else ok.setDev .serving
  else if a = actOverride then
    if !(s.glb.dev == .held && s.glb.reason == .fwMismatch) then bad
    else if !s.part.debug then s.setResult Code.fwLocked
    else
      let s := ok.modGlobal (fun g => { g with dev := .starting, reason := .none, cause := 0, override := true })
      s.modHearth (fun h => { h with start := some (false, .overridden) })
  else bad

/-- A write of HEARTH_ACTION.action (RW-L, R11, R514): it needs the HEARTH block armed, and disarms it; while a
mailbox packet is served the action waits (R512). -/
def State.putAction (s : State) (a : Byte) : State :=
  if !s.glb.armed.getLsbD 14 then s
  else
    let s := s.modGlobal (fun g => { g with armed := clearBit g.armed 14 })
    let s := s.modHearth (fun h => { h with action := a })
    if s.hearth.mbox.isSome then s.modHearth (fun h => { h with actionWaits := some a })
    else s.applyAction a

/-- A write of HEARTH_ACTION on the host interface. -/
def State.hearthAction (s : State) (a : Byte) : State := s.hostWriteReg (fun s => s.putAction a)

/-- RESTART_WARM (R498). -/
def execRestartWarm (s : State) : Outcome := .next (s.hearthAction actRestartWarm)
/-- RESTART_COLD (R498). -/
def execRestartCold (s : State) : Outcome := .next (s.hearthAction actRestartCold)
/-- DRAIN (R502). -/
def execDrain (s : State) : Outcome := .next (s.hearthAction actDrain)
/-- RESUME (R498). -/
def execResume (s : State) : Outcome := .next (s.hearthAction actResume)
/-- MAINT_ENTER (R510). -/
def execMaintEnter (s : State) : Outcome := .next (s.hearthAction actMaintEnter)
/-- MAINT_EXIT (R511). -/
def execMaintExit (s : State) : Outcome := .next (s.hearthAction actMaintExit)
/-- OVERRIDE (R506). -/
def execOverride (s : State) : Outcome := .next (s.hearthAction actOverride)

/-- An action written while the mailbox was busy takes effect once the packet has completed (R512). -/
def State.afterMbox (s : State) : State :=
  match s.hearth.mbox, s.hearth.actionWaits with
  | none, some a => (s.modHearth (fun h => { h with actionWaits := none })).applyAction a
  | _, _ => s

/-- DEVICE_READ_COMPLETION (R412, R413, R414). -/
def execDeviceReadCompletion (tag : Nat) (status : CplStatus) (data : List Byte) (s : State) : Outcome :=
  .next (s.readCompletion tag status data).pumpReads.afterMbox

/-- COMPLETION_TIMEOUT (R411, R412). -/
def execCompletionTimeout (tag : Nat) (s : State) : Outcome := .next (s.readTimeout tag).pumpReads.afterMbox

/-! ## Mailbox packets (R507, R512 to R514) -/

/-- NOP (R69). -/
def execNop (src : Src) (s : State) : Outcome :=
  .next (s.withOp src 0x01 (fun o s => s.finish (srcRing src) o.id Code.ok)).afterMbox

/-- CONFIGURE (R507, R508): the blob is read whole and checked before anything is applied. -/
def execConfigure (src : Src) (s : State) : Outcome :=
  .next (s.withOp src 0x02 (fun o s =>
    let r := srcRing src
    let addr := rd o.bytes 24 8
    if r != mboxRing || !(s.glb.dev == .held && s.glb.reason == .unconfigured) then s.finish r o.id Code.cfgState
    else if rd o.bytes 16 4 != 128 || addr % 64 != 0 then s.finish r o.id Code.cfgFormat
    else s.withPayload r o false addr 128 (fun b s =>
      s.checked r o (s.blobChecks b) (fun s =>
        let s := s.applyLayout { win := rd b 12 4, strong := rd b 16 4, save := rd b 20 4 } b
        s.setDev (if s.glb.maint then .maintenance else .serving))))).afterMbox

def devCode : DevState → Nat
  | .off => 0
  | .starting => 1
  | .held => 2
  | .serving => 3
  | .maintenance => 4
  | .draining => 5

def reasonCode : HeldReason → Nat
  | .none => 0
  | .unconfigured => 1
  | .drained => 2
  | .fatal => 3
  | .fwMismatch => 4
  | .giveup => 5

/-- GLOBAL_DKEY (R450): CRC over one 8-byte entry per span in ascending identifier, the span count, dver 1, the
settings. -/
def State.dkey (s : State) (conceal : Bool) : W64 :=
  let list := s.fab.spans.flatMap (fun p => leBytes 4 p.1 ++ le32 p.2.crc)
  let crc := if list.isEmpty then 0 else (crc32c list).toNat
  BitVec.ofNat 64 (crc * 2 ^ 32 + s.fab.spans.length * 2 ^ 24 + 0x10000 + 2 * bit s.glb.vcomb + bit conceal)

/-- The QUERY blocks (R513). -/
def State.queryBlock (s : State) (what : Nat) : List Byte :=
  match what with
  | 0 => padTo 64
      (leBytes 2 0x1F3A ++ leBytes 2 s.part.deviceId ++ [stepping] ++ leBytes 1 s.part.rooms
        ++ leBytes 1 (devCode s.glb.dev) ++ leBytes 1 (reasonCode s.glb.reason) ++ le64 s.part.serial
        ++ le64 (s.dkey s.video.conceal) ++ leBytes 1 (bit s.hearth.warm) ++ leBytes 1 s.hearth.fails.toNat
        ++ leBytes 1 (bit s.hearth.slotB) ++ leBytes 1 (bit s.glb.override) ++ le32 s.hearth.startMs
        ++ leBytes 4 s.capMib ++ leBytes 4 ((s.glb.layout.map (·.win)).getD 0))
  | 1 => padTo 64 (s.hearth.images.flatMap (fun i =>
      [i.kind, i.stepLo, i.stepHi, BitVec.ofNat 8 i.qual.length] ++ le16 i.ifver ++ [0, 0] ++ le32 i.seqno
        ++ le32 i.length))
  | 2 => padTo 68 (if s.hearth.mismatch.isEmpty then []
      else leBytes 4 s.hearth.mismatch.length ++ s.hearth.mismatch.flatMap (fun e => [e.1, e.2.1] ++ le16 e.2.2))
  | _ => padTo 128 s.hearth.blob

/-- QUERY (R513): the block goes to host memory, or to HEARTH_REPORT; in STARTING only IDENT is served (R512; any
other block completes with QUERY_PARAM, log entry 14). -/
def execQuery (src : Src) (s : State) : Outcome :=
  .next (s.withOp src 0x03 (fun o s =>
    let r := srcRing src
    let what := rd o.bytes 16 1
    let dest := rd o.bytes 24 8
    if 3 < what || (r != mboxRing && dest % 64 != 0) || (s.glb.dev == .starting && what != 0) then
      s.finish r o.id Code.queryParam
    else
      let b := s.queryBlock what
      let s := if r = mboxRing then s.modHearth (fun h => { h with report := padTo 128 b }) else s.dataWrite dest b
      s.finish r o.id Code.ok)).afterMbox

/-- The check of a mailbox packet: NOP, CONFIGURE and QUERY of one slot, seq 0 (R512). -/
def mboxFault (b : List Byte) : Option W32 :=
  match packetFault false false b with
  | some c => some c
  | none =>
    if 3 < rd b 0 2 then some Code.pktOpcode
    else if rd b 4 4 != 0 then some Code.pktSequence
    else none

/-- A write of HEARTH_MBOX_STAT: go submits HEARTH_MBOX, and is ignored while busy. -/
def State.mailboxGo (s : State) (v : W32) : State :=
  if !v.getLsbD 0 || s.hearth.mbox.isSome then s
  else
    let b := s.hearth.mboxRegs.flatMap le32
    let id := s.ring.nextOp
    let o := mkOp id { idx := 0, bytes := b, bell := s.now, fault := 0 }
    let s := { s with ring := { s.ring with nextOp := id + 1 }, hearth := { s.hearth with mbox := some o } }
    match mboxFault b with
    | some c => s.finish mboxRing id c
    | none => s

/-- MAILBOX_GO (R512, R514). -/
def execMailboxGo (value : W32) (s : State) : Outcome := .next (s.hostWriteReg (fun s => s.mailboxGo value))

/-- HEARTH_MBOX_STAT's word. -/
def Hearth.mboxWord (h : Hearth) : Nat := bit h.mbox.isSome * 2 ^ 31 + bit h.done * 2 ^ 30

/-- HEARTH_MBOX_STAT_READ (R514): clears done. -/
def execHearthMboxStatRead (s : State) : Outcome :=
  .next (if !s.regsUp then s
    else (s.reply 4 s.hearth.mboxWord).modHearth (fun h => { h with done := false }))

end Sys2Proof.Machine
end

