-- ==== Sys2Proof/Machine/Power.lean ====
section
/-!
DEFINITION. Clocks, P-states, the power controller, thermal limits and energy (chapter 19).
-/
namespace Sys2Proof.Machine

def State.modPwr (s : State) (f : Pwr → Pwr) : State := { s with pwr := f s.pwr }

/-! ## The energy model (R491 to R493) -/

/-- rclk of a P-state in units of 75 MHz (R485). -/
def rclk75 (p : Nat) : Nat := 16 - p

/-- Coefficients counted in an interval: term 7 counts only in MEASURED mode (R493). -/
def counted (repeatable : Bool) (k : Nat) : Bool := !(repeatable && k = 7)

/-- Energy of the interval in units of fJ ÷ 850², over the coefficients that `pick` selects: reference
coefficients at the reference voltage of the P-state of each event (R491, R493). -/
def Pwr.intervalEnergy (p : Pwr) (pick : Nat → Bool) : Nat :=
  (p.counts.map (fun c =>
    let k := c.1 % 16
    let v := refMv (c.1 / 16)
    if pick k then (refCoef.getD k 0).toNat * c.2 * v * v else 0)).sum

/-- Dynamic and static parts (R493: terms 11 to 13 are static). -/
def Pwr.dynamic (p : Pwr) : Nat := p.intervalEnergy (fun k => k < 11 && counted p.modeNow k)
def Pwr.static (p : Pwr) : Nat := p.intervalEnergy (fun k => 11 ≤ k)

/-- Power × these units is 1 W over the nominal interval of 1,048,576 rclk (R491). -/
def wattDen : Nat := 850 * 850 * 1048576 * 10 ^ 15

/-- Numerator of the power of an interval energy in P-state `p` (R491). -/
def powerNum (e p : Nat) : Nat := e * rclk75 p * 75000000

/-- The prediction of R492 for P-state `q`, in whole watts as `uint64_t p_next` holds it (R490). In MEASURED mode
the parts are scaled to the measured total, given in 0.1 W. -/
def Pwr.predict (w : Pwr) (measured q : Nat) : Nat :=
  let p := w.pstate.toNat
  let shape := (w.dynamic * rclk75 q + w.static * rclk75 p) * refMv q * refMv q
  let base := rclk75 p * refMv p * refMv p
  if w.modeNow then powerNum shape p / (base * wattDen)
  else if w.dynamic + w.static = 0 then 0
  else measured * shape / (base * (w.dynamic + w.static) * 10)

/-- The thermal limit acts (R495): die at the throttle limit, or a stack at 95 °C. -/
def Pwr.hot (w : Pwr) : Bool := decide (w.throttle.toNat ≤ w.dieMax.toNat) || decide (95 ≤ w.hbmMax.toNat)

/-- P_int exceeds the cap (R490). -/
def Pwr.overCap (w : Pwr) (measured : Nat) : Bool :=
  if w.modeNow then decide (w.cap.toNat * wattDen < powerNum (w.dynamic + w.static) w.pstate.toNat)
  else decide (w.cap.toNat * 10 < measured)

/-- The controller's decision (R490). -/
def Pwr.decide (w : Pwr) (measured : Nat) : Nat :=
  let p := w.pstate.toNat
  let p' :=
    if w.hot then min 7 (p + 1)
    else if w.overCap measured && p < 7 then p + 1
    else if w.fast.toNat < p && w.predict measured (p - 1) * 100 ≤ w.cap.toNat * 95 then p - 1
    else p
  max w.fast.toNat (min w.slow.toNat p')

/-- The interval has ended (R490): 4,096 beats, or 1 ms of aclk. -/
def State.intervalOver (s : State) : Bool :=
  if s.pwr.modeNow then Nat.ble 4096 (s.plan.beat - s.pwr.intBeat).toNat
  else s.passed s.pwr.intAclk 150000

/-- POWER_INTERVAL_END (R490, R491): the decision of the interval; `measured` is the monitors' mean in 0.1 W. -/
def execPowerIntervalEnd (measured : Nat) (s : State) : Outcome :=
  .next (
    if s.glb.dev == .off || !s.intervalOver then s
    else
      let w := s.pwr
      let p := w.pstate.toNat
      let goal := w.decide measured
      let step : Option PStep :=
        if goal = p then w.next else some { goal_ := if p < goal then p + 1 else p - 1, at_ := 0 }
      let floor := w.overCap measured && p = 7
      let s := if floor && !w.floorRun then s.log { status := Code.capFloor, addr := w.intBeat.toNat } else s
      s.modPwr (fun w =>
        { w with next := step, floorRun := floor,
                 modelPower := satNat 16 (powerNum (w.dynamic + w.static) p * 10 / wattDen),
                 measuredPower := satNat 16 measured, counts := [], modeNow := w.repeatable,
                 intBeat := s.plan.beat, intAclk := s.now }))

/-- PSTATE_STEP_BEGIN (R486): a decided step begins at a beat boundary; towards a faster state the rail rises
first. -/
def execPstateStepBegin (s : State) : Outcome :=
  .next (
    match s.pwr.next, s.pwr.ramp with
    | some st, none =>
      s.modPwr (fun w =>
        { w with ramp := some { st with at_ := s.now }, next := none,
                 mv := if st.goal_ < w.pstate.toNat then s.part.vid.getD st.goal_ 0 else w.mv })
    | _, _ => s)

/-- aclk ticks that a step takes: towards a faster state 20 µs for the rail, then 1 µs for the ramp of the root (R486). -/
def PStep.ticks (st : PStep) (from_ : Nat) : Nat := (if st.goal_ < from_ then 21 else 1) * ticksPerUs

/-- PSTATE_STEP_END (R486): the P-state and its voltage are in force, the aclk divider with them. -/
def execPstateStepEnd (s : State) : Outcome :=
  .next (
    match s.pwr.ramp with
    | some st =>
      if !s.passed st.at_ (st.ticks s.pwr.pstate.toNat) then s
      else s.modPwr (fun w =>
        { w with pstate := BitVec.ofNat 3 st.goal_, mv := s.part.vid.getD st.goal_ 0, ramp := none })
    | none => s)

/-- MODEL_DEVIATION (R491): more than 7 % from the model over 1 s; only logged. -/
def execModelDeviation (measured model : Nat) (s : State) : Outcome :=
  .next (
    let d := if model ≤ measured then measured - model else model - measured
    if s.glb.dev == .off || d * 100 ≤ model * 7 then s
    else s.log { status := Code.modelDeviation, addr := s.pwr.intBeat.toNat })

/-- DROOP_DETECT (R487): the rclk divider goes to 5; each response is counted. -/
def execDroopDetect (s : State) : Outcome :=
  .next (
    if s.glb.dev == .off || s.pwr.droop then s
    else s.modPwr (fun w => { w with droop := true, droops := satAdd w.droops 1 }))

/-- DROOP_END (R487). -/
def execDroopEnd (s : State) : Outcome := .next (s.modPwr (fun w => { w with droop := false }))

/-! ## Thermal limits (R495, R532) -/

/-- Domains that a trip switches off: Room groups, decode pipes, encode pipes, Bigarlink ports (R488, R495). -/
def tripMask : BitVec 41 := 0x3FFF00FFFF

def byteMax (bs : List Byte) : Byte := bs.foldl (fun a b => if a.toNat < b.toNat then b else a) 0

/-- THERMAL_SAMPLE (R495): die sensors and stack temperatures are read; throttle, stack limit and trip. -/
def execThermalSample (die : List Byte) (temps : W32) (s : State) : Outcome :=
  .next (
    if s.glb.dev == .off then s
    else
      let dm := byteMax die
      let hm := byteMax (le32 temps)
      let s := s.modPwr (fun w => { w with dieMax := dm, hbmMax := hm })
      let th := Nat.ble s.pwr.throttle.toNat dm.toNat
      let hh := Nat.ble 95 hm.toNat
      let s := if th && !s.pwr.thermEp then s.log { status := Code.thermThrottle, addr := s.pwr.intBeat.toNat } else s
      let s := if hh && !s.pwr.hbmEp then s.log { status := Code.hbmHot, addr := s.pwr.intBeat.toNat } else s
      let s := s.modPwr (fun w => { w with thermEp := th, hbmEp := hh })
      if Nat.ble 110 dm.toNat then
        let s := s.fatal { status := Code.thermTrip }
        { s with pwr := { s.pwr with domains := s.pwr.domains &&& ~~~tripMask },
                 pins := { s.pins with thermtrip := true } }
      else s)

/-! ## Time (R483, R484, R487) -/

/-- aclk divider of a P-state (R483). -/
def aclkDiv (p : Nat) : Nat := 32 - 2 * p

/-- aclk ticks that `n` root cycles complete, and the cycles left over. -/
def Pwr.advance (w : Pwr) (n : Nat) : Nat × Nat :=
  let d := aclkDiv w.pstate.toNat
  ((w.aclkRem + n) / d, (w.aclkRem + n) % d)

/-- Powered physical Rooms, and other powered switched domains (R488, R493). -/
def Pwr.poweredRooms (w : Pwr) : Nat := 8 * ((List.range 16).filter (fun i => w.domains.getLsbD i)).length
def Pwr.poweredOthers (w : Pwr) : Nat := ((List.range 25).filter (fun i => w.domains.getLsbD (16 + i))).length

/-- Time passes by `n` root cycles: aclk, the static energy, of which that of Rooms without a job and of everything else but Rooms
is the device's alone, and the length of a hold (R415, R483, R493, R494). -/
def State.elapse (s : State) (n : Nat) : State :=
  let (ticks, rem) := s.pwr.advance n
  let w := s.pwr
  let s := s.modPwr (fun w => { w with aclk := w.aclk + BitVec.ofNat 64 ticks, aclkRem := rem })
  let s := ((s.count 11 (w.poweredRooms * ticks)).count 12 (w.poweredOthers * ticks)).count 13 ticks
  let free := w.poweredRooms - s.jobRooms.length
  let s := s.deviceEnergy (s.energyOf 11 (free * ticks) + s.energyOf 12 (w.poweredOthers * ticks) + s.energyOf 13 ticks)
  if s.porch.held then
    let t := s.porch.holdTicks + ticks
    { s with porch := { s.porch with holdMs := satAdd s.porch.holdMs (t / 150000), holdTicks := t % 150000 } }
  else s

/-! ## PWR registers (R496) -/

/-- PWR_DROOP_READ (R496). -/
def execPwrDroopRead (s : State) : Outcome :=
  .next (if !s.regsUp then s
    else (s.reply 4 s.pwr.droops.toNat).modPwr (fun w => { w with droops := 0 }))

end Sys2Proof.Machine
end

