-- ==== Sys2Proof/Machine/FabCore.lean ====
section
/-!
DEFINITION. The fabric's data path: codes, routing, transmit queues, transport delivery (R429 to R434, R441, R442).
-/
namespace Sys2Proof.Machine

def State.modFab (s : State) (f : Fab → Fab) : State := { s with fab := f s.fab }
def Fab.port (f : Fab) (p : Nat) : Port := f.ports.getD p Port.reset
def State.port (s : State) (p : Nat) : Port := s.fab.port p
def State.modPort (s : State) (p : Nat) (f : Port → Port) : State :=
  s.modFab (fun x => { x with ports := lmod x.ports p f })

/-! ## Codes (R435, R442, R443) -/

/-- A fabric code: FAB_ERR latches the first, and the RAS log takes it (R435, R442). -/
def State.fabErr (s : State) (port : Nat) (code : W32) (ctx : Nat) : State :=
  let s := if s.fab.errValid then s
    else s.modFab (fun f => { f with errValid := true, errPort := BitVec.ofNat 3 port, errCode := Code.low code })
  s.log { status := code, unit := 8, index := port, addr := ctx }

def State.dropFrame (s : State) : State := s.modFab (fun f => { f with route := satAdd f.route 1 })

/-! ## Frames (R429, R432) -/

def ftIdle : Byte := 0
def ftData : Byte := 1
def ftAck : Byte := 2
def ftNak : Byte := 3
def ftCtrl : Byte := 4
def vcNeighbour : Nat := 0
def vcCollective : Nat := 1
def vcControl : Nat := 3

/-- Bytes of data after the transport header (R432). -/
def dataMax : Nat := 216

def frameTseq (f : Frame) : W32 := rd32 f.payload 0
/-- SEALED of the transport header (R432, R441). -/
def frameSealed (f : Frame) : Bool := (rd8 f.payload 5).getLsbD 0
def frameData (f : Frame) : List Byte := f.payload.drop 8

/-- The key of a transport triple on one side (R432). -/
def tripleKey (peer : Byte) (vc : Nat) : Nat := 4 * peer.toNat + vc

/-! ## Routing (R434) -/

/-- The entry of a routing table for a destination. -/
def Fab.route1 (f : Fab) (table : Nat) (dst : Byte) : W16 := (f.tables.getD table []).getD dst.toNat 0x0FFF

/-- The first of primary, first and second alternate whose port is UP, and whether it is an alternate (R434). -/
def Fab.pick (f : Fab) (e : W16) : Option (Nat × Bool) :=
  let try_ (i : Nat) : Option (Nat × Bool) :=
    let p := field e.toNat (4 * i) 4
    if p < 8 && (f.port p).state == .up then some (p, i != 0) else none
  (try_ 0).or ((try_ 1).or (try_ 2))

/-- A destination has a route from this device: LOCAL, or a port that is UP (R437). -/
def Fab.reaches (f : Fab) (dst : Byte) : Bool :=
  let e := f.route1 8 dst
  e.getLsbD 15 || (f.pick e).isSome

/-- A frame joins the queue of a port. -/
def State.enqueue (s : State) (p : Nat) (q : Queued) : State := s.modPort p (fun x => { x with queue := x.queue ++ [q] })

/-- A frame leaves the receive buffer of the port it came by: its credit is owed to the partner (R431). -/
def State.leaveBuffer (s : State) (table vc : Nat) : State :=
  s.modPort table (fun p =>
    if p.rxHeld.getD vc 0 = 0 then p
    else { p with rxHeld := lmod p.rxHeld vc (· - 1), owed := lmod p.owed vc (· + 1) })

/-! ## Delivery (R432, R437, R441) -/

/-- The open job that names a span. -/
def State.spanJob (s : State) (span : W32) : Option Nat :=
  (s.plan.jobs.find? (fun p => span != 0 && p.2.span == span)).map (·.1)

/-- The task of a job's instance number `run` has yet to end here; an instance that this member has not yet planned still has
all its tasks ahead (R441, log entry 143). -/
def State.taskAhead (s : State) (n run task : Nat) : Bool :=
  (tget s.plan.jobs n).any (fun j => decide (j.runs ≤ run)) || s.plan.insts.any (fun p =>
    p.2.job = n && p.2.run = run && (p.2.tasks.isEmpty
      || (p.2.tasks[task]?).any (fun r => r.state != .committed && r.state != .ended)))

/-- A span task of this device expects the frame's content (R441). -/
def State.expected (s : State) (f : Frame) : Bool :=
  let known (span : W32) (run task : Nat) : Bool :=
    match tget s.fab.spans span.toNat with
    | some p => (s.spanJob span).any (fun n => s.taskAhead n run task) && p.members.contains f.src
    | none => false
  match f.ctrl with
  | .halo span run task .. => known span run task
  | .part span run task .. => known span run task
  | _ => !frameSealed f

/-- A member's CRC report is noted in the configuration in progress (R437). -/
def State.spanReport (s : State) (src : Byte) (span crc : W32) : State :=
  match s.fab.cfg with
  | some c =>
    if c.id == span then s.modFab (fun f => { f with cfg := some { c with reports := tset c.reports src.toNat crc } })
    else s.modFab (fun f => { f with early := f.early ++ [(src, span, crc)] })
  | none => s.modFab (fun f => { f with early := f.early ++ [(src, span, crc)] })

/-- A frame's content reaches this device in order (R432, R437 to R441). -/
def State.accept (s : State) (f : Frame) : State :=
  if !s.expected f then (if frameSealed f then s.dropFrame.fabErr 0 Code.pathLost f.src.toNat else s)
  else match f.ctrl with
    | .spanCrc span crc => s.spanReport f.src span crc
    | .none => s
    | .hello _ => s
    | _ => s.modFab (fun x => { x with inbox := x.inbox ++ [f] })

/-- Held frames that now follow in order are delivered (R432); the fuel bounds them. -/
def State.drainHeld : Nat → State → Nat → State
  | 0, s, _ => s
  | fuel + 1, s, key =>
    match tget s.fab.rx key with
    | none => s
    | some t =>
      match t.held.find? (fun h => h.1 == t.expect) with
      | none => s
      | some h =>
        let s := s.modFab (fun f =>
          { f with rx := tset f.rx key { t with expect := t.expect + 1, held := t.held.filter (fun x => x.1 != h.1) } })
        State.drainHeld fuel (s.accept h.2.2) key

/-- A triple's traffic ends with PATH_LOST (R432). -/
def State.endTriple (s : State) (key : Nat) : State :=
  let t := tgetD s.fab.rx key { expect := 0, held := [], ended := false }
  (s.modFab (fun f => { f with rx := tset f.rx key { t with held := [], ended := true } })).fabErr 0 Code.pathLost
    (key / 4)

/-- A DATA frame at its destination: in order, behind, or up to 64 ahead (R432). -/
def State.transport (s : State) (f : Frame) : State :=
  let key := tripleKey f.src (f.vc.toNat % 4)
  let t := tgetD s.fab.rx key { expect := 0, held := [], ended := false }
  let d := (frameTseq f - t.expect).toNat
  if t.ended then s
  else if d = 0 then
    let s := s.modFab (fun x => { x with rx := tset x.rx key { t with expect := t.expect + 1 } })
    State.drainHeld 64 (s.accept f) key
  else if 2 ^ 31 ≤ d then s.modFab (fun x => { x with dup := satAdd x.dup 1 })
  else if d ≤ 64 then
    if t.held.any (fun h => h.1 == frameTseq f) then s.modFab (fun x => { x with dup := satAdd x.dup 1 })
    else s.modFab (fun x => { x with rx := tset x.rx key { t with held := t.held ++ [(frameTseq f, s.now, f)] } })
  else s.endTriple key

/-- Local delivery (R434): DATA frames through the transport, CONTROL frames directly. -/
def State.deliver (s : State) (f : Frame) : State := if f.ftype = ftData then s.transport f else s.accept f

/-- A frame is routed by a table: delivered here, queued on a port, or dropped (R434). `owes`: it stands in the receive buffer
of the port that the table serves. -/
def State.routeFrame (s : State) (table : Nat) (owes : Bool) (f : Frame) : State :=
  let e := s.fab.route1 table f.dst
  let leave (s : State) : State := if owes then s.leaveBuffer table (f.vc.toNat % 4) else s
  if e.getLsbD 15 then (leave s).deliver f
  else match s.fab.pick e with
    | none => (leave s).dropFrame.fabErr 0 Code.pathLost f.dst.toNat
    | some (p, alt) =>
      s.enqueue p { table := table, owes := owes, frame := if alt then { f with fflags := f.fflags ||| 1 } else f }

/-! ## Origination (R429, R432) -/

/-- A frame of this device; ACK fields are filled at transmission. -/
def Fab.frame (f : Fab) (ftype : Byte) (vc : Nat) (dst : Byte) (payload : List Byte) (ctrl : Ctrl) : Frame :=
  { ftype := ftype, vc := BitVec.ofNat 8 vc, dst := dst, src := f.addr, ttl := 15, fflags := 0,
    plen := BitVec.ofNat 16 payload.length, lseq := 0, ack := 0, crVc := 0, crN := 0, payload := payload, ctrl := ctrl }

/-- A DATA frame to a device, with the next tseq of its triple (R432). -/
def State.sendData (s : State) (vc : Nat) (dst : Byte) (op : Nat) (sealed : Bool) (c : Ctrl) (data : List Byte) : State :=
  let key := tripleKey dst vc
  let n := tgetD s.fab.tx key 0
  let head := le32 n ++ leBytes 1 op ++ leBytes 1 (bit sealed) ++ [0, 0]
  let s := s.modFab (fun f => { f with tx := tset f.tx key (n + 1) })
  s.routeFrame 8 false (s.fab.frame ftData vc dst (head ++ data) c)

/-- Control traffic between members: DATA frames on the CONTROL VC, since a CONTROL frame comes from the partner itself (R431,
R435; log entry 40). -/
def State.sendCtrl (s : State) (dst : Byte) (c : Ctrl) : State := s.sendData vcControl dst 0 false c []

/-- A run of bytes to a device, 216 to a frame. -/
def State.sendRun (s : State) (vc : Nat) (dst : Byte) (op : Nat) (sealed : Bool) (c : Nat → Ctrl) (data : List Byte) :
    State :=
  (pieces dataMax data.length).foldl (fun s p => s.sendData vc dst op sealed (c p.1) ((data.drop p.1).take p.2)) s

/-- The bytes of a run that frames of the inbox carry, once all of its `n` bytes are there. -/
def Fab.run (f : Fab) (n : Nat) (off : Frame → Option Nat) : Option (List Byte) :=
  let cells := f.inbox.foldl (fun (m : List (Option Byte)) x =>
    match off x with
    | none => m
    | some o => ((List.range (frameData x).length).zip (frameData x)).foldl (fun m q => lset m (o + q.1) (some q.2)) m)
    (List.replicate n none)
  cells.mapM id

end Sys2Proof.Machine
end

