-- ==== Sys2Proof/Machine/Num.lean ====
section
/-!
DEFINITION. Number formats and arithmetic: encodings, exact values, one rounding to nearest-even, conversions and their
clips (R132, R133, R226 to R232).
-/
namespace Sys2Proof.Machine

/-! ## Counts of a task's data path (R133, R206, R225, R232, R240) -/

/-- What a task's arithmetic counts. -/
structure Tally where
  /-- Increments of ROOM_SAT. -/
  sat : Nat
  /-- Narrow conversions and the clips among them. -/
  conv : Nat
  clip : Nat
  /-- Function-unit evaluations. -/
  fnFp32 : Nat
  fnShort : Nat
  /-- Rows fed to the Array, cell MACs with both operands nonzero, gated cell-cycles. -/
  fed : Nat
  mac : Nat
  gated : Nat
  deriving DecidableEq, Repr

def Tally.zero : Tally := { sat := 0, conv := 0, clip := 0, fnFp32 := 0, fnShort := 0, fed := 0, mac := 0, gated := 0 }

/-- A computation that counts. -/
abbrev Fx := StateM Tally

def tallySat : Fx Unit := modify (fun t => { t with sat := t.sat + 1 })

/-! ## Formats (R226, R228) -/

/-- Fields of a floating-point format. -/
structure FpFmt where
  eb : Nat
  fb : Nat
  bias : Nat
  /-- An exponent of all ones means infinity and NaN; false only for E4M3. -/
  ieee : Bool
  deriving DecidableEq, Repr

def fpE4m3 : FpFmt := { eb := 4, fb := 3, bias := 7, ieee := false }
def fpE5m2 : FpFmt := { eb := 5, fb := 2, bias := 15, ieee := true }
def fpHalf : FpFmt := { eb := 5, fb := 10, bias := 15, ieee := true }
def fpBf16 : FpFmt := { eb := 8, fb := 7, bias := 127, ieee := true }
def fpSingle : FpFmt := { eb := 8, fb := 23, bias := 127, ieee := true }

/-- The floating-point format of a code (R226). -/
def fpOf (code : Nat) : Option FpFmt :=
  match code with
  | 4 => some fpE4m3
  | 5 => some fpE5m2
  | 6 => some fpBf16
  | 7 => some fpHalf
  | 8 => some fpSingle
  | _ => none

/-- Bytes per element of a format other than int4 (R226). -/
def fmtBytes (code : Nat) : Nat :=
  match code with
  | 2 => 1
  | 3 => 2
  | 4 => 1
  | 5 => 1
  | 6 => 2
  | 7 => 2
  | 8 => 4
  | _ => 0

/-- The narrow formats of R240: int8, int16, E4M3, E5M2. -/
def narrow (code : Nat) : Bool := code = 2 || code = 3 || code = 4 || code = 5

/-- Encodings of the largest finite value, infinity and canonical NaN of a format, sign clear (R228). -/
def FpFmt.maxBits (f : FpFmt) : Nat := if f.ieee then (2 ^ f.eb - 1) * 2 ^ f.fb - 1 else 2 ^ (f.eb + f.fb) - 2
def FpFmt.infBits (f : FpFmt) : Nat := if f.ieee then (2 ^ f.eb - 1) * 2 ^ f.fb else f.maxBits
def FpFmt.nanBits (f : FpFmt) : Nat :=
  if f.ieee then (2 ^ f.eb - 1) * 2 ^ f.fb + 2 ^ (f.fb - 1) else 2 ^ (f.eb + f.fb) - 1

/-! ## Exact values -/

/-- A value: not a number, an infinity, or a magnitude m × 2^e with a sign. -/
inductive Fp where
  | nan
  | inf (neg : Bool)
  | fin (neg : Bool) (m : Nat) (e : Int)
  deriving DecidableEq, Repr

/-- The value that a format's encoding stands for (R228). -/
def FpFmt.unpack (f : FpFmt) (b : Nat) : Fp :=
  let neg := field b (f.eb + f.fb) 1 = 1
  let ex := field b f.fb f.eb
  let fr := field b 0 f.fb
  let top := 2 ^ f.eb - 1
  if f.ieee && ex = top then (if fr = 0 then .inf neg else .nan)
  else if !f.ieee && ex = top && fr = 2 ^ f.fb - 1 then .nan
  else if ex = 0 then .fin neg fr (1 - (f.bias : Int) - f.fb)
  else .fin neg (2 ^ f.fb + fr) ((ex : Int) - f.bias - f.fb)

/-- m ÷ 2^d, rounded to nearest-even. -/
def shiftRne (m d : Nat) : Nat :=
  let q := m / 2 ^ d
  let r := m % 2 ^ d
  if 2 ^ d < 2 * r || (2 * r = 2 ^ d && d != 0 && q % 2 = 1) then q + 1 else q

/-- The magnitude m × 2^e rounded to nearest-even into a format: its encoding with the sign clear, and whether it
exceeds the largest finite value and is replaced by it (R230). -/
def FpFmt.roundMag (f : FpFmt) (m : Nat) (e : Int) : Nat × Bool :=
  if m = 0 then (0, false)
  else
    let low : Int := 1 - (f.bias : Int) - f.fb
    let q := max low (e + (Nat.log2 m : Int) - f.fb)
    let k := if q ≤ e then m * 2 ^ (e - q).toNat else shiftRne m (q - e).toNat
    let (k, q) := if k = 2 ^ (f.fb + 1) then (2 ^ f.fb, q + 1) else (k, q)
    let bits := if k < 2 ^ f.fb then k else ((q - low).toNat + 1) * 2 ^ f.fb + (k - 2 ^ f.fb)
    if f.maxBits < bits then (f.maxBits, true) else (bits, false)

def FpFmt.signed (f : FpFmt) (neg : Bool) (b : Nat) : Nat := if neg then b + 2 ^ (f.eb + f.fb) else b

/-- A value rounded once into a format, with whether a finite value was replaced by the largest (R230). -/
def FpFmt.pack (f : FpFmt) (x : Fp) : Nat × Bool :=
  match x with
  | .nan => (f.nanBits, false)
  | .inf neg => (f.signed neg f.infBits, false)
  | .fin neg m e =>
    let r := f.roundMag m e
    (f.signed neg r.1, r.2)

/-- The value of an fp32 encoding. -/
def f32 (w : W32) : Fp := fpSingle.unpack w.toNat

/-- A value rounded once to fp32; an overflow becomes the largest finite value and counts (R133). -/
def round32 (x : Fp) : Fx W32 := do
  let r := fpSingle.pack x
  if r.2 then tallySat
  return BitVec.ofNat 32 r.1

def Fp.neg : Fp → Fp
  | .nan => .nan
  | .inf n => .inf (!n)
  | .fin n m e => .fin (!n) m e

def Fp.ofInt (i : Int) : Fp := .fin (decide (i < 0)) i.natAbs 0

/-- The exact product (R133). -/
def Fp.mul (x y : Fp) : Fp :=
  match x, y with
  | .nan, _ => .nan
  | _, .nan => .nan
  | .inf a, .inf b => .inf (a != b)
  | .inf a, .fin b m _ => if m = 0 then .nan else .inf (a != b)
  | .fin b m _, .inf a => if m = 0 then .nan else .inf (a != b)
  | .fin a m e, .fin b n g => .fin (a != b) (m * n) (e + g)

def Fp.isNan : Fp → Bool
  | .nan => true
  | _ => false
def Fp.isInf (neg : Bool) : Fp → Bool
  | .inf n => n == neg
  | _ => false
def Fp.isNeg : Fp → Bool
  | .nan => false
  | .inf n => n
  | .fin n _ _ => n
def Fp.isZero : Fp → Bool
  | .fin _ m _ => m = 0
  | _ => false
def Fp.expo : Fp → Int
  | .fin _ m e => if m = 0 then 0 else e
  | _ => 0

/-- The integer that a finite value is at a scale 2^g not above its own. -/
def Fp.scaled (g : Int) : Fp → Int
  | .fin n m e => if m = 0 then 0 else
    let v : Int := (m * 2 ^ (e - g).toNat : Nat)
    if n then -v else v
  | _ => 0

/-- The exact sum (R133): the order of the terms does not matter. -/
def Fp.sum (xs : List Fp) : Fp :=
  if xs.any Fp.isNan then .nan
  else
    let p := xs.any (Fp.isInf false)
    let n := xs.any (Fp.isInf true)
    if p && n then .nan
    else if p then .inf false
    else if n then .inf true
    else
      let g : Int := xs.foldl (fun g x => if x.isZero then g else min g x.expo) 0
      let v : Int := xs.foldl (fun v x => v + x.scaled g) 0
      if v = 0 then .fin (!xs.isEmpty && xs.all Fp.isNeg) 0 0
      else .fin (decide (v < 0)) v.natAbs g

def mul32 (a b : W32) : Fx W32 := round32 ((f32 a).mul (f32 b))
def add32 (a b : W32) : Fx W32 := round32 (Fp.sum [f32 a, f32 b])
def sub32 (a b : W32) : Fx W32 := round32 (Fp.sum [f32 a, (f32 b).neg])
def fma32 (a b c : W32) : Fx W32 := round32 (Fp.sum [(f32 a).mul (f32 b), f32 c])

/-- a < b for values that are not NaN. -/
def Fp.lt (a b : Fp) : Bool :=
  match a, b with
  | .nan, _ => false
  | _, .nan => false
  | .inf x, .inf y => x && !y
  | .inf x, _ => x
  | _, .inf y => !y
  | x, y =>
    let g := min x.expo y.expo
    decide (x.scaled g < y.scaled g)

def one32 : W32 := 0x3F800000
def nan32 : W32 := 0x7FC00000
def negInf32 : W32 := 0xFF800000

/-! ## Reading elements (R227, R229) -/

/-- The value of an element's encoding in a format; int4 is code 1. -/
def elemValue (code b : Nat) : Fp :=
  match fpOf code with
  | some f => f.unpack b
  | none =>
    if code = 1 then Fp.ofInt (BitVec.ofNat 4 b).toInt
    else if code = 2 then Fp.ofInt (BitVec.ofNat 8 b).toInt
    else if code = 3 then Fp.ofInt (BitVec.ofNat 16 b).toInt
    else .nan

/-- An element converted exactly to fp32 (R229). -/
def elem32 (code b : Nat) : W32 := BitVec.ofNat 32 (fpSingle.pack (elemValue code b)).1

/-! ## Conversions (R230 to R232, R240) -/

/-- The nearest integer to m × 2^e, ties to even. -/
def roundInt (m : Nat) (e : Int) : Nat := if 0 ≤ e then m * 2 ^ e.toNat else shiftRne m (-e).toNat

/-- A value converted to an integer format with largest magnitude `top`, and whether it clips (R231, R232). -/
def toInteger (top : Nat) (x : Fp) : Int × Bool :=
  match x with
  | .nan => (0, true)
  | .inf n => (if n then -(top : Int) else top, true)
  | .fin n m e =>
    let v := roundInt m e
    let k := min v top
    (if n then -(k : Int) else k, decide (top < v))

/-- Two's complement encoding in `n` bits. -/
def intBits (n : Nat) (i : Int) : Nat := (BitVec.ofInt n i).toNat

/-- A value converted to an output format: its encoding, and whether it clips (R230 to R232). -/
def convert (code : Nat) (x : Fp) : Nat × Bool :=
  match fpOf code with
  | some f => f.pack x
  | none =>
    if code = 2 then
      let r := toInteger 127 x
      (intBits 8 r.1, r.2)
    else
      let r := toInteger 32767 x
      (intBits 16 r.1, r.2)

/-- A conversion to fmt_out, counted (R232, R240). A conversion to fp32 of an fp32 value changes nothing. -/
def cvt (code : Nat) (w : W32) : Fx Nat := do
  let r := convert code (f32 w)
  modify (fun t =>
    { t with sat := t.sat + bit r.2, conv := t.conv + bit (narrow code), clip := t.clip + bit (narrow code && r.2) })
  return r.1

/-- An int32 accumulator clamped (R133). -/
def sat32 (i : Int) : Fx Int :=
  if i < -2147483648 then do tallySat; return -2147483648
  else if 2147483647 < i then do tallySat; return 2147483647
  else return i

/-! ## Accumulators (R133, R229, R234) -/

/-- The accumulated cell as fp32 (R229). -/
def accTo32 (integer : Bool) (c : W32) : W32 :=
  if integer then BitVec.ofNat 32 (fpSingle.pack (Fp.ofInt c.toInt)).1 else c

end Sys2Proof.Machine
end

