-- ==== Sys2Proof/Machine/Fn.lean ====
section
/-!
DEFINITION. The function unit: exp2, log2 and the functions composed from them (R204 to R211).
-/
namespace Sys2Proof.Machine

/-! ## Fixed-point evaluation: 240 fraction bits -/

def fixBits : Nat := 240
def fixOne : Nat := 2 ^ 240

/-- ln(2) in fixed point, rounded down. -/
def fixLn2 : Nat := 1224685061431752149387114016819916847747660333428801675508466606222838698

/-- L_e and L_2 of R209: log2(e) with 39 and ln(2) with 40 fraction bits, 40 significant bits each (log entry 18). -/
def constLe : Nat := 793129986396
def constL2 : Nat := 762123384786

/-- Terms of the exponential series from the `k`-th on. -/
def expTerms (x : Nat) : Nat → Nat → Nat → Nat
  | 0, _, _ => 0
  | fuel + 1, k, t => t + expTerms x fuel (k + 1) (t * x / fixOne / (k + 1))

/-- 2^f in fixed point for a fixed-point fraction f below 1. -/
def fixExp2 (f : Nat) : Nat := expTerms (f * fixLn2 / fixOne) 70 0 fixOne

/-- Terms of the inverse hyperbolic tangent series: the power of z, and its exponent. -/
def atanhTerms (zz : Nat) : Nat → Nat → Nat → Nat
  | 0, _, _ => 0
  | fuel + 1, k, t => t / k + atanhTerms zz fuel (k + 2) (t * zz / fixOne)

/-- log2 of M ÷ 2^k in [1, 2) in fixed point. -/
def fixLog2 (M k : Nat) : Nat :=
  let z := (M - 2 ^ k) * fixOne / (M + 2 ^ k)
  2 * atanhTerms (z * z / fixOne) 90 1 z * fixOne / fixLn2

/-! ## Exact and irrational results -/

/-- A result of the function unit before its rounding: exactly known, or irrational and known far beyond any format's
precision. -/
inductive FnVal where
  | exact (x : Fp)
  | approx (neg : Bool) (m : Nat) (e : Int)
  deriving DecidableEq, Repr

/-- An exponent kept inside [-2000, 2000], far beyond every format's range. -/
def clampExp (n : Int) : Int := max (-2000) (min 2000 n)

/-- 2^(t ÷ 2^240) for an exponent that is no integer. -/
def exp2Fixed (t : Int) : FnVal :=
  .approx false (fixExp2 (t % (fixOne : Int)).toNat) (clampExp (t / (fixOne : Int)) - fixBits)

/-- exp2 of an exact argument (R205, R206). -/
def exp2Val (a : Fp) : FnVal :=
  match a with
  | .nan => .exact .nan
  | .inf n => .exact (if n then .fin false 0 0 else .inf false)
  | .fin n m e =>
    if m = 0 then .exact (.fin false 1 0)
    else
      let tz := if 0 ≤ e then true else m % 2 ^ (-e).toNat = 0
      if 12 < (Nat.log2 m : Int) + e then .exact (.fin false 1 (if n then -2000 else 2000))
      else if tz then
        let i : Int := if 0 ≤ e then m * 2 ^ e.toNat else m / 2 ^ (-e).toNat
        .exact (.fin false 1 (if n then -i else i))
      else if (Nat.log2 m : Int) + e < -190 then .approx false (if n then fixOne - 1 else fixOne) (-fixBits)
      else
        let t : Int := if 0 ≤ e + fixBits then m * 2 ^ (e + fixBits).toNat else m / 2 ^ (-(e + fixBits)).toNat
        exp2Fixed (if n then -t else t)

/-- log2 of a positive magnitude, in fixed point; the first component tells whether it is an integer. -/
def log2Fixed (m : Nat) (e : Int) : Bool × Int :=
  let k := Nat.log2 m
  let i := e + (k : Int)
  if m = 2 ^ k then (true, i * fixOne) else (false, i * fixOne + fixLog2 m k)

/-- A fixed-point value. -/
def fixedVal (exact : Bool) (t : Int) : FnVal :=
  if exact then .exact (.fin (decide (t < 0)) (t.natAbs / fixOne) 0)
  else .approx (decide (t < 0)) t.natAbs (-fixBits)

/-- log2 of an exact argument (R205, R206). -/
def log2Val (a : Fp) : FnVal :=
  match a with
  | .nan => .exact .nan
  | .inf n => .exact (if n then .nan else .inf false)
  | .fin n m e =>
    if m = 0 then .exact (.inf true)
    else if n then .exact .nan
    else
      let r := log2Fixed m e
      fixedVal r.1 r.2

/-- An irrational magnitude rounded to nearest into a format: an odd bit below it keeps it off every midpoint. -/
def FpFmt.roundOdd (f : FpFmt) (m : Nat) (e : Int) : Nat × Bool := f.roundMag (2 * m + 1) (e - 1)

/-- Distance of m × 2^e from the midpoint above a magnitude that fp32 represents, in units of 2^e; e lies below the midpoint's. -/
def pastMid (lo m : Nat) (e : Int) : Int :=
  match fpSingle.unpack lo with
  | .fin _ a k => (m : Int) - (2 * a + 1) * 2 ^ (k - 1 - e).toNat
  | _ => 0

/-- A result in fp32 mode (R204): the nearest fp32 value; where the value lies within 2^-d relative of a midpoint,
either neighbour may result: a free turning point between the two decides, so results keep the order of the exact values (R207). -/
def FnVal.to32 (v : FnVal) (fn : Nat) (d : Nat) : Fx W32 := do
  match v with
  | .exact x => round32 x
  | .approx n m e =>
    let lo := fpSingle.roundOdd (m - m / 2 ^ d) e
    let hi := fpSingle.roundOdd (m + m / 2 ^ d) e
    let r := if lo = hi then lo else if Config.fnTurn fn n lo.1 ≤ pastMid lo.1 m e then hi else lo
    if r.2 then tallySat
    return BitVec.ofNat 32 (fpSingle.signed n r.1)

/-- A result in short mode: rounded once, exactly, into the target format (R204, R206). -/
def FnVal.toShort (v : FnVal) (code : Nat) (zeroLog : Bool) : Fx Nat := do
  match fpOf code with
  | none => return 0
  | some f =>
    let r := match v with
      | .exact x => f.pack x
      | .approx n m e =>
        let r := f.roundOdd m e
        (f.signed n r.1, r.2)
    modify (fun t =>
      { t with sat := t.sat + bit (r.2 || (zeroLog && !f.ieee)), conv := t.conv + bit (narrow code),
               clip := t.clip + bit (narrow code && r.2), fnShort := t.fnShort + 1 })
    return r.1

def countFn (g : Nat) : Fx Unit := modify (fun t => { t with fnFp32 := t.fnFp32 + g })

/-! ## Compositions (R209); function codes as keys of the free choices -/

def exp2_32 (a : W32) : Fx W32 := do
  countFn 1
  (exp2Val (f32 a)).to32 1 38

/-- EXP: exp2(a × L_e), the product formed exactly. -/
def fnExp (a : W32) : Fx W32 := do
  countFn 1
  (exp2Val ((f32 a).mul (.fin false constLe (-39)))).to32 3 38

/-- LN: log2(a) × L_2, one rounding. -/
def fnLn (a : W32) : Fx W32 := do
  countFn 1
  let v := match log2Val (f32 a) with
    | .exact x => FnVal.exact (x.mul (.fin false constL2 (-40)))
    | .approx n m e => .approx n (m * constL2) (e - 40)
  v.to32 4 38

/-- RECIP: sign(a) × exp2(−[log2 abs(a)]). -/
def fnRecip (a : W32) : Fx W32 := do
  countFn 2
  let v := match f32 a with
    | .nan => FnVal.exact .nan
    | .inf n => .exact (.fin n 0 0)
    | .fin n m e =>
      if m = 0 then .exact (.inf n)
      else
        let k := Nat.log2 m
        if m = 2 ^ k then .exact (.fin n 1 (-(e + k)))
        else .approx n (2 ^ (fixBits + k) / m) (-(fixBits : Int) - k - e)
  v.to32 5 30

/-- RSQRT: exp2(−0.5 × [log2 a]). -/
def fnRsqrt (a : W32) : Fx W32 := do
  countFn 2
  let v := match f32 a with
    | .nan => FnVal.exact .nan
    | .inf n => .exact (if n then .nan else .fin false 0 0)
    | .fin n m e =>
      if m = 0 then .exact (.inf false)
      else if n then .exact .nan
      else
        let k := Nat.log2 m
        let i := e + (k : Int)
        if m = 2 ^ k && i % 2 = 0 then .exact (.fin false 1 (-(i / 2)))
        else exp2Fixed (-((log2Fixed m e).2 / 2))
  v.to32 6 30

def negate32 (a : W32) : W32 := a ^^^ 0x80000000
def abs32 (a : W32) : W32 := a &&& 0x7FFFFFFF

/-- SIGMOID: u = EXP(−a); RECIP(1 + u). -/
def fnSigmoid (a : W32) : Fx W32 := do
  let u ← fnExp (negate32 a)
  let d ← add32 one32 u
  fnRecip d

/-- TANH: a below 2^-12, else sign(a) × (1 − 2 × SIGMOID(−2 × abs(a))). -/
def fnTanh (a : W32) : Fx W32 := do
  if (abs32 a).toNat < 0x39800000 then
    countFn 3
    return a
  else
    let x ← mul32 0xC0000000 (abs32 a)
    let s ← fnSigmoid x
    let t ← mul32 0x40000000 s
    let r ← sub32 one32 t
    return if (f32 a).isNan then nan32 else if (f32 a).isNeg then negate32 r else r

/-- GELU: a × SIGMOID(2c × (a + 0.044715 × a³)), c = fp32(√(2 ÷ π)). -/
def fnGelu (a : W32) : Fx W32 := do
  let q ← mul32 a a
  let q ← mul32 q a
  let q ← mul32 0x3D372713 q
  let q ← add32 a q
  let q ← mul32 0x3FCC422A q
  let s ← fnSigmoid q
  mul32 a s

/-- SILU: a × SIGMOID(a). -/
def fnSilu (a : W32) : Fx W32 := do
  let s ← fnSigmoid a
  mul32 a s

/-- g and F of R209; none for another function code. -/
def fnCost (fn : Nat) (short : Bool) : Option (Nat × Nat) :=
  match fn with
  | 1 => some (1, if short then 21 else 26)
  | 2 => some (1, if short then 21 else 26)
  | 3 => some (1, 30)
  | 4 => some (1, 30)
  | 5 => some (2, 56)
  | 6 => some (2, 56)
  | 7 => some (3, 90)
  | 8 => some (3, 94)
  | 9 => some (3, 100)
  | 10 => some (3, 94)
  | _ => none

/-- Short mode (R204): EXP2 or LOG2, post_scale 1.0, and a format of at most 16 bits. -/
def fnShort (fn code : Nat) (post : W32) : Bool :=
  (fn = 1 || fn = 2) && post = one32 && (code = 4 || code = 5 || code = 6 || code = 7)

/-- One evaluation of FUNC (R208): the encoding in fmt_out. -/
def evalFn (fn code : Nat) (x pre post : W32) : Fx Nat := do
  let exact := (f32 x).mul (f32 pre)
  if fnShort fn code post then
    if fn = 1 then (exp2Val exact).toShort code false
    else (log2Val exact).toShort code exact.isZero
  else
    let r ← if fn = 1 then do countFn 1; (exp2Val exact).to32 1 38
      else if fn = 2 then do countFn 1; (log2Val exact).to32 2 38
      else do
        let a ← round32 exact
        match fn with
        | 3 => fnExp a
        | 4 => fnLn a
        | 5 => fnRecip a
        | 6 => fnRsqrt a
        | 7 => fnSigmoid a
        | 8 => fnTanh a
        | 9 => fnGelu a
        | _ => fnSilu a
    let y ← mul32 r post
    cvt code y

end Sys2Proof.Machine
end

