-- ==== Sys2Proof/Machine/Image.lean ====
section
/-!
DEFINITION. Graph images: layout, descriptors, operation parameters and their rules (R101 to R112, R139, R148 to R159,
R173, R174, R180 to R182, R197 to R200, R208, R212, R221, R222, R226, R237, R439).
-/
namespace Sys2Proof.Machine

/-! ## Layout (R101 to R104, R109, R112, R155) -/

def opMatmul : Nat := 1
def opConv : Nat := 2
def opPool : Nat := 3
def opResample : Nat := 4
def opTopk : Nat := 5
def opVector : Nat := 6
def opFunc : Nat := 7
def opSoftmax : Nat := 8
def opNorm : Nat := 9
def opCopy : Nat := 10
def opCollective : Nat := 11
def opNop : Nat := 12

def roleNone : Nat := 0
def roleRows : Nat := 1
def roleCols : Nat := 2
def roleRed : Nat := 3
def roleSpan : Nat := 4
def roleTile : Nat := 5
def roleRep : Nat := 6

def parseLevel (b : List Byte) : Level :=
  { trips := rd b 0 4, role := rd b 4 1, dyn := field (rd b 5 1) 0 1 = 1, sIn0 := rd b 6 2, sIn1 := rd b 8 2,
    sAux := rd b 10 2, sOut := rd b 12 2 }

def parseOperand (b : List Byte) : Operand :=
  { slot := rd b 0 2, space := rd b 2 1, bytes := rd b 4 4, offset := rd b 8 8 }

/-- A 256-byte task descriptor (R109). -/
def parseTask (b : List Byte) : Task :=
  { op := rd b 2 1, fmtAct := field (rd b 3 1) 0 4, fmtWt := field (rd b 3 1) 4 4, fmtOut := field (rd b 4 1) 0 4,
    flags := rd b 6 2, predFirst := rd b 8 4, npred := rd b 5 1,
    dim := if rd b 12 1 = 255 then none else some (rd b 12 1), fpW := rd b 13 1, fpH := rd b 14 1, sem := rd b 15 1,
    cycles := (List.range 8).map (fun i => rd b (16 + 4 * i) 4),
    loops := (List.range 6).map (fun i => parseLevel (slice b (48 + 16 * i) 16)),
    in0 := parseOperand (slice b 144 16), in1 := parseOperand (slice b 160 16), aux := parseOperand (slice b 176 16),
    out := parseOperand (slice b 192 16), counter := rd b 208 1, hN := rd b 212 1, hS := rd b 213 1, hE := rd b 214 1,
    hW := rd b 215 1, param := slice b 216 32 }

/-- Raw bytes of the tables of an image: descriptors, dimension entries, slot entries. -/
def imageTasks (b : List Byte) : List (List Byte) :=
  (List.range (rd b 12 4)).map (fun i => slice b (rd b 24 4 + 256 * i) 256)
def imageDims (b : List Byte) : List (List Byte) :=
  (List.range (rd b 20 1)).map (fun i => slice b (rd b 32 4 + 48 * i) 48)
def imageSlots (b : List Byte) : List (List Byte) :=
  (List.range (rd b 22 2)).map (fun i => slice b (rd b 36 4 + 16 * i) 16)
def imageDeps (b : List Byte) : List (List Byte) :=
  (List.range (rd b 16 4)).map (fun i => slice b (rd b 28 4 + 4 * i) 4)

def parseGraph (job : Nat) (b : List Byte) : Graph :=
  { job := job, size := rd b 8 4, tasks := (imageTasks b).map parseTask,
    deps := (imageDeps b).map (fun d => (rd d 0 2, rd d 2 1)),
    dims := (imageDims b).map (fun d => (List.range (rd d 0 1)).map (fun i => rd d (8 + 4 * i) 4)),
    slots := (imageSlots b).map (fun d => (rd d 0 8, rd d 8 1)) }

/-! ## Parts of a descriptor -/

def Task.flag (t : Task) (i : Nat) : Bool := field t.flags i 1 = 1
def Task.varies (t : Task) : Bool := t.flag 0
def Task.declass (t : Task) : Bool := t.flag 1
def Task.tiled (t : Task) : Bool := t.flag 2
def Task.semAcq (t : Task) : Bool := t.flag 3
def Task.semRel (t : Task) : Bool := t.flag 4
def Task.transpose (t : Task) : Bool := t.flag 5
def Task.outlier (t : Task) : Bool := t.flag 6
def Task.halo (t : Task) : Bool := t.flag 7

/-- `n` bytes of op_param at a descriptor offset in [216, 247] (R139). -/
def Task.par (t : Task) (o n : Nat) : Nat := rd t.param (o - 216) n
def Task.par32 (t : Task) (o : Nat) : W32 := rd32 t.param (o - 216)
def Task.landIn0 (t : Task) : Nat := t.par 216 4
def Task.landIn1 (t : Task) : Nat := t.par 220 4
def Task.landAux (t : Task) : Nat := t.par 224 4
def Task.stageAt (t : Task) : Nat := t.par 228 4

/-- Footprint size n. -/
def Task.rooms (t : Task) : Nat := t.fpW * t.fpH
def Task.inputs (t : Task) : List Operand := [t.in0, t.in1, t.aux]

/-- Trips of the level with a role; 0 when the descriptor has none. -/
def Task.trips (t : Task) (role : Nat) : Nat :=
  match t.loops.find? (fun l => l.role = role) with
  | some l => l.trips
  | none => 0

def Task.level (t : Task) (role : Nat) : Option Level := t.loops.find? (fun l => l.role = role)
def Task.countRole (t : Task) (role : Nat) : Nat := (t.loops.filter (fun l => l.role = role)).length

/-- A level of trips 0 other than a DYN level makes a task a no-op (R159). -/
def Task.noop (t : Task) : Bool := t.loops.any (fun l => l.trips = 0 && !l.dyn)

/-- Product of the trips of the REP levels. -/
def Task.reps (t : Task) : Nat := (t.loops.filter (fun l => l.role = roleRep)).foldl (fun p l => p * l.trips) 1

/-- Iterations I of each Room: the REP trips, and m of a TILE level (R151, R164). -/
def Task.iters (t : Task) : Nat :=
  t.reps * (match t.level roleTile with
    | some l => ceilDiv l.trips t.rooms
    | none => 1)

/-- Rows per position for M rows (R145). -/
def Task.rowsOf (t : Task) (m : Nat) : Nat := ceilDiv m t.rooms

/-- Byte offset of the field that holds `rows` in an op that has one (R149, R212, R221). -/
def Task.rowsField (t : Task) : Nat :=
  if t.op = opMatmul || t.op = opSoftmax then t.par 232 4 else if t.op = opNorm then t.par 244 4 else 0

/-! ## Window ops (R180, R181) -/

structure Win where
  c : Nat
  h : Nat
  w : Nat
  cout : Nat
  kh : Nat
  kw : Nat
  sy : Nat
  sx : Nat
  dy : Nat
  dx : Nat
  layout : Nat
  mode : Nat
  zrcIn : Bool
  zrcOut : Bool
  deriving DecidableEq, Repr

/-- For RESAMPLE sy and sx hold fy and fx. -/
def Task.win (t : Task) : Win :=
  let sh := t.par 240 3
  let r := t.op = opResample
  { c := t.par 232 2, h := t.par 234 2, w := t.par 236 2, cout := t.par 238 2,
    kh := field sh 0 5 + 1, kw := field sh 5 5 + 1,
    sy := if r then 2 ^ field sh 10 2 else field sh 10 2 + 1, sx := if r then 2 ^ field sh 12 2 else field sh 12 2 + 1,
    dy := field sh 14 2 + 1, dx := field sh 16 2 + 1, layout := field sh 18 2, mode := field sh 20 4,
    zrcIn := field (t.par 243 1) 0 1 = 1, zrcOut := field (t.par 243 1) 1 1 = 1 }

def Task.isWin (t : Task) : Bool := t.op = opConv || t.op = opPool || t.op = opResample

def Task.z (t : Task) : Nat := fmtBytes t.fmtAct
def Task.zo (t : Task) : Nat := fmtBytes t.fmtOut

/-- Input row pitch P (R174). -/
def Task.pitch (t : Task) : Nat := 64 * ceilDiv (t.win.w * t.z) 64

def Task.khEff (t : Task) : Nat :=
  if t.op = opResample then t.win.mode + 1 else t.win.dy * (t.win.kh - 1) + 1
def Task.kwEff (t : Task) : Nat :=
  if t.op = opResample then t.win.mode + 1 else t.win.dx * (t.win.kw - 1) + 1

def Task.ho (t : Task) : Nat :=
  if t.op = opResample then t.win.h * t.win.sy else (t.win.h + t.hN + t.hS - t.khEff) / t.win.sy + 1
def Task.wo (t : Task) : Nat :=
  if t.op = opResample then t.win.w * t.win.sx else (t.win.w + t.hW + t.hE - t.kwEff) / t.win.sx + 1
def Task.po (t : Task) : Nat := 64 * ceilDiv (t.wo * t.zo) 64
def Task.spans (t : Task) : Nat := t.trips roleSpan
def Task.bw (t : Task) : Nat := ceilDiv t.wo t.spans
/-- Columns of band k. -/
def Task.bandOf (t : Task) (k : Nat) : Nat := if k + 1 = t.spans then t.wo - t.bw * (t.spans - 1) else t.bw
def Task.wb (t : Task) : Nat :=
  if t.op = opResample then t.bw / t.win.sx + 2 * t.win.mode else t.win.sx * (t.bw - 1) + t.kwEff
def Task.nr (t : Task) : Nat := if t.op = opConv then ceilDiv t.win.c 64 else 1
/-- Set size Ls of the line buffers (R183). -/
def Task.ls (t : Task) : Nat := t.khEff * t.wb * 64 * t.nr * t.z
/-- Output rows of a position when bucket M governs a DYN ROWS level; Ho otherwise (R158, R181). -/
def Task.winRows (t : Task) (m : Nat) : Nat :=
  if (t.level roleRows).any (·.dyn) then t.rowsOf m else t.ho
/-- Offset of output element (co, yo, xo) in the stage (R181). -/
def Task.outElem (t : Task) (co y x : Nat) : Nat :=
  co / 64 * 64 * t.ho * t.po + co % 64 * t.ho * t.po + y * t.po + x * t.zo

/-- Bytes of the halo sections per plane: rows and row bytes of N, S, W, E (R174). -/
def Task.sections (t : Task) : List (Nat × Nat) :=
  let pns := 64 * ceilDiv ((t.win.w + t.hW + t.hE) * t.z) 64
  let pew := 64 * ceilDiv (t.win.h * t.z) 64
  [(t.hN, pns), (t.hS, pns), (t.hW, pew), (t.hE, pew)]
def Task.sectionBytes (t : Task) (i : Nat) : Nat :=
  let s := t.sections.getD i (0, 0)
  t.win.c * s.1 * s.2

/-- Where the halo buffer begins, and where section i begins (R174). -/
def Task.planeBase (t : Task) : Nat := if t.in0.space = 1 || t.in0.space = 2 then t.landIn0 else t.in0.offset
def Task.haloBase (t : Task) : Nat := t.landIn0 + t.win.c * t.win.h * t.pitch
def Task.sectionBase (t : Task) (i : Nat) : Nat :=
  t.haloBase + ((List.range i).map t.sectionBytes).sum

/-- Compressed size Sz of raw size S (R198). -/
def zrcSize (s : Nat) : Nat := ceilDiv s 1024 * 1152

/-! ## Output size per Room (R146 to R152, R181, R200, R211, R216, R221) -/

/-- Row pitches of SOFTMAX and NORM (R212). -/
def Task.pIn (t : Task) : Nat := 64 * ceilDiv (t.par 236 4 * t.z) 64
def Task.pOut (t : Task) : Nat := 64 * ceilDiv (t.par 236 4 * t.zo) 64

def Task.sOut (t : Task) (m : Nat) : Nat :=
  let mr := t.rowsOf m
  if t.op = opMatmul then mr * t.par 238 2 * t.zo
  else if t.isWin then t.win.cout * t.ho * t.po
  else if t.op = opTopk then 8 + 8 * t.par 236 2
  else if t.op = opVector || t.op = opFunc then t.par 236 4 * t.zo
  else if t.op = opSoftmax then mr * t.pOut
  else if t.op = opNorm then
    match t.par 232 1 with
    | 2 => 16 * (mr / t.par 234 2)
    | 3 => 16
    | _ => mr * t.pOut
  else if t.op = opCopy then t.par 232 4
  else if t.op = opCollective then t.out.bytes
  else 0

/-! ## Array pairs (R132, R237) -/

/-- r and W of an operand pair. -/
def arrayPair (act wt : Nat) : Option (Nat × Nat) :=
  if act = 2 && wt = 2 then some (1, 64)
  else if act = 2 && wt = 1 then some (1, 32)
  else if (act = 4 || act = 5) && (wt = 4 || wt = 5) then some (1, 64)
  else if (act = 6 && wt = 6) || (act = 7 && wt = 7) then some (4, 128)
  else none

/-- The pair of a task's main passes: an OUTLIER task feeds int8 (R132, R237). -/
def Task.pair (t : Task) : Option (Nat × Nat) :=
  if t.outlier then (if t.fmtAct = 3 && t.fmtWt = 2 then some (1, 64) else none) else arrayPair t.fmtAct t.fmtWt

def Task.integer (t : Task) : Bool := t.fmtAct = 2 || t.fmtAct = 3

/-! ## Rules of check 6 (R109 to R112, R148, R157, R164, R173, R182, R191, R197, R199, R200, R211, R222, R226, R237) -/

def inRange (lo hi v : Nat) : Bool := decide (lo ≤ v ∧ v ≤ hi)

/-- Reserved bytes and unused fields of a descriptor that do not depend on the op. -/
def descriptorReserved (b : List Byte) : Bool :=
  rd b 4 1 < 16 && rd b 6 2 < 256 && zeroAt b 209 3 && zeroAt b 248 8
    && (List.range 6).all (fun l => rd b (48 + 16 * l + 5) 1 < 2 && zeroAt b (48 + 16 * l + 14) 2)
    && (List.range 4).all (fun i => rd b (144 + 16 * i + 3) 1 = 0)

/-- The rules of an operand entry (R112, R178). -/
def operandOk (out : Bool) (o : Operand) : Bool :=
  o.space ≤ 4 && (o.space = 1 || o.slot = 65535) && (o.space = 1 || o.space = 2 || o.bytes = 0)
    && (o.space != 0 || o.offset = 0)
    && (!(out && o.space = 4) || (o.offset < 2 ^ 22 && o.offset % 64 = 0))

/-- The rules of the loop levels that every op obeys (R155 to R157). -/
def Task.levelsOk (t : Task) : Bool :=
  t.loops.all (fun l =>
    l.role ≤ 6 && l.trips ≤ 16777216 && l.sIn0 < 16384 && l.sIn1 < 16384 && l.sAux < 16384 && l.sOut < 16384
      && (!l.dyn || (l.trips = 0 && l.role = roleRows && t.dim.isSome))
      && (l.role != roleNone || (l.trips = 1 && l.sIn0 = 0 && l.sIn1 = 0 && l.sAux = 0 && l.sOut = 0)))
    && [1, 2, 3, 4, 5].all (fun r => t.countRole r ≤ 1)
    && (t.countRole roleTile = 1) == t.tiled

/-- Only these roles appear. -/
def Task.onlyRoles (t : Task) (rs : List Nat) : Bool := t.loops.all (fun l => rs.contains l.role)

/-- Every level with role `a` lies outside (before) every level with role `b`. -/
def Task.outside (t : Task) (a b : Nat) : Bool :=
  (List.range 6).all (fun i => (List.range 6).all (fun j =>
    match t.loops[i]?, t.loops[j]? with
    | some x, some y => !(x.role = a && y.role = b && j ≤ i)
    | _, _ => true))

/-- The landing and stage offsets (R139). -/
def Task.layoutOk (t : Task) : Bool :=
  [(t.landIn0, t.in0), (t.landIn1, t.in1), (t.landAux, t.aux)].all (fun p =>
    p.1 % 64 = 0 && (p.2.space = 1 || p.2.space = 2 || p.1 = 0)) && t.stageAt % 64 = 0

/-- Rows M of a task: its buckets, or the static rows (R107, R149, R212). -/
def Task.rowChoices (t : Task) (dims : List (List Nat)) : List Nat :=
  match t.dim with
  | some d => dims.getD d []
  | none => [t.rowsField]

/-- The `rows` field of an op that has one (R149, R212). -/
def Task.rowsOk (t : Task) : Bool :=
  if t.dim.isSome then t.rowsField = 0 else inRange 1 16777216 t.rowsField

/-- Trip count of the ROWS level, when it is static. -/
def Task.rowsTrips (t : Task) (want : Nat) : Bool :=
  t.noop || (t.level roleRows).any (fun l => l.dyn || l.trips = want)

def Task.matmulOk (t : Task) (dims : List (List Nat)) : Bool :=
  let k := t.par 236 2
  let n := t.par 238 2
  t.rowsOk && inRange 1 8192 k && inRange 1 8192 n && t.par 244 4 = 0 && inRange 2 8 t.fmtOut && t.pair.isSome
    && (!t.outlier || inRange 1 3 t.aux.space)
    && t.countRole roleRows = 1 && t.countRole roleCols = 1 && t.countRole roleRed = 1
    && t.onlyRoles [roleNone, roleRows, roleCols, roleRed, roleTile, roleRep]
    && [roleTile, roleRep].all (fun o => [roleRows, roleCols, roleRed].all (fun i => t.outside o i))
    && (t.noop || (t.trips roleCols = ceilDiv n 64 && t.trips roleRed = ceilDiv k 64))
    && (t.rowChoices dims).all (fun m => t.rowsTrips (ceilDiv (t.rowsOf m) 64))

/-- Steps of a window op on levels with trips above 1, which a DYN level has in some bucket (R158, R182). -/
def Task.winSteps (t : Task) (dims : List (List Nat)) (l : Level) : Bool :=
  let w := t.win
  let rs := t.op = opResample
  if (if l.dyn then (t.rowChoices dims).all (fun m => decide (t.rowsOf m ≤ 1)) else decide (l.trips ≤ 1)) then true
  else if l.role = roleRows then
    64 * l.sIn0 = (if rs then 0 else w.sy * t.pitch) && 64 * l.sOut = t.po
  else if l.role = roleSpan then
    64 * l.sIn0 = (if rs then t.bw / w.sx else w.sx * t.bw) * t.z && 64 * l.sOut = t.bw * t.zo
  else if l.role = roleRed then l.sIn0 = w.h * t.pitch && l.sOut = 0
  else if l.role = roleCols then l.sIn0 = 0 && l.sOut = t.ho * t.po
  else l.sIn0 = 0 && l.sOut = 0

def Task.winOk (t : Task) (dims : List (List Nat)) (maint : Bool) : Bool :=
  let w := t.win
  let conv := t.op = opConv
  let rs := t.op = opResample
  inRange 1 4096 w.c && inRange 1 4096 w.h && inRange 1 4096 w.w
    && (if conv then inRange 1 4096 w.cout else w.cout = w.c)
    && w.layout ≤ 2 && t.par 243 1 < 4
    && (if conv then w.mode = 0 && w.kh ≤ 28 && w.kw ≤ 28 else w.mode ≤ 1)
    && (t.op != opPool || (w.kh ≤ 7 && w.kw ≤ 7))
    && (!rs || (w.kh = 1 && w.kw = 1 && w.dy = 1 && w.dx = 1))
    && (if conv then (arrayPair t.fmtAct t.fmtWt).isSome && t.fmtWt != 1 && inRange 2 8 t.fmtOut
        else [2, 4, 5, 6, 7].contains t.fmtAct && t.fmtOut = t.fmtAct && t.fmtWt = 0)
    && t.countRole roleRows = 1 && t.countRole roleCols = 1 && t.countRole roleSpan = 1
    && (if conv then t.countRole roleRed = 1 && [roleRows, roleCols, roleSpan].all (fun o => t.outside o roleRed)
        else t.countRole roleRed = 0)
    && t.onlyRoles [roleNone, roleRows, roleCols, roleSpan, roleRed]
    && t.khEff ≤ w.h + t.hN + t.hS && t.kwEff ≤ w.w + t.hW + t.hE
    && (rs || ((t.fpH ≤ 1 || w.h % w.sy = 0) && (t.fpW ≤ 1 || w.w % w.sx = 0)))
    && (t.noop ||
      (t.rowsTrips t.ho && t.trips roleCols = ceilDiv w.cout 64 && t.bw ≤ 256 && t.bw * (t.spans - 1) < t.wo
        && (!conv || t.trips roleRed = t.nr)))
    && (t.rowChoices dims).all (fun m => !(t.level roleRows).any (·.dyn) || t.rowsOf m ≤ t.ho)
    && (!rs || (t.bw % w.sx = 0
      && [t.hN, t.hS, t.hE, t.hW].all (fun d => d ≤ w.mode)))
    && t.loops.all (fun l => t.winSteps dims l && l.sIn1 = 0 && l.sAux = 0)
    && (w.layout = 0 || (!t.halo && !w.zrcIn && maint))
    && (!w.zrcOut || (t.zo = 1 && (t.out.space = 1 || t.out.space = 2) && t.out.bytes = zrcSize (t.sOut 0)))
    && (!w.zrcIn || (t.z = 1 && (t.in0.space = 1 || t.in0.space = 2) && t.in0.bytes % 1152 = 0))

/-- One iteration of the levels inside a TILE level takes at least 16 rclk (R164), for ops without Array passes; a no-op task's too
(R159). -/
def Task.tileLong (t : Task) (per : Nat) : Bool :=
  let inner := (t.loops.dropWhile (fun l => l.role != roleTile)).drop 1
  !t.tiled || decide (16 ≤ per * inner.foldl (fun p l => p * l.trips) 1)

/-- q of R151: vector operands that a vop reads. -/
def Task.vecQ (t : Task) : Nat :=
  let v := t.par 232 1
  let bc := field (t.par 233 1) 0 1
  if v = 6 then 3 - bc else if inRange 1 5 v then 2 - bc else 1

def Task.vectorOk (t : Task) : Bool :=
  inRange 1 10 (t.par 232 1) && t.par 233 1 < 2 && t.par 234 2 = 0 && inRange 1 262144 (t.par 236 4)
    && inRange 2 8 t.fmtAct && t.fmtWt = 0 && inRange 2 8 t.fmtOut
    && t.onlyRoles [roleNone, roleRep, roleTile] && t.tileLong (ceilDiv (t.par 236 4) 64 * t.vecQ)

def Task.copyOk (t : Task) : Bool :=
  inRange 1 1048576 (t.par 232 4) && t.fmtWt = 0 && inRange 2 8 t.fmtAct && t.fmtOut = t.fmtAct
    && t.onlyRoles [roleNone, roleRep, roleTile] && t.tileLong (ceilDiv (t.par 232 4) 256)

def Task.short (t : Task) : Bool := fnShort (t.par 232 1) t.fmtOut (t.par32 244)
def Task.rho (t : Task) : Nat := if t.short then 16 else 8

def Task.funcOk (t : Task) : Bool :=
  match fnCost (t.par 232 1) t.short with
  | none => false
  | some (g, _) =>
    t.par 233 3 = 0 && inRange 1 262144 (t.par 236 4) && t.dim.isNone && t.fmtWt = 0
      && inRange 2 8 t.fmtAct && inRange 4 8 t.fmtOut
      && t.onlyRoles [roleNone, roleRep, roleTile] && t.tileLong (ceilDiv (t.par 236 4 * g) t.rho)

/-- Steps of SOFTMAX and NORM (R222): `sOut` is the ROWS step of the stage. -/
def Task.rowSteps (t : Task) (pout : Nat) : Bool :=
  t.loops.all (fun l => l.sIn1 = 0 && l.sAux = 0
    && (l.role != roleRows || (64 * l.sIn0 = t.pIn && 64 * l.sOut = pout)))

def Task.rowOp (t : Task) (dims : List (List Nat)) (g : Nat) : Bool :=
  t.rowsOk && t.countRole roleRows = 1 && t.onlyRoles [roleNone, roleRows, roleRep]
    && (t.rowChoices dims).all (fun m => t.rowsTrips (t.rowsOf m) && t.rowsOf m % g = 0)

def Task.softmaxOk (t : Task) (dims : List (List Nat)) : Bool :=
  inRange 1 262144 (t.par 236 4) && t.par 244 4 < 2 && t.fmtWt = 0 && inRange 4 8 t.fmtAct && inRange 4 8 t.fmtOut
    && t.rowOp dims 1 && t.rowSteps t.pOut

def Task.normOk (t : Task) (dims : List (List Nat)) : Bool :=
  let mode := t.par 232 1
  mode ≤ 4 && t.par 233 1 < 4 && t.fmtWt = 0 && inRange 2 8 t.fmtAct
    && (if mode = 2 || mode = 3 then t.fmtOut = 8 else inRange 4 8 t.fmtOut)
    && (if mode = 3 then
          inRange 1 65536 (t.par 236 4) && t.par 233 1 = 0 && t.par 234 2 = 0 && t.par 240 4 = 0 && t.par 244 4 = 0
            && t.dim.isNone && t.onlyRoles [roleNone, roleRep] && t.loops.all (fun l => l.sIn1 = 0 && l.sAux = 0)
        else
          inRange 1 262144 (t.par 236 4) && 1 ≤ t.par 234 2 && t.rowOp dims (t.par 234 2)
            && t.rowSteps (if mode = 2 then 0 else t.pOut))

def Task.topkOk (t : Task) : Bool :=
  inRange 1 262144 (t.par 232 4) && inRange 1 1024 (t.par 236 2) && t.par 238 2 = 0 && t.dim.isNone
    && inRange 2 8 t.fmtAct && t.fmtWt = 0 && t.fmtOut = 8 && t.onlyRoles [roleNone, roleRep]

def Task.collectiveOk (t : Task) : Bool :=
  t.fmtWt = 0 && t.par 236 1 ≤ 3 && t.par 237 3 = 0 && t.par 240 4 % 16 = 0 && inRange 16 1048576 (t.par 240 4) && t.par 244 4 = 0

/-- The op-specific rules of check 6. -/
def Task.opOk (t : Task) (dims : List (List Nat)) (maint : Bool) : Bool :=
  if t.op = opMatmul then t.matmulOk dims
  else if t.isWin then t.winOk dims maint
  else if t.op = opTopk then t.topkOk
  else if t.op = opVector then t.vectorOk
  else if t.op = opFunc then t.funcOk
  else if t.op = opSoftmax then t.softmaxOk dims
  else if t.op = opNorm then t.normOk dims
  else if t.op = opCopy then t.copyOk
  else if t.op = opCollective then t.collectiveOk
  else t.op = opNop && t.fmtWt = 0

/-- Check 6 of R106 for the descriptor at position `i`. -/
def taskOk (dims : List (List Nat)) (maint : Bool) (i : Nat) (b : List Byte) : Bool :=
  let t := parseTask b
  rd b 0 2 = i && inRange 1 12 t.op && descriptorReserved b
    && inRange 1 8 t.fpW && inRange 1 14 t.fpH && t.dim.all (fun d => d < dims.length)
    && (t.semAcq || t.semRel || t.sem = 0) && (t.tiled || t.counter = 0)
    && inRange 2 8 t.fmtAct && t.fmtWt ≤ 8 && inRange 2 8 t.fmtOut
    && (!t.transpose || t.op = opMatmul || t.op = opConv) && (!t.outlier || t.op = opMatmul)
    && (!t.halo || t.isWin)
    && [t.hN, t.hS, t.hE, t.hW].all (fun d => d ≤ 12 && (t.halo || d = 0))
    && t.inputs.all (operandOk false) && operandOk true t.out && t.levelsOk && t.layoutOk
    && t.opOk dims maint

/-! ## The checks of R106 that need the image alone -/

/-- Check 3: magic, version, size, reserved header bytes. -/
def headerOk (b : List Byte) (size : Nat) : Bool :=
  rd b 0 4 == 0x49475146 && rd b 4 2 == 1 && rd b 8 4 == size && size % 64 = 0 && inRange 64 (2 ^ 30) size
    && zeroAt b 6 2 && zeroAt b 21 1 && zeroAt b 40 20

/-- Check 4: the CRC with its own field taken as 0. -/
def imageCrcOk (b : List Byte) : Bool := crc32c (b.take 60 ++ [0, 0, 0, 0] ++ b.drop 64) == rd32 b 60

def rising : List Nat → Bool
  | a :: b :: r => decide (a < b) && rising (b :: r)
  | _ => true

/-- A dimension entry (R103). -/
def dimOk (d : List Byte) : Bool :=
  let nb := rd d 0 1
  let bs := (List.range 8).map (fun i => rd d (8 + 4 * i) 4)
  inRange 1 8 nb && zeroAt d 1 7 && zeroAt d 40 8 && rising (bs.take nb) && (bs.take nb).all (inRange 1 16777216)
    && (bs.drop nb).all (· = 0)

/-- A slot entry (R104). -/
def slotEntryOk (d : List Byte) : Bool := inRange 1 3 (rd d 8 1) && zeroAt d 9 7

/-- Check 5: counts, table offsets, dependence ranges. -/
def limitsOk (b : List Byte) : Bool :=
  let size := rd b 8 4
  let nt := rd b 12 4
  let nd := rd b 16 4
  inRange 1 65536 nt && nd ≤ 1048576 && rd b 20 1 ≤ 8 && rd b 22 2 ≤ 256
    && rd b 24 4 % 256 = 0 && rd b 28 4 % 4 = 0 && rd b 32 4 % 16 = 0 && rd b 36 4 % 16 = 0
    && rd b 24 4 + 256 * nt ≤ size && rd b 28 4 + 4 * nd ≤ size && rd b 32 4 + 48 * rd b 20 1 ≤ size
    && rd b 36 4 + 16 * rd b 22 2 ≤ size
    && (imageTasks b).all (fun t => rd t 5 1 ≤ 16 && (rd t 5 1 = 0 || rd t 8 4 + rd t 5 1 ≤ nd))
    && (imageDims b).all dimOk && (imageSlots b).all slotEntryOk

/-- Check 7: dependence entries. -/
def dependOk (b : List Byte) : Bool :=
  let deps := imageDeps b
  deps.all (fun d => rd d 2 1 ≤ 2 && rd d 3 1 = 0)
    && (List.range (rd b 12 4)).all (fun i =>
      let t := slice b (rd b 24 4 + 256 * i) 256
      ((deps.drop (rd t 8 4)).take (rd t 5 1)).all (fun d => rd d 0 2 < i))

/-- Check 8: footprints, slot and counter references. -/
def Graph.fits (g : Graph) (w h : Nat) : Bool :=
  g.tasks.all (fun t => t.fpW ≤ w && t.fpH ≤ h && (!t.tiled || t.counter < 64)
    && (t.inputs ++ [t.out]).all (fun o => o.space != 1 || o.slot < g.slots.length))

end Sys2Proof.Machine
end

