-- ==== Sys2Proof/Machine/Cycles.lean ====
section
/-!
DEFINITION. Cycle counts of tasks and the check of the cycles entries (R107, R146, R150, R151, R152, R159, R162, R164,
R175, R189, R193, R196, R203, R211, R216, R223, R239, R438, R439).
-/
namespace Sys2Proof.Machine

/-! ## Passes of MATMUL (R150, R160 to R162, R239) -/

/-- One Array pass: its block indices, the TILE and REP indices around it, and whether it is an outlier pass. -/
structure Pass where
  row : Nat
  col : Nat
  red : Nat
  outer : List Nat
  outlier : Bool
  deriving DecidableEq, Repr

/-- Trips of a level for a Room: DYN from the rows, TILE shared out over the footprint (R158, R164). -/
def Task.roomTrips (t : Task) (rows : Nat) (l : Level) : Nat :=
  if l.dyn then ceilDiv rows (if t.op = opMatmul then 64 else 1)
  else if l.role = roleTile then ceilDiv l.trips t.rooms
  else l.trips

/-- The points of a nest in lexicographic order (R160). -/
def nestPoints : List Nat → List (List Nat)
  | [] => [[]]
  | n :: r => (List.range n).flatMap (fun i => (nestPoints r).map (fun p => i :: p))

/-- The points of a task's nest on one Room for M_r rows. -/
def Task.points (t : Task) (rows : Nat) : List (List Nat) := nestPoints (t.loops.map (t.roomTrips rows))

/-- Index of the level with a role at a point. -/
def Task.indexOf (t : Task) (role : Nat) (p : List Nat) : Nat :=
  match (t.loops.zip p).find? (fun q => q.1.role = role) with
  | some q => q.2
  | none => 0

/-- Indices of the TILE and REP levels at a point. -/
def Task.outerOf (t : Task) (p : List Nat) : List Nat :=
  ((t.loops.zip p).filter (fun q => q.1.role = roleTile || q.1.role = roleRep)).map (·.2)

/-- The passes of MATMUL in order, each last RED pass followed by its outlier pass (R239). -/
def Task.passes (t : Task) (rows : Nat) : List Pass :=
  let last := ceilDiv (t.par 236 2) 64 - 1
  (t.points rows).flatMap (fun p =>
    let x : Pass := { row := t.indexOf roleRows p, col := t.indexOf roleCols p, red := t.indexOf roleRed p,
                      outer := t.outerOf p, outlier := false }
    if t.outlier && x.red = last then [x, { x with outlier := true }] else [x])

def Pass.sameTile (a b : Pass) : Bool := a.row = b.row && a.col = b.col && a.outer = b.outer
def Pass.sameWeights (a b : Pass) : Bool :=
  a.col = b.col && a.red = b.red && a.outer = b.outer && !a.outlier && !b.outlier

/-- Row slots of a row block (R150). -/
def blockRows (rows i : Nat) : Nat := if i + 1 = ceilDiv rows 64 then rows - 64 * i else 64

/-- The max term of pass `p` between its neighbours (R150, R162). -/
def passCost (rows r w : Nat) (prev : Option Pass) (p : Pass) (next : Option Pass) : Nat :=
  let load := match next with
    | none => 0
    | some q => if q.outlier || p.outlier then (if q.outlier then 64 else w) else if p.sameWeights q then 0 else w
  let closed := match prev with
    | none => 0
    | some q => bit (!q.sameTile p)
  let resumed := match next with
    | none => 0
    | some q => bit (!q.sameTile p && q.red != 0)
  max (max (blockRows rows p.row * (if p.outlier then 4 else r)) load) (64 * (closed + resumed))

/-- Costs of consecutive passes. -/
def passCosts (rows r w : Nat) : Option Pass → List Pass → List Nat
  | _, [] => []
  | prev, p :: rest => passCost rows r w prev p rest.head? :: passCosts rows r w (some p) rest

/-- Sums of consecutive runs of `k` numbers; the fuel bounds the runs. -/
def runSums (k : Nat) : Nat → List Nat → List Nat
  | 0, _ => []
  | fuel + 1, l => if l.isEmpty then [] else (l.take k).sum :: runSums k fuel (l.drop k)

/-- T_body of MATMUL (R150). -/
def Task.matmulBody (t : Task) (rows : Nat) : Nat :=
  match t.pair with
  | none => 0
  | some (r, w) => w + 128 + (passCosts rows r w none (t.passes rows)).sum + 64

/-- The task with at least one iteration of its TILE level and of the levels outside it: what one iteration costs does not depend on
how many there are (R159, R164). -/
def Task.oneTile (t : Task) : Task :=
  let some_ (l : Level) : Level := { l with trips := max 1 l.trips }
  let inner := t.loops.dropWhile (fun l => l.role != roleTile)
  { t with loops := (t.loops.takeWhile (fun l => l.role != roleTile)).map some_ ++ (inner.take 1).map some_ ++ inner.drop 1 }

/-- Every iteration inside a TILE level of MATMUL takes at least 16 rclk (R164). -/
def Task.matmulTiles (t : Task) (rows : Nat) : Bool :=
  match t.pair with
  | none => true
  | some (r, w) =>
    let t := t.oneTile
    let costs := passCosts rows r w none (t.passes rows)
    let outer := (t.loops.takeWhile (fun l => l.role != roleTile)) ++ (t.loops.filter (fun l => l.role = roleTile))
    let n := outer.foldl (fun p l => p * t.roomTrips rows l) 1
    !costs.isEmpty && (runSums (costs.length / max n 1) costs.length costs).all (16 ≤ ·)

/-! ## Window ops (R175, R187, R189, R193, R196) -/

/-- What a spanning Suite adds to halo times: t_x of R438 in place of 16; 16 on one device. -/
abbrev HaloStart := Nat

/-- T_halo (R175); `start` is 16, or t_x for a task of a spanning Suite (R438). -/
def Task.haloTime (t : Task) (start : HaloStart) : Nat :=
  let phase (i j : Nat) : Nat :=
    let m := max (t.sectionBytes i) (t.sectionBytes j)
    start + ceilDiv m 64
  if !t.halo then 0
  else (if t.hE = 0 && t.hW = 0 then 0 else phase 2 3) + (if t.hN = 0 && t.hS = 0 then 0 else phase 0 1)

/-- Pieces of a decomposed kernel (R187). -/
def Task.pieces (t : Task) : Nat := ceilDiv t.win.kh 7 * ceilDiv t.win.kw 7

/-- Cost of one point: its band of `cols` output columns (R189, R193, R196). -/
def Task.pointCost (t : Task) (cols : Nat) : Nat :=
  if t.op = opConv then
    match t.pair with
    | none => 0
    | some (r, w) =>
      let subs := ceilDiv cols 64
      ((List.range subs).map (fun s =>
        let rs := if s + 1 = subs then cols - 64 * (subs - 1) else 64
        max (t.nr * (t.win.kh * t.win.kw * max (rs * r) w + 16 * (t.pieces - 1))) 64)).sum
  else if t.op = opPool then cols * (t.win.kh * t.win.kw + t.win.mode)
  else cols * (t.win.mode + 1)

/-- Band indices of the points of a window op in order: RED runs inside a point. -/
def Task.winPoints (t : Task) (rows : Nat) : List (List Nat) :=
  nestPoints ((t.loops.filter (fun l => l.role != roleRed)).map (fun l => if l.dyn then rows else l.trips))

def Task.winPointIndex (t : Task) (role : Nat) (p : List Nat) : Nat :=
  match ((t.loops.filter (fun l => l.role != roleRed)).zip p).find? (fun q => q.1.role = role) with
  | some q => q.2
  | none => 0

/-- Costs of the points, each at least the load of the next set (R189). -/
def Task.winCosts (t : Task) (tf : Nat) : List (List Nat) → List Nat
  | [] => []
  | p :: r =>
    max (t.pointCost (t.bandOf (t.winPointIndex roleSpan p))) (if r.isEmpty then 0 else tf) :: t.winCosts tf r

/-- T_win (R189, R193, R196). -/
def Task.winTime (t : Task) (rows : Nat) : Nat :=
  let tf := t.ls / 64
  let sum := (t.winCosts tf (t.winPoints rows)).sum
  if t.op = opConv then
    match t.pair with
    | none => 0
    | some (_, w) => tf + w + 128 + sum + 64
  else tf + sum + 16

def layoutFactor (l : Nat) : Nat := if l = 0 then 1 else if l = 1 then 4 else 16

/-! ## The other ops and c_t (R146) -/

/-- T_body of NORM (R223). -/
def Task.normBody (t : Task) (rows : Nat) : Nat :=
  let k := ceilDiv (t.par 236 4) 64
  let groups := rows / max (t.par 234 2) 1
  16 + t.reps * (match t.par 232 1 with
    | 2 => rows * (4 * k + 84)
    | 3 => 12 * t.par 236 4
    | 4 => rows * 3 * k + groups * 56
    | _ => rows * (7 * k + 84) + groups * 56)

/-- Members m of the span of a COLLECTIVE, and the start of halo phases (R438, R439). -/
structure SpanCost where
  members : Nat
  haloStart : HaloStart

def SpanCost.single : SpanCost := { members := 1, haloStart := 16 }

/-- T_body for M rows in all. -/
def Task.body (t : Task) (sp : SpanCost) (m : Nat) : Nat :=
  let rows := t.rowsOf m
  let e := t.par 236 4
  if t.op = opMatmul then t.matmulBody rows
  else if t.isWin then t.haloTime sp.haloStart + layoutFactor t.win.layout * t.winTime (t.winRows m)
  else if t.op = opTopk then t.reps * (48 + ceilDiv (t.par 232 4) 16 + ceilDiv (t.par 236 2) 16)
  else if t.op = opVector then 12 + t.iters * ceilDiv e 64 * t.vecQ
  else if t.op = opFunc then
    match fnCost (t.par 232 1) t.short with
    | none => 0
    | some (g, f) => f + t.iters * ceilDiv (e * g) t.rho
  else if t.op = opSoftmax then 16 + t.reps * rows * (2 * ceilDiv e 8 + 192)
  else if t.op = opNorm then t.normBody rows
  else if t.op = opCopy then 4 + t.iters * ceilDiv (t.par 232 4) 256
  else
    let b := t.par 240 4
    let k := sp.members
    1024 * (if k ≤ 1 then 0 else Nat.log2 (k - 1) + 1) + ceilDiv (b * (k - 1)) 32 + 24 * k

/-- T_wb (R146, R178). -/
def Task.wbTime (t : Task) (m : Nat) : Nat :=
  match t.out.space with
  | 1 => ceilDiv t.out.bytes 64
  | 2 => ceilDiv t.out.bytes 64
  | 3 => ceilDiv (t.sOut m) 256
  | 4 => 16 + ceilDiv (t.sOut m) 64
  | _ => 0

/-- c_t for M rows in all (R146, R159); 0 for NOP and for a no-op task. -/
def Task.count (t : Task) (sp : SpanCost) (m : Nat) : Nat :=
  if t.op = opNop || t.noop then 0 else 16 + t.body sp m + 8 + t.wbTime m

/-- The cycles entries that R107 asks for. -/
def Task.wantCycles (t : Task) (sp : SpanCost) (dims : List (List Nat)) : List Nat :=
  let cs := (t.rowChoices dims).map (fun m => t.count sp m)
  cs ++ List.replicate (8 - cs.length) 0

/-- Check 9 of R106. -/
def Graph.cyclesOk (g : Graph) (sp : Task → SpanCost) : Bool :=
  g.tasks.all (fun t => t.cycles == t.wantCycles (sp t) g.dims)

/-- The rule of R164 on the length of a MATMUL tile, a part of check 6. -/
def Graph.tilesOk (g : Graph) : Bool :=
  g.tasks.all (fun t => t.op != opMatmul || !t.tiled
    || (t.rowChoices g.dims).all (fun m => t.matmulTiles (t.rowsOf m)))

end Sys2Proof.Machine
end

