-- ==== Sys2Proof/Machine/RoomRun.lean ====
section
/-!
DEFINITION. How a Room runs a task's body: its store accesses with their rclk, the checks of R165 and R166, element
reads, stage writes, masks and the drain of accumulators (R138 to R145, R160, R163 to R166, R233 to R236).
-/
namespace Sys2Proof.Machine

/-! ## Accesses and their checks (R165, R166, R171) -/

/-- Bytes of a Room store (R138). -/
def storeSize : Nat := 1048576

/-- An access that fails its check (R166, R171). -/
structure BadAccess where
  clk : Nat
  code : W32
  phase : Nat
  opnd : Nat
  addr : Nat
  idx : List Nat
  deriving DecidableEq, Repr

/-- Operand codes of the fault record (R171). -/
def oIn0 : Nat := 0
def oIn1 : Nat := 1
def oAux : Nat := 2
def oOut : Nat := 3
def oSpill : Nat := 4
def oHalo : Nat := 5
def oLine : Nat := 6
def oTile : Nat := 7

/-- A write of the Room store in the body: rclk, place and bytes. -/
structure Put where
  clk : Nat
  at_ : Nat
  bytes : List Byte
  deriving DecidableEq, Repr

/-- A Room in the body of a task. -/
structure RunSt where
  /-- The store as the body finds it. -/
  store : Memory
  /-- What the body has written, the latest rclk first. -/
  puts : List Put
  lines : Memory
  clk : Nat
  phase : Nat
  idx : List Nat
  /-- What the data path counted, with its rclk, newest first. -/
  marks : List (Nat × Tally)
  /-- The access that stops the Room: nothing that comes after it is written (R166). -/
  stop : Option (Nat × Nat × Nat)
  /-- Stage bytes written: place and length. -/
  wrote : List (Nat × Nat)
  bad : List BadAccess

def RunSt.start (store lines : Memory) (stop : Option (Nat × Nat × Nat)) : RunSt :=
  { store := store, puts := [], lines := lines, clk := 16, phase := 2, idx := List.replicate 6 0, marks := [], stop := stop,
    wrote := [], bad := [] }

/-- A computation of a Room. -/
abbrev Rx := StateM RunSt

/-- Arithmetic within a Room, counted. -/
def fx {α : Type} (c : Fx α) : Rx α := fun s =>
  let r := c Tally.zero
  (r.1, { s with marks := if r.2 = Tally.zero then s.marks else (s.clk, r.2) :: s.marks })

def setClk (n : Nat) : Rx Unit := modify (fun s => { s with clk := n })
def setIdx (i : List Nat) : Rx Unit := modify (fun s => { s with idx := i })

/-- An access failed its check. -/
def failed (code : W32) (opnd addr : Nat) : Rx Unit :=
  modify (fun s =>
    { s with bad := { clk := s.clk, code := code, phase := s.phase, opnd := opnd, addr := addr, idx := s.idx } :: s.bad })

/-- Checks the range of a Room store access (R165). -/
def checkStore (opnd addr n : Nat) : Rx Unit :=
  if n = 0 || addr + n ≤ storeSize then pure () else failed Code.storeOver opnd (max addr storeSize)

/-- Bytes read from `addr` on, with a write laid over them. -/
def Put.over (w : Put) (addr : Nat) (b : List Byte) : List Byte :=
  if w.at_ + w.bytes.length ≤ addr || addr + b.length ≤ w.at_ then b
  else ((List.range b.length).zip b).map (fun q =>
    if w.at_ ≤ addr + q.1 then (w.bytes[addr + q.1 - w.at_]?).getD q.2 else q.2)

/-- A write takes its place among those of the body. -/
def putIn (w : Put) : List Put → List Put
  | [] => [w]
  | v :: r => if w.clk < v.clk then v :: putIn w r else w :: v :: r

/-- Bytes of the store as a read in rclk `clk` finds them: what earlier rclks wrote, and the old data where a write falls in the same
one (R138, R140). -/
def RunSt.bytesAt (s : RunSt) (clk addr n : Nat) : List Byte :=
  s.puts.foldr (fun w b => if w.clk < clk then w.over addr b else b) (s.store.read addr n)

/-- The store at the end of the body. -/
def RunSt.final (s : RunSt) : Memory := s.puts.foldr (fun w m => m.write w.at_ w.bytes) s.store

/-- A read of the Room store. One that fails its check is not performed (R166). -/
def readB (opnd addr n : Nat) : Rx (List Byte) := do
  checkStore opnd addr n
  let s ← get
  return if n = 0 || addr + n ≤ storeSize then s.bytesAt s.clk addr n else List.replicate n 0

/-- An access comes before another in issue order: rclk, operand, address (R166). -/
def accessBefore (a b : Nat × Nat × Nat) : Bool :=
  decide (a.1 < b.1) || (a.1 = b.1 && (decide (a.2.1 < b.2.1) || (a.2.1 = b.2.1 && decide (a.2.2 < b.2.2))))

/-- A range of bytes joins the ranges written so far. -/
def addSpan (l : List (Nat × Nat)) (a n : Nat) : List (Nat × Nat) :=
  if n = 0 || l.any (fun w => decide (w.1 ≤ a ∧ a + n ≤ w.1 + w.2)) then l
  else match l with
    | w :: r => if w.1 + w.2 = a then (w.1, w.2 + n) :: r else (a, n) :: l
    | [] => [(a, n)]

/-- A write of the Room store. One that fails its check, or comes after the access that stopped the Room, is not performed (R166). -/
def writeB (opnd addr : Nat) (bs : List Byte) : Rx Unit := do
  checkStore opnd addr bs.length
  modify (fun s =>
    if bs.isEmpty || storeSize < addr + bs.length || !s.stop.all (accessBefore (s.clk, opnd, addr)) then s
    else { s with puts := putIn { clk := s.clk, at_ := addr, bytes := bs } s.puts,
                  wrote := if opnd = oOut then addSpan s.wrote addr bs.length else s.wrote })

/-- `a` comes before `b` in issue order (R166). -/
def BadAccess.before (a b : BadAccess) : Bool :=
  decide (a.clk < b.clk) || (a.clk = b.clk && (decide (a.opnd < b.opnd) || (a.opnd = b.opnd && decide (a.addr < b.addr))))

/-- The first access that fails its check (R166). -/
def firstBad : List BadAccess → Option BadAccess
  | [] => none
  | a :: r => match firstBad r with
    | none => some a
    | some b => some (if b.before a then b else a)

/-! ## Elements -/

/-- Encodings of consecutive elements of a format of whole bytes. -/
def readElems (opnd code addr n : Nat) : Rx (List Nat) := do
  let k := fmtBytes code
  let b ← readB opnd addr (n * k)
  return (List.range n).map (fun i => rd b (i * k) k)

/-- Consecutive int4 elements, two to a byte (R227). -/
def readNibbles (opnd addr n : Nat) : Rx (List Nat) := do
  let b ← readB opnd addr ((n + 1) / 2)
  return (List.range n).map (fun i => field (rd8 b (i / 2)).toNat (4 * (i % 2)) 4)

def readAny (opnd code addr n : Nat) : Rx (List Nat) :=
  if code = 1 then readNibbles opnd addr n else readElems opnd code addr n

/-- Elements converted exactly to fp32 (R229). -/
def read32 (opnd code addr n : Nat) : Rx (List W32) := do
  let e ← readElems opnd code addr n
  return e.map (elem32 code)

/-- Converts values to a format and writes them side by side (R230 to R232). -/
def writeOut (code addr : Nat) (vs : List W32) : Rx Unit := do
  let e ← fx (vs.mapM (cvt code))
  writeB oOut addr (e.flatMap (leBytes (fmtBytes code)))

/-- Bytes of a row of `n` elements; an odd int4 row ends in a half byte (R227). -/
def rowBytes (code n : Nat) : Nat := if code = 1 then (n + 1) / 2 else n * fmtBytes code

/-! ## Addresses (R160) -/

def nestAddr (base : Nat) (step : Level → Nat) (loops : List Level) (idx : List Nat) : Nat :=
  base + 64 * ((loops.zip idx).map (fun q => q.2 * step q.1)).sum

/-- Base of an input operand: where it lands, or its own offset (R160, R178). -/
def Operand.base (o : Operand) (land : Nat) : Nat := if o.space = 1 || o.space = 2 then land else o.offset

def Task.base0 (t : Task) : Nat := t.in0.base t.landIn0
def Task.base1 (t : Task) : Nat := t.in1.base t.landIn1
def Task.baseAux (t : Task) : Nat := t.aux.base t.landAux

/-! ## What a position of the footprint runs -/

/-- A position's part of a task (R145, R164). -/
structure RoomPart where
  t : Task
  /-- M: the bucket chosen, or the descriptor's rows. -/
  m : Nat
  j : Nat
  /-- Rows of the position below v_d. -/
  valid : Nat
  /-- Tile index of each iteration of the TILE level, in order. -/
  tiles : List Nat
  /-- Footprint neighbours to the north, south, east and west exist. -/
  sides : Bool × Bool × Bool × Bool
  /-- Zero-detect gating is on (R154). -/
  gate : Bool
  /-- Members of the span and the start term of halo phases (R438, R439). -/
  cost : SpanCost
  /-- Partial sums are combined ONCE (R448). -/
  once : Bool

def RoomPart.rows (p : RoomPart) : Nat := p.t.rowsOf p.m

/-- Which iteration of the TILE level a point lies in, counted over the whole task. -/
def Task.tileIter (t : Task) (rows : Nat) (i : List Nat) : Nat :=
  let ls := t.loops.zip i
  let upto := (ls.takeWhile (fun q => q.1.role != roleTile)) ++ (ls.filter (fun q => q.1.role = roleTile))
  upto.foldl (fun a q => a * t.roomTrips rows q.1 + q.2) 0

/-- The level indices of a point with the tile index in place, and whether the iteration is live (R164). -/
def RoomPart.effective (p : RoomPart) (i : List Nat) : List Nat × Bool :=
  match p.t.level roleTile with
  | none => (i, true)
  | some l =>
    let v := p.tiles.getD (p.t.tileIter p.rows i) l.trips
    ((p.t.loops.zip i).map (fun q => if q.1.role = roleTile then v else q.2), decide (v < l.trips))

/-- A tile index that the claim bitmap cannot hold faults (R164). -/
def checkTile (p : RoomPart) (i : List Nat) : Rx Unit :=
  match p.t.level roleTile with
  | none => pure ()
  | some l =>
    let v := p.tiles.getD (p.t.tileIter p.rows i) l.trips
    if 65536 ≤ v && v < l.trips then failed Code.tileOver oTile v else pure ()

/-! ## The quantisation block and the drain (R233 to R236) -/

/-- Flags of the block, n_o and idx (R233). -/
structure QBlock where
  at_ : Option Nat
  pch : Bool
  rot : Bool
  nO : Nat
  idx : List Nat

/-- Reads the block; an unused aux acts as zeros (R233). -/
def readQ (t : Task) (at_ : Nat) : Rx QBlock := do
  if t.aux.space = 0 then return { at_ := none, pch := false, rot := false, nO := 0, idx := List.replicate 64 0 }
  else
    let b ← readB oAux at_ 192
    let fl := rd8 b 0
    return { at_ := some at_, pch := fl.getLsbD 0, rot := fl.getLsbD 1, nO := min 64 (rd b 1 1),
             idx := (List.range 64).map (fun i => rd b (64 + 2 * i) 2) }

/-- One butterfly stage of the rotation: stride `k` (R236). -/
def whtStage (k : Nat) (d : List W32) : Fx (List W32) :=
  (List.range d.length).mapM (fun i =>
    let lo := i - i / k % 2 * k
    let u := d.getD lo 0
    let v := d.getD (lo + k) 0
    if i / k % 2 = 0 then add32 u v else sub32 u v)

/-- Overflows are counted once per result, in the order of R236; the stages run one after another. -/
def wht (d : List W32) : Fx (List W32) := do
  let d ← whtStage 1 d
  let d ← whtStage 2 d
  let d ← whtStage 4 d
  let d ← whtStage 8 d
  let d ← whtStage 16 d
  let d ← whtStage 32 d
  d.mapM (fun x => mul32 x 0x3E000000)

/-- Values of a drained row of a 64-channel block that starts at channel `n0`, before the conversion (R234). -/
def drainRow (q : QBlock) (integer : Bool) (scale : W32) (n0 : Nat) (cells : List W32) : Rx (List W32) := do
  let a := cells.map (accTo32 integer)
  let ch ← match q.pch, q.at_ with
    | true, some at_ => do
      let b ← readB oAux (at_ + 192 + 4 * n0) (4 * a.length)
      pure ((List.range a.length).map (fun i => rd32 b (4 * i)))
    | _, _ => pure (a.map (fun _ => one32))
  let d ← fx ((a.zip ch).mapM (fun p => mul32 p.1 p.2))
  let d ← if q.rot && d.length = 64 then fx (wht d) else pure d
  fx (d.mapM (fun x => mul32 x scale))

/-! ## Trees of pairwise merges (R122, R213, R219) -/

/-- Neighbouring pairs merged in order; an odd last element passes up. -/
def mergePairs {α : Type} (f : α → α → Fx α) : List α → Fx (List α)
  | a :: b :: r => do
    let x ← f a b
    let y ← mergePairs f r
    return x :: y
  | l => return l

/-- The pairwise tree; the fuel bounds its levels. -/
def mergeTree {α : Type} (f : α → α → Fx α) : Nat → List α → Fx (List α)
  | 0, l => return l
  | n + 1, l => if l.length ≤ 1 then return l else do
    let l ← mergePairs f l
    mergeTree f n l

/-! ## Split reductions of VARIES tasks (R122, R448) -/

/-- Reduction blocks of one column of the footprint row, where a VARIES task's reduction is split across it; none where it is not:
the rule allows the split and does not ask for it (`Config.varySplit`; log entry 97). -/
def RoomPart.chunk (p : RoomPart) : Option Nat :=
  let n := p.t.trips roleRed
  if p.t.varies && 1 < p.t.fpW && Config.varySplit p.t.fpW n then some (max 1 (ceilDiv n p.t.fpW)) else none

/-- A reduction block is the first of another column's share. -/
def RoomPart.opensChunk (p : RoomPart) (red : Nat) : Bool := p.chunk.any (fun k => red != 0 && red % k = 0)

/-- Partial sums of one cell, in ascending logical column, combined: STEPWISE, each addition of the tree rounded or clamped, or ONCE,
one exact sum (R448). -/
def combineCell (once integer : Bool) (cs : List W32) : Fx W32 := do
  if cs.length ≤ 1 then return cs.headD 0
  else if integer then
    if once then do
      let v ← sat32 (cs.map (·.toInt)).sum
      return BitVec.ofInt 32 v
    else do
      let l ← mergeTree (fun a b => do let v ← sat32 (a.toInt + b.toInt); return BitVec.ofInt 32 v) cs.length cs
      return l.headD 0
  else if once then round32 (Fp.sum (cs.map f32))
  else do
    let l ← mergeTree add32 cs.length cs
    return l.headD 0

/-! ## Array passes (R131 to R135, R144) -/

/-- Column sum of one output column (R133): integer exactly, or the exact sum of the products rounded once. -/
def columnSum (integer : Bool) (a w : List Fp) : Fx (Int × W32) := do
  if integer then
    return ((a.zip w).foldl (fun s p => s + (p.1.mul p.2).scaled 0) 0, 0)
  else
    let r ← round32 (Fp.sum ((a.zip w).map (fun p => p.1.mul p.2)))
    return (0, r)

/-- An accumulator cell after a column sum (R133). -/
def accumulate (integer : Bool) (c : W32) (s : Int × W32) : Fx W32 := do
  if integer then
    let v ← sat32 (c.toInt + s.1)
    return BitVec.ofInt 32 v
  else add32 c s.2

/-- Counts of one activation row through a 64 × 64 tile of `cols` weight columns (R144, R154): rows fed, MACs with both
operands nonzero, and gated cell-cycles. -/
def countRow (gate live : Bool) (r : Nat) (a : List Fp) (cols : List (List Fp)) : Fx Unit :=
  if live then
    let mac := (cols.map (fun w => ((a.zip w).filter (fun p => !p.1.isZero && !p.2.isZero)).length)).sum
    modify (fun t => { t with fed := t.fed + 1, mac := t.mac + mac,
                              gated := t.gated + if gate then (4096 - mac) * r else 0 })
  else modify (fun t => { t with gated := t.gated + 4096 * r })

/-- One live row of a pass: its accumulator row updated by every column. -/
def feedRow (integer gate : Bool) (r : Nat) (a : List Fp) (cols : List (List Fp)) (acc : List W32) : Fx (List W32) := do
  countRow gate true r a cols
  (acc.zip cols).mapM (fun p => do
    let s ← columnSum integer a p.2
    accumulate integer p.1 s)

end Sys2Proof.Machine
end

