-- ==== Sys2Proof/Machine/OpsArray.lean ====
section
/-!
DEFINITION. Data of the Array ops: MATMUL with its passes, spills and outlier passes, and CONV (R131 to R137, R149, R150,
R160 to R163, R183 to R190, R234, R237 to R239).
-/
namespace Sys2Proof.Machine

/-! ## MATMUL -/

def Task.kDim (t : Task) : Nat := t.par 236 2
def Task.nDim (t : Task) : Nat := t.par 238 2
/-- Formats that the main passes feed (R132, R238). -/
def Task.feedFmt (t : Task) : Nat := if t.outlier then 2 else t.fmtAct

/-- Stored bytes between rows of in1: K × N, or N × K under TRANSPOSE (R135, R149). -/
def Task.in1Pitch (t : Task) : Nat := rowBytes t.fmtWt (if t.transpose then t.kDim else t.nDim)

/-- Address of the block of in1 at a point (R149, R160): the steps place it, int4 blocks too. -/
def Task.in1At (t : Task) (i : List Nat) : Nat := nestAddr t.base1 (·.sIn1) t.loops i

/-- The point with its RED index 0. -/
def Task.redZero (t : Task) (i : List Nat) : List Nat :=
  (t.loops.zip i).map (fun q => if q.1.role = roleRed then 0 else q.2)

/-- rclk at which stored row `k` of a tile of `w` rclk is read, of 64 (R132, R150). -/
def loadClk (from_ w k : Nat) : Nat := from_ + k * w / 64

/-- Weight columns of a main pass (R131, R134, R135): for each output column of the block, its 64 weights, zero beyond
K. The tile loads from `at_` on in `w` rclk. -/
def loadTile (t : Task) (i : List Nat) (at_ w : Nat) : Rx (List (List Fp)) := do
  let nk := min 64 (t.kDim - 64 * t.indexOf roleRed i)
  let nn := min 64 (t.nDim - 64 * t.indexOf roleCols i)
  let b := t.in1At i
  let val := elemValue t.fmtWt
  let pad := List.replicate (64 - nk) (Fp.fin false 0 0)
  if t.transpose then
    (List.range nn).mapM (fun c => do
      setClk (loadClk at_ w c)
      let e ← readAny oIn1 t.fmtWt (b + c * t.in1Pitch) nk
      return e.map val ++ pad)
  else do
    let rows ← (List.range nk).mapM (fun k => do
      setClk (loadClk at_ w k)
      readAny oIn1 t.fmtWt (b + k * t.in1Pitch) nn)
    return (List.range nn).map (fun c => rows.map (fun r => val (r.getD c 0)) ++ pad)

/-- Weight columns of an outlier pass: row e is row idx[e] of in1 (R239). -/
def loadOutlier (t : Task) (q : QBlock) (i : List Nat) (at_ : Nat) : Rx (List (List Fp)) := do
  let nn := min 64 (t.nDim - 64 * t.indexOf roleCols i)
  let b := t.in1At (t.redZero i)
  let z := fmtBytes t.fmtWt
  let rows ← (List.range 64).mapM (fun e => do
    setClk (loadClk at_ 64 e)
    let k := q.idx.getD e 0
    if q.nO ≤ e || t.kDim ≤ k then return List.replicate nn (Fp.fin false 0 0)
    else if t.transpose then do
      let es ← (List.range nn).mapM (fun c => readElems oIn1 t.fmtWt (b + c * t.in1Pitch + k * z) 1)
      return es.map (fun x => elemValue t.fmtWt (x.getD 0 0))
    else do
      let es ← readElems oIn1 t.fmtWt (b + k * t.in1Pitch) nn
      return es.map (elemValue t.fmtWt))
  return (List.range nn).map (fun c => rows.map (fun r => r.getD c (Fp.fin false 0 0)))

/-- Rows of the side section: 128 B each (R238). -/
def Task.sideBase (t : Task) (rows : Nat) : Nat := t.base0 + 64 * ceilDiv (rows * t.kDim) 64

/-- The activation row `k` of a pass's row block, padded to 64 (R131, R149, R238). -/
def feedValues (p : RoomPart) (x : Pass) (i : List Nat) (k : Nat) : Rx (List Fp) := do
  let t := p.t
  if x.outlier then do
    let e ← readElems oIn0 3 (t.sideBase p.rows + 128 * (64 * x.row + k)) 64
    return e.map (elemValue 3)
  else do
    let n := min 64 (t.kDim - 64 * x.red)
    let e ← readElems oIn0 t.feedFmt (nestAddr t.base0 (·.sIn0) t.loops i + k * t.kDim * fmtBytes t.feedFmt) n
    return e.map (elemValue t.feedFmt) ++ List.replicate (64 - n) (Fp.fin false 0 0)

/-- A half of the accumulator bank: 64 rows of 64 cells (R136). -/
abbrev Half := List (List W32)
def Half.zero : Half := List.replicate 64 (List.replicate 64 0)

def Half.row (h : Half) (k : Nat) : List W32 := h.getD k []

/-- Row `k` of a half with its first cells replaced. -/
def Half.put (h : Half) (k : Nat) (cells : List W32) : Half := lmod h k (fun r => cells ++ r.drop cells.length)

/-- Partial halves combined in the rows and columns that are drained (R122, R448). -/
def combineHalves (once integer : Bool) (rows cols : Nat) (hs : List Half) : Fx Half :=
  (List.range 64).mapM (fun k =>
    if rows ≤ k then return (hs.getLastD []).row k
    else (List.range 64).mapM (fun c =>
      if cols ≤ c then return ((hs.getLastD []).row k).getD c 0
      else combineCell once integer (hs.map (fun h => (h.row k).getD c 0))))

/-- Rows of a pass's block that are read, fed and drained: those below v_d, none in a masked iteration (R145, R164). -/
def RoomPart.liveRows (p : RoomPart) (x : Pass) (live : Bool) : Nat :=
  if live then min (blockRows p.rows x.row) (p.valid - 64 * x.row) else 0

/-- Streams the rows of a pass (R134, R150): row slot k falls r × k after the pass begins. -/
def streamRows (p : RoomPart) (x : Pass) (i : List Nat) (live : Bool) (begin_ : Nat) (cols : List (List Fp)) (h : Half) :
    Rx Half := do
  let r := if x.outlier then 4 else (p.t.pair.getD (1, 64)).1
  (List.range (blockRows p.rows x.row)).foldlM (fun h k => do
    setClk (begin_ + r * k)
    if k < p.liveRows x live then do
      let a ← feedValues p x i k
      let row ← fx (feedRow p.t.integer p.gate r a cols (h.row k))
      return h.put k row
    else do
      fx (countRow p.gate false r [] cols)
      return h) h

/-- Slot of a spilled tile (R163). -/
def RoomPart.spillAt (p : RoomPart) (x : Pass) : Nat :=
  p.t.stageAt + 64 * ceilDiv (p.t.sOut p.m) 64 + 16384 * (x.row * p.t.trips roleCols + x.col)

/-- Drains a closed output tile into the stage: one row per rclk (R136, R149, R234). Masked rows are not drained. -/
def drainTile (p : RoomPart) (x : Pass) (i : List Nat) (live : Bool) (at_ : Nat) (h : Half) : Rx Unit := do
  let t := p.t
  let nn := min 64 (t.nDim - 64 * x.col)
  let b := nestAddr t.stageAt (·.sOut) t.loops i
  setIdx i
  setClk at_
  let q ← if p.liveRows x live = 0 then pure { at_ := none, pch := false, rot := false, nO := 0, idx := [] }
    else readQ t (nestAddr t.baseAux (·.sAux) t.loops i)
  (List.range (blockRows p.rows x.row)).forM (fun k => do
    setClk (at_ + k)
    let a := b + k * t.nDim * t.zo
    if k < p.liveRows x live then do
      let d ← drainRow q t.integer (t.par32 240) (64 * x.col) ((h.row k).take nn)
      writeOut t.fmtOut a d
    else pure ())

/-- Spills a closed tile as raw cells, or reads a spilled one back (R136, R137, R163). -/
def spillTile (p : RoomPart) (x : Pass) (at_ : Nat) (h : Half) : Rx Unit :=
  (List.range 64).forM (fun k => do
    setClk (at_ + k)
    writeB oSpill (p.spillAt x + 256 * k) ((h.row k).flatMap le32))

def preloadTile (p : RoomPart) (x : Pass) (at_ : Nat) : Rx Half :=
  (List.range 64).mapM (fun k => do
    setClk (at_ + k)
    let b ← readB oSpill (p.spillAt x + 256 * k) 256
    return (List.range 64).map (fun c => rd32 b (4 * c)))

/-- A pass with its point, the effective indices there, when it begins and its max term. -/
structure PassAt where
  x : Pass
  i : List Nat
  eff : List Nat
  live : Bool
  at_ : Nat
  cost : Nat

/-- The passes with their points, in order (R160, R239). -/
def Task.passPoints (t : Task) (rows : Nat) : List (Pass × List Nat) :=
  let last := ceilDiv t.kDim 64 - 1
  (t.points rows).flatMap (fun p =>
    let x : Pass := { row := t.indexOf roleRows p, col := t.indexOf roleCols p, red := t.indexOf roleRed p,
                      outer := t.outerOf p, outlier := false }
    if t.outlier && x.red = last then [(x, p), ({ x with outlier := true }, p)] else [(x, p)])

/-- When each pass begins (R150). -/
def startTimes (from_ : Nat) : List Nat → List Nat
  | [] => []
  | c :: r => from_ :: startTimes (from_ + c) r

def RoomPart.schedule (p : RoomPart) (w : Nat) (r : Nat) : List PassAt :=
  let ps := p.t.passPoints p.rows
  let costs := passCosts p.rows r w none (ps.map (·.1))
  (ps.zip ((startTimes (16 + w + 128) costs).zip costs)).map (fun q =>
    let e := p.effective q.1.2
    { x := q.1.1, i := q.1.2, eff := e.1, live := e.2, at_ := q.2.1, cost := q.2.2 })

/-- Partial halves of a split reduction that wait for their output tile's drain (R122): ROWS, COLS and outer indices, and the half. -/
abbrev Parts := List ((Nat × Nat × List Nat) × Half)

def Pass.key (x : Pass) : Nat × Nat × List Nat := (x.row, x.col, x.outer)

/-- Drains an output tile: its partial sums, in ascending logical column, and the last of them, combined (R122, R136). -/
def drainSplit (p : RoomPart) (q : PassAt) (at_ : Nat) (h : Half) (parts : Parts) : Rx Unit := do
  let mine := (parts.filter (fun y => y.1 = q.x.key)).map (·.2)
  setClk at_
  let h ← if mine.isEmpty then pure h
    else fx (combineHalves p.once p.t.integer (p.liveRows q.x q.live) (min 64 (p.t.nDim - 64 * q.x.col)) (mine ++ [h]))
  drainTile p q.x q.eff q.live at_ h

/-- The passes one after another. `halves` are the accumulating half and the idle one; `prev` is the pass before. A tile loads while
the pass before runs, and the last tile drains after the last max term (R134, R150). A masked iteration writes nothing (R164). -/
def runPasses (p : RoomPart) (w : Nat) : Option PassAt → Half × Half → Parts → List PassAt → Rx (Half × Half)
  | none, hs, _, [] => pure hs
  | some q, hs, parts, [] => do
    drainSplit p q (q.at_ + q.cost) hs.1 parts
    return hs
  | prev, hs, parts, c :: rest => do
    let closes := match prev with
      | some q => !q.x.sameTile c.x
      | none => false
    let wAt := match prev with
      | some q => q.at_
      | none => 16
    setIdx c.eff
    setClk wAt
    if c.live then checkTile p c.i
    let q ← if p.t.outlier && c.live then readQ p.t (nestAddr p.t.baseAux (·.sAux) p.t.loops c.eff)
      else pure { at_ := none, pch := false, rot := false, nO := 0, idx := [] }
    let cols ← if !c.live then pure []
      else if c.x.outlier then loadOutlier p.t q c.eff wAt
      else loadTile p.t c.eff wAt w
    let (hs, parts) ← match prev with
      | some q =>
        if closes then do
          let last := q.x.red + 1 = p.t.trips roleRed
          if last then drainSplit p q c.at_ hs.1 parts
          else if q.live then spillTile p q.x c.at_ hs.1
          let parts := if last then parts.filter (fun y => y.1 != q.x.key) else parts
          if c.x.red = 0 then pure ((Half.zero, hs.1), parts)
          else if !c.live then pure ((Half.zero, hs.1), parts)
          else do
            setIdx c.eff
            let h ← preloadTile p c.x (q.at_ + 64)
            pure ((h, hs.1), parts)
        else pure (hs, parts)
      | none => pure ((Half.zero, hs.2), parts)
    let opens := p.opensChunk c.x.red && !c.x.outlier
    let parts := if opens then parts ++ [(c.x.key, hs.1)] else parts
    let hs := if opens then (Half.zero, hs.2) else hs
    setIdx c.eff
    let h ← streamRows p c.x c.eff c.live c.at_ cols hs.1
    runPasses p w (some c) (h, hs.2) parts rest

/-- MATMUL on one Room: its two accumulator halves at the end. -/
def runMatmul (p : RoomPart) : Rx (Half × Half) :=
  match p.t.pair with
  | none => pure (Half.zero, Half.zero)
  | some (r, w) => runPasses p w none (Half.zero, Half.zero) [] (p.schedule w r)

/-! ## The input plane and its halo (R174, R190) -/

/-- Element (ci, y, x) of the input plane by layout; `st` are the strides of STRIDED (R174, R190). -/
def Task.planeElem (t : Task) (st : List Nat) (ci y x : Nat) : Nat :=
  let w := t.win
  match w.layout with
  | 1 => t.base0 + y * (64 * ceilDiv (w.w * w.c * t.z) 64) + (x * w.c + ci) * t.z
  | 2 => t.base0 + ci * st.getD 0 0 + y * st.getD 1 0 + x * st.getD 2 0
  | _ => t.base0 + ci * w.h * t.pitch + y * t.pitch + x * t.z

/-- Strides of the STRIDED layout: three uint32 at land_aux (R190). -/
def readStrides (t : Task) : Rx (List Nat) := do
  if t.win.layout = 2 then
    let b ← readB oAux t.baseAux 12
    return [rd b 0 4, rd b 4 4, rd b 8 4]
  else return [0, 0, 0]

/-- Where the element at padded row `r` and column `c` of channel `ci` lies: in the plane, in a halo section, or nowhere
(+0) (R183, R185). -/
def Task.paddedElem (t : Task) (st : List Nat) (ci r c : Nat) : Option (Nat × Nat) :=
  let w := t.win
  let pns := (t.sections.getD 0 (0, 0)).2
  let pew := (t.sections.getD 2 (0, 0)).2
  if w.c ≤ ci || t.hN + w.h + t.hS ≤ r || t.hW + w.w + t.hE ≤ c then none
  else if r < t.hN then some (oHalo, t.sectionBase 0 + (ci * t.hN + r) * pns + c * t.z)
  else if t.hN + w.h ≤ r then some (oHalo, t.sectionBase 1 + (ci * t.hS + (r - t.hN - w.h)) * pns + c * t.z)
  else if c < t.hW then some (oHalo, t.sectionBase 2 + (ci * t.hW + c) * pew + (r - t.hN) * t.z)
  else if t.hW + w.w ≤ c then some (oHalo, t.sectionBase 3 + (ci * t.hE + (c - t.hW - w.w)) * pew + (r - t.hN) * t.z)
  else some (oIn0, t.planeElem st ci (r - t.hN) (c - t.hW))

/-! ## Line buffers (R183, R184) -/

/-- Capacity of the line buffers (R183). -/
def lineSize : Nat := 131072

/-- The padded row and column that a slot of a set holds: CONV and POOL count from the point's first tap; RESAMPLE reads
the samples of R194 and R195, with the nearest edge in place of a row or column beyond an edge of the footprint. -/
def RoomPart.setRow (p : RoomPart) (y k : Nat) : Nat :=
  let t := p.t
  let w := t.win
  if t.op != opResample then y * w.sy + k
  else if w.mode = 0 then t.hN + y / w.sy
  else
    let u : Int := (2 * (y : Int) + 1 - w.sy) / (2 * w.sy) + k
    let lo : Int := if p.sides.1 && t.hN != 0 then -1 else 0
    let hi : Int := if p.sides.2.1 && t.hS != 0 then w.h else (w.h : Int) - 1
    ((max lo (min hi u)) + t.hN).toNat

def RoomPart.setCol (p : RoomPart) (band k : Nat) : Nat :=
  let t := p.t
  let w := t.win
  if t.op != opResample then band * t.bw * w.sx + k
  else if w.mode = 0 then t.hW + band * t.bw / w.sx + k
  else
    let u : Int := (band * t.bw / w.sx : Nat) + (k : Int) - 1
    let lo : Int := if p.sides.2.2.2 && t.hW != 0 then -1 else 0
    let hi : Int := if p.sides.2.2.1 && t.hE != 0 then w.w else (w.w : Int) - 1
    ((max lo (min hi u)) + t.hW).toNat

/-- Channels of the input that a COLS block reads first: all of them for CONV, the block's own otherwise. -/
def Task.chanBase (t : Task) (cb : Nat) : Nat := if t.op = opConv then 0 else 64 * cb

/-- Loads a point's row set into the line buffers from offset `off`, a 64 B word per `x` rclk from `from_` on (R183,
R184). Rows of a set lie in order, then columns, then channels. -/
def loadSet (p : RoomPart) (st : List Nat) (cb y band off from_ x : Nat) (live : Bool) : Rx Unit := do
  let t := p.t
  let per := 64 * t.nr
  let words := t.ls / 64
  setClk (from_ + x * (if off < lineSize then (lineSize - off) / 64 else 0))
  if lineSize < off + t.ls then failed Code.lineOver oLine lineSize
  if live then
    (List.range (t.khEff * t.wb)).forM (fun s => do
      let r := p.setRow y (s / t.wb)
      let c := p.setCol band (s % t.wb)
      let es ← (List.range per).mapM (fun ch => do
        setClk (from_ + x * min words ((s * per + ch) * t.z / 64))
        match t.paddedElem st (t.chanBase cb + ch) r c with
        | none => return List.replicate t.z (0 : Byte)
        | some (o, a) => readB o a t.z)
      modify (fun q => { q with lines := q.lines.write (off + s * per * t.z) es.flatten }))

/-- The value in the line buffers at row slot, column and channel of a set. -/
def lineElem (p : RoomPart) (off row col ch : Nat) : Rx Nat := do
  let t := p.t
  let s ← get
  return rd (s.lines.read (off + ((row * t.wb + col) * (64 * t.nr) + ch) * t.z) t.z) 0 t.z

/-! ## CONV (R185 to R189) -/

/-- Taps of the kernel in the order of R186: pieces in row-major order, and the taps of each piece. -/
def Task.taps (t : Task) : List (Nat × Nat) :=
  let w := t.win
  (List.range (ceilDiv w.kh 7)).flatMap (fun a => (List.range (ceilDiv w.kw 7)).flatMap (fun b =>
    (List.range (min 7 (w.kh - 7 * a))).flatMap (fun i => (List.range (min 7 (w.kw - 7 * b))).map (fun j =>
      (7 * a + i, 7 * b + j)))))

/-- Weight columns of one tap, RED block and COLS block (R134, R135, R188), loaded from `at_` on in `w` rclk, each step `x` times
as long. -/
def convTile (t : Task) (cb rb : Nat) (tap : Nat × Nat) (at_ w x : Nat) : Rx (List (List Fp)) := do
  let g := t.win
  let nk := min 64 (g.c - 64 * rb)
  let nn := min 64 (g.cout - 64 * cb)
  let z := fmtBytes t.fmtWt
  let k2 := g.kh * g.kw
  let b := t.base1 + (64 * cb * g.c * k2 + 64 * rb * k2 * nn + (tap.1 * g.kw + tap.2) * nk * nn) * z
  let val := elemValue t.fmtWt
  let pad := List.replicate (64 - nk) (Fp.fin false 0 0)
  if t.transpose then
    (List.range nn).mapM (fun c => do
      setClk (loadClk at_ (x * w) c)
      let e ← readElems oIn1 t.fmtWt (b + c * nk * z) nk
      return e.map val ++ pad)
  else do
    let rows ← (List.range nk).mapM (fun k => do
      setClk (loadClk at_ (x * w) k)
      readElems oIn1 t.fmtWt (b + k * nn * z) nn)
    return (List.range nn).map (fun c => rows.map (fun r => val (r.getD c 0)) ++ pad)

/-- A point of a window op: its indices, band and times (R183, R189). -/
structure PointAt where
  i : List Nat
  cb : Nat
  y : Nat
  band : Nat
  live : Bool
  /-- Line-buffer offset of its set, when the set begins to load and when the point computes. -/
  off : Nat
  load : Nat
  at_ : Nat

/-- The points of a window op in order, with their times. -/
def RoomPart.winSchedule (p : RoomPart) : List PointAt :=
  let t := p.t
  let x := layoutFactor t.win.layout
  let tf := t.ls / 64
  let fill := if t.op = opConv then (t.pair.getD (1, 64)).2 + 128 else 0
  let base := 16 + t.haloTime p.cost.haloStart
  let dyn := (t.level roleRows).any (·.dyn)
  let pts := t.winPoints p.rows
  let at_ := (startTimes (tf + fill) (t.winCosts tf pts)).map (fun n => base + x * n)
  let loads := base :: at_
  ((List.range pts.length).zip pts).map (fun q =>
    let y := t.winPointIndex roleRows q.2
    { i := (t.loops.foldl (fun (acc : List Nat × List Nat) l =>
          if l.role = roleRed then (acc.1 ++ [0], acc.2) else (acc.1 ++ [acc.2.headD 0], acc.2.drop 1)) ([], q.2)).1,
      cb := t.winPointIndex roleCols q.2, y := y, band := t.winPointIndex roleSpan q.2,
      live := !dyn || decide (y < p.valid), off := if q.1 % 2 = 0 then 0 else t.ls, load := loads.getD q.1 0,
      at_ := at_.getD q.1 0 })

/-- Writes the outputs of one column of a point: the channels of its COLS block (R181). -/
def writeColumn (t : Task) (pt : PointAt) (x : Nat) (vs : List W32) : Rx Unit := do
  let e ← fx (vs.mapM (cvt t.fmtOut))
  ((List.range e.length).zip e).forM (fun q =>
    writeB oOut (t.stageAt + t.outElem (64 * pt.cb + q.1) pt.y x) (leBytes t.zo q.2))

/-- rclk of a tap's pass over `cols` columns (R132, R189). -/
def Task.tapCost (t : Task) (cols : Nat) : Nat :=
  let (r, w) := t.pair.getD (1, 64)
  max (cols * r) w

/-- The passes of a sub-block of `cols` columns: RED block, tap, and rclk from its start (R186, R187, R189). -/
def Task.convPasses (t : Task) (cols : Nat) : List (Nat × (Nat × Nat) × Nat) :=
  let m := t.tapCost cols
  let kw := ceilDiv t.win.kw 7
  let taps := (List.range t.taps.length).zip t.taps
  (List.range t.nr).flatMap (fun rb => taps.map (fun q =>
    (rb, q.2, rb * (t.taps.length * m + 16 * (t.pieces - 1)) + q.1 * m + 16 * (q.2.1 / 7 * kw + q.2.2 / 7))))

/-- rclk that a sub-block takes (R189). -/
def Task.subCost (t : Task) (cols : Nat) : Nat := max (t.nr * (t.taps.length * t.tapCost cols + 16 * (t.pieces - 1))) 64

/-- The sub-blocks of a point: number, rclk at which each begins (R186). -/
def Task.convStarts (t : Task) (pt : PointAt) : List (Nat × Nat) :=
  (List.range (ceilDiv (t.bandOf pt.band) 64)).map (fun s => (s, pt.at_ + layoutFactor t.win.layout * s * t.subCost 64))

/-- A sub-block of CONV: the cells of its columns after every pass, and when its last pass began (R186). Each pass's weight tile
loads while the pass before runs; `prev` is when that one began. A split reduction leaves its partial halves beside it (R122). -/
def convBlock (p : RoomPart) (pt : PointAt) (first n at_ prev : Nat) : Rx (List Half × Nat) := do
  let t := p.t
  let w := t.win
  let (r, wl) := t.pair.getD (1, 64)
  let x := layoutFactor w.layout
  (t.convPasses n).foldlM (fun hs q => do
    let (rb, tap, off) := q
    let begin_ := at_ + x * off
    setIdx ((t.loops.zip pt.i).map (fun l => if l.1.role = roleRed then rb else l.2))
    let cols ← convTile t pt.cb rb tap hs.2 wl x
    setClk begin_
    if !pt.live then do
      (List.range n).forM (fun _ => fx (countRow p.gate false r [] []))
      return (hs.1, begin_)
    else do
      let parts := if p.opensChunk rb && tap = (0, 0) then hs.1 ++ [Half.zero] else hs.1
      let h ← (List.range n).foldlM (fun h k => do
        setClk (begin_ + x * r * k)
        let a ← (List.range 64).mapM (fun ch => do
          let e ← lineElem p pt.off (tap.1 * w.dy) ((first + k) * w.sx + tap.2 * w.dx) (64 * rb + ch)
          return elemValue t.fmtAct e)
        let row ← fx (feedRow t.integer p.gate r a cols (h.row k))
        return h.put k row) (parts.getLastD Half.zero)
      return (parts.dropLast ++ [h], begin_)) ([Half.zero], prev)

/-- A point of CONV: sub-blocks of 64 columns, each drained while the next accumulates (R186). -/
def convPoint (p : RoomPart) (q : QBlock) (pt : PointAt) (hs : (Half × Half) × Nat) : Rx ((Half × Half) × Nat) := do
  let t := p.t
  let n := t.bandOf pt.band
  let x := layoutFactor t.win.layout
  let nn := min 64 (t.win.cout - 64 * pt.cb)
  (t.convStarts pt).foldlM (fun hs s => do
    let k := min 64 (n - 64 * s.1)
    let (parts, last) ← convBlock p pt (64 * s.1) k s.2 hs.2
    setIdx pt.i
    let end_ := s.2 + x * t.subCost k
    setClk end_
    let h ← if parts.length ≤ 1 then pure (parts.headD Half.zero) else fx (combineHalves p.once t.integer k nn parts)
    if pt.live then
      (List.range k).forM (fun c => do
        setClk (end_ + x * c)
        let d ← drainRow q t.integer (t.par32 244) (64 * pt.cb) ((h.row c).take nn)
        writeColumn t pt (pt.band * t.bw + 64 * s.1 + c) d)
    return ((h, hs.1.1), last)) hs

/-- CONV on one Room. -/
def runConv (p : RoomPart) : Rx (Half × Half) := do
  let t := p.t
  let x := layoutFactor t.win.layout
  let st ← readStrides t
  let q ← readQ t (t.baseAux + if t.win.layout = 2 then 64 else 0)
  let pts := p.winSchedule
  let (_, w) := t.pair.getD (1, 64)
  let first := (pts.head?.map (·.at_)).getD 0 - x * (w + 128)
  let r ← pts.foldlM (fun hs pt => do
    setIdx pt.i
    loadSet p st pt.cb pt.y pt.band pt.off pt.load x pt.live
    convPoint p q pt hs) ((Half.zero, Half.zero), first)
  return r.1

end Sys2Proof.Machine
end

