-- ==== Sys2Proof/Machine/OpsVector.lean ====
section
/-!
DEFINITION. Data of the vector-side ops: VECTOR, COPY, FUNC, SOFTMAX, NORM, POOL, RESAMPLE and TOPK (R151, R152, R192 to
R195, R200 to R202, R208, R212 to R221).
-/
namespace Sys2Proof.Machine

/-! ## Points of a nest without Array roles -/

/-- The points of a nest with their numbers. -/
def RoomPart.numbered (p : RoomPart) : List (Nat × List Nat) :=
  let ps := p.t.points p.rows
  (List.range ps.length).zip ps

/-! ## VECTOR (R151) -/

/-- The larger of two values: canonical NaN if either is NaN, the first when equal (log entry 20). -/
def max32 (a b : W32) : W32 :=
  if (f32 a).isNan || (f32 b).isNan then nan32 else if (f32 a).lt (f32 b) then b else a
def min32 (a b : W32) : W32 :=
  if (f32 a).isNan || (f32 b).isNan then nan32 else if (f32 b).lt (f32 a) then b else a

/-- One element of VECTOR (R151). -/
def vectorElem (vop : Nat) (imm imm2 a b c : W32) : Fx W32 :=
  match vop with
  | 1 => add32 a b
  | 2 => sub32 a b
  | 3 => mul32 a b
  | 4 => pure (max32 a b)
  | 5 => pure (min32 a b)
  | 6 => fma32 a b c
  | 7 => mul32 a imm
  | 8 => pure (max32 a 0)
  | 9 => pure (min32 (max32 a imm) imm2)
  | _ => pure a

/-- VECTOR on one Room: vectors of 64 elements in order; in1 and aux take the activation format (log entry 20). -/
def runVector (p : RoomPart) : Rx Unit := do
  let t := p.t
  let e := t.par 236 4
  let vop := t.par 232 1
  let bc := field (t.par 233 1) 0 1 = 1
  let imm := t.par32 240
  let two := decide (1 ≤ vop ∧ vop ≤ 6)
  p.numbered.forM (fun q => do
    let (eff, live) := p.effective q.2
    setIdx eff
    (pieces 64 e).forM (fun v => do
      setClk (28 + (q.1 * ceilDiv e 64 + v.1 / 64) * t.vecQ)
      if live then checkTile p q.2
      let out := nestAddr t.stageAt (·.sOut) t.loops eff + v.1 * t.zo
      if live then do
        let a ← read32 oIn0 t.fmtAct (nestAddr t.base0 (·.sIn0) t.loops eff + v.1 * t.z) v.2
        let b ← if !two then pure a
          else if bc then pure (List.replicate v.2 imm)
          else read32 oIn1 t.fmtAct (nestAddr t.base1 (·.sIn1) t.loops eff + v.1 * t.z) v.2
        let c ← if vop = 6 then read32 oAux t.fmtAct (nestAddr t.baseAux (·.sAux) t.loops eff + v.1 * t.z) v.2
          else pure a
        let r ← fx ((a.zip (b.zip c)).mapM (fun x => vectorElem vop imm (t.par32 244) x.1 x.2.1 x.2.2))
        writeOut t.fmtOut out r
      else pure ()))

/-! ## COPY (R152) -/

def runCopy (p : RoomPart) : Rx Unit := do
  let t := p.t
  let n := t.par 232 4
  p.numbered.forM (fun q => do
    let (eff, live) := p.effective q.2
    setIdx eff
    (pieces 256 n).forM (fun v => do
      setClk (20 + q.1 * ceilDiv n 256 + v.1 / 256)
      if live then checkTile p q.2
      let out := nestAddr t.stageAt (·.sOut) t.loops eff + v.1
      if live then do
        let b ← readB oIn0 (nestAddr t.base0 (·.sIn0) t.loops eff + v.1) v.2
        writeB oOut out b
      else pure ()))

/-! ## FUNC (R208) -/

def runFunc (p : RoomPart) : Rx Unit := do
  let t := p.t
  let e := t.par 236 4
  let fn := t.par 232 1
  let (g, f) := (fnCost fn t.short).getD (1, 26)
  p.numbered.forM (fun q => do
    let (eff, live) := p.effective q.2
    setIdx eff
    (pieces 64 e).forM (fun v => do
      setClk (16 + f + q.1 * ceilDiv (e * g) t.rho + v.1 * g / t.rho)
      if live then checkTile p q.2
      let out := nestAddr t.stageAt (·.sOut) t.loops eff + v.1 * t.zo
      if live then do
        let a ← read32 oIn0 t.fmtAct (nestAddr t.base0 (·.sIn0) t.loops eff + v.1 * t.z) v.2
        let r ← fx (a.mapM (fun x => evalFn fn t.fmtOut x (t.par32 240) (t.par32 244)))
        writeB oOut out (r.flatMap (leBytes t.zo))
      else pure ()))

/-! ## Lanes of a row (R213, R219) -/

/-- The 64 lanes of a row: lane l takes elements l, l + 64, … (R213). -/
def lanes {α : Type} (xs : List α) : List (List α) :=
  (List.range 64).map (fun l => (xs.zip (List.range xs.length)).filterMap (fun q => if q.2 % 64 = l then some q.1 else none))

/-! ## SOFTMAX (R212 to R214) -/

/-- Pass 1 of a lane (R213): its maximum and sum. -/
def softLane (ys : List W32) : Fx (W32 × W32) :=
  ys.foldlM (fun ms y => do
    let (m, s) := ms
    if y = negInf32 then return (m, s)
    else if (f32 m).lt (f32 y) then do
      let d ← sub32 m y
      let x ← exp2_32 d
      let s ← fma32 s x one32
      return (y, s)
    else do
      let d ← sub32 y m
      let x ← exp2_32 d
      let s ← add32 s x
      return (m, s)) (negInf32, 0)

/-- One merge of the tree (R213). -/
def softMerge (a b : W32 × W32) : Fx (W32 × W32) := do
  if (f32 a.2).isZero then return b
  else if (f32 b.2).isZero then return a
  else do
    let m := if (f32 a.1).lt (f32 b.1) then b.1 else a.1
    let da ← sub32 a.1 m
    let ea ← exp2_32 da
    let pa ← mul32 a.2 ea
    let db ← sub32 b.1 m
    let eb ← exp2_32 db
    let pb ← mul32 b.2 eb
    let s ← add32 pa pb
    return (m, s)

/-- One row of `n` outputs from its valid inputs (R213, R214), not yet converted. A row with a fixed result counts nothing. -/
def softRow (scale : W32) (n : Nat) (xs : List W32) : Fx (List W32) := do
  let ys := (xs.mapM (fun x => mul32 x scale) Tally.zero).1
  if ys.any (fun y => (f32 y).isNan || (f32 y).isInf false) then return List.replicate n nan32
  else if ys.all (· = negInf32) then return List.replicate n 0
  else do
    let ys ← xs.mapM (fun x => mul32 x scale)
    let ls ← (lanes ys).mapM softLane
    let top ← mergeTree softMerge 7 ls
    let (m, s) := top.headD (0, one32)
    let inv ← fnRecip s
    let out ← xs.mapM (fun x => do
      let y ← mul32 x scale
      if y = negInf32 then return 0
      else do
        let d ← sub32 y m
        let e ← exp2_32 d
        mul32 e inv)
    return out ++ List.replicate (n - out.length) 0

/-- Row `i` of the rows of SOFTMAX and NORM at a point: the point's REP offset and the row (R212, R222). -/
def Task.rowAt (base pitch : Nat) (step : Level → Nat) (t : Task) (p : List Nat) (i : Nat) : Nat :=
  nestAddr base (fun l => if l.role = roleRows then 0 else step l) t.loops p + i * pitch

/-- The REP points of SOFTMAX and NORM: the ROWS level is taken row by row. -/
def Task.repPoints (t : Task) : List (List Nat) :=
  nestPoints (t.loops.map (fun l => if l.role = roleRows then 1 else l.trips))

/-- A point's indices with its ROWS index. -/
def Task.withRow (t : Task) (p : List Nat) (i : Nat) : List Nat :=
  (t.loops.zip p).map (fun q => if q.1.role = roleRows then i else q.2)

def runSoftmax (p : RoomPart) : Rx Unit := do
  let t := p.t
  let n := t.par 236 4
  let per := 2 * ceilDiv n 8 + 192
  let len := t.par 244 4 % 2 = 1
  ((List.range t.repPoints.length).zip t.repPoints).forM (fun q =>
    (List.range p.rows).forM (fun i => do
      setIdx (t.withRow q.2 i)
      setClk (32 + (q.1 * p.rows + i) * per)
      let out := t.rowAt t.stageAt t.pOut (·.sOut) q.2 i
      if i < p.valid then do
        let k ← if len then do
            let b ← readB oAux (t.rowAt t.baseAux 4 (·.sAux) q.2 i) 4
            pure (min n (rd b 0 4))
          else pure n
        let xs ← read32 oIn0 t.fmtAct (t.rowAt t.base0 t.pIn (·.sIn0) q.2 i) k
        let r ← fx (softRow (t.par32 240) n xs)
        writeOut t.fmtOut out r
      else pure ()))

/-! ## Statistics (R217 to R220, R224) -/

/-- A triple (n, μ, M2) (R217). -/
structure Stat where
  n : W32
  mean : W32
  m2 : W32
  deriving DecidableEq, Repr

def Stat.empty : Stat := { n := 0, mean := 0, m2 := 0 }

def readStat (b : List Byte) : Stat := { n := rd32 b 0, mean := rd32 b 4, m2 := rd32 b 8 }
def Stat.bytes (s : Stat) : List Byte := le32 s.n ++ le32 s.mean ++ le32 s.m2 ++ [0, 0, 0, 0]

/-- fp32 nearest to 1 ÷ k: an entry of inv_n (R218). -/
def inv32 (k : Nat) : W32 :=
  BitVec.ofNat 32 (fpSingle.roundMag (2 * (2 ^ 60 / max k 1) + bit (2 ^ 60 % max k 1 != 0)) (-61)).1

/-- An unsigned number as fp32, rounded to nearest-even. -/
def nat32 (n : Nat) : W32 := BitVec.ofNat 32 (fpSingle.pack (Fp.fin false n 0)).1

/-- An element folded in (R218). -/
def Stat.fold (s : Stat) (x : W32) : Fx Stat := do
  let n := s.n + 1
  let d ← sub32 x s.mean
  let mu ← fma32 d (inv32 n.toNat) s.mean
  let e ← sub32 x mu
  let m2 ← fma32 d e s.m2
  return { n := n, mean := mu, m2 := m2 }

/-- Two triples merged (R219). -/
def Stat.merge (a b : Stat) : Fx Stat := do
  if a.n = 0 then return b
  else if b.n = 0 then return a
  else do
    let sum := a.n.toNat + b.n.toNat
    let n := min sum 0xFFFFFFFF
    if 0xFFFFFFFF < sum then tallySat
    let r ← fnRecip (nat32 n)
    let w ← mul32 (nat32 b.n.toNat) r
    let d ← sub32 b.mean a.mean
    let mu ← fma32 d w a.mean
    let s ← add32 a.m2 b.m2
    let dd ← mul32 d d
    let k ← mul32 (nat32 a.n.toNat) w
    let x ← mul32 dd k
    let m2 ← add32 s x
    return { n := BitVec.ofNat 32 n, mean := mu, m2 := m2 }

/-- The tree over a list of triples (R219). -/
def mergeStats (l : List Stat) : Fx Stat := do
  let r ← mergeTree Stat.merge (l.length + 1) l
  return r.headD Stat.empty

/-- Triple of one row (R218, R219). -/
def rowStat (xs : List W32) : Fx Stat := do
  let ls ← (lanes xs).mapM (fun l => l.foldlM Stat.fold Stat.empty)
  mergeStats ls

/-- A group with a NaN or an infinity has a NaN mean and m2 (R220). -/
def Stat.spoil (bad : Bool) (s : Stat) : Stat := if bad then { s with mean := nan32, m2 := nan32 } else s

/-! ## NORM (R221) -/

/-- r of a group: RSQRT of the variance or mean square plus eps (R221). -/
def normScale (rms : Bool) (eps : W32) (s : Stat) : Fx W32 := do
  if rms then do
    let v ← add32 s.mean eps
    fnRsqrt v
  else do
    let inv ← fnRecip (nat32 s.n.toNat)
    let v ← mul32 s.m2 inv
    let v ← add32 v eps
    fnRsqrt v

/-- One element normalised (R221); `g` and `b` are its γ and β when AFFINE is set. -/
def normElem (rms : Bool) (mu r x : W32) (affine : Option (W32 × W32)) : Fx W32 := do
  if rms then do
    let y ← mul32 x r
    match affine with
    | some (g, _) => mul32 y g
    | none => return y
  else do
    let d ← sub32 x mu
    let y ← mul32 d r
    let (g, b) := affine.getD (one32, 0)
    fma32 y g b

/-- Row times of NORM (R223): rclk of one row, and of one group's tail. -/
def Task.normTimes (t : Task) : Nat × Nat :=
  let k := ceilDiv (t.par 236 4) 64
  match t.par 232 1 with
  | 2 => (4 * k + 84, 0)
  | 4 => (3 * k, 56)
  | _ => (7 * k + 84, 56)

/-- One group of LAYER, RMS, STATS or APPLY: `g` is its number, `at_` its first rclk (R221). -/
def normGroup (p : RoomPart) (pt : List Nat) (g at_ : Nat) : Rx Unit := do
  let t := p.t
  let mode := t.par 232 1
  let n := t.par 236 4
  let gr := t.par 234 2
  let fl := t.par 233 1
  let sq := field fl 1 1 = 1 || mode = 1
  let rms := mode = 1 || (mode = 4 && sq)
  let (per, _) := t.normTimes
  let rows := (List.range gr).map (fun k => g * gr + k)
  let live := rows.filter (fun i => decide (i < p.valid))
  let xs ← live.mapM (fun i => do
    setIdx (t.withRow pt i)
    setClk (at_ + (i - g * gr) * per)
    read32 oIn0 t.fmtAct (t.rowAt t.base0 t.pIn (·.sIn0) pt i) n)
  let st ←
    if mode = 4 then do
      setClk at_
      if live.isEmpty then pure Stat.empty
      else do
        let b ← readB oAux (t.rowAt t.baseAux 0 (·.sAux) pt 0 + 16 * g) 16
        pure (readStat b)
    else fx (do
      let rs ← xs.mapM (fun row => do
        let q ← if sq then row.mapM (fun x => mul32 x x) else pure row
        rowStat q)
      let s ← mergeStats (rs ++ List.replicate (gr - rs.length) Stat.empty)
      return s.spoil (xs.any (fun r => r.any (fun x => (f32 x).isNan || (f32 x).isInf true || (f32 x).isInf false))))
  setClk (at_ + gr * per)
  if mode = 2 then
    let out := t.rowAt t.stageAt 0 (·.sOut) pt 0 + 16 * g
    if live.isEmpty then pure () else writeB oOut out st.bytes
  else do
    let r ← if live.isEmpty then pure 0 else fx (normScale rms (t.par32 240) st)
    let aff ← if field fl 0 1 = 1 && !live.isEmpty then do
        let gs ← read32 oIn1 8 t.base1 n
        let bs ← read32 oIn1 8 (t.base1 + 4 * n) n
        pure ((gs.zip bs).map some)
      else pure (List.replicate n none)
    rows.forM (fun i => do
      setIdx (t.withRow pt i)
      let out := t.rowAt t.stageAt t.pOut (·.sOut) pt i
      if i < p.valid then do
        let x := xs.getD (i - g * gr) []
        let y ← fx ((x.zip aff).mapM (fun q => normElem rms st.mean r q.1 q.2))
        let bad := (f32 st.mean).isNan && (f32 st.m2).isNan
        writeOut t.fmtOut out (if bad then y.map (fun _ => nan32) else y)
      else pure ())

def runNorm (p : RoomPart) : Rx Unit := do
  let t := p.t
  if t.par 232 1 = 3 then
    let k := t.par 236 4
    p.numbered.forM (fun q => do
      setIdx q.2
      setClk (32 + q.1 * 12 * k)
      let b ← readB oIn0 (nestAddr t.base0 (·.sIn0) t.loops q.2) (16 * k)
      let s ← fx (mergeStats ((List.range k).map (fun i => readStat (b.drop (16 * i)))))
      writeB oOut (nestAddr t.stageAt (·.sOut) t.loops q.2) s.bytes)
  else
    let gr := max (t.par 234 2) 1
    let (per, tail) := t.normTimes
    let groups := p.rows / gr
    ((List.range t.repPoints.length).zip t.repPoints).forM (fun q =>
      (List.range groups).forM (fun g =>
        normGroup p q.2 g (32 + q.1 * (p.rows * per + groups * tail) + g * (gr * per + tail))))

/-! ## TOPK (R200 to R202) -/

/-- Candidate a ranks before candidate b (R201). -/
def ranksBefore (a b : W32 × W32) : Bool :=
  (f32 b.1).lt (f32 a.1) || (!(f32 a.1).lt (f32 b.1) && decide (a.2.toNat < b.2.toNat))

/-- Inserts a candidate into a ranked list. -/
def rankIn (c : W32 × W32) : List (W32 × W32) → List (W32 × W32)
  | [] => [c]
  | d :: r => if ranksBefore c d then c :: d :: r else d :: rankIn c r

/-- The best k candidates in rank order. -/
def topRanked (k : Nat) (cs : List (W32 × W32)) : List (W32 × W32) := cs.foldl (fun l c => (rankIn c l).take k) []

def runTopk (p : RoomPart) : Rx Unit := do
  let t := p.t
  let e := t.par 232 4
  let k := t.par 236 2
  let per := 48 + ceilDiv e 16 + ceilDiv k 16
  p.numbered.forM (fun q => do
    setIdx q.2
    let base := nestAddr t.base0 (·.sIn0) t.loops q.2
    let xs ← (pieces 16 e).mapM (fun v => do
      setClk (16 + q.1 * per + 48 + v.1 / 16)
      read32 oIn0 t.fmtAct (base + v.1 * t.z) v.2)
    let xs := xs.flatten
    let cs := ((List.range e).zip xs).filterMap (fun c =>
      if (f32 c.2).isNan || (f32 c.2).lt (f32 (t.par32 244)) || (f32 (t.par32 244)).isNan then none
      else some (c.2, BitVec.ofNat 32 (t.par 240 4 + p.j * e + c.1)))
    let best := topRanked k cs
    let out := nestAddr t.stageAt (·.sOut) t.loops q.2
    let es := best ++ List.replicate (k - best.length) (negInf32, 0xFFFFFFFF)
    setClk (16 + q.1 * per + 48 + ceilDiv e 16)
    writeB oOut out (leBytes 4 best.length ++ [0, 0, 0, 0])
    (pieces 16 k).forM (fun v => do
      setClk (16 + q.1 * per + 48 + ceilDiv e 16 + v.1 / 16)
      writeB oOut (out + 8 + 8 * v.1) (((es.drop v.1).take v.2).flatMap (fun c => le32 c.1 ++ le32 c.2))))

/-! ## POOL and RESAMPLE (R192 to R195) -/

/-- Largest of values in tap order (R192). -/
def poolMax (xs : List W32) : W32 :=
  if xs.any (fun x => (f32 x).isNan) then nan32
  else match xs with
    | [] => 0
    | x :: r => r.foldl (fun m y => if (f32 m).lt (f32 y) then y else m) x

/-- Sum in tap order, divided and scaled (R192). -/
def poolAvg (n : Nat) (scale : W32) (xs : List W32) : Fx W32 := do
  let s ← match xs with
    | [] => pure 0
    | x :: r => r.foldlM (fun a y => add32 a y) x
  let m ← mul32 s (inv32 n)
  mul32 m scale

/-- v0 × w0 + v1 × w1 with one rounding; weights are multiples of 1 ÷ (2f) (R195). -/
def blend (f rho : Nat) (v0 v1 : W32) : Fx W32 :=
  round32 (Fp.sum [(f32 v0).mul (Fp.fin false (2 * f - rho) (-(Nat.log2 (2 * f) : Int))),
                   (f32 v1).mul (Fp.fin false rho (-(Nat.log2 (2 * f) : Int)))])

/-- rho of an output index (R195). -/
def blendRho (f o : Nat) : Nat := (((2 * (o : Int) + 1 - f) % (2 * (f : Int)))).toNat

/-- One output value of a window op on the vector unit: slot columns are relative to the set of the point. -/
def winValue (p : RoomPart) (pt : PointAt) (x ch : Nat) : Rx W32 := do
  let t := p.t
  let w := t.win
  let val (r c : Nat) : Rx W32 := do
    let e ← lineElem p pt.off r c ch
    return elem32 t.fmtAct e
  if t.op = opPool then do
    let taps := (List.range w.kh).flatMap (fun a => (List.range w.kw).map (fun b => (a, b)))
    let xs ← taps.mapM (fun q => val (q.1 * w.dy) (x * w.sx + q.2 * w.dx))
    if w.mode = 0 then return poolMax xs
    else fx (poolAvg (w.kh * w.kw) (t.par32 244) xs)
  else if w.mode = 0 then val 0 (x / w.sx)
  else do
    let xo := pt.band * t.bw + x
    let first : Int := (pt.band * t.bw / w.sx : Nat) - 1
    let c := ((2 * (xo : Int) + 1 - w.sx) / (2 * w.sx) - first).toNat
    let a ← val 0 c
    let b ← val 0 (c + 1)
    let d ← val 1 c
    let e ← val 1 (c + 1)
    fx (do
      let u ← blend w.sx (blendRho w.sx xo) a b
      let v ← blend w.sx (blendRho w.sx xo) d e
      let y ← blend w.sy (blendRho w.sy pt.y) u v
      mul32 y (t.par32 244))

/-- POOL and RESAMPLE on one Room. -/
def runPool (p : RoomPart) : Rx Unit := do
  let t := p.t
  let f := layoutFactor t.win.layout
  let st ← readStrides t
  let cost := if t.op = opPool then t.win.kh * t.win.kw + t.win.mode else t.win.mode + 1
  p.winSchedule.forM (fun pt => do
    setIdx pt.i
    loadSet p st pt.cb pt.y pt.band pt.off pt.load f pt.live
    let n := t.bandOf pt.band
    if pt.live then
      (List.range n).forM (fun x => do
        setClk (pt.at_ + f * x * cost)
        let vs ← (List.range (min 64 (t.win.cout - 64 * pt.cb))).mapM (winValue p pt x)
        writeColumn t pt (pt.band * t.bw + x) vs))

/-! ## The body of a task on one Room -/

/-- The body of every op but COLLECTIVE; the accumulator halves at its end, for the Array ops. -/
def runBody (p : RoomPart) : Rx (Option (Half × Half)) := do
  let t := p.t
  if t.op = opMatmul then do let h ← runMatmul p; return some h
  else if t.op = opConv then do let h ← runConv p; return some h
  else if t.op = opPool || t.op = opResample then do runPool p; return none
  else if t.op = opTopk then do runTopk p; return none
  else if t.op = opVector then do runVector p; return none
  else if t.op = opFunc then do runFunc p; return none
  else if t.op = opSoftmax then do runSoftmax p; return none
  else if t.op = opNorm then do runNorm p; return none
  else if t.op = opCopy then do runCopy p; return none
  else return none

end Sys2Proof.Machine
end

