-- ==== Sys2Proof/Machine/PlanCore.lean ====
section
/-!
DEFINITION. What every operation of the Planner looks up: jobs, graphs, instances, tasks, footprints, spans, the seal
(R34 to R44, R113, R145, R164, R436 to R441).
-/
namespace Sys2Proof.Machine

def State.modPlan (s : State) (f : Plan → Plan) : State := { s with plan := f s.plan }
def State.job (s : State) (n : Nat) : Option Job := tget s.plan.jobs n
def State.modJob (s : State) (n : Nat) (f : Job → Job) : State :=
  s.modPlan (fun p => { p with jobs := tmod p.jobs n f })
def State.graph (s : State) (n : Nat) : Option Graph := tget s.plan.graphs n
def State.inst (s : State) (n : Nat) : Option Inst := tget s.plan.insts n
def State.modInst (s : State) (n : Nat) (f : Inst → Inst) : State :=
  s.modPlan (fun p => { p with insts := tmod p.insts n f })
def State.modTask (s : State) (n k : Nat) (f : TaskRun → TaskRun) : State :=
  s.modInst n (fun i => { i with tasks := lmod i.tasks k f })

/-- The present beat. -/
def State.beat (s : State) : Nat := s.plan.beat.toNat

/-! ## A task with everything it belongs to -/

structure TaskCtx where
  /-- Instance and task number. -/
  n : Nat
  k : Nat
  i : Inst
  j : Job
  g : Graph
  t : Task
  r : TaskRun

def State.taskCtx (s : State) (n k : Nat) : Option TaskCtx :=
  (s.inst n).bind (fun i => (s.job i.job).bind (fun j => (s.graph i.graph).bind (fun g =>
    (g.tasks[k]?).bind (fun t => (i.tasks[k]?).map (fun r =>
      { n := n, k := k, i := i, j := j, g := g, t := t, r := r })))))

/-- Runs `f` on a task of an admitted instance; nothing happens where there is none. -/
def State.withTask (s : State) (n k : Nat) (f : TaskCtx → State) : State :=
  match s.taskCtx n k with
  | some c => f c
  | none => s

/-- Every task of every instance of a job. -/
def State.tasksOf (s : State) (job : Nat) : List TaskCtx :=
  s.plan.insts.flatMap (fun p =>
    if p.2.job = job then (List.range p.2.tasks.length).filterMap (s.taskCtx p.1) else [])

/-- Bucket value M that governs a task of an instance (R113, R145). -/
def Inst.rowsM (i : Inst) (g : Graph) (t : Task) : Nat :=
  match t.dim with
  | some d => (g.dims.getD d []).getD (i.b.getD d 0) 0
  | none => t.rowsField

def TaskCtx.m (c : TaskCtx) : Nat := c.i.rowsM c.g c.t
/-- M_r. -/
def TaskCtx.rows (c : TaskCtx) : Nat := c.t.rowsOf c.m
def TaskCtx.rooms (c : TaskCtx) : Nat := c.t.rooms

/-- Rows of position `p` below v_d (R145). A task without a governing dimension masks none (log entry 23). -/
def TaskCtx.valid (c : TaskCtx) (p : Nat) : Nat :=
  match c.t.dim with
  | some d => min c.rows (c.i.v.getD d 0 - p * c.rows)
  | none => c.rows

/-! ## Suites and spans (R34 to R36, R437) -/

/-- The configured span of a job. -/
def State.spanOf (s : State) (j : Job) : Option Span := if j.span = 0 then none else tget s.fab.spans j.span.toNat

/-- Width and height of the logical grid that a graph addresses: the parent grid of a spanning Suite. -/
def State.suiteSize (s : State) (j : Job) : Nat × Nat :=
  match s.spanOf j with
  | some p => (p.a * j.w, p.b * j.h)
  | none => (j.w, j.h)

/-- The member that holds a Suite coordinate. -/
def Span.memberAt (p : Span) (w h x y : Nat) : Byte := p.members.getD (y / h * p.a + x / w) 0

/-- The device behind a Suite coordinate; none: this one. -/
def State.deviceAt (s : State) (j : Job) (x y : Nat) : Option Byte :=
  match s.spanOf j with
  | some p => let d := p.memberAt j.w j.h x y
    if d = s.fab.addr then none else some d
  | none => none

/-- The logical Room behind a Suite coordinate, on the device that holds it. -/
def Job.roomAt (j : Job) (x y : Nat) : Nat := 8 * (j.y + y % max j.h 1) + j.x + x % max j.w 1

/-- Suite coordinate of a footprint position. -/
def TaskCtx.coord (c : TaskCtx) (p : Nat) : Nat × Nat :=
  (c.r.x + p % max c.t.fpW 1, c.r.y + p / max c.t.fpW 1)

/-- The Room of a footprint position that lies on this device. A COLLECTIVE takes place on every member at the same
child coordinates (log entry 24). -/
def State.roomOf (s : State) (c : TaskCtx) (p : Nat) : Option Nat :=
  let q := c.coord p
  if c.t.op = opCollective || (s.deviceAt c.j q.1 q.2).isNone then some (c.j.roomAt q.1 q.2) else none

/-- Positions on this device with their Rooms, in ascending position. -/
def State.positions (s : State) (c : TaskCtx) : List (Nat × Nat) :=
  (List.range c.rooms).filterMap (fun p => (s.roomOf c p).map (fun r => (p, r)))

/-- Logical Rooms of a job on this device. -/
def Job.roomList (j : Job) : List Nat :=
  (List.range j.h).flatMap (fun y => (List.range j.w).map (fun x => j.roomAt x y))

/-- The footprint position next to `p`: sides 0 north, 1 south, 2 east, 3 west (R178). -/
def TaskCtx.beside (c : TaskCtx) (p side : Nat) : Option Nat :=
  let w := max c.t.fpW 1
  match side with
  | 0 => if p < w then none else some (p - w)
  | 1 => if p + w < c.rooms then some (p + w) else none
  | 2 => if p % w + 1 < w then some (p + 1) else none
  | _ => if p % w = 0 then none else some (p - 1)

/-! ## Halo times of a spanning Suite (R438) -/

/-- Direct ports p_e between two members. -/
def State.edgePorts (s : State) (sp : Span) (a b : Byte) : Nat :=
  max 1 (if a = s.fab.addr then tgetD sp.direct b.toNat 1
    else if b = s.fab.addr then tgetD sp.direct a.toNat 1
    else Config.directPorts a b)

/-- Common length of [a, a + n) and [b, b + m). -/
def overlap (a n b m : Nat) : Nat := min (a + n) (b + m) - max a b

/-- Edge terms of a footprint at a place: for each device edge inside it, E_e × S_e ÷ (p_e × 32), rounded up. -/
def State.edgeTerms (s : State) (sp : Span) (j : Job) (t : Task) (x y : Nat) : List Nat :=
  let at_ (c r : Nat) : Byte := sp.members.getD (r * sp.a + c) 0
  let ew := max (t.sectionBytes 2) (t.sectionBytes 3)
  let ns := max (t.sectionBytes 0) (t.sectionBytes 1)
  (List.range sp.b).flatMap (fun r => (List.range sp.a).flatMap (fun c =>
    (if c + 1 < sp.a && x < (c + 1) * j.w && (c + 1) * j.w < x + t.fpW then
      [ceilDiv (overlap y t.fpH (r * j.h) j.h * ew) (s.edgePorts sp (at_ c r) (at_ (c + 1) r) * 32)] else [])
    ++ (if r + 1 < sp.b && y < (r + 1) * j.h && (r + 1) * j.h < y + t.fpH then
      [ceilDiv (overlap x t.fpW (c * j.w) j.w * ns) (s.edgePorts sp (at_ c r) (at_ c (r + 1)) * 32)] else [])))

/-- t_x of R438: the largest over the places that the footprint can take in the Suite, so that the count is one value
(log entry 22). -/
def State.haloStart (s : State) (j : Job) (t : Task) : Nat :=
  match s.spanOf j with
  | none => 16
  | some sp =>
    if !t.halo then 16
    else
      let xs := List.range (sp.a * j.w + 1 - t.fpW)
      let ys := List.range (sp.b * j.h + 1 - t.fpH)
      1024 + (ys.flatMap (fun y => xs.flatMap (fun x => s.edgeTerms sp j t x y))).foldl max 0

/-- Members m of a COLLECTIVE: those of its span, which is the job's; alone otherwise (R439, log entry 24). -/
def State.members (s : State) (j : Job) (t : Task) : List Byte :=
  match s.spanOf j with
  | some sp => if t.op = opCollective && t.par32 232 == j.span then sp.members else []
  | none => []

def State.spanCost (s : State) (j : Job) (t : Task) : SpanCost :=
  { members := max 1 (s.members j t).length, haloStart := s.haloStart j t }

/-! ## Operands behind handles (R108, R112) -/

/-- Device address and length of the buffer in a slot. -/
def State.slotBuf (s : State) (i : Inst) (slot : Nat) : Nat × Nat := (s.bufOf (i.handles.getD slot 0)).getD (0, 0)

/-- A handle's buffer lies in the Strongroom (R285). -/
def State.strongHandle (s : State) (h : W64) : Bool :=
  match s.larder.place h with
  | some (p, _) => p.strong
  | none => false

/-- Offset of an operand for a position: in1 is shared, and so is aux of the Array ops; the others lie at
offset + j × bytes (R149, log entry 21). -/
def Task.operandAt (t : Task) (opnd : Nat) (p : Nat) : Nat :=
  let o := [t.in0, t.in1, t.aux, t.out].getD opnd t.in0
  if opnd = 1 || (opnd = 2 && (t.op = opMatmul || t.op = opConv)) then o.offset else o.offset + p * o.bytes

/-! ## The seal (R42 to R44, R441) -/

/-- The frames of the inbox that belong to a task. -/
def TaskCtx.framed (c : TaskCtx) (f : Frame) : Bool :=
  match f.ctrl with
  | .halo span run task _ _ _ _ => span == c.j.span && run = c.i.run && task = c.k
  | .part span run task _ _ => span == c.j.span && run = c.i.run && task = c.k
  | _ => false

/-- A task reads sealed data of its own: a Strongroom buffer, or an Attic grant that holds sealed data. -/
def State.readsSealed (s : State) (i : Inst) (j : Job) (t : Task) : Bool :=
  t.inputs.any (fun o => (o.space = 1 && s.strongHandle (i.handles.getD o.slot 0)) || (o.space = 2 && j.atticSealed))

/-- Whether each task of an instance is sealed: it reads sealed data, or takes data on chip from a sealed
predecessor. -/
def State.sealedTasks (s : State) (i : Inst) (j : Job) (g : Graph) : List Bool :=
  g.tasks.foldl (fun l t =>
    let deps := (g.deps.drop t.predFirst).take t.npred
    let onChip := t.inputs.any (fun o => decide (2 ≤ o.space))
    l ++ [s.readsSealed i j t || (onChip && deps.any (fun d => d.2 != 2 && l.getD d.1 false))]) []

/-- The DECLASS budget that is open to an instance (R43). -/
def State.declassLeft (s : State) (i : Inst) : Nat :=
  if s.glb.dev == .serving && s.video.lock && s.video.declass then i.declass else 0

/-! ## Parts of footprint positions (R145, R164) -/

/-- Iterations of the TILE level per entry, m. -/
def Task.tileRounds (t : Task) : Nat := ceilDiv (t.trips roleTile) t.rooms

def State.claimsOf (s : State) (n k : Nat) : Option Claims := s.plan.claims.find? (fun c => c.inst = n && c.task = k)

def State.modClaims (s : State) (n k : Nat) (f : Claims → Claims) : State :=
  s.modPlan (fun p => { p with claims := p.claims.map (fun c => if c.inst = n && c.task = k then f c else c) })

/-- Values that a position's claims received, in order. -/
def Claims.valuesOf (c : Claims) (p : Nat) : List W32 := (c.answered.filter (fun a => a.1 = p)).map (·.2)

/-- Tile index of the value that a position's claim number `q` received (R164). -/
def Task.tileIndex (t : Task) (q : Nat) (v : W32) : Nat :=
  let m := max t.tileRounds 1
  v.toNat - q / m * (m * t.rooms)

/-- A claim's value is staged: the tile's bit is set, or the tile is a duplicate (R126). No bit belongs to an index at or above the
tile count (R164). The answer says whether the staging is a duplicate. -/
def Claims.stage (x : Claims) (trips t : Nat) : Claims × Bool :=
  if trips ≤ t || 65536 ≤ t then (x, false)
  else if x.bits.contains t then (x, true)
  else ({ x with bits := t :: x.bits }, false)

/-- Tile indices of a position's iterations. -/
def State.tilesOf (s : State) (c : TaskCtx) (p : Nat) : List Nat :=
  match s.claimsOf c.n c.k with
  | none => []
  | some cl =>
    let vs := cl.valuesOf p
    (List.range vs.length).map (fun q => c.t.tileIndex q (vs.getD q 0))

/-- What a position runs. -/
def State.partOf (s : State) (c : TaskCtx) (p room : Nat) : RoomPart :=
  { t := c.t, m := c.m, j := p, valid := c.valid p, tiles := s.tilesOf c p,
    sides := ((c.beside p 0).isSome, (c.beside p 1).isSome, (c.beside p 2).isSome, (c.beside p 3).isSome),
    gate := !(s.room room).zgateOff, cost := s.spanCost c.j c.t, once := c.i.once }

end Sys2Proof.Machine
end

