-- ==== Sys2Proof/Machine/TaskRead.lean ====
section
/-!
DEFINITION. Landing of far operands and the halo exchange (R117, R139 to R141, R165, R166, R173 to R177, R197, R198, R238,
R438).
-/
namespace Sys2Proof.Machine

/-! ## Far operands (R141, R165) -/

/-- A landing in progress: the Room store, the access that failed (code, operand, address), poisoned blocks found
(operand and device address), and what the narrowing counted. -/
structure Landing where
  store : Memory
  fault : Option (W32 × Nat × Nat)
  bad : List (Nat × Nat)
  tally : Tally

/-- Where a far operand's bytes come from: the buffer's device address, or none for the Attic; the limit that every read
is checked against; and the bytes that the Room DMA fetched, from offset `first` on. -/
structure FarSrc where
  base : Option Nat
  limit : Nat
  code : W32
  first : Nat
  data : List Byte

/-- A task's operand by number: 0 in0, 1 in1, 2 aux. -/
def Task.input (t : Task) (x : Nat) : Operand := t.inputs.getD x t.in0

/-- The operand lies in HBM or in the Attic. -/
def Operand.far (o : Operand) : Bool := o.space = 1 || o.space = 2

def State.farSrc (s : State) (c : TaskCtx) (p x : Nat) (data : List Byte) : FarSrc :=
  let o := c.t.input x
  if o.space = 1 then
    let b := s.slotBuf c.i o.slot
    { base := some b.1, limit := b.2, code := Code.bufOver, first := c.t.operandAt x p, data := data }
  else { base := none, limit := c.j.attic * 65536, code := Code.atticOver, first := c.t.operandAt x p, data := data }

/-- The bytes of each far operand of a position, as the Room DMA reads them (R141). -/
def State.fetchFar (s : State) (c : TaskCtx) (p : Nat) : List (List Byte) :=
  (List.range 3).map (fun x =>
    let o := c.t.input x
    let off := c.t.operandAt x p
    if o.space = 1 then
      let b := s.slotBuf c.i o.slot
      s.hbmRead (b.1 + off) (min o.bytes (b.2 - off))
    else if o.space = 2 then c.j.atticMem.read off (min o.bytes (c.j.attic * 65536 - off))
    else [])

/-- `n` fetched bytes of an operand from offset `off` of its buffer on. -/
def FarSrc.read (f : FarSrc) (off n : Nat) : List Byte := padTo n ((f.data.drop (off - f.first)).take n)

/-- A block of a read that reports MEM_UE. -/
def State.farPoison (s : State) (f : FarSrc) (off n : Nat) : Option Nat :=
  match f.base with
  | some a => (s.mem.poison.find? (fun b => decide (b * 64 < a + off + n) && decide (a + off < b * 64 + 64))).map (64 * ·)
  | none => none

/-- One request of the Room DMA: checked, read, and its bytes landed at `dst`. Nothing is issued after a failure (R166). -/
def State.landPiece (s : State) (f : FarSrc) (opnd off n dst : Nat) (bytes : List Byte) (l : Landing) :
    Landing :=
  if l.fault.isSome then l
  else if f.limit < off + n then { l with fault := some (f.code, opnd, max off f.limit) }
  else if storeSize < dst + bytes.length then { l with fault := some (Code.storeOver, opnd, max dst storeSize) }
  else
    { l with store := l.store.write dst bytes,
             bad := match s.farPoison f off n with
               | some a => l.bad ++ [(opnd, a)]
               | none => l.bad }

/-- An operand lands as it is. -/
def State.landPlain (s : State) (f : FarSrc) (opnd off n dst : Nat) (l : Landing) : Landing :=
  (pieces 64 n).foldl (fun l p => s.landPiece f opnd (off + p.1) p.2 (dst + p.1) (f.read (off + p.1) p.2) l) l

/-! ### Zero-run compression (R197, R198) -/

/-- Nonzero bits of a group's masks: the data bytes it holds. -/
def zrcCount (masks : List Byte) : Nat := (masks.map (fun b => ((List.range 8).filter b.getLsbD).length)).sum

/-- The 1,024 raw bytes of a slot. -/
def zrcExpand (slot : List Byte) : List Byte :=
  ((List.range 1024).foldl (fun (q : List Byte × List Byte) i =>
    if (rd8 slot (i / 8)).getLsbD (i % 8) then (q.1 ++ [q.2.headD 0], q.2.drop 1) else (q.1 ++ [0], q.2))
    ([], slot.drop 128)).1

/-- A slot of 1,024 raw bytes: its masks, its data, and bytes that are not written. -/
def zrcPack (raw : List Byte) : List (Option Byte) :=
  let b := padTo 1024 raw
  let masks := (List.range 128).map (fun m =>
    BitVec.ofNat 8 ((List.range 8).foldl (fun v i => v + if rd8 b (8 * m + i) = 0 then 0 else 2 ^ i) 0))
  let data := b.filter (· != 0)
  (masks ++ data).map some ++ List.replicate (1024 - data.length) none

/-- A ZRC_IN operand lands slot by slot: the range of the slot is checked, the requests that hold data are read. -/
def State.landZrc (s : State) (f : FarSrc) (off n dst : Nat) (l : Landing) : Landing :=
  (List.range (n / 1152)).foldl (fun l k =>
    if l.fault.isSome then l
    else
      let o := off + 1152 * k
      if f.limit < o + 1152 then { l with fault := some (f.code, oIn0, max o f.limit) }
      else
        let used := 128 + zrcCount (f.read o 128)
        s.landPiece f oIn0 o (64 * ceilDiv used 64) (dst + 1024 * k) (zrcExpand (f.read o used)) l) l

/-! ### Outlier channels (R238) -/

/-- int16 values converted to int8 (R231, R232); none lands as 0 without conversion. -/
def narrowed (es : List (Option (List Byte))) : Fx (List Byte) :=
  es.mapM (fun e =>
    match e with
    | none => pure 0
    | some b => do
      let v ← cvt 2 (elem32 3 (rd b 0 2))
      return BitVec.ofNat 8 v)

/-- in0 of an OUTLIER task lands narrowed, with its side section; `aux` is where the quantisation block lies. -/
def State.landOutlier (s : State) (c : TaskCtx) (f : FarSrc) (off n dst aux valid : Nat) (l : Landing) : Landing :=
  let t := c.t
  let k := t.par 236 2
  let q := l.store.read aux 192
  let nO := min 64 (rd q 1 1)
  let idx := (List.range nO).map (fun e => rd q (64 + 2 * e) 2)
  let elem (row ch : Nat) : List Byte :=
    if valid ≤ row || n < 2 * (row * k + ch) + 2 then [0, 0] else f.read (off + 2 * (row * k + ch)) 2
  let main := (pieces 64 n).foldl (fun l p =>
    let es := (List.range (p.2 / 2)).map (fun i => (p.1 / 2 + i) / max k 1)
    let cs := (List.range (p.2 / 2)).map (fun i => (p.1 / 2 + i) % max k 1)
    let r := narrowed ((es.zip cs).map (fun e => if valid ≤ e.1 || idx.contains e.2 then none else some (elem e.1 e.2)))
      l.tally
    let l' := s.landPiece f oIn0 (off + p.1) p.2 (dst + p.1 / 2) r.1 l
    if l'.fault.isSome then l' else { l' with tally := r.2 }) l
  let side := dst + 64 * ceilDiv (c.rows * k) 64
  (List.range c.rows).foldl (fun l row =>
    let b := (List.range 64).flatMap (fun e =>
      match idx[e]? with
      | some ch => if k ≤ ch then [0, 0] else elem row ch
      | none => [0, 0])
    s.landPiece f oIn0 off 0 (side + 128 * row) b l) main

/-- Every far operand of a position lands, in the order in0, in1, aux; the quantisation block of an OUTLIER task comes
first (R141, R238; log entry 25). -/
def State.landAll (s : State) (c : TaskCtx) (p : Nat) (got : List (List Byte)) (store : Memory) : Landing :=
  let t := c.t
  let order := if t.outlier then [2, 0, 1] else [0, 1, 2]
  order.foldl (fun l x =>
    let o := t.input x
    let dst := [t.landIn0, t.landIn1, t.landAux].getD x 0
    if !o.far then l
    else
      let f := s.farSrc c p x (got.getD x [])
      let off := t.operandAt x p
      if x = 0 && t.outlier then s.landOutlier c f off o.bytes dst t.baseAux (c.valid p) l
      else if x = 0 && t.isWin && t.win.zrcIn then s.landZrc f off o.bytes dst l
      else s.landPlain f x off o.bytes dst l)
    { store := store, fault := none, bad := [], tally := Tally.zero }

/-- A task has far operands. -/
def Task.far (t : Task) : Bool := t.inputs.any Operand.far

/-- Bytes from an operand's base to the end of what its points reach: the steps of the levels over their trips, and the `unit` of
the last point (R160). -/
def Task.reach (t : Task) (rows : Nat) (step : Level → Nat) (unit : Nat) : Nat :=
  (t.loops.map (fun l => (t.roomTrips rows l - 1) * (64 * step l))).sum + unit

/-- Region that an input operand of a task takes in a Room store, from its base on (R149 to R152, R174, R183, R188, R190, R200, R208,
R212, R221, R233, R238, R439). -/
def Task.inputSpan (t : Task) (rows x : Nat) : Nat :=
  let e := t.par 236 4
  let step (l : Level) : Nat := if x = 0 then l.sIn0 else if x = 1 then l.sIn1 else l.sAux
  if t.op = opMatmul then
    let k := t.par 236 2
    let n := t.par 238 2
    if x = 0 then
      if t.outlier then 64 * ceilDiv (rows * k) 64 + 128 * rows
      else t.reach rows step ((min 64 rows - 1) * k * t.z + min 64 k * t.z)
    else if x = 1 then
      let (down, across) := if t.transpose then (n, k) else (k, n)
      let row (m : Nat) : Nat := if t.fmtWt = 1 then ceilDiv m 2 else m * fmtBytes t.fmtWt
      t.reach rows step ((min 64 down - 1) * row across + row (min 64 across))
    else t.reach rows step (192 + 4 * n)
  else if t.isWin then
    let w := t.win
    if x = 0 then
      match w.layout with
      | 1 => w.h * (64 * ceilDiv (w.w * w.c * t.z) 64)
      | 2 => w.c * w.h * w.w * t.z
      | _ => w.c * w.h * t.pitch
    else if x = 1 then w.cout * w.c * w.kh * w.kw * fmtBytes t.fmtWt
    else (if w.layout = 2 then 64 else 0) + (if t.op = opConv then 192 + 4 * w.cout else 0)
  else if t.op = opTopk then t.reach rows step (t.par 232 4 * t.z)
  else if t.op = opSoftmax || (t.op = opNorm && t.par 232 1 != 3) then
    let reps (u : Nat) : Nat :=
      ((t.loops.filter (fun l => l.role = roleRep)).map (fun l => (l.trips - 1) * (64 * step l))).sum + u
    if x = 0 then reps (rows * t.pIn)
    else if x = 1 then (if t.op = opNorm && field (t.par 233 1) 0 1 = 1 then reps (8 * e) else 0)
    else if t.op = opSoftmax then reps (4 * rows) else reps (16 * (rows / max (t.par 234 2) 1))
  else if t.op = opNorm then (if x = 0 then t.reach rows step (16 * e) else 0)
  else if t.op = opCopy then (if x = 0 then t.reach rows step (t.par 232 4) else 0)
  else if t.op = opCollective then (if x = 0 then t.par 240 4 else 0)
  else t.reach rows step (e * t.z)

/-- Bytes that a far operand takes where it lands (R141, R198, R238). -/
def TaskCtx.landBytes (c : TaskCtx) (x : Nat) : Nat :=
  let o := c.t.input x
  if x = 0 && c.t.isWin && c.t.win.zrcIn then o.bytes / 1152 * 1024
  else if x = 0 && c.t.outlier then 64 * ceilDiv (c.rows * c.t.par 236 2) 64 + 128 * c.rows
  else o.bytes

/-- Where an input operand lies in its Room's store, and its length: where it lands, or the region of space 3 or 4. -/
def TaskCtx.inputRegion (c : TaskCtx) (x : Nat) : Nat × Nat :=
  let o := c.t.input x
  if o.far then ([c.t.landIn0, c.t.landIn1, c.t.landAux].getD x 0, c.landBytes x)
  else if o.space = 3 || o.space = 4 then (o.offset, c.t.inputSpan c.rows x)
  else (0, 0)

/-- Spill slots of a MATMUL whose nest leaves an output tile before its last RED index (R162, R163): bytes after the stage. -/
def Task.spillBytes (t : Task) (rows : Nat) : Nat :=
  let ps := (t.passes rows).filter (fun p => !p.outlier)
  if t.op = opMatmul && (ps.zip (ps.drop 1)).any (fun q => !q.1.sameTile q.2 && q.1.red + 1 != t.trips roleRed) then
    16384 * (ceilDiv rows 64 * t.trips roleCols)
  else 0

/-- Stage region of a task: where it begins, and its length with the spill slots. -/
def TaskCtx.stageRegion (c : TaskCtx) : Nat × Nat :=
  let n := if c.t.out.space = 0 then 0 else c.t.sOut c.m
  let sp := c.t.spillBytes c.rows
  (c.t.stageAt, if sp = 0 then n else 64 * ceilDiv n 64 + sp)

/-- Highest extent of the landing, stage and space-3 regions of a task (R154), in KiB. -/
def TaskCtx.extent (c : TaskCtx) : Nat :=
  let halo := if c.t.halo then c.t.haloBase + ((List.range 4).map c.t.sectionBytes).sum else 0
  let near := if c.t.out.space = 3 then c.t.out.offset + c.t.sOut c.m else 0
  let ends := ((List.range 3).map c.inputRegion ++ [c.stageRegion]).map (fun r => if r.2 = 0 then 0 else r.1 + r.2)
  min 1024 (ceilDiv (ends.foldl max (max halo near)) 1024)

/-! ## The seal of a Room store (R42, R44) -/

/-- Ranges without the bytes of [a, a + n). -/
def sealDrop (l : List (Nat × Nat)) (a n : Nat) : List (Nat × Nat) :=
  l.flatMap (fun r =>
    [(r.1, min (r.1 + r.2) a - r.1), (max r.1 (a + n), r.1 + r.2 - max r.1 (a + n))].filter (fun q => q.2 != 0))

/-- Bytes of a store are written: they are sealed, or no longer. -/
def Room.setSeal (r : Room) (sealed : Bool) (a n : Nat) : Room :=
  if n = 0 then r
  else { r with sealed := (if sealed then [(a, n)] else []) ++ sealDrop r.sealed a n }

/-- A range of a store holds a sealed byte. -/
def Room.sealedAt (r : Room) (a n : Nat) : Bool := r.sealed.any (fun q => decide (q.1 < a + n ∧ a < q.1 + q.2))

/-- A task reads sealed bytes from the store of one of its Rooms, whoever left them there. -/
def State.readsSealedStore (s : State) (c : TaskCtx) : Bool :=
  (s.positions c).any (fun q => (List.range 3).any (fun x =>
    !(c.t.input x).far && (s.room q.2).sealedAt (c.inputRegion x).1 (c.inputRegion x).2))

/-- A task is sealed (R42, R44, R441): it reads Strongroom data, takes data on chip from a sealed predecessor or from sealed bytes of
a Room store, or receives sealed words. -/
def State.isSealed (s : State) (c : TaskCtx) : Bool :=
  (s.sealedTasks c.i c.j c.g).getD c.k false || s.readsSealedStore c || s.fab.inbox.any (fun f => c.framed f && frameSealed f)

/-- The task's output is a DECLASS output that leaves the seal: its write-back is charged (R43). -/
def State.charged (s : State) (c : TaskCtx) : Bool :=
  s.isSealed c && c.t.declass && c.t.out.space = 1 && !s.strongHandle (c.i.handles.getD c.t.out.slot 0)

/-- The task's output is sealed and the buffer bound to it is not in the Strongroom. R42 places the output in the Strongroom and names
no place there; nothing is written, and the task commits (DESIGN CHOICE, log entry 103). -/
def State.withheld (s : State) (c : TaskCtx) : Bool :=
  s.isSealed c && !c.t.declass && c.t.out.space = 1 && !s.strongHandle (c.i.handles.getD c.t.out.slot 0)

/-- An operand from outside the Room is sealed: from the Strongroom, or from an Attic grant that holds sealed data. -/
def State.farSealed (s : State) (c : TaskCtx) (x : Nat) : Bool :=
  let o := c.t.input x
  (o.space = 1 && s.strongHandle (c.i.handles.getD o.slot 0)) || (o.space = 2 && c.j.atticSealed)

/-! ## The halo exchange (R173 to R177, R438) -/

/-- Bytes [b, b + n) of a store, +0 for a row or column outside the plane. -/
def planeBytes (st : Memory) (inside : Bool) (a n : Nat) : List Byte := if inside then st.read a n else List.replicate n 0

/-- Plane row `y` of channel `ci` as section N or S lays it out: west columns, plane, east columns (R174). -/
def Task.faceRow (t : Task) (st : Memory) (ci : Nat) (y : Int) : List Byte :=
  let w := t.win
  let pns := (t.sections.getD 0 (0, 0)).2
  let pew := (t.sections.getD 2 (0, 0)).2
  let ok := decide (0 ≤ y ∧ y < w.h)
  let r := y.toNat
  let west := (List.range t.hW).flatMap (fun k => planeBytes st ok (t.sectionBase 2 + (ci * t.hW + k) * pew + r * t.z) t.z)
  let east := (List.range t.hE).flatMap (fun k => planeBytes st ok (t.sectionBase 3 + (ci * t.hE + k) * pew + r * t.z) t.z)
  padTo pns (west ++ planeBytes st ok (t.planeBase + ci * w.h * t.pitch + r * t.pitch) (w.w * t.z) ++ east)

/-- Plane column `x` of channel `ci` stored as a row (R174). -/
def Task.faceCol (t : Task) (st : Memory) (ci : Nat) (x : Int) : List Byte :=
  let w := t.win
  let pew := (t.sections.getD 2 (0, 0)).2
  let ok := decide (0 ≤ x ∧ x < w.w)
  padTo pew ((List.range w.h).flatMap (fun r =>
    planeBytes st ok (t.planeBase + ci * w.h * t.pitch + r * t.pitch + x.toNat * t.z) t.z))

/-- Section `sec` (0 N, 1 S, 2 W, 3 E) of a position, read from the store of its neighbour on that side. -/
def Task.face (t : Task) (sec : Nat) (st : Memory) : List Byte :=
  let w := t.win
  (List.range w.c).flatMap (fun ci =>
    match sec with
    | 0 => (List.range t.hN).flatMap (fun (k : Nat) => t.faceRow st ci ((w.h : Int) - t.hN + k))
    | 1 => (List.range t.hS).flatMap (fun (k : Nat) => t.faceRow st ci k)
    | 2 => (List.range t.hW).flatMap (fun (k : Nat) => t.faceCol st ci ((w.w : Int) - t.hW + k))
    | _ => (List.range t.hE).flatMap (fun (k : Nat) => t.faceCol st ci k))

/-- The side of a position on which the source of section `sec` lies, as `beside` counts them. -/
def sideOf (sec : Nat) : Nat := [0, 1, 3, 2].getD sec 0
/-- The section of its neighbour that a position's side feeds: its north neighbour's S section, and so on. -/
def feeds (side : Nat) : Nat := [1, 0, 2, 3].getD side 0

/-- Words of a section that a faulted sender still reads: those before its fault; the rest are zero (R168). -/
def zeroFrom (words : Nat) (b : List Byte) : List Byte := b.take (64 * words) ++ List.replicate (b.length - 64 * words) 0

/-- First rclk of phase 1 and of phase 2 (R175), with `start` 16 or t_x. -/
def Task.phaseStart (t : Task) (start : Nat) (second : Bool) : Nat :=
  let m := max (t.sectionBytes 2) (t.sectionBytes 3)
  if !second || (t.hE = 0 && t.hW = 0) then 16 else 16 + start + ceilDiv m 64

/-- The first word of section `sec` that its sender reads beyond its plane: word number and address (R165). -/
def Task.depthOver (t : Task) (sec : Nat) : Option (Nat × Nat) :=
  let w := t.win
  let pns := (t.sections.getD 0 (0, 0)).2
  let pew := (t.sections.getD 2 (0, 0)).2
  let at_ (off : Int) : Nat := (((t.planeBase : Int) + off) % (2 ^ 64 : Nat)).toNat
  match sec with
  | 0 => if w.h < t.hN then some (0, at_ (((w.h : Int) - t.hN) * t.pitch)) else none
  | 1 => if w.h < t.hS then some (w.h * pns / 64, at_ (w.h * t.pitch)) else none
  | 2 => if w.w < t.hW then some (0, at_ (((w.w : Int) - t.hW) * t.z)) else none
  | _ => if w.w < t.hE then some (w.w * pew / 64, at_ (w.w * t.z)) else none

/-- A position in its body: its Room, its store, and the failing access that stopped it, if any. -/
structure PosRun where
  pos : Nat
  room : Nat
  store : Memory
  lines : Memory
  halves : Option (Half × Half)
  tally : Tally
  written : List (Nat × Nat)
  fault : Option TaskFault

/-- rclk from which a position reads no more. -/
def PosRun.stop (p : PosRun) : Option Nat := p.fault.map (·.rec_.rclk)

/-- The first fault in issue order: rclk, operand, address; between equal ones the present one (R166). -/
def PosRun.addFault (p : PosRun) (f : TaskFault) : PosRun :=
  match p.fault with
  | none => { p with fault := some f }
  | some g =>
    if accessBefore (f.rec_.rclk, f.rec_.operand, f.rec_.addr) (g.rec_.rclk, g.rec_.operand, g.rec_.addr) then
      { p with fault := some f }
    else p

/-- The record of an access that failed (R171). -/
def TaskCtx.record (c : TaskCtx) (p : Nat) (code : W32) (phase opnd rclk : Nat) (idx : List Nat) (addr : Nat) : FaultRec :=
  { status := code, index := c.k, graph := c.i.graph, phase := phase, operand := opnd, position := p, rclk := rclk,
    idx := idx, addr := addr }

/-- A resource overflow (R170): not retried. -/
def TaskCtx.overflow (c : TaskCtx) (p : Nat) (code : W32) (phase opnd rclk : Nat) (idx : List Nat) (addr : Nat) :
    TaskFault :=
  { pos := p, rec_ := c.record p code phase opnd rclk idx addr, ladder := false }

def noIdx : List Nat := List.replicate 6 0

/-- Bytes of a section that came over the fabric for a position (R438). -/
def State.haloFrames (s : State) (c : TaskCtx) (p sec n : Nat) : Option (List Byte) :=
  s.fab.run n (fun f =>
    match f.ctrl with
    | .halo _ _ _ pos x off _ => if c.framed f && pos = p && x = sec then some off else none
    | _ => none)

/-- The section that position `p` receives: zeros at the edge of the footprint (R176), a neighbour's face, or the words of
another device; none where those have not all come. -/
def State.section (s : State) (c : TaskCtx) (ps : List PosRun) (start : Nat) (p sec : Nat) : Option (List Byte) :=
  let n := c.t.sectionBytes sec
  match c.beside p (sideOf sec) with
  | none => some (List.replicate n 0)
  | some q =>
    match ps.find? (fun x => x.pos = q) with
    | some x =>
      let b := c.t.face sec x.store
      some (match x.stop with
        | some k => zeroFrom (k - c.t.phaseStart start (decide (sec < 2))) b
        | none => b)
    | none => s.haloFrames c p sec n

/-- Writes a section word by word, a word at phase start + 16 + i, until the position stops (R166, R175). -/
def PosRun.fill (c : TaskCtx) (start begin_ sec : Nat) (b : List Byte) (p : PosRun) : PosRun :=
  (pieces 64 b.length).foldl (fun p q =>
    let clk := begin_ + start + q.1 / 64
    let a := c.t.sectionBase sec + q.1
    let stopped := p.fault.any (fun f =>
      decide (f.rec_.rclk < clk) || (f.rec_.rclk = clk && (f.rec_.operand != oHalo || decide (f.rec_.addr ≤ a))))
    if stopped then p else { p with store := p.store.write a ((b.drop q.1).take q.2) }) p

/-- The faults of a phase (R165): a position that has a neighbour to send beyond its plane, and a section that leaves
the store. -/
def PosRun.checks (c : TaskCtx) (start begin_ : Nat) (secs : List Nat) (p : PosRun) : PosRun :=
  secs.foldl (fun p sec =>
    let p := match (c.beside p.pos ([1, 0, 2, 3].getD sec 0)), c.t.depthOver sec with
      | some _, some (word, addr) =>
        p.addFault (c.overflow p.pos Code.haloDepth 1 oIn0 (begin_ + word) noIdx addr)
      | _, _ => p
    let b := c.t.sectionBase sec
    let n := c.t.sectionBytes sec
    if n = 0 || b + n ≤ storeSize then p
    else
      let word := (storeSize - b) / 64
      p.addFault (c.overflow p.pos Code.storeOver 1 oHalo (begin_ + start + word) noIdx (max (b + 64 * word) storeSize))) p

/-- One phase of the exchange; words of another device that are missing are late (R438). -/
def State.haloPhase (s : State) (c : TaskCtx) (start : Nat) (secs : List Nat) (ps : List PosRun) : List PosRun :=
  let begin_ := c.t.phaseStart start (secs.contains 0)
  let ps := ps.map (PosRun.checks c start begin_ secs)
  ps.map (fun p =>
    secs.foldl (fun (q : PosRun) sec =>
      match s.section c ps start p.pos sec with
      | some b => PosRun.fill c start begin_ sec b q
      | none =>
        q.addFault { pos := p.pos, rec_ := c.record p.pos Code.fabLate 1 oHalo (begin_ + start) noIdx (c.t.sectionBase sec),
                     ladder := true }) p)

/-- The whole exchange of a task. -/
def State.halo (s : State) (c : TaskCtx) (ps : List PosRun) : List PosRun :=
  if !c.t.halo then ps
  else
    let start := s.haloStart c.j c.t
    s.haloPhase c start [0, 1] (s.haloPhase c start [2, 3] ps)

/-! ### Words for other devices (R438) -/

/-- The sections that this device's positions owe to positions on other devices: source position, section and
receiving position. -/
def State.owedFaces (s : State) (c : TaskCtx) : List (Nat × Nat × Nat) :=
  if !c.t.halo then []
  else (s.positions c).flatMap (fun q => (List.range 4).filterMap (fun side =>
    match c.beside q.1 side with
    | some p => if (s.roomOf c p).isNone && c.t.sectionBytes (feeds side) != 0 then some (q.1, feeds side, p) else none
    | none => none))

/-- The stores of the task's Rooms on this device as the exchange finds them. -/
def State.posRuns (s : State) (c : TaskCtx) : List PosRun :=
  (s.positions c).map (fun q =>
    let r := s.room q.2
    { pos := q.1, room := q.2, store := r.store, lines := r.lines, halves := none, tally := Tally.zero, written := [],
      fault := c.r.faults.find? (fun f => f.pos = q.1) })

/-- Sends every face that is ready and not yet sent: W and E at once, N and S when the columns of phase 1 that they carry
are there. A position whose own face read fails sends zero words from there on (R168). -/
def State.sendFaces (s : State) (n k : Nat) : State :=
  s.withTask n k (fun c =>
    let start := s.haloStart c.j c.t
    let ps := (s.posRuns c).map (PosRun.checks c start (c.t.phaseStart start false) [2, 3])
    let ready := ps.all (fun p => [2, 3].all (fun sec => (s.section c ps start p.pos sec).isSome))
    let after := (if ready then s.haloPhase c start [2, 3] ps else ps).map
      (PosRun.checks c start (c.t.phaseStart start true) [0, 1])
    (s.owedFaces c).foldl (fun s o =>
      let (q, sec, p) := o
      if c.r.sent.contains (p, sec) || (sec < 2 && !ready) then s
      else
        match (if sec < 2 then after else ps).find? (fun x => x.pos = q) with
        | none => s
        | some x =>
          let b := c.t.face sec x.store
          let b := match x.stop with
            | some e => zeroFrom (e - c.t.phaseStart start (decide (sec < 2))) b
            | none => b
          let d := (s.deviceAt c.j (c.coord p).1 (c.coord p).2).getD 0
          (s.sendRun vcNeighbour d 0 (s.isSealed c) (fun off => .halo c.j.span c.i.run c.k p sec off []) b).modTask n k
            (fun r => { r with sent := r.sent ++ [(p, sec)] })) s)

/-! ### Contributions of COLLECTIVE (R439) -/

/-- Sends each local position's contribution to every other member. -/
def State.sendParts (s : State) (c : TaskCtx) : State :=
  (s.positions c).foldl (fun s q =>
    let b := (s.room q.2).store.read c.t.base0 (c.t.par 240 4)
    ((s.members c.j c.t).filter (· != s.fab.addr)).foldl (fun s d =>
      s.sendRun vcCollective d 0 (s.isSealed c) (fun off => .part c.j.span c.i.run c.k q.1 off) b) s) s

/-- The contribution of a member for a position: none where it has not all come. -/
def State.contribution (s : State) (c : TaskCtx) (own : List Byte) (p : Nat) (d : Byte) : Option (List Byte) :=
  if d = s.fab.addr then some own
  else s.fab.run (c.t.par 240 4) (fun f =>
    match f.ctrl with
    | .part _ _ _ pos off => if c.framed f && f.src = d && pos = p then some off else none
    | _ => none)

/-- Pieces of 4 bytes, and of 16. -/
def words4 (b : List Byte) : List W32 := (List.range (b.length / 4)).map (fun i => rd32 b (4 * i))

/-- Word by word, the fixed tree over the contributions (R439). -/
def reduceWords (f : W32 → W32 → Fx W32) (cs : List (List Byte)) (n : Nat) : Fx (List Byte) := do
  let ws ← (List.range (n / 4)).mapM (fun i => do
    let l ← mergeTree f (cs.length + 1) (cs.map (fun b => rd32 b (4 * i)))
    return le32 (l.headD 0))
  return ws.flatten

/-- The result of a COLLECTIVE from the contributions in member order (R439). -/
def collect (kind n : Nat) (cs : List (List Byte)) : Fx (List Byte) :=
  match kind with
  | 0 => do
    let ts ← (List.range (n / 16)).mapM (fun i => do
      let s ← mergeStats (cs.map (fun b => readStat (b.drop (16 * i))))
      return s.bytes)
    return ts.flatten
  | 1 => reduceWords add32 cs n
  | 2 => reduceWords (fun a b => pure (max32 a b)) cs n
  | _ => pure cs.flatten

end Sys2Proof.Machine
end

