-- ==== Sys2Proof/Machine/TaskExec.lean ====
section
/-!
DEFINITION. The body of a task over its footprint, the joint commit check, write-back and what a commit counts (R145 to R147,
R165 to R171, R178, R199, R240, R243, R439, R493, R494).
-/
namespace Sys2Proof.Machine

/-! ## The body (R166 to R169) -/

def Tally.add (a b : Tally) : Tally :=
  { sat := a.sat + b.sat, conv := a.conv + b.conv, clip := a.clip + b.clip, fnFp32 := a.fnFp32 + b.fnFp32,
    fnShort := a.fnShort + b.fnShort, fed := a.fed + b.fed, mac := a.mac + b.mac, gated := a.gated + b.gated }

/-- What was counted before rclk `stop`; everything where nothing stopped the Room. -/
def tallyBefore (stop : Option Nat) (marks : List (Nat × Tally)) : Tally :=
  (marks.filter (fun m => stop.all (fun k => decide (m.1 < k)))).foldl (fun a m => a.add m.2) Tally.zero

/-- The result of COLLECTIVE in the stage: at the end of its body (R439). -/
def State.collectRun (s : State) (c : TaskCtx) (p : PosRun) : PosRun :=
  let n := c.t.par 240 4
  let own := p.store.read c.t.base0 n
  let ms := s.members c.j c.t
  let cs := if ms.isEmpty then [some own] else ms.map (s.contribution c own p.pos)
  let clk := 16 + c.t.body (s.spanCost c.j c.t) c.m
  if storeSize < c.t.base0 + n then
    p.addFault (c.overflow p.pos Code.storeOver 2 oIn0 16 noIdx (max c.t.base0 storeSize))
  else match cs.mapM id with
    | none => p.addFault { pos := p.pos, rec_ := c.record p.pos Code.fabLate 2 oIn0 clk noIdx 0, ladder := true }
    | some l =>
      if p.fault.isSome then p
      else
        let r := collect (c.t.par 236 1) n l Tally.zero
        if storeSize < c.t.stageAt + r.1.length then
          p.addFault (c.overflow p.pos Code.storeOver 2 oOut clk noIdx (max c.t.stageAt storeSize))
        else { p with store := p.store.write c.t.stageAt r.1, tally := p.tally.add r.2,
                      written := [(c.t.stageAt, r.1.length)] }

/-- One position runs its body after the exchange; its first failing access stops it. -/
def State.runPos (s : State) (c : TaskCtx) (p : PosRun) : PosRun :=
  if c.t.op = opCollective then s.collectRun c p
  else
    let part := s.partOf c p.pos p.room
    let r := runBody part (RunSt.start p.store p.lines none)
    let q := match firstBad r.2.bad with
      | some b => p.addFault (c.overflow p.pos b.code b.phase b.opnd b.clk b.idx b.addr)
      | none => p
    let f := q.fault.map (·.rec_)
    let out := match f with
      | none => r.2
      | some f => (runBody part (RunSt.start p.store p.lines (some (f.rclk, f.operand, f.addr)))).2
    { q with store := out.final,
             lines := if q.fault.isSome then p.lines else r.2.lines,
             halves := if q.fault.isSome then none else r.1,
             tally := p.tally.add (tallyBefore (f.map (·.rclk)) r.2.marks),
             written := out.wrote }

/-- The body of a task on every Room of this device. -/
def State.bodyRun (s : State) (c : TaskCtx) : List PosRun := (s.halo c (s.posRuns c)).map (s.runPos c)

/-! ## The commit check (R165, R167) -/

/-- trips − 1 of each level (R171). -/
def TaskCtx.lastIdx (c : TaskCtx) : List Nat := c.t.loops.map (fun l => (if l.dyn then c.t.roomTrips c.rows l else l.trips) - 1)

/-- Bytes that a DECLASS write-back of the task charges on this device: its own positions' (R43, R441). -/
def State.chargeBytes (s : State) (c : TaskCtx) : Nat := (s.positions c).length * c.t.out.bytes

/-- The failed commit check of a position: code and address. -/
def State.commitFails (s : State) (c : TaskCtx) (p : Nat) : Option (W32 × Nat) :=
  let o := c.t.out
  let off := c.t.operandAt 3 p
  let sout := c.t.sOut c.m
  if o.space = 1 then
    let len := (s.slotBuf c.i o.slot).2
    if o.bytes != 0 && len < off + o.bytes then some (Code.bufOver, max off len)
    else if s.charged c && s.declassLeft c.i < s.chargeBytes c then
      some (Code.declassOver, s.chargeBytes c - s.declassLeft c.i)
    else none
  else if o.space = 2 then
    let len := c.j.attic * 65536
    if o.bytes != 0 && len < off + o.bytes then some (Code.atticOver, max off len) else none
  else if o.space = 3 then
    if sout != 0 && storeSize < o.offset + sout then some (Code.storeOver, max o.offset storeSize) else none
  else if o.space = 4 then
    let a := o.offset % 2 ^ 20
    if sout != 0 && storeSize < a + sout then some (Code.storeOver, max a storeSize) else none
  else none

/-- The faults of the commit checks of this device's positions, at the rclk that follows the body (log entry 26). -/
def State.commitFaults (s : State) (c : TaskCtx) : List TaskFault :=
  let clk := 16 + c.t.body (s.spanCost c.j c.t) c.m
  (s.positions c).filterMap (fun q =>
    (s.commitFails c q.1).map (fun f => c.overflow q.1 f.1 3 oOut clk c.lastIdx f.2))

/-- A SEM_REL by an instance that does not hold the semaphore (R127). -/
def State.badRelease (s : State) (c : TaskCtx) : Bool :=
  c.t.semRel && !(tget s.plan.sems c.t.sem).any (fun h => h.inst = c.n)

/-! ## Write-back (R145, R147, R178, R199) -/

/-- The body wrote a byte of the stage. A byte that it did not write (a masked row, the gap between two rows or channels)
is not written back: nothing that an earlier task left in the stage reaches a result (R145, R444; log entry 45). -/
def PosRun.wrote (p : PosRun) (a : Nat) : Bool := p.written.any (fun w => decide (w.1 ≤ a ∧ a < w.1 + w.2))

/-- `n` bytes of the stage from place `at_` on, none where the body wrote none. -/
def PosRun.stageFrom (c : TaskCtx) (p : PosRun) (at_ n : Nat) : List (Option Byte) :=
  (List.range n).map (fun i =>
    let a := c.t.stageAt + at_ + i
    if p.wrote a then some (p.store.byte a) else none)

/-- The first `n` bytes of the stage. -/
def PosRun.stageBytes (c : TaskCtx) (p : PosRun) (n : Nat) : List (Option Byte) := p.stageFrom c 0 n

/-- Places of a list that hold nothing. -/
def gapsOf (l : List (Option Byte)) : List Nat := (List.range l.length).filter (fun i => (l.getD i none).isNone)

/-- The slots of a ZRC_OUT write-back: masked rows as zeros (R199). -/
def PosRun.zrcBytes (c : TaskCtx) (p : PosRun) : List (Option Byte) :=
  let raw := (p.stageBytes c (c.t.sOut c.m)).map (fun b => b.getD 0)
  (List.range (ceilDiv raw.length 1024)).flatMap (fun k => zrcPack ((raw.drop (1024 * k)).take 1024))

/-- The write-back of a position: none where it sends nothing on this device. Space-4 sections for other devices are
sent by `sendNear`. -/
def State.writeBack (s : State) (c : TaskCtx) (p : PosRun) : List WriteBack :=
  let o := c.t.out
  let off := c.t.operandAt 3 p.pos
  let data := if c.t.isWin && c.t.win.zrcOut then p.zrcBytes c else p.stageBytes c o.bytes
  match o.space with
  | 1 => if s.withheld c then [] else [{ space := 1, room := p.room, addr := (s.slotBuf c.i o.slot).1 + off, data := data }]
  | 2 => [{ space := 2, room := 0, addr := off, data := data }]
  | 3 => [{ space := 3, room := p.room, addr := o.offset, data := p.stageBytes c (c.t.sOut c.m) }]
  | 4 =>
    match (c.beside p.pos (field o.offset 20 2)).bind (s.roomOf c) with
    | some r => [{ space := 4, room := r, addr := o.offset % 2 ^ 20, data := p.stageBytes c (c.t.sOut c.m) }]
    | none => []
  | _ => []

/-- Number of a space-4 output among the sections of a position. -/
def nearSec : Nat := 4

/-- Sends space-4 outputs to positions on other devices (R36, R178): the bytes that the body wrote. -/
def State.sendNear (s : State) (c : TaskCtx) (ps : List PosRun) : State :=
  if c.t.out.space != 4 then s
  else ps.foldl (fun s p =>
    match c.beside p.pos (field c.t.out.offset 20 2) with
    | some q =>
      match s.deviceAt c.j (c.coord q).1 (c.coord q).2 with
      | some d =>
        s.sendRun vcNeighbour d 0 (s.isSealed c) (fun off => .halo c.j.span c.i.run c.k q nearSec off
            (gapsOf (p.stageFrom c off (min dataMax (c.t.sOut c.m - off)))))
          ((p.stageBytes c (c.t.sOut c.m)).map (fun b => b.getD 0))
      | none => s
    | none => s) s

/-- The side opposite to a side. -/
def opposite (side : Nat) : Nat := [1, 0, 3, 2].getD side 0

/-- Places of a position's space-4 output from another device that hold no byte. -/
def State.nearGaps (s : State) (c : TaskCtx) (pos : Nat) : List Nat :=
  s.fab.inbox.flatMap (fun f =>
    match f.ctrl with
    | .halo _ _ _ q sec off gaps => if c.framed f && q = pos && sec = nearSec then gaps.map (off + ·) else []
    | _ => [])

/-- The space-4 output that comes from another device to a position: none while it has not all come. -/
def State.nearFor (s : State) (c : TaskCtx) (pos room : Nat) : Option (List WriteBack) :=
  match c.beside pos (opposite (field c.t.out.offset 20 2)) with
  | some p =>
    if (s.roomOf c p).isSome then some []
    else (s.haloFrames c pos nearSec (c.t.sOut c.m)).map (fun b =>
      [{ space := 4, room := room, addr := c.t.out.offset % 2 ^ 20, data := (List.range b.length).map (fun x => if (s.nearGaps c pos).contains x then none else b[x]?) }])
  | none => some []

/-- Space-4 outputs from other devices to this device's positions: none while some are missing. -/
def State.nearArrived (s : State) (c : TaskCtx) : Option (List WriteBack) :=
  if c.t.out.space != 4 then some []
  else ((s.positions c).mapM (fun (q : Nat × Nat) => s.nearFor c q.1 q.2)).map List.flatten

/-- Runs of bytes that a masked write writes, by place and length. -/
def writtenRuns (base : Nat) (l : List (Option Byte)) : List (Nat × Nat) :=
  (l.foldl (fun (q : Nat × List (Nat × Nat)) b =>
    (q.1 + 1, if b.isNone then q.2
      else match q.2 with
        | w :: r => if w.1 + w.2 = q.1 then (w.1, w.2 + 1) :: r else (q.1, 1) :: q.2
        | [] => [(q.1, 1)])) (base, [])).2

/-- HBM blocks that a write-back writes: those that hold a byte of it. -/
def WriteBack.blocks (w : WriteBack) : Nat :=
  ((List.range (ceilDiv w.data.length 64)).filter (fun k => ((w.data.drop (64 * k)).take 64).any (·.isSome))).length

/-- Requests of a Room's DMA pass the port of its logical row (R141, R395). -/
def State.drawRow (s : State) (room n : Nat) : State := s.drawPort (room / 8) n

/-- A write-back is made; in a Room store the bytes take the task's seal (R44). -/
def State.applyBack (s : State) (job : Nat) (sealed : Bool) (w : WriteBack) : State :=
  match w.space with
  | 1 => (s.drawRow w.room w.blocks).hbmWriteMasked w.addr w.data
  | 2 => s.modJob job (fun j => { j with atticMem := j.atticMem.writeMasked w.addr w.data })
  | _ => s.modRoom w.room (fun r =>
      (writtenRuns w.addr w.data).foldl (fun r q => r.setSeal sealed q.1 q.2) { r with store := r.store.writeMasked w.addr w.data })

/-! ## Rooms in the course of a task (R153, R154, R171, R172) -/

/-- The 48 bytes of a fault record (R171). -/
def FaultRec.bytes (f : FaultRec) : List Byte :=
  le32 f.status ++ leBytes 2 f.index ++ leBytes 2 f.graph ++ leBytes 1 f.phase ++ leBytes 1 f.operand
    ++ leBytes 1 f.position ++ [0] ++ leBytes 4 f.rclk ++ (List.range 6).flatMap (fun i => leBytes 4 (f.idx.getD i 0))
    ++ leBytes 8 f.addr

/-- A Room takes a fault: FAULT, its record, ROOM_FAULT and ROOM_CYCLE (R153, R166, R172). -/
def State.faultRoom (s : State) (room : Nat) (f : FaultRec) : State :=
  s.modRoom room (fun r =>
    { r with state := .fault, fault := f.status, frec := f.bytes, cycle := satNat 32 f.rclk })

/-- Counts of a run, as the Room's registers take them (R133, R154, R225). -/
def Room.addTally (r : Room) (t : Tally) : Room :=
  { r with sat := satAdd r.sat t.sat, fed := satAdd r.fed t.fed, mac := satAdd r.mac t.mac,
           gated := satAdd r.gated t.gated, fnFp32 := satAdd r.fnFp32 t.fnFp32, fnShort := satAdd r.fnShort t.fnShort }

/-- Cells of a half that are not zero, by 64 × row + column. -/
def Half.cells (h : Half) : Tab W32 :=
  (List.range 4096).filterMap (fun i =>
    let v := (h.row (i / 64)).getD (i % 64) 0
    if v = 0 then none else some (i, v))

/-- rclk at which the accumulating half changes in a task (R136, R150, R186, R189). -/
def State.flipTimes (s : State) (c : TaskCtx) (p room : Nat) : List Nat :=
  let part := s.partOf c p room
  if c.t.op = opMatmul then
    match c.t.pair with
    | none => []
    | some (r, w) =>
      let ps := part.schedule w r
      ((ps.zip (ps.drop 1)).filter (fun q => !q.1.x.sameTile q.2.x)).map (·.2.at_)
  else if c.t.op = opConv then
    (part.winSchedule.flatMap (fun pt => (c.t.convStarts pt).map (·.2))).drop 1
  else []

/-- A Room after the body: its store, lines and accumulators as the run left them, its counters moved on. What the task wrote takes
its seal (R44). -/
def State.leaveBody (s : State) (c : TaskCtx) (p : PosRun) : State :=
  let sealed := s.isSealed c
  let odd := decide ((s.flipTimes c p.pos p.room).length % 2 = 1)
  s.modRoom p.room (fun r =>
    let r := { r with store := p.store, lines := p.lines }.addTally p.tally
    let r := if sealed then
        let halo := if c.t.halo then ((List.range 4).map c.t.sectionBytes).sum else 0
        (r.setSeal true c.stageRegion.1 c.stageRegion.2).setSeal true c.t.haloBase halo
      else p.written.foldl (fun r w => r.setSeal false w.1 w.2) r
    match p.halves with
    | none => r
    | some (a, b) =>
      if odd then { r with half := true, acc0 := b.cells, acc1 := a.cells }
      else { r with half := false, acc0 := a.cells, acc1 := b.cells })

/-! ## Energy (R493, R494) -/

/-- HBM blocks that an operand of a position reads: of a compressed operand, those of the requests that cover each slot's masks and
data (R199); of others, those of its bytes. -/
def TaskCtx.blocksRead (c : TaskCtx) (p x : Nat) : Nat :=
  let o := c.t.input x
  if o.space != 1 then 0
  else if x = 0 && c.t.isWin && c.t.win.zrcIn then
    match (c.r.fetched.find? (fun q => q.1 = p)).bind (fun q => q.2[x]?) with
    | some b => ((List.range (b.length / 1152)).map (fun k =>
        let slot := (b.drop (1152 * k)).take 1152
        ceilDiv (128 + zrcCount (slot.take 128)) 64)).sum
    | none => 0
  else ceilDiv o.bytes 64

/-- HBM blocks that a task's operands move on this device as they were requested: read and written (R493). -/
def State.hbmBlocks (s : State) (c : TaskCtx) : Nat × Nat :=
  (((s.positions c).map (fun q => ((List.range 3).map (c.blocksRead q.1)).sum)).sum,
    ((c.r.stage.filter (fun w => w.space = 1)).map (·.blocks)).sum)

/-- Events of a task enter the interval's model energy, the instance's and the job's (R491, R494): its counts, and term
11 for its Rooms over [s_t, e_t] at the beats' aclk length. -/
def State.taskEnergy (s : State) (c : TaskCtx) (t : Tally) (rooms : Nat) (done : Bool) : State :=
  let (r, w) := s.hbmBlocks c
  let events := [(0, t.mac), (1, t.fed), (2, t.gated), (3, t.fnShort), (4, t.fnFp32), (5, r), (6, if done then w else 0)]
  let s := events.foldl (fun s e => s.count e.1 e.2) s
  let beats := s.beat + 1 - min c.r.s s.beat
  let aclks := 1024 * beats / aclkDiv s.pwr.pstate.toNat
  let fj := (events.map (fun e => s.energyOf e.1 e.2)).sum + s.energyOf 11 (rooms * aclks)
  (s.jobEnergy c.i.job fj).modInst c.n (fun i => { i with energy := i.energy + fj })

/-! ## Quality (R240, R243) -/

/-- The Room judges a task's counts at its commit (R240, R243): the live counters move on, and an event latches. -/
def Room.judge (r : Room) (graph index conv clip : Nat) : Room × Option W16 :=
  let r := { r with qclip := satAdd r.qclip clip, qconv := satAdd r.qconv conv }
  if r.qShare != 0 && 1024 * r.qMinK.toNat ≤ conv && r.qShare.toNat * conv < clip * 65536 then
    let share : W16 := satNat 16 (clip * 65536 / max conv 1)
    let r := if r.qevValid then r
      else { r with qevValid := true, qevGraph := BitVec.ofNat 12 graph, qevIndex := BitVec.ofNat 16 index,
                    qevShare := share }
    ({ r with qevEvents := satAdd r.qevEvents 1 }, some share)
  else (r, none)

end Sys2Proof.Machine
end

