-- ==== Sys2Proof/Machine/InstEnd.lean ====
section
/-!
DEFINITION. How graph instances end: entries, completion, cancellation, faults; and the freezes that keep tasks from
starting (R93, R95, R118, R127, R128, R170, R172, R262 to R264, R268, R284, R470, R475).
-/
namespace Sys2Proof.Machine

/-! ## Windows and entries (R117, R118) -/

/-- First beat of a task's window. -/
def Inst.opens (i : Inst) (r : TaskRun) : Nat := r.s - r.l - i.guard

/-- A task that occupies no beat and no Room (R114, R159). -/
def TaskRun.empty (r : TaskRun) : Bool := r.c = 0

def TaskRun.over (r : TaskRun) : Bool :=
  match r.state with
  | .committed => true
  | .ended => true
  | _ => false

/-- Not yet started at its start beat. -/
def TaskRun.unstarted (r : TaskRun) : Bool :=
  match r.state with
  | .planned => true
  | .prefetch => true
  | _ => false

/-- The largest number of entries that the tasks not yet over hold at any one beat (R118). -/
def Inst.need (i : Inst) (g : Graph) : Nat :=
  let live := (i.tasks.zip g.tasks).filter (fun p => !p.1.over && !p.1.empty)
  (live.map (fun p =>
    let b := i.opens p.1
    ((live.filter (fun q => decide (i.opens q.1 ≤ b ∧ b ≤ q.1.e))).map (fun q => q.2.rooms)).sum)).foldl max 0

/-- Entries that admitted instances hold (R93). -/
def Plan.used (p : Plan) : Nat :=
  (p.insts.map (fun q => match q.2.state with
    | .running => q.2.k
    | .ending => q.2.k
    | _ => 0)).sum

/-- Entries of the in-flight pool (R129). -/
def planEntries : Nat := 8192

def Plan.freeEntries (p : Plan) : Nat := planEntries - p.used

/-- The entries that an instance no longer needs return (R93): it keeps the most that its remaining tasks hold at any one beat, since k
is a maximum over beats and no rule counts entries by task (DESIGN CHOICE, log entry 126). -/
def State.returnEntries (s : State) (n : Nat) : State :=
  match s.inst n with
  | none => s
  | some i =>
    match s.graph i.graph with
    | none => s
    | some g => s.modInst n (fun i => { i with k := min i.k (i.need g) })

/-! ## Tasks that may start (R262 to R264, R268) -/

/-- A pre-emption keeps the job from starting tasks, but for those up to an agreed cut (R264). -/
def Job.frozen (j : Job) : Bool :=
  j.suspended || j.pre.any (fun p => match p.phase with
    | .requested => false
    | _ => true)

/-- A pre-emption is requested and not yet in force: no task of the job acquires a semaphore (R262). -/
def Job.requested (j : Job) : Bool :=
  j.pre.any (fun p => match p.phase with
    | .requested => true
    | _ => false)

/-- Every pre-emption of the job is still a freeze. -/
def Job.onlyFrozen (j : Job) : Bool :=
  !j.suspended && j.pre.all (fun p => match p.phase with
    | .requested => true
    | .frozen => true
    | _ => false)

/-- The cut of a spanning freeze lets a task start (R264). -/
def TaskCtx.withinCut (c : TaskCtx) : Bool :=
  match c.j.cut with
  | some top => c.j.onlyFrozen && decide (c.k < tgetD top c.i.run 0)
  | none => false

/-- The task may start as far as its job is concerned. -/
def TaskCtx.mayStart (c : TaskCtx) : Bool :=
  (!c.j.frozen || c.withinCut) && (!c.j.onDemand || c.j.holds) && !(c.j.requested && c.t.semAcq)

/-- Every predecessor has committed, or ended. -/
def TaskCtx.predsOver (c : TaskCtx) : Bool :=
  ((c.g.deps.drop c.t.predFirst).take c.t.npred).all (fun d =>
    match c.i.tasks[d.1]? with
    | some r => r.over
    | none => true)

/-! ## The end of an instance (R93, R95, R128, R475) -/

/-- The status an instance ends with: its fault of the lowest task (R95), a lost store (R468), an unreleased semaphore (R128), a
recovery (R475), or success. Where several hold, the first of these is given (DESIGN CHOICE, log entry 129). -/
def Inst.status (i : Inst) (holds : Bool) : W32 :=
  match i.fault with
  | some f => f.2
  | none =>
    if i.lostStore then Code.rcvStoreLost
    else if holds then Code.semUnreleased
    else match i.recovered with
      | some c => Code.withCls c 1
      | none => 0

/-- The semaphores of an instance are freed (R128). -/
def Plan.freeSems (p : Plan) (n : Nat) : Plan := { p with sems := p.sems.filter (fun h => h.2.inst != n) }

/-- The frame is not held back by its own instance: its records wait for those of earlier frames. -/
def FrameSt.idle (f : FrameSt) : Bool :=
  match f.phase with
  | .running => false
  | _ => true

/-- The frames after a recovered one whose records wait for it are delayed by the recovery too (R78, R367, R474). -/
def delayAfter (frame : Nat) : Bool → List FrameSt → List FrameSt
  | _, [] => []
  | after, f :: r => { f with late := f.late || (after && f.idle) } :: delayAfter frame (after || f.k.toNat = frame) r

/-- An output frame's instance has ended: the device drops its own reference on the pyramid (R314). -/
def State.frameEnded (s : State) (stream frame : Nat) (status : W32) (held : Bool) : State :=
  let mine := ((tget s.video.streams stream).map (fun t => t.frames.filter (fun x => x.k.toNat = frame))).getD []
  let f (x : FrameSt) : FrameSt := if x.k.toNat = frame then { x with phase := .ended status held, pyr := 0 } else x
  let s := s.dropRefs 2 (mine.map (·.pyr))
  { s with video := { s.video with
      streams := tmod s.video.streams stream (fun t =>
        let fs := t.frames.map f
        { t with frames := if held then delayAfter frame false fs else fs }) } }

/-- An instance is over: its submitter learns the status, and nothing of it stays (R93). The references on a packet's
handles drop when its record is written; those of other instances drop now (R284). -/
def State.endInst (s : State) (n : Nat) (status : W32) : State :=
  match s.inst n with
  | none => s
  | some i =>
    let s := s.modPlan (fun p =>
      { p with insts := tdel p.insts n, claims := p.claims.filter (fun c => c.inst != n),
               admits := p.admits.filter (fun a => a.inst != n) }.freeSems n)
    match i.who with
    | .packet ring op =>
      (s.modPlan (fun p => { p with refsDue := p.refsDue ++ [(ring, op, i.handles)] })).finishOp ring op status i.slips
        i.energy i.heldRec
    | .frame stream frame => (s.dropRefs 27 i.handles).frameEnded stream frame status i.heldRec
    | .step job =>
      (s.dropRefs 27 i.handles).modJob job (fun j => { j with step := j.step.map (fun r => { r with done := some (status, i.heldRec) }) })

/-- An admitted instance whose tasks are all over ends. -/
def State.settle (s : State) (n : Nat) : State :=
  match s.inst n with
  | none => s
  | some i =>
    match i.state with
    | .queued => s
    | .waiting => s
    | _ =>
      if i.tasks.all TaskRun.over then s.endInst n (i.status (s.plan.sems.any (fun h => h.2.inst = n))) else s

/-- A task faults its instance (R93, R95): the status of the lowest task stands, tasks whose window has not opened are
cancelled, the others run on. -/
def State.instFault (s : State) (n k : Nat) (status : W32) : State :=
  let beat := s.beat
  (s.modInst n (fun i =>
    { i with state := .ending,
             fault := match i.fault with
               | some f => if k < f.1 then some (k, status) else some f
               | none => some (k, status),
             tasks := i.tasks.map (fun r =>
               if (match r.state with
                 | .planned => decide (beat < i.opens r) || r.empty
                 | _ => false) then { r with state := .ended } else r) })).settle n

/-! ## Rooms and the log -/

/-- Physical Room behind a logical index. -/
def State.physOf (s : State) (room : Nat) : Nat := s.glb.grid.phys.getD room 0

/-- A log entry about a task (R476). -/
def TaskCtx.entry (c : TaskCtx) (status : W32) (unit index attempt action beats addr : Nat) (f : List Byte) : LogEntry :=
  { status := status, unit := unit, attempt := attempt, index := index, action := action, job := c.i.job,
    graph := c.i.graph, task := c.k, beats := beats, addr := addr, frec := f }

/-- A Room is used by a task of the job: ROOM_STORE.live and peak (R154). -/
def State.useRoom (s : State) (c : TaskCtx) (room : Nat) : State :=
  let live : BitVec 11 := BitVec.ofNat 11 c.extent
  s.modRoom room (fun r =>
    let live := if r.live.toNat < live.toNat then live else r.live
    { r with live := live, peak := if r.peak.toNat < live.toNat then live else r.peak })

/-- The Rooms of a task that are not FAULT go to a state. -/
def State.setRooms (s : State) (c : TaskCtx) (st : RoomState) (faulted : Bool) : State :=
  (s.positions c).foldl (fun s q =>
    s.modRoom q.2 (fun r => if r.state = .fault && !faulted then r else { r with state := st })) s

/-- The first fault of a task: earliest rclk, then lowest position (R168). -/
def firstFault : List TaskFault → Option TaskFault
  | [] => none
  | f :: r =>
    match firstFault r with
    | none => some f
    | some g =>
      some (if g.rec_.rclk < f.rec_.rclk || (g.rec_.rclk = f.rec_.rclk && decide (g.pos < f.pos)) then g else f)

/-- A fault of a position is noted: the first of the attempt sets its beat; the Room stops, and an overflow goes to the log
with its record (R166, R168, R172). -/
def State.noteFault (s : State) (c : TaskCtx) (f : TaskFault) : State :=
  let s := s.modTask c.n c.k (fun r =>
    { r with state := .faulted, faults := r.faults ++ [f], fbeat := if r.faults.isEmpty then s.beat else r.fbeat })
  match s.roomOf c f.pos with
  | none => s
  | some room =>
    let s := s.faultRoom room f.rec_
    if f.ladder then s
    else s.log (c.entry f.rec_.status 1 (s.physOf room) 0 0 0 f.rec_.addr f.rec_.bytes)

/-! ## Retirement without a spare (R470) -/

/-- A job's Suite on this device holds a logical Room. -/
def Job.holdsRoom (j : Job) (room : Nat) : Bool := j.roomList.contains room

/-- A position of the job's Suite is lost. -/
def State.jobLost (s : State) (j : Job) : Bool := s.glb.grid.lost.any j.holdsRoom

/-- A Room's position is left empty: it is OFFLINE, and every instance of a job that holds it completes with ROOM_LOST
(R470). -/
def State.loseRoom (s : State) (room : Nat) : State :=
  let s := { s with glb := { s.glb with grid := s.glb.grid.lose room } }
  let s := { s with ras := { s.ras with retired := satAdd s.ras.retired 1 } }
  let hit := s.plan.insts.filter (fun p => (s.job p.2.job).any (fun j => j.holdsRoom room))
  let s := (hit.flatMap (fun p => (List.range p.2.tasks.length).filterMap (s.taskCtx p.1))).foldl (fun s c =>
    if c.r.unstarted || c.r.over then s else s.setRooms c .idle true) s
  let s := s.modRoom room (fun r => { r with state := .offline })
  hit.foldl (fun s p => s.endInst p.1 Code.roomLost) s

/-- Puts a spare behind a position (R26, R468): the store is copied over its live extent; a 64 B word of the copy may fail
parity, and is then zero (a free value says which; log entry 27). none: no spare, or R33 forbids every one. -/
def State.substitute (s : State) (room : Nat) : Option (State × Bool) :=
  match s.glb.grid.substitute s.part.e room with
  | none => none
  | some g =>
    let live := (s.room room).live.toNat * 1024
    let (s, v) := s.draw
    let words := live / 64
    let lost := v.getLsbD 0 && words != 0
    let at_ := 64 * (v.toNat / 2 % max words 1)
    let s := { s with glb := { s.glb with grid := g } }
    some (s.modRoom room (fun r =>
      let st := r.store.zero live storeSize
      { r with state := .idle, store := if lost then st.zero at_ (at_ + 64) else st, acc0 := [], acc1 := [],
               half := false, lines := [] }), lost)

/-- T_sub in beats (R468). -/
def State.subBeats (s : State) (room : Nat) : Nat := 1 + ceilDiv ((s.room room).live.toNat * 1024) 16384

/-- Tasks of a job that have not started move later (R466, R467); several shifts at one boundary are one, the largest
(R469). The beats are counted in RAS_REPLAN. -/
def State.recoveryShift (s : State) (job n : Nat) : State :=
  let beat := s.beat
  let done := match tget s.plan.lastShift job with
    | some (b, k) => if b = beat then k else 0
    | none => 0
  let more := n - done
  let move (r : TaskRun) : TaskRun := if r.unstarted then { r with s := r.s + more, e := r.e + more } else r
  let s := s.modPlan (fun p =>
    { p with lastShift := tset p.lastShift job (beat, max n done),
             insts := p.insts.map (fun q =>
               if q.2.job = job && q.2.state != .queued && q.2.state != .waiting then
                 (q.1, { q.2 with tasks := q.2.tasks.map move }) else q) })
  { s with ras := { s.ras with replan := satAdd s.ras.replan more } }

/-- A TRANSIENT error is counted against a Room (R465, R472). -/
def State.countRoom (s : State) (phys : Nat) : State :=
  { s with ras := { s.ras with cntRoom := tup s.ras.cntRoom phys 0 (· + 1) } }

end Sys2Proof.Machine
end

