-- ==== Sys2Proof/Machine/Tasks.lean ====
section
/-!
DEFINITION. The course of a task: prefetch, start, body, commit; claims, semaphores, faults and the recovery ladder (R117,
R123 to R128, R141 to R147, R153, R164 to R172, R438, R463 to R472).
-/
namespace Sys2Proof.Machine

/-! ## PREFETCH_START (R117, R141) -/

/-- What the Room DMA finds as it fetches a position's operands: their bytes, poisoned blocks, and the access that
failed (R165, R166); its requests pass the port of the Room's row (R141). -/
def State.fetchInto (s : State) (c : TaskCtx) (p room : Nat) : State :=
  let got := s.fetchFar c p
  let l := s.landAll c p got (s.room room).store
  let moved := { c with r := { c.r with fetched := [(p, got)] } }
  ((s.useRoom c room).drawRow room ((List.range 3).map (moved.blocksRead p)).sum).modTask c.n c.k (fun r =>
    { r with fetched := r.fetched ++ [(p, got)], bad := r.bad ++ l.bad.map (fun b => (p, b.1, b.2)),
             faults := r.faults ++ (match l.fault with
               | some f => [c.overflow p f.1 0 f.2.1 0 noIdx f.2.2]
               | none => []) })

/-- The landing regions of a Room take the seal of what landed there (R42, R44). -/
def State.landSeal (s : State) (c : TaskCtx) (r : Room) : Room :=
  (List.range 3).foldl (fun (r : Room) x =>
    if (c.t.input x).far then r.setSeal (s.farSealed c x) (c.inputRegion x).1 (c.inputRegion x).2 else r) r

/-- The fetched operands of a position stand in its Room store from the start beat on (log entry 46); ROOM_SAT, and the
counts that the landing adds at the commit (R238, R240). -/
def State.landed (s : State) (c : TaskCtx) (p room : Nat) : State :=
  match c.r.fetched.find? (fun q => q.1 = p) with
  | none => s
  | some q =>
    let l := s.landAll c p q.2 (s.room room).store
    (s.modRoom room (fun r => { (s.landSeal c r) with store := l.store, sat := satAdd r.sat l.tally.sat })).modTask c.n c.k (fun r =>
      { r with counts := r.counts ++ [(room, { conv := l.tally.conv, clip := l.tally.clip, fnFp32 := 0, fnShort := 0,
                                               fed := 0, mac := 0, gated := 0 })] })

/-- PREFETCH_START (R141): from beat s − L − G on, the far operands of every Room of the footprint are fetched. -/
def execPrefetchStart (inst task : Nat) (s : State) : Outcome :=
  .next (s.withTask inst task (fun c =>
    if !s.working || c.i.state = .queued || c.i.state = .waiting || c.r.state != .planned || c.r.empty || !c.t.far
        || s.beat < c.i.opens c.r || (c.j.frozen && !c.withinCut) || (c.j.onDemand && !c.j.holds) then s
    else
      let s := s.modTask inst task (fun r => { r with state := .prefetch })
      (s.positions c).foldl (fun s q => s.fetchInto c q.1 q.2) s))

/-! ## TASK_START (R121, R127, R142) -/

/-- An instance's claim to a free semaphore goes before another's (R127): class, job, order of admission. -/
def Inst.beats (a b : Inst) : Bool :=
  decide (a.cls < b.cls) || (a.cls = b.cls && (decide (a.job < b.job) || (a.job = b.job && decide (a.order < b.order))))

/-- Another admitted instance tries for the semaphore at this beat and wins it. -/
def State.rival (s : State) (c : TaskCtx) : Bool :=
  s.plan.insts.any (fun p =>
    p.1 != c.n && (p.2.state == .running || p.2.state == .ending) && p.2.beats c.i && (List.range p.2.tasks.length).any (fun k =>
      (s.taskCtx p.1 k).any (fun d =>
        d.r.unstarted && d.r.s = s.beat && d.t.semAcq && d.t.sem = c.t.sem && d.mayStart)))

/-- Outcome of the semaphore check at a start (R127): taken or already ours from a failed attempt, held by another, or an
order error. -/
inductive SemCheck where
  | go | wait | order
  deriving DecidableEq, Repr

def State.semCheck (s : State) (c : TaskCtx) : SemCheck :=
  if !c.t.semAcq then .go
  else match tget s.plan.sems c.t.sem with
    | none => if s.rival c then .wait else .go
    | some h => if h.inst != c.n then .wait else if h.task = c.k then .go else .order

/-- A TILED task's counter and claims at its dispatch (R123, R124). -/
def State.openClaims (s : State) (c : TaskCtx) : State :=
  if !c.t.tiled then s
  else
    let s := s.modJob c.i.job (fun j => { j with ctrs := tset j.ctrs c.t.counter 0 })
    s.modPlan (fun p =>
      { p with claims := p.claims.filter (fun x => x.inst != c.n || x.task != c.k)
                 ++ [{ inst := c.n, task := c.k, served := [], arrived := [], answered := [], twice := [],
                       rounds := 0, bits := [] }] })

/-- A Planner's fault of a task that no Room makes (R124, R127). -/
def TaskCtx.planFault (c : TaskCtx) (code : W32) (phase opnd : Nat) : TaskFault :=
  { pos := 0, rec_ := c.record 0 code phase opnd 0 noIdx 0, ladder := false }

/-- The task begins in its Rooms (R153). -/
def State.beginTask (s : State) (c : TaskCtx) : State :=
  let s := if c.t.semAcq && !thas s.plan.sems c.t.sem then
      s.modPlan (fun p => { p with sems := tset p.sems c.t.sem { inst := c.n, task := c.k, at_ := s.now } })
    else s
  let s := (s.positions c).foldl (fun s q =>
    ((s.useRoom c q.2).landed c q.1 q.2).modRoom q.2 (fun r =>
      { r with state := .run, job := BitVec.ofNat 6 c.i.job, graph := BitVec.ofNat 12 c.i.graph,
               index := BitVec.ofNat 16 c.k, cycle := 0, half := false })) s
  let s := (s.openClaims c).modTask c.n c.k (fun r => { r with state := .running, fbeat := s.beat })
  let s := c.r.faults.foldl (fun s f => s.noteFault { c with r := { c.r with faults := [] } } f)
    (s.modTask c.n c.k (fun r => { r with faults := [] }))
  let s := s.sendFaces c.n c.k
  if c.t.op = opCollective then s.sendParts c else s

/-- TASK_START (R121, R142): exactly at the start beat, with every operand and the semaphore there; else the Suite slips
at the tick. -/
def execTaskStart (inst task : Nat) (arrived : Bool) (s : State) : Outcome :=
  .next (s.withTask inst task (fun c =>
    let ready := if c.t.far then c.r.state == .prefetch else c.r.state == .planned
    if !s.working || c.i.state = .queued || c.i.state = .waiting || !ready || c.r.empty || s.beat != c.r.s || !arrived
        || !c.mayStart || !c.predsOver || !(s.positions c).all (fun q => (s.room q.2).state = .idle) then s
    else match s.semCheck c with
      | .wait => s
      | .go => s.beginTask c
      | .order =>
        let s := (s.beginTask { c with r := { c.r with faults := [] } }).log (c.entry Code.semOrder 0 0 0 0 0 0 [])
        (s.modTask inst task (fun r =>
          { r with state := .faulted, fbeat := s.beat, faults := [c.planFault Code.semOrder 0 0] }))))

/-! ## ROOM_FAULT and FAB_LATE (R143, R166, R438, R463) -/

/-- The task runs, and its position on this device has not faulted. -/
def State.canFault (s : State) (c : TaskCtx) (p : Nat) : Bool :=
  s.working && (c.r.state == .running || c.r.state == .faulted) && decide (p < c.rooms) && (s.roomOf c p).isSome
    && !c.r.faults.any (fun f => f.pos = p)

/-- Phase in which an rclk of a task lies (R171). -/
def State.phaseAt (s : State) (c : TaskCtx) (rclk : Nat) : Nat :=
  if c.t.halo && rclk < 16 + c.t.haloTime (s.haloStart c.j c.t) then 1 else 2

/-- The fault record of a poisoned input: its operand and buffer offset (R463). -/
def State.poisonFault (s : State) (c : TaskCtx) (p : Nat) (b : Nat × Nat × Nat) : TaskFault :=
  let o := c.t.inputs.getD b.2.1 c.t.in0
  let off := b.2.2 - (s.slotBuf c.i o.slot).1
  { pos := p, rec_ := c.record p Code.memUe 0 b.2.1 0 noIdx off, ladder := true }

/-- ROOM_FAULT (R166): the first failing access of a position, or parity, a failed issue check or a poisoned input. -/
def execRoomFault (inst task position : Nat) (cause : RoomFaultCause) (s : State) : Outcome :=
  .next (s.withTask inst task (fun c =>
    if !s.canFault c position then s
    else match cause with
      | .resource =>
        match ((s.bodyRun c).find? (fun p => p.pos = position)).bind (·.fault) with
        | some f => if f.ladder then s else s.noteFault c f
        | none => s
      | .parity rclk =>
        s.noteFault c { pos := position, ladder := true,
                        rec_ := c.record position Code.roomParity (s.phaseAt c rclk.toNat) 0 rclk.toNat noIdx 0 }
      | .issue rclk =>
        s.noteFault c { pos := position, ladder := true,
                        rec_ := c.record position Code.roomIssue (s.phaseAt c rclk.toNat) 0 rclk.toNat noIdx 0 }
      | .poison =>
        match c.r.bad.find? (fun b => b.1 = position) with
        | some b => s.noteFault c (s.poisonFault c position b)
        | none => s))

/-- FAB_LATE (R438, R439): a word or contribution of another device is missing at its write rclk. -/
def execFabLate (inst task position : Nat) (rclk : W32) (s : State) : Outcome :=
  .next (s.withTask inst task (fun c =>
    let missing :=
      if c.t.op = opCollective then
        (s.members c.j c.t).any (fun d => d != s.fab.addr && (s.contribution c [] position d).isNone)
      else c.t.halo && (List.range 4).any (fun sec =>
        match c.beside position (sideOf sec) with
        | some q => (s.roomOf c q).isNone && (s.haloFrames c position sec (c.t.sectionBytes sec)).isNone
        | none => false)
    if !s.canFault c position || !missing then s
    else s.noteFault c { pos := position, ladder := true,
                         rec_ := c.record position Code.fabLate (if c.t.halo then 1 else 2) oHalo rclk.toNat noIdx 0 }))

/-! ## TASK_BODY_END (R146, R166 to R168) -/

/-- Claims that each position of a TILED task makes in all (R164). -/
def TaskCtx.claimCount (c : TaskCtx) : Nat :=
  if !c.t.tiled then 0
  else ((c.t.loops.takeWhile (fun l => l.role != roleTile)).map (c.t.roomTrips c.rows)).foldl (· * ·) 1 * c.t.tileRounds

/-- A position of the attempt has faulted: it makes no further access (R166). -/
def TaskCtx.stopped (c : TaskCtx) (p : Nat) : Bool := c.r.faults.any (fun f => f.pos = p)

/-- Every claim of this device's positions that run on is answered (R168). -/
def State.claimed (s : State) (c : TaskCtx) : Bool :=
  !c.t.tiled || (match s.claimsOf c.n c.k with
    | some cl => (s.positions c).all (fun q => c.stopped q.1 || (cl.valuesOf q.1).length = c.claimCount)
    | none => false)

/-- The beat in which the body and the commit check end. -/
def State.bodyBeat (s : State) (c : TaskCtx) : Nat :=
  c.r.s + (24 + c.t.body (s.spanCost c.j c.t) c.m - 1) / 256

def roomCount (t : Tally) : RoomCount :=
  { conv := t.conv, clip := t.clip, fnFp32 := t.fnFp32, fnShort := t.fnShort, fed := t.fed, mac := t.mac, gated := t.gated }

/-- The Rooms of a task leave its body: stores, counters and the faults that the run met. -/
def State.endBody (s : State) (c : TaskCtx) (ps : List PosRun) : State :=
  let s := ps.foldl (fun s p => s.leaveBody c p) s
  let s := s.modTask c.n c.k (fun r => { r with counts := r.counts ++ ps.map (fun p => (p.room, roomCount p.tally)) })
  let late := ps.foldl (fun s p =>
    match p.fault with
    | some f => if c.r.faults.any (fun g => g.pos = f.pos) then s else s.noteFault c f
    | none => s) s
  c.r.bad.foldl (fun s b =>
    match s.taskCtx c.n c.k with
    | some d => if d.r.faults.any (fun g => g.pos = b.1) then s else s.noteFault d (s.poisonFault d b.1 b)
    | none => s) late

/-- Energy of an attempt that does not commit (R475). -/
def Inst.tallyOf (r : TaskRun) : Tally :=
  r.counts.foldl (fun t q =>
    t.add { sat := 0, conv := q.2.conv, clip := q.2.clip, fnFp32 := q.2.fnFp32, fnShort := q.2.fnShort, fed := q.2.fed,
            mac := q.2.mac, gated := q.2.gated }) Tally.zero

/-- A faulted task at its commit check: no Room starts write-back, and the others are IDLE again (R167, R168). -/
def State.discardTask (s : State) (n k : Nat) : State :=
  s.withTask n k (fun c =>
    let s := s.setRooms c .idle false
    let s := s.taskEnergy c (Inst.tallyOf c.r) (s.positions c).length false
    s.modTask n k (fun r => { r with state := .discarded, stage := [] }))

/-- The joint commit check passes: budgets are charged, results staged, and write-back begins (R147, R167). -/
def State.passCheck (s : State) (c : TaskCtx) (ps : List PosRun) : State :=
  let s := if s.charged c then
      s.modInst c.n (fun i => { i with declass := i.declass - s.chargeBytes c })
    else s
  let stage := ps.flatMap (s.writeBack c)
  let s := s.sendNear c ps
  let s := s.setRooms c .writeback true
  s.modTask c.n c.k (fun r => { r with state := .writeback, stage := stage })

/-- rclk, counted from beat 0, in which the commit check of a task ends. -/
def State.endRclk (s : State) (c : TaskCtx) : Nat := 256 * c.r.s + 24 + c.t.body (s.spanCost c.j c.t) c.m

/-- Another task charges the same budget in the same cycle and has the lower Room at its position 0: it goes first (R167). -/
def State.chargesFirst (s : State) (c : TaskCtx) : Bool :=
  s.charged c && (s.tasksOf c.i.job).any (fun d =>
    d.n = c.n && d.k != c.k && d.r.state == .running && s.charged d && s.endRclk d = s.endRclk c
      && decide (c.j.roomAt d.r.x d.r.y < c.j.roomAt c.r.x c.r.y))

/-- TASK_BODY_END (R167): the body ends in every Room, and the joint commit check decides. Of a footprint that spans devices, each
device checks its own Rooms: no rule gives a message that would join them (log entry 134). -/
def execTaskBodyEnd (inst task : Nat) (s : State) : Outcome :=
  .next (s.withTask inst task (fun c =>
    if !s.working || (c.r.state != .running && c.r.state != .faulted) || s.beat < s.bodyBeat c || !s.claimed c
        || s.chargesFirst c then s
    else
      let ps := s.bodyRun c
      let s := s.endBody c ps
      match s.taskCtx inst task with
      | none => s
      | some d =>
        if !d.r.faults.isEmpty then s.discardTask inst task
        else
          let fs := s.commitFaults d ++ (if s.badRelease d then [d.planFault Code.semOrder 3 3] else [])
          if fs.isEmpty then s.passCheck d ps
          else
            let s := (s.commitFaults d).foldl (fun s f => s.noteFault d f) s
            let s := if (s.commitFaults d).isEmpty then
                (s.log (d.entry Code.semOrder 0 0 0 0 0 0 [])).modTask inst task (fun r => { r with state := .faulted, fbeat := s.beat, faults := fs })
              else s
            s.discardTask inst task))

/-! ## TASK_COMMIT (R93, R145, R147, R243, R465, R494) -/

/-- A Room's part of a commit: IDLE, its cycle count, its statistics, and the QUALITY record of an event. -/
def State.commitRoom (s : State) (c : TaskCtx) (room : Nat) : State :=
  let mine := c.r.counts.filter (fun q => q.1 = room)
  let conv := (mine.map (·.2.conv)).sum
  let clip := (mine.map (·.2.clip)).sum
  let (r, share) := (s.room room).judge c.i.graph c.k conv clip
  let s := s.modRoom room (fun _ => { r with state := .idle, cycle := satNat 32 c.r.c })
  match share with
  | none => s
  | some w =>
    if c.j.qring = 0 then { s with track := { s.track with qdrop := satAdd s.track.qdrop 1 } }
    else s.postMeta c.j.qring
      (metaRec kindQuality c.i.heldRec true false c.i.job 0 0 (qualityBody c.i.graph c.k room w clip conv)) true

/-- The outcome of a ladder that this commit ends: a log entry, and the instance reports it (R463, R465, R467, R475). -/
def State.ladderOutcome (s : State) (c : TaskCtx) : State :=
  let phys := match c.r.once.getLast? with
    | some q => s.physOf q
    | none => 0
  let done (s : State) (code : W32) (unit index attempt : Nat) : State :=
    (s.log (c.entry code unit index attempt 0 c.r.recovery 0 [])).modInst c.n (fun i =>
      { i with recovered := i.recovered.orElse (fun _ => some code) })
  if c.r.attempt = 3 then done s Code.rcvSubstituted 1 phys 3
  else if c.r.attempt = 2 then
    c.r.once.foldl (fun s q => s.countRoom (s.physOf q)) (done s Code.rcvRetried 1 phys 2)
  else if c.r.poisoned then done s Code.rcvRetried 4 0 2
  else if c.r.late then done s Code.rcvRetried 1 0 2
  else s

/-- A task is over in its instance: entries return, a semaphore is released, the instance may end. -/
def State.closeTask (s : State) (c : TaskCtx) (st : TaskState) : State :=
  let s := s.modTask c.n c.k (fun r => { r with state := st, stage := [], faults := [], bad := [], fetched := [], counts := [] })
  let s := s.modPlan (fun p => { p with claims := p.claims.filter (fun x => x.inst != c.n || x.task != c.k) })
  let s := s.modFab (fun f => { f with inbox := f.inbox.filter (fun x => !c.framed x) })
  (s.returnEntries c.n).settle c.n

/-- TASK_COMMIT (R147): every write-back write is accepted and the beat e_t is open. A task that occupies no beat completes
so as well (R114, R159). -/
def execTaskCommit (inst task : Nat) (accepted : Bool) (s : State) : Outcome :=
  .next (s.withTask inst task (fun c =>
    if !s.working || c.i.state = .queued || c.i.state = .waiting || s.beat < c.r.e then s
    else if c.r.empty then
      if c.r.state = .planned && c.predsOver then s.closeTask c .committed else s
    else match s.nearArrived c with
      | none => s
      | some near =>
        if c.r.state != .writeback || !accepted then s
        else
          let sealed := s.isSealed c
          let s := (c.r.stage ++ near).foldl (fun s w => s.applyBack c.i.job sealed w) s
          let s := if sealed && c.t.out.space = 2 then s.modJob c.i.job (fun j => { j with atticSealed := true }) else s
          let s := (s.positions c).foldl (fun s q => s.commitRoom c q.2) s
          let s := s.taskEnergy c (Inst.tallyOf c.r) (s.positions c).length true
          let s := if c.t.semRel then s.modPlan (fun p => { p with sems := tdel p.sems c.t.sem }) else s
          (s.ladderOutcome c).closeTask c .committed))

/-! ## LADDER_STEP (R463 to R470) -/

/-- The task is dispatched again: from beat f + 1 + T_sub + L + G, all tasks of its Suite that have not started moving with it
(R466). -/
def State.redispatch (s : State) (c : TaskCtx) (sub : Nat) (f : TaskRun → TaskRun) : State :=
  let start := s.beat + sub + c.r.l + s.plan.guard.toNat
  let shift := start - c.r.s
  let s := s.recoveryShift c.i.job shift
  let s := s.setRooms c .idle true
  let s := s.modPlan (fun p => { p with claims := p.claims.filter (fun x => x.inst != c.n || x.task != c.k) })
  let s := s.modFab (fun x => { x with inbox := x.inbox.filter (fun g => !c.framed g) })
  (s.modTask c.n c.k (fun r =>
    f { r with s := start, e := start + r.d, state := .planned, faults := [], bad := [], fetched := [], counts := [], stage := [], sent := [],
               recovery := r.recovery + shift })).modInst c.n (fun i => { i with heldRec := true })

/-- The task ends without a commit, with the status of its fault (R93). -/
def State.failTask (s : State) (c : TaskCtx) (status : W32) : State :=
  let s := s.setRooms c .idle true
  let s := s.instFault c.n c.k status
  s.closeTask c .ended

/-- The step after a parity error or a failed issue check (R465). -/
def State.roomStep (s : State) (c : TaskCtx) (f : TaskFault) (room : Nat) : State :=
  let phys := s.physOf room
  let detect (s : State) (attempt action : Nat) : State :=
    s.log (c.entry f.rec_.status 1 phys attempt action 0 f.rec_.addr f.rec_.bytes)
  let attempt := max c.r.attempt 1
  if attempt = 3 then
    let s := detect s 3 0
    (s.log (c.entry Code.rcvFailed 1 phys 3 0 c.r.recovery 0 f.rec_.bytes)).failTask c Code.rcvFailed
  else if !c.r.once.contains room then
    (detect s attempt 1).redispatch c 0 (fun r => { r with attempt := 2, once := r.once ++ [room] })
  else
    let sub := s.subBeats room
    match s.substitute room with
    | some (t, lost) =>
      let t := detect t 2 2
      if lost then
        (t.modInst c.n (fun i => { i with lostStore := true })).failTask c Code.rcvStoreLost
      else t.redispatch c sub (fun r => { r with attempt := 3 })
    | none =>
      let s := detect s 2 3
      (s.log (c.entry Code.rcvNoSpare 1 phys 2 3 c.r.recovery 0 f.rec_.bytes)).loseRoom room

/-- The step after a poisoned input or a late word: one more attempt (R463). -/
def State.onceMore (s : State) (c : TaskCtx) (f : TaskFault) (room : Nat) (again : Bool) (mark : TaskRun → TaskRun) : State :=
  let phys := s.physOf room
  let detect := Code.withCls f.rec_.status 0
  let s := s.log (c.entry detect 1 phys (if again then 2 else 1) (if again then 0 else 1) 0 f.rec_.addr f.rec_.bytes)
  if again then
    (s.log (c.entry f.rec_.status 1 phys 2 0 c.r.recovery f.rec_.addr f.rec_.bytes)).failTask c f.rec_.status
  else s.redispatch c 0 mark

/-- The fault that the ladder takes up: a poisoned input is reported before a parity error of the same attempt (R469). -/
def State.ladderFault (s : State) (c : TaskCtx) : Option TaskFault :=
  (firstFault c.r.faults).map (fun f =>
    match c.r.bad with
    | b :: _ => if f.ladder then s.poisonFault c b.1 b else f
    | [] => f)

/-- The Room at which a task's ladder stands, while its step is due. -/
def State.ladderRoom (s : State) (c : TaskCtx) : Option Nat :=
  if c.r.state == .faulted || c.r.state == .discarded then
    (s.ladderFault c).bind (fun f => if f.ladder then s.roomOf c f.pos else none)
  else none

/-- A step that goes before a task's own: of an earlier fault beat, or at one boundary of a lower logical Room (R469). -/
def State.ladderBehind (s : State) (c : TaskCtx) (room : Nat) : Bool :=
  s.plan.insts.any (fun q => (List.range q.2.tasks.length).any (fun k =>
    (s.taskCtx q.1 k).any (fun d => (s.ladderRoom d).any (fun r =>
      decide (d.r.fbeat < c.r.fbeat) || (d.r.fbeat = c.r.fbeat && decide (r < room))))))

/-- LADDER_STEP (R465): at a boundary after the fault the Planner takes the next step; an overflow is acknowledged once the
footprint is past its commit check (R168, R170). -/
def execLadderStep (inst task : Nat) (s : State) : Outcome :=
  .next (s.withTask inst task (fun c =>
    match s.ladderFault c with
    | none => s
    | some f =>
      if !s.working || (c.r.state != .faulted && c.r.state != .discarded) || s.beat ≤ c.r.fbeat then s
      else if !f.ladder then
        if c.r.state = .discarded then s.failTask c f.rec_.status else s
      else if (s.roomOf c f.pos).any (s.ladderBehind c) then s
      else
        let s := if c.r.state = .faulted then (s.endBody c (s.bodyRun c)).discardTask inst task else s
        match s.roomOf c f.pos with
        | none => s
        | some room =>
          if c.i.state = .ending then
            ((s.log (c.entry (Code.withCls f.rec_.status 0) 1 (s.physOf room) (max c.r.attempt 1) 0 0 f.rec_.addr
              f.rec_.bytes)).setRooms c .idle true).closeTask c .ended
          else if f.rec_.status = Code.memUe then
            s.onceMore c f room c.r.poisoned (fun r => { r with poisoned := true })
          else if f.rec_.status = Code.fabLate then s.onceMore c f room c.r.late (fun r => { r with late := true })
          else s.roomStep c f room))

/-! ## Tile claims (R123 to R126, R164) -/

/-- A position of the task still claims: the task runs, and the position has not faulted (R166, R168). -/
def TaskCtx.claims (c : TaskCtx) (p : Nat) : Bool :=
  (c.r.state == .running || c.r.state == .faulted) && decide (p < c.rooms) && !c.stopped p

/-- A claim out of sequence faults the task (R124). -/
def State.claimFault (s : State) (c : TaskCtx) (p : Nat) : State :=
  let s := if c.r.faults.isEmpty then s.modTask c.n c.k (fun r => { r with fbeat := s.beat }) else s
  let s := s.log (c.entry Code.ctrSequence 0 0 0 0 0 0 [])
  s.modTask c.n c.k (fun r =>
    { r with state := .faulted, faults := r.faults ++ [{ c.planFault Code.ctrSequence 2 oTile with pos := p }] })

/-- A repeated claim is answered, from the stored value; it takes no place in a round (R124, R125). -/
def State.answerTwice (s : State) (n k p : Nat) (v : W32) : State :=
  s.modClaims n k (fun x => { x with twice := x.twice ++ [(p, v)] })

/-- TILE_CLAIM (R124): a claim joins its round, a repeated one is answered from the stored value, any other q faults. The value stored
at dispatch, beside q = 0xFFFF_FFFF, is not stated: a claim with that q receives a free value (log entry 132). -/
def execTileClaim (inst task position : Nat) (q : W32) (s : State) : Outcome :=
  .next (s.withTask inst task (fun c =>
    match s.claimsOf inst task with
    | none => s
    | some cl =>
      let last := (tget cl.served position).map (·.1) |>.getD 0xFFFFFFFF
      if !s.working || !c.claims position then s
      else if thas cl.arrived position then s
      else if q = last + 1 then
        s.modClaims inst task (fun x => { x with arrived := tset x.arrived position q })
      else if q = last then
        match tget cl.served position with
        | some (_, v) => s.answerTwice inst task position v
        | none =>
          let (s, v) := s.draw
          s.answerTwice inst task position (v.setWidth 32)
      else s.claimFault c position))

/-- Values answered in one round: ascending position, the counter advancing and staying at its top (R123, R124). -/
def serveRound : W32 → List (Nat × W32) → List (Nat × W32 × W32) × W32
  | ctr, [] => ([], ctr)
  | ctr, (p, q) :: r =>
    let next := serveRound (satAdd ctr 1) r
    ((p, q, ctr) :: next.1, next.2)

/-- A round is answered: its values are stored, and its tiles' bits set, in an empty bitmap where it begins an entry (R124, R126,
R164). -/
def Claims.serve (t : Task) (vals : List (Nat × W32 × W32)) (x : Claims) : Claims :=
  let x := { x with arrived := [], answered := x.answered ++ vals.map (fun v => (v.1, v.2.2)),
                    served := vals.foldl (fun t v => tset t v.1 v.2) x.served, rounds := x.rounds + 1,
                    bits := if x.rounds % max t.tileRounds 1 = 0 then [] else x.bits }
  vals.foldl (fun x v => (x.stage (t.trips roleTile) (t.tileIndex (x.rounds - 1) v.2.2)).1) x

/-- CLAIM_ROUND_SERVE (R124): the claims of all positions have arrived; they are served in ascending position. A position that has
faulted claims no more, and the round does not wait for it (the rules leave it open: DESIGN CHOICE, log entry 132). -/
def execClaimRoundServe (inst task : Nat) (s : State) : Outcome :=
  .next (s.withTask inst task (fun c =>
    match s.claimsOf inst task with
    | none => s
    | some cl =>
      if !s.working || cl.arrived.isEmpty || !(List.range c.rooms).all (fun p => thas cl.arrived p || !c.claims p) then s
      else
        let (vals, ctr) := serveRound (tgetD c.j.ctrs c.t.counter 0) cl.arrived
        let s := s.modJob c.i.job (fun j => { j with ctrs := tset j.ctrs c.t.counter ctr })
        s.modClaims inst task (Claims.serve c.t vals)))

/-- TILE_CLAIM_RESEND (R125): the Room repeats its last claim with the same q; once answered, it receives the stored value. Whether
the Room then stages the tile a second time is a free value; a second staging of a tile whose bit is set is discarded and counted
(R126; log entry 28). -/
def execTileClaimResend (inst task position : Nat) (s : State) : Outcome :=
  .next (s.withTask inst task (fun c =>
    match s.claimsOf inst task with
    | none => s
    | some cl =>
      if !s.working || !c.claims position || thas cl.arrived position then s
      else match tget cl.served position with
        | none => s
        | some (q, v) =>
          let (s, w) := (s.answerTwice inst task position v).draw
          let r := cl.stage (c.t.trips roleTile) (c.t.tileIndex q.toNat v)
          if w.getLsbD 0 && r.2 then s.modPlan (fun p => { p with dupTile := satAdd p.dupTile 1 }) else s))

/-! ## Semaphores, the Attic, rate retirement -/

/-- SEM_HOLD_LIMIT (R95, R128): a hold longer than the limit faults the holder, which the log takes, and frees the semaphore. -/
def execSemHoldLimit (sem : BitVec 8) (s : State) : Outcome :=
  .next (
    match tget s.plan.sems sem.toNat with
    | none => s
    | some h =>
      if !s.working || !s.passed h.at_ (s.plan.semLimit.toNat * ticksPerUs + 1) then s
      else
        let s := s.modPlan (fun p => { p with sems := tdel p.sems sem.toNat })
        let s := match s.taskCtx h.inst h.task with
          | some c => s.log (c.entry Code.semHoldLimit 0 0 0 0 0 0 [])
          | none => s
        s.instFault h.inst h.task Code.semHoldLimit)

/-- Slices of the Attic (R38). -/
def atticSlices : Nat := 8

/-- The bytes [a, a + n) of the Attic touch a slice: addresses interleave over the slices at 256 B (R38). -/
def touchesSlice (slice a n : Nat) : Bool :=
  n != 0 && (List.range (min atticSlices ((a + n - 1) / 256 - a / 256 + 1))).any (fun k => (a / 256 + k) % atticSlices = slice)

/-- A task reads a slice of the Attic: an Attic operand of a position on this device lies there. -/
def State.readsSlice (s : State) (c : TaskCtx) (slice : Nat) : Bool :=
  (s.positions c).any (fun q => (List.range 3).any (fun x =>
    let o := c.t.input x
    o.space = 2 && touchesSlice slice (c.j.atticAt * 65536 + c.t.operandAt x q.1) o.bytes))

/-- The first task of an instance whose fetch reads a slice. -/
def State.atticReader (s : State) (n slice : Nat) : Option TaskCtx :=
  match s.inst n with
  | none => none
  | some i => ((List.range i.tasks.length).filterMap (s.taskCtx n)).find? (fun c =>
      (c.r.state == .prefetch || c.r.state == .running) && s.readsSlice c slice)

/-- ATTIC_PARITY (R38, R463): the first read of the slice is repeated; a second parity error ends the instance with SRAM_PARITY. Where
no task of the instance reads the slice nothing happens. -/
def execAtticParity (slice : BitVec 3) (inst : Nat) (again : Bool) (s : State) : Outcome :=
  .next (
    match s.atticReader inst slice.toNat with
    | none => s
    | some c =>
      if !s.working then s
      else
        let e (status : W32) (attempt action : Nat) : LogEntry := c.entry status 5 slice.toNat attempt action 0 0 []
        let s := s.log (e (Code.withCls Code.sramParity 0) 1 1)
        if again then
          let s := s.log (e Code.sramParity 2 0)
          let s := { s with ras := { s.ras with rows := s.ras.rows ++ [(5, slice.toNat)] } }
          if c.r.state == .prefetch then (s.instFault c.n c.k Code.sramParity).closeTask c .ended
          else s.failTask c Code.sramParity
        else
          let s := s.log (e Code.rcvRetried 2 0)
          let s := { s with ras := { s.ras with cntAttic := tup s.ras.cntAttic slice.toNat 0 (· + 1) } }
          s.modInst inst (fun i =>
            { i with recovered := i.recovered.orElse (fun _ => some Code.rcvRetried), heldRec := true }))

/-- A count has reached RAS_CTL.rate_limit, which is not 0 (R472). -/
def State.atLimit (s : State) (n : Nat) : Bool := s.ras.rateLimit != 0 && decide (s.ras.rateLimit.toNat ≤ n)

/-- A running instance of a job whose Room store was not copied whole (R468). -/
def Inst.loseStore (i : Inst) (job : Nat) : Inst :=
  if i.job = job && i.state == .running then { i with lostStore := true } else i

/-- A Room is retired at its idle point as if the error had been LASTING (R472). -/
def State.retireRoom (s : State) (room : Nat) : State :=
  let phys := s.physOf room
  if !s.atLimit (tgetD s.ras.cntRoom phys 0) || (s.room room).state != .idle || s.glb.grid.lost.contains room
      || s.glb.grid.phys.length ≤ room then s
  else
    let sub := s.subBeats room
    let owner := s.plan.jobs.find? (fun p => p.2.holdsRoom room && (!p.2.onDemand || p.2.holds) && !p.2.frozen)
    let entry (beats action : Nat) (code : W32) : LogEntry :=
      { status := code, unit := 1, index := phys, action := action, beats := beats,
        job := (owner.map (·.1)).getD 0xFF }
    let s := { s with ras := { s.ras with cntRoom := tdel s.ras.cntRoom phys } }
    match s.substitute room with
    | some (t, lost) =>
      let t := match owner with
        | some (j, _) =>
          let t := t.recoveryShift j sub
          if lost then
            t.modPlan (fun p => { p with insts := p.insts.map (fun (q : Nat × Inst) => (q.1, q.2.loseStore j)) })
          else t
        | none => t
      t.log (entry (if owner.isSome then sub else 0) 2 Code.rcvRetiredRate)
    | none =>
      let s := s.log (entry 0 3 Code.rcvRetiredRate)
      (s.log (entry 0 3 Code.rcvNoSpare)).loseRoom room

end Sys2Proof.Machine
end

