-- ==== Sys2Proof/Machine/Planner.lean ====
section
/-!
DEFINITION. Graphs, jobs, admission and the timetable (R93 to R122), and the PLAN registers that a read changes (R129, R270).
-/
namespace Sys2Proof.Machine

/-! ## GRAPH_LOAD and GRAPH_UNLOAD (R105 to R108) -/

/-- A job is open and not closing. -/
def State.jobOpen (s : State) (n : Nat) : Bool :=
  match s.job n with
  | some j => j.closing.isNone
  | none => false

/-- A job is open for a packet: not closing, or the packet was dispatched before the JOB_CLOSE (R100). -/
def State.jobOpenFor (s : State) (n op : Nat) : Bool :=
  match s.job n with
  | some j => j.closing.all (fun c => decide (op < c.2))
  | none => false

/-- Bytes of loaded graphs in the 1 GiB graph store. -/
def Plan.stored (p : Plan) : Nat := (p.graphs.map (·.2.size)).sum
def graphStore : Nat := 2 ^ 30

/-- Checks 3 to 9 of R106 on an image that has been read. -/
def State.imageChecks (s : State) (job : Nat) (j : Job) (size : Nat) (b : List Byte) : List (Bool × W32) :=
  let g := parseGraph job b
  let dims := g.dims
  let tasks := imageTasks b
  let (w, h) := s.suiteSize j
  [ (headerOk b size, Code.graphFormat),
    (imageCrcOk b, Code.graphCrc),
    (limitsOk b, Code.graphLimit),
    (((List.range tasks.length).zip tasks).all (fun p => taskOk dims (s.glb.dev == .maintenance) p.1 p.2) && g.tilesOk,
      Code.graphOp),
    (dependOk b, Code.graphDepend),
    (g.fits w h, Code.graphFootprint),
    (g.cyclesOk (s.spanCost j), Code.graphCycles) ]

/-- GRAPH_LOAD (R105, R106): a failing check completes with its code and leaves no trace. -/
def execGraphLoad (ring : RingId) (s : State) : Outcome :=
  let r := ring.toNat
  .next (s.withOp (.ring ring) 0x30 (fun o s =>
    let b := o.bytes
    let n := rd b 16 2
    let jn := rd b 18 1
    let size := rd b 20 4
    let addr := rd b 24 8
    match [ (decide (rd b 19 1 ≤ 1 ∧ addr % 64 = 0), Code.graphParam), (decide (n < 4096), Code.graphId),
            (!thas s.plan.graphs n, Code.graphId), (s.jobOpenFor jn o.id, Code.jobNotOpen),
            (decide (s.plan.stored + size ≤ graphStore), Code.graphNoSpace),
            (decide (64 ≤ size ∧ size % 64 = 0), Code.graphFormat) ].find? (fun c => !c.1) with
    | some c => s.finish r o.id c.2
    | none =>
      let hbm := decide (rd b 19 1 = 1)
      if hbm && s.windowPoisoned addr size then s.finish r o.id Code.memUe
      else s.withPayload r o hbm addr size (fun d s =>
        match s.job jn with
        | none => s.finish r o.id Code.jobNotOpen
        | some j =>
          s.checked r o (s.imageChecks jn j size d)
            (fun s => s.modPlan (fun p => { p with graphs := tset p.graphs n (parseGraph jn d) })))))

/-- GRAPH_UNLOAD (R108). -/
def execGraphUnload (ring : RingId) (s : State) : Outcome :=
  let r := ring.toNat
  .next (s.withOp (.ring ring) 0x31 (fun o s =>
    let n := rd o.bytes 16 2
    let j := rd o.bytes 18 1
    s.checked r o
      [ (s.jobOpenFor j o.id, Code.jobNotOpen),
        ((s.graph n).any (fun g => g.job = j), Code.graphId),
        (!s.plan.insts.any (fun p => p.2.graph = n), Code.graphBusy) ]
      (fun s => s.modPlan (fun p => { p with graphs := tdel p.graphs n }))))

/-! ## GRAPH_RUN (R108, R115, R116, R191, R284) -/

/-- A slot's buffer is valid and long enough (R108). -/
def State.boundOk (s : State) (h : W64) (least : Nat) : Bool :=
  match s.bufOf h with
  | some (_, len) => (h = 0 || (s.larder.current h && (s.larder.entry (handleIndex h)).alloc)) && decide (least ≤ len)
  | none => false

def State.bindingOk (s : State) (g : Graph) (hs : List W64) : Bool :=
  (g.slots.zip hs).all (fun p => s.boundOk p.2 p.1.1)

/-- A window op of the graph reads a layout other than PLANAR (R191). -/
def Graph.layouts (g : Graph) : Bool := g.tasks.any (fun t => t.isWin && t.win.layout != 0)

/-- Takes one reference per handle through the Planner's port; where one fails, those taken drop again. -/
def State.takeRefs (s : State) (port : Nat) : List W64 → State × Bool
  | [] => (s, true)
  | h :: r =>
    match s.takeRef port h with
    | (t, c) =>
      if c != Code.ok then (t, false)
      else match t.takeRefs port r with
        | (t, true) => (t, true)
        | (t, false) => (t.dropRef port h, false)

/-- The checks that a run of a graph passes before it is QUEUED (R108, R191). -/
def State.runChecks (s : State) (open_ : Bool) (job graph ndims nslots : Nat) (hs : List W64) : List (Bool × W32) :=
  let g := s.graph graph
  [ (open_, Code.jobNotOpen),
    (g.any (fun g => g.job = job), Code.graphId),
    (g.any (fun g => g.dims.length = ndims && g.slots.length = nslots), Code.admDims),
    (g.any (fun g => !g.layouts || s.glb.dev == .maintenance), Code.graphOp),
    (g.any (fun g => s.bindingOk g hs), Code.admBinding) ]

/-- The place of a new instance in dispatch order (R93): that of its packet, or of the packet to be dispatched next. -/
def State.dispatchOrder (s : State) (who : Submitter) : Nat :=
  match who with
  | .packet _ op => 2 * op + 1
  | _ => 2 * s.ring.nextOp

/-- A new instance enters QUEUED (R93). -/
def State.newInst (s : State) (who : Submitter) (job graph : Nat) (v : List Nat) (hs : List W64) (declass : Nat) : State :=
  match s.job job with
  | none => s
  | some j =>
    let i : Inst :=
      { who := who, job := job, graph := graph, cls := j.prio, v := v, handles := hs, state := .queued, run := j.runs,
        b := [], once := false, b0 := 0, guard := 0, k := 0, tasks := [], order := s.dispatchOrder who, slips := 0,
        fault := none, recovered := none, lostStore := j.storeLost, heldRec := false, declass := declass, energy := 0 }
    let s := s.modPlan (fun p =>
      { p with insts := tset p.insts p.nextInst i, nextInst := p.nextInst + 1 })
    s.modJob job (fun j => { j with runs := j.runs + 1, storeLost := false })

/-- The run-time values of a packet. -/
def valuesAt (b : List Byte) (off : Nat) : List Nat := (List.range 8).map (fun k => rd b (off + 4 * k) 4)

/-- GRAPH_RUN (R108, R115): an accepted run becomes a QUEUED instance; its record waits for the instance. -/
def execGraphRun (ring : RingId) (s : State) : Outcome :=
  let r := ring.toNat
  .next (s.withOp (.ring ring) 0x32 (fun o s =>
    let b := o.bytes
    let n := rd b 16 2
    let jn := rd b 18 1
    let nd := rd b 19 1
    let ns := rd b 20 2
    let v := valuesAt b 24
    let hs := handlesAt b 64 ns
    if (v.drop nd).any (· != 0) then s.finish r o.id Code.pktReserved
    else match (s.runChecks (s.jobOpenFor jn o.id) jn n nd ns hs).find? (fun c => !c.1) with
      | some c => s.finish r o.id c.2
      | none =>
        match s.takeRefs 27 hs with
        | (t, false) => t.finish r o.id Code.admBinding
        | (t, true) => (t.beginOp r o.id).newInst (.packet r o.id) jn n v hs 0))

/-! ## JOB_OPEN (R96 to R99, R266, R470) -/

def Rect.meets (a b : Rect) : Bool :=
  decide (a.x < b.x + b.w ∧ b.x < a.x + a.w ∧ a.y < b.y + b.h ∧ b.y < a.y + a.h)

def Job.rect (j : Job) : Rect := { x := j.x, y := j.y, w := j.w, h := j.h }
def Rect.room (r : Rect) (n : Nat) : Bool :=
  decide (r.x ≤ n % 8 ∧ n % 8 < r.x + r.w ∧ r.y ≤ n / 8 ∧ n / 8 < r.y + r.h)

/-- BULK jobs may lie under an ON_DEMAND rectangle (R37, R97). -/
def Job.bulk (j : Job) : Bool := j.prio = 4

/-- The rule of R97 between a new rectangle and an open job. -/
def rectAllowed (onDemand bulk : Bool) (r : Rect) (j : Job) : Bool :=
  !r.meets j.rect || (onDemand && !j.onDemand && j.bulk) || (!onDemand && bulk && j.onDemand)

/-- A rectangle satisfies R97 and avoids every lost position (R470). -/
def State.rectOk (s : State) (onDemand bulk : Bool) (r : Rect) : Bool :=
  s.plan.jobs.all (fun p => rectAllowed onDemand bulk r p.2) && !s.glb.grid.lost.any r.room

/-- The rectangle of a JOB_OPEN: as given, or the first that fits (R98). -/
def State.placeJob (s : State) (onDemand bulk : Bool) (w h ox oy : Nat) : Option Rect :=
  if ox = 255 then
    ((List.range (s.part.rows + 1 - h)).flatMap (fun y => (List.range (9 - w)).map (fun x =>
      { x := x, y := y, w := w, h := h : Rect }))).find? (s.rectOk onDemand bulk)
  else
    let r : Rect := { x := ox, y := oy, w := w, h := h }
    if s.rectOk onDemand bulk r then some r else none

/-- Units of the Attic in all: 32 MiB in 64 KiB. -/
def atticUnits : Nat := 512

/-- First unit of a contiguous Attic grant (R38; first fit: log entry 29). -/
def State.placeAttic (s : State) (n : Nat) : Option Nat :=
  findNat (fun u => decide (u + n ≤ atticUnits)
    && s.plan.jobs.all (fun p => apart u n p.2.atticAt p.2.attic)) (atticUnits + 1) 0

/-- KiB that the save region of a BULK job reserves per Room (R266). -/
def saveKib : Nat := 1048

/-- KiB of the save region that no job has reserved. -/
def State.saveFree (s : State) : Nat :=
  (match s.glb.layout with
    | some l => l.save * 1024
    | none => 0) - (s.plan.jobs.map (·.2.save)).sum

/-- The parameters of JOB_OPEN are legal (R96, R97; log entry 30). -/
def State.jobModeOk (s : State) (b : List Byte) : Bool :=
  let w := rd b 19 1
  let h := rd b 20 1
  let ox := rd b 21 1
  let oy := rd b 22 1
  let span := rd32 b 28
  let spanOk := span = 0 || (match tget s.fab.spans span.toNat with
    | some p => p.w = w && p.h = h
    | none => false)
  rd b 17 1 ≤ 1 && rd b 18 1 ≤ 4 && inRange 1 8 w && inRange 1 s.part.rows h && ((ox = 255) == (oy = 255))
    && (ox = 255 || (ox + w ≤ 8 && oy + h ≤ s.part.rows)) && (rd b 18 1 != 4 || rd b 17 1 = 0) && rd b 24 2 ≤ 512
    && spanOk

/-- A job takes a Room: it owns it, and the live extent starts anew (R154). -/
def State.takeRoom (s : State) (job room : Nat) : State :=
  s.modRoom room (fun r => { r with job := BitVec.ofNat 6 job, live := 0 })

/-- ON_DEMAND jobs that hold Rooms of a rectangle. -/
def State.holders (s : State) (r : Rect) : List (Nat × Job) := s.plan.jobs.filter (fun p => p.2.holds && r.meets p.2.rect)

/-- The job that a JOB_OPEN packet describes (R96, R99, R266). One under an ON_DEMAND job that holds its Rooms begins switched
out. -/
def State.newJob (s : State) (b : List Byte) (r : Rect) (attic : Nat) : Job :=
  let rooms := (List.range r.h).flatMap (fun y => (List.range r.w).map (fun x => 8 * (r.y + y) + r.x + x))
  { onDemand := rd b 17 1 = 1, prio := rd b 18 1, x := r.x, y := r.y, w := r.w, h := r.h, atticAt := attic,
    attic := rd b 24 2, atticMem := [], atticSealed := false, span := rd32 b 28, ctrs := [], runs := 0, closing := none,
    holds := false, pre := (s.holders r).map (fun p =>
      { by_ := p.1, phase := .out, at_ := s.beat, rooms := rooms.filter p.2.holdsRoom }),
    cut := none, waiters := [], suspended := false, save := if rd b 18 1 = 4 then saveKib * (r.w * r.h) else 0, saved := [],
    lives := [], storeLost := false, withdrawn := [], policy := none, newPolicy := none, step := none, dict := none, qring := 0 }

/-- A job is opened on a rectangle (R96, R99); an ON_DEMAND job takes its Rooms later (R262). -/
def State.openJob (s : State) (n : Nat) (b : List Byte) (r : Rect) (attic : Nat) : State :=
  let j := s.newJob b r attic
  let held := s.holders r
  let s := ((s.modPlan (fun p => { p with jobs := tset p.jobs n j })).powerUp []).modPwr (fun w => { w with eJob := tdel w.eJob n })
  if j.onDemand then s
  else j.roomList.foldl (fun s q => if held.any (fun p => p.2.holdsRoom q) then s else s.takeRoom n q) s

/-- JOB_OPEN (R96 to R99, R266). Where several checks fail, the first of JOB_ID, JOB_MODE, JOB_NO_SUITE (the save region of R266
with it) and JOB_NO_ATTIC is given (the rules give no order: DESIGN CHOICE, log entry 127). -/
def execJobOpen (ring : RingId) (s : State) : Outcome :=
  let r := ring.toNat
  .next (s.withOp (.ring ring) 0x33 (fun o s =>
    let b := o.bytes
    let n := rd b 16 1
    let od := decide (rd b 17 1 = 1)
    let bulk := decide (rd b 18 1 = 4)
    let size := rd b 19 1 * rd b 20 1
    if 63 < n || thas s.plan.jobs n then s.finish r o.id Code.jobId
    else if !s.jobModeOk b then s.finish r o.id Code.jobMode
    else match s.placeJob od bulk (rd b 19 1) (rd b 20 1) (rd b 21 1) (rd b 22 1) with
      | none => s.finish r o.id Code.jobNoSuite
      | some q =>
        if bulk && s.saveFree < saveKib * size then s.finish r o.id Code.jobNoSuite
        else match s.placeAttic (rd b 24 2) with
          | none => s.finish r o.id Code.jobNoAttic
          | some u => (s.openJob n b q u).finish r o.id Code.ok))

/-! ## Admission (R93, R94, R113 to R115, R117 to R120) -/

/-- The order in which instances are taken: class, then dispatch. -/
def Inst.before (a b : Inst) : Bool := decide (a.cls < b.cls) || (a.cls = b.cls && decide (a.order < b.order))

/-- The first of a list of instances in that order. -/
def firstInst : List (Nat × Inst) → Option (Nat × Inst)
  | [] => none
  | p :: r =>
    match firstInst r with
    | none => some p
    | some q => some (if q.2.before p.2 then q else p)

/-- An instance of a frozen or suspended job stays as it is (R262, R268), but for one that the agreed cut of a spanning job lets
start tasks (R264). -/
def State.stays (s : State) (i : Inst) : Bool :=
  (s.job i.job).any (fun j => j.frozen && !(j.onlyFrozen && j.cut.any (fun top => decide (0 < tgetD top i.run 0))))

/-- Instances in a state. -/
def State.inOrder (s : State) (st : InstState) : List (Nat × Inst) := s.plan.insts.filter (fun p => p.2.state == st)

/-- The next instance to be admitted: the first in the order of R93, unless it stays, or a WAITING one of a higher or equal class
is before it. -/
def State.nextQueued (s : State) : Option (Nat × Inst) :=
  match firstInst ((s.inOrder .queued).filter (fun p => !s.plan.admits.any (fun a => a.inst = p.1))) with
  | none => none
  | some p =>
    if s.stays p.2 || (s.inOrder .waiting).any (fun q => decide (q.2.cls ≤ p.2.cls))
        || s.plan.admits.any (fun a => (s.inst a.inst).any (fun i => decide (i.cls ≤ p.2.cls))) then none
    else some p

/-- Bucket index for a value: the smallest bucket that holds it (R113). -/
def bucketOf (buckets : List Nat) (v : Nat) : Option Nat := buckets.findIdx? (fun x => decide (v ≤ x))

/-- The first dimension whose value exceeds its buckets (R115). -/
def Graph.refused (g : Graph) (v : List Nat) : Option Nat :=
  (List.range g.dims.length).find? (fun d => (bucketOf (g.dims.getD d []) (v.getD d 0)).isNone)

/-- Occupancy of a job's admitted instances. -/
def State.placedOf (s : State) (job : Nat) : List Placed :=
  s.plan.insts.flatMap (fun p =>
    if p.2.job != job then []
    else match s.graph p.2.graph with
      | none => []
      | some g => (p.2.tasks.zip g.tasks).filterMap (fun q =>
        if q.1.over || q.1.empty then none
        else some { rect := { x := q.1.x, y := q.1.y, w := q.2.fpW, h := q.2.fpH }, s := q.1.s, e := q.1.e,
                    opens := p.2.opens q.1, counter := if q.2.tiled then some q.2.counter else none }))

/-- Begins the admission of an instance (R94): bucket choice, then chunks of 1,024 tasks. G and the occupancy are those of this
moment, so a suspension changes nothing of the timetable; a write of PLAN_GUARD governs the admissions that begin after it (R129
says: instances planned after the write; DESIGN CHOICE for one whose planning is under way, log entry 130). -/
def State.beginAdmit (s : State) (n : Nat) (i : Inst) : State :=
  match s.graph i.graph with
  | none => s
  | some g =>
    let b := (List.range g.dims.length).map (fun d => (bucketOf (g.dims.getD d []) (i.v.getD d 0)).getD 0)
    (s.modInst n (fun i => { i with b := b, once := s.glb.vcomb })).modPlan (fun p =>
      { p with admits :=
        { inst := n, done := 0, began := s.beat, guard := s.plan.guard.toNat, occ := s.placedOf i.job, paused := 0 } :: p.admits })

/-- ADMISSION (R94): the next QUEUED instance is taken up, or the next chunk of the one in planning is done. Between chunks an
instance of a higher class goes first. -/
def execAdmission (s : State) : Outcome :=
  .next (
    if !s.working then s
    else match s.plan.admits with
      | [] =>
        match s.nextQueued with
        | some (n, i) => s.beginAdmit n i
        | none => s
      | a :: rest =>
        match s.nextQueued with
        | some (n, i) => s.beginAdmit n i
        | none => s.modPlan (fun p => { p with admits := { a with done := a.done + 1 } :: rest }))

/-! ### The timetable (R117, R118) -/

/-- Entries of a Room's queue at the fullest beat of a window (R118). -/
def depthIn (occ : List Placed) (x y lo hi : Nat) : Nat :=
  let here := occ.filter (fun p => p.rect.meets { x := x, y := y, w := 1, h := 1 } && decide (p.opens ≤ hi ∧ lo ≤ p.e))
  (lo :: here.map (fun p => max lo p.opens)).foldl (fun m b =>
    max m (here.filter (fun p => decide (p.opens ≤ b ∧ b ≤ p.e))).length) 0

/-- A rectangle is free for a task (R117, R118). -/
def freeFor (occ : List Placed) (n : Placed) : Bool :=
  occ.all (fun p => !(decide (p.s ≤ n.e ∧ n.s ≤ p.e) && (p.rect.meets n.rect || (n.counter.isSome && n.counter == p.counter))))
    && (List.range n.rect.h).all (fun dy => (List.range n.rect.w).all (fun dx =>
      decide (depthIn occ (n.rect.x + dx) (n.rect.y + dy) n.s n.e < 64)))

/-- The earliest place at or after a beat: lowest beat, then lowest row, then lowest column (R117). -/
def placeTask (occ : List Placed) (w h : Nat) (t : Task) (d l guard ready : Nat) : Placed :=
  let cand (s : Nat) : Option Placed :=
    ((List.range (h + 1 - t.fpH)).flatMap (fun y => (List.range (w + 1 - t.fpW)).map (fun x =>
      ({ rect := { x := x, y := y, w := t.fpW, h := t.fpH }, s := s, e := s + d, opens := s - l - guard,
         counter := if t.tiled then some t.counter else none } : Placed)))).find? (freeFor occ)
  let last := (occ.map (·.e)).foldl max ready + l + guard + 1
  match findNat (fun s => (cand s).isSome) (last + 1 - ready) ready with
  | some s => (cand s).getD { rect := { x := 0, y := 0, w := t.fpW, h := t.fpH }, s := s, e := s + d, opens := 0, counter := none }
  | none => { rect := { x := 0, y := 0, w := t.fpW, h := t.fpH }, s := last, e := last + d, opens := last - l - guard,
              counter := none }

/-- Chosen cycle count of a task: 0 where v_d = 0 (R113, R114, R159). -/
def Inst.cyclesOf (i : Inst) (t : Task) : Nat :=
  match t.dim with
  | some d => if i.v.getD d 0 = 0 then 0 else t.cycles.getD (i.b.getD d 0) 0
  | none => t.cycles.getD 0 0

/-- Prefetch beats L_t. -/
def Task.landBeats (t : Task) : Nat :=
  ceilDiv ((t.inputs.map (fun o => if o.space = 1 || o.space = 2 then o.bytes else 0)).sum) 16384

/-- The timetable of an instance from its first beat, in task order, against an occupancy (R117). -/
def timetable (guard : Nat) (occ : List Placed) (i : Inst) (g : Graph) (w h b0 : Nat) : List TaskRun :=
  (g.tasks.foldl (fun (q : List TaskRun × List Placed) t =>
    let c := i.cyclesOf t
    let d := ceilDiv c 256
    let l := t.landBeats
    let deps := (g.deps.drop t.predFirst).take t.npred
    let eOf (p : Nat) : Nat := ((q.1[p]?).map (·.e)).getD 0
    let mk (s e x y : Nat) : TaskRun :=
      { c := c, d := d, l := l, s := s, e := e, x := x, y := y, state := .planned, attempt := 1, once := [],
        poisoned := false, late := false, bad := [], fetched := [], faults := [], fbeat := 0, recovery := 0, sent := [], stage := [],
        counts := [] }
    if d = 0 then
      let s := (deps.map (fun p => eOf p.1 + 1)).foldl max b0
      (q.1 ++ [mk s s 0 0], q.2)
    else
      let ready := (deps.map (fun p => eOf p.1 + 1 + if p.2 = 0 then l + guard else 0)).foldl max (b0 + l + guard)
      let n := placeTask q.2 w h t d l guard ready
      (q.1 ++ [mk n.s n.e n.rect.x n.rect.y], q.2 ++ [n])) ([], occ)).1

/-- A refusal is latched in PLAN_REFUSE (R115, R129). -/
def Plan.refuse (p : Plan) (job dim v : Nat) (code : W32) : Plan :=
  if p.refValid then p
  else { p with refValid := true, refJob := BitVec.ofNat 6 job, refDim := BitVec.ofNat 3 dim, refCode := Code.low code,
                refPend := BitVec.ofNat 32 v }

/-- The admission below one that is over goes on: it was suspended for that long (R94). -/
def resumeAdmits (beats : Nat) : List Admit → List Admit
  | [] => []
  | a :: r => { a with paused := a.paused + beats } :: r

/-- ADMISSION_COMPLETE (R93, R94, R115, R470): the instance is refused, or its timetable is made and it WAITS for entries. The
timetable is the one that an admission without a suspension gives; what the suspension lasted moves it later with the wait for
entries (R120). -/
def execAdmissionComplete (s : State) : Outcome :=
  .next (
    match s.plan.admits with
    | [] => s
    | a :: rest =>
      match s.inst a.inst with
      | none => s.modPlan (fun p => { p with admits := rest })
      | some i =>
        match s.job i.job, s.graph i.graph with
        | some j, some g =>
          if !s.working then s
          else match g.refused i.v with
            | some d =>
              (s.modPlan (fun p => { p with admits := resumeAdmits (s.beat - a.began) rest }.refuse i.job d (i.v.getD d 0)
                Code.admShapeOver)).endInst a.inst Code.admShapeOver
            | none =>
              if a.done * 1024 < g.tasks.length then s
              else if s.jobLost j then
                (s.modPlan (fun p => { p with admits := resumeAdmits (s.beat - a.began) rest })).endInst a.inst Code.roomLost
              else
                let (w, h) := s.suiteSize j
                let b0 := s.beat + 1 - a.paused
                let tasks := timetable a.guard a.occ i g w h b0
                let i : Inst := { i with state := .waiting, b0 := b0, guard := a.guard, tasks := tasks }
                s.modPlan (fun p =>
                  { p with admits := resumeAdmits (s.beat - a.began) rest, insts := tset p.insts a.inst { i with k := i.need g },
                           varies := satAdd p.varies (g.tasks.filter Task.varies).length })
        | _, _ => s)

/-- ENTRY_RESERVATION (R93, R120): the first WAITING instance reserves its entries and runs; its timetable moves to the next
beat boundary. An ON_DEMAND instance also waits for its Rooms (R262). -/
def execEntryReservation (s : State) : Outcome :=
  .next (
    match firstInst (s.inOrder .waiting) with
    | none => s
    | some (n, i) =>
      let rooms := (s.job i.job).any (fun j => !j.onDemand || j.holds)
      if !s.working || s.plan.freeEntries < i.k || s.stays i || !rooms then s
      else
        let more := s.beat + 1 - i.b0
        s.modInst n (fun i =>
          { i with state := .running, b0 := i.b0 + more,
                   tasks := i.tasks.map (fun r => { r with s := r.s + more, e := r.e + more }) }))

/-! ## PLAN registers (R129, R270) -/

def Plan.slipWord (p : Plan) : Nat := bit p.slipValid * 2 ^ 31 + p.slipJob.toNat * 2 ^ 25 + p.slipBeats.toNat
def Plan.refuseWord (p : Plan) : Nat :=
  bit p.refValid * 2 ^ 31 + p.refJob.toNat * 2 ^ 25 + p.refDim.toNat * 2 ^ 22 + p.refCode.toNat
def Plan.preemptWord (p : Plan) : Nat := bit p.preValid * 2 ^ 31 + p.preJob.toNat * 2 ^ 25 + p.preCount.toNat

/-- PLAN_SLIP_READ (R129). -/
def execPlanSlipRead (s : State) : Outcome :=
  .next (if !s.regsUp then s
    else (s.reply 4 s.plan.slipWord).modPlan (fun p => { p with slipValid := false, slipJob := 0, slipBeats := 0 }))

/-- PLAN_REFUSE_READ (R129): PLAN_REFUSE_VAL takes the v of the refusal returned; after a read that found none it is 0 (the rule is
silent: DESIGN CHOICE, log entry 131). -/
def execPlanRefuseRead (s : State) : Outcome :=
  .next (if !s.regsUp then s
    else (s.reply 4 s.plan.refuseWord).modPlan (fun p =>
      { p with refValid := false, refJob := 0, refDim := 0, refCode := 0, refVal := if p.refValid then p.refPend else 0,
               refPend := 0 }))

/-- PLAN_DUPTILE_READ (R129). -/
def execPlanDuptileRead (s : State) : Outcome :=
  .next (if !s.regsUp then s
    else (s.reply 4 s.plan.dupTile.toNat).modPlan (fun p => { p with dupTile := 0 }))

/-- PLAN_PREEMPT_READ (R270). -/
def execPlanPreemptRead (s : State) : Outcome :=
  .next (if !s.regsUp then s
    else (s.reply 4 s.plan.preemptWord).modPlan (fun p => { p with preValid := false, preJob := 0, preCount := 0 }))

end Sys2Proof.Machine
end

