-- ==== Sys2Proof/Machine/RoomRegs.lean ====
section
/-!
DEFINITION. Accesses to the ROOM windows that do more than read a value (R9 to R13, R154, R225, R240 to R244).
-/
namespace Sys2Proof.Machine

/-! ## Register writes under the arming rules (R10 to R13) -/

/-- A write of a register's RW-L fields: it needs its block armed, and disarms it (R11, R13). -/
def State.lockedWrite (s : State) (block : Nat) (f : State → State) : State :=
  if s.glb.armed.getLsbD block then
    f { s with glb := { s.glb with armed := clearBit s.glb.armed block } }
  else s

/-- Number of the ROOM block (R48). -/
def blockRoom : Nat := 4

/-- A window of the grade (R49). -/
def State.hasWindow (s : State) (w : Nat) : Bool := decide (w < s.part.rooms)

/-! ## ROOM_CTL (R154, R225) -/

/-- The activity counters of a Room start again at 0. -/
def Room.clearAct (r : Room) : Room := { r with fed := 0, mac := 0, gated := 0, fnFp32 := 0, fnShort := 0 }

/-- A write of ROOM_CTL: act_clr acts on every write; zgate_off only while the block is armed (R13). -/
def State.writeRoomCtl (s : State) (w : Nat) (v : W32) : State :=
  if !s.hasWindow w then s
  else
    let s := if v.getLsbD 1 then s.modRoom w Room.clearAct else s
    s.lockedWrite blockRoom (fun s => s.modRoom w (fun r => { r with zgateOff := v.getLsbD 0 }))

/-- ROOM_ACT_CLEAR (R154, R225): a write of ROOM_CTL. -/
def execRoomActClear (window : RoomIdx) (value : W32) (s : State) : Outcome :=
  .next (s.hostWriteReg (fun s => s.writeRoomCtl window.toNat value))

/-! ## The clip pair and its event (R241 to R243) -/

/-- The snapshot of R242. -/
def Room.snapClip (r : Room) : Room := { r with qclipSnap := r.qclip, qconvSnap := r.qconv, qclip := 0, qconv := 0 }

/-- ROOM_QCLIP_SNAPSHOT (R242, R407): a read of 0x050, of 4 bytes or, where `wide`, of the whole 64-bit register. -/
def execRoomQclipSnapshot (read : QclipRead) (s : State) : Outcome :=
  let w := read.window.toNat
  let n := if read.wide then 8 else 4
  .next (
    if !s.regsUp then s
    else if !s.hasWindow w then s.reply n 0
    else (s.modRoom w Room.snapClip).reply n (field (s.room w).qclip.toNat 0 (8 * n)))

/-- A write of ROOM_QEVENT: a 1 to valid clears the latch, and the event count and share with it. -/
def State.writeQevent (s : State) (w : Nat) (v : W32) : State :=
  if s.hasWindow w && v.getLsbD 31 then
    s.modRoom w (fun r => { r with qevValid := false, qevGraph := 0, qevIndex := 0, qevEvents := 0, qevShare := 0 })
  else s

/-- ROOM_QEVENT_CLEAR (R241). -/
def execRoomQeventClear (window : RoomIdx) (value : W32) (s : State) : Outcome :=
  .next (s.hostWriteReg (fun s => s.writeQevent window.toNat value))

/-! ## Reads that clear (R154) -/

/-- ROOM_STORE as a word. -/
def Room.storeWord (r : Room) : Nat := r.peak.toNat * 2 ^ 16 + r.live.toNat

/-- A read of a window's RC register: its value, then the register cleared; 0 above the grade's count (R49). -/
def State.readRoom (s : State) (w : Nat) (value : Room → Nat) (clear : Room → Room) : State :=
  if !s.regsUp then s
  else if !s.hasWindow w then s.reply 4 0
  else (s.modRoom w clear).reply 4 (value (s.room w))

/-- ROOM_STORE_READ (R154): peak is cleared. -/
def execRoomStoreRead (window : RoomIdx) (s : State) : Outcome :=
  .next (s.readRoom window.toNat Room.storeWord (fun r => { r with peak := 0 }))

/-- ROOM_SAT_READ (R154). -/
def execRoomSatRead (window : RoomIdx) (s : State) : Outcome :=
  .next (s.readRoom window.toNat (fun r => r.sat.toNat) (fun r => { r with sat := 0 }))

/-- ROOM_FAULT_READ (R154). -/
def execRoomFaultRead (window : RoomIdx) (s : State) : Outcome :=
  .next (s.readRoom window.toNat (fun r => r.fault.toNat) (fun r => { r with fault := 0 }))

/-! ## Other fields -/

def roomStateCode : RoomState → Nat
  | .offline => 0
  | .idle => 1
  | .run => 2
  | .writeback => 3
  | .fault => 4
  | .saving => 5

/-- A Room is at work for a job: the job owns it and is not switched out. -/
def State.worksFor (s : State) (room job : Nat) : Bool := (s.room room).job.toNat = job

/-- The tasks of admitted instances that a Room has in its queue: their window has opened, they have not left it (R118, R142), and
the Room works for their job. -/
def State.queueOf (s : State) (room : Nat) : List TaskCtx :=
  (s.plan.insts.flatMap (fun p =>
    if (p.2.state == .running || p.2.state == .ending) && s.worksFor room p.2.job then
      (List.range p.2.tasks.length).filterMap (s.taskCtx p.1)
    else [])).filter (fun c =>
      !c.r.over && !c.r.empty && decide (c.i.opens c.r ≤ s.beat) && (s.positions c).any (fun q => q.2 = room))

/-- Descriptors queued at a Room. -/
def State.queueDepth (s : State) (room : Nat) : Nat := (s.queueOf room).length

/-- The accumulator half that now accumulates: in the course of a body, that of the changes up to the present rclk (R136). -/
def State.halfNow (s : State) (room : Nat) : Bool :=
  match (s.queueOf room).find? (fun c => c.r.state == .running || c.r.state == .faulted) with
  | none => (s.room room).half
  | some c =>
    match (s.positions c).find? (fun q => q.2 = room) with
    | none => (s.room room).half
    | some q =>
      let stop := (c.r.faults.find? (fun f => f.pos = q.1)).map (·.rec_.rclk)
      let now := min (256 * (s.beat - c.r.s)) (stop.getD (256 * (s.beat - c.r.s)))
      decide (((s.flipTimes c q.1 room).filter (fun k => decide (k ≤ now))).length % 2 = 1)

/-- ROOM_STATUS as a word. -/
def State.roomStatus (s : State) (w : Nat) : Nat :=
  let r := s.room w
  roomStateCode r.state * 2 ^ 28 + r.job.toNat * 2 ^ 22 + s.queueDepth w * 2 ^ 8 + bit (s.halfNow w)

/-- ROOM_QEVENT as a word. -/
def Room.qevWord (r : Room) : Nat := bit r.qevValid * 2 ^ 31 + r.qevGraph.toNat * 2 ^ 16 + r.qevIndex.toNat

end Sys2Proof.Machine
end

