-- ==== Sys2Proof/Machine/Text.lean ====
section
/-!
DEFINITION. UTF-8 (RFC 3629), dictionary images, tokens from bytes and bytes from tokens (R329, R339 to R342).
-/
namespace Sys2Proof.Machine

/-! ## UTF-8 -/

/-- What a byte begins: the length of its code point, and the range of the second byte. -/
def utfHead (b : Nat) : Option (Nat × Nat × Nat) :=
  if b < 0x80 then some (1, 0, 0)
  else if b < 0xC2 then none
  else if b < 0xE0 then some (2, 0x80, 0xBF)
  else if b = 0xE0 then some (3, 0xA0, 0xBF)
  else if b = 0xED then some (3, 0x80, 0x9F)
  else if b < 0xF0 then some (3, 0x80, 0xBF)
  else if b = 0xF0 then some (4, 0x90, 0xBF)
  else if b < 0xF4 then some (4, 0x80, 0xBF)
  else if b = 0xF4 then some (4, 0x80, 0x8F)
  else none

/-- How a byte string begins. -/
inductive CodePoint where
  /-- With a valid code point of this many bytes. -/
  | whole (n : Nat)
  /-- With part of one, up to its end. -/
  | part
  /-- With a byte that starts none. -/
  | bad
  deriving DecidableEq, Repr

def codePoint : List Byte → CodePoint
  | [] => .part
  | b :: r =>
    match utfHead b.toNat with
    | none => .bad
    | some (n, lo, hi) =>
      let tail := r.take (n - 1)
      let ok := match tail with
        | [] => true
        | c :: t => decide (lo ≤ c.toNat ∧ c.toNat ≤ hi) && t.all (fun x => decide (0x80 ≤ x.toNat ∧ x.toNat ≤ 0xBF))
      if !ok then .bad else if tail.length + 1 = n then .whole n else .part

/-- A byte string is valid UTF-8; the fuel bounds its code points. -/
def validUtf8 : Nat → List Byte → Bool
  | 0, b => b.isEmpty
  | fuel + 1, b =>
    if b.isEmpty then true
    else match codePoint b with
      | .whole n => validUtf8 fuel (b.drop n)
      | _ => false

/-- U+FFFD. -/
def replacement : List Byte := [0xEF, 0xBF, 0xBD]

/-- The text of a byte string and the bytes left pending; each byte that starts no code point is replaced (R342). -/
def detokenize : Nat → List Byte → List Byte × List Byte
  | 0, b => ([], b)
  | fuel + 1, b =>
    if b.isEmpty then ([], [])
    else match codePoint b with
      | .whole n => let (t, p) := detokenize fuel (b.drop n); (b.take n ++ t, p)
      | .part => ([], b)
      | .bad => let (t, p) := detokenize fuel (b.drop 1); (replacement ++ t, p)

/-! ## Dictionaries (R340, R341) -/

def dictMagic : Nat := 0x54435146

/-- The raw entries of an image: offset, length, SPECIAL. -/
def dictRows (b : List Byte) : List (Nat × Nat × Bool) :=
  (List.range (rd b 8 4)).map (fun i => (rd b (32 + 8 * i) 4, rd b (36 + 8 * i) 1, (rd8 b (37 + 8 * i)).getLsbD 0))

def parseDict (b : List Byte) : Dict :=
  let base := 32 + 8 * rd b 8 4
  { byteBase := rd b 12 4, sbytes := rd b 16 4,
    entries := (dictRows b).map (fun e => { special := e.2.2, bytes := slice b (base + e.1) e.2.1 }) }

/-- magic, ifver and size (check 2 of R341). -/
def dictFormat (b : List Byte) (size : Nat) : Bool :=
  rd b 0 4 = dictMagic && rd b 4 2 = 1 && rd b 20 4 = size && size = 32 + 8 * rd b 8 4 + rd b 16 4
    && decide (rd b 16 4 ≤ 4194304)

def dictCrc (b : List Byte) : Bool := crc32c (b.take 28 ++ [0, 0, 0, 0] ++ b.drop 32) == rd32 b 28

/-- Check 4 of R341. -/
def dictEntries (b : List Byte) : Bool :=
  let d := parseDict b
  let isByte (i : Nat) : Bool := decide (d.byteBase ≤ i ∧ i < d.byteBase + 256)
  (dictRows b).all (fun e => decide (1 ≤ e.2.1 ∧ e.2.1 ≤ 64 ∧ e.1 + e.2.1 ≤ d.sbytes))
    && (List.range 256).all (fun k => d.entries[d.byteBase + k]? == some { special := false, bytes := [BitVec.ofNat 8 k] })
    && ((List.range d.entries.length).zip d.entries).all (fun p => isByte p.1 || p.2.special || validUtf8 64 p.2.bytes)
    && decide ((d.entries.filter (fun e => !e.special)).map (·.bytes)).Nodup

/-- The largest tables (R340). -/
def dictMaxEntries : Nat := 262144
def dictMaxBytes : Nat := 8 * 1048576

/-- Check 3 of R341: room beside the dictionaries of the other jobs. -/
def State.dictFits (s : State) (job n bytes : Nat) : Bool :=
  let others := (s.plan.jobs.filter (fun p => p.1 != job)).filterMap (fun p => p.2.dict)
  decide ((others.map (·.entries.length)).sum + n ≤ dictMaxEntries)
    && decide ((others.map (·.sbytes)).sum + bytes ≤ dictMaxBytes)

/-! ## Tokens (R341, R342) -/

/-- The longest entry that is a prefix of the input: its token and length. -/
def longest (b : List Byte) : Nat → List DictEntry → Option (Nat × Nat) → Option (Nat × Nat)
  | _, [], best => best
  | i, e :: r, best =>
    let n := e.bytes.length
    let hit := !e.special && b.take n == e.bytes && (match best with
      | some q => decide (q.2 < n)
      | none => decide (0 < n))
    longest b (i + 1) r (if hit then some (i, n) else best)

/-- The tokens of a byte string (R341); the fuel bounds them. -/
def tokenize (d : Dict) : Nat → List Byte → List Nat
  | 0, _ => []
  | fuel + 1, b =>
    match b with
    | [] => []
    | x :: r =>
      match codePoint b with
      | .whole n =>
        match longest b 0 d.entries none with
        | some (t, k) => t :: tokenize d fuel (b.drop k)
        | none => (b.take n).map (fun y => d.byteBase + y.toNat) ++ tokenize d fuel (b.drop n)
      | _ => (d.byteBase + x.toNat) :: tokenize d fuel r

/-- The bytes of a token (R342). -/
def Dict.bytesOf (d : Dict) (t : Nat) : List Byte :=
  match d.entries[t]? with
  | none => replacement
  | some e => if e.special then [] else e.bytes

end Sys2Proof.Machine
end

