-- ==== Sys2Proof/Machine/Capture.lean ====
section
/-!
DEFINITION. The capture unit: CAPTURE_DATA, DICT_LOAD and the CAPT registers that a read changes (R328 to R342, R348 to R350).
-/
namespace Sys2Proof.Machine

def State.modCapt (s : State) (f : Capt → Capt) : State := { s with capt := f s.capt }

/-! ## Records (R328) -/

def capMagic : Nat := 0x52435146
def kindAudio : Nat := 0
def kindSide : Nat := 1
def kindText_ : Nat := 2
def kindAug : Nat := 3

/-- A record's header. -/
structure CapHead where
  kind : Nat
  channels : Nat
  rate : Nat
  rsv : Nat
  seq : Nat
  plen : Nat
  t0 : W64
  source : Nat
  rsv2 : Nat
  crc : W32
  deriving DecidableEq, Repr

def capHead (b : List Byte) (o : Nat) : CapHead :=
  { kind := rd b (o + 4) 1, channels := rd b (o + 5) 1, rate := rd b (o + 6) 1, rsv := rd b (o + 7) 1,
    seq := rd b (o + 8) 4, plen := rd b (o + 12) 4, t0 := rd64 b (o + 16), source := rd b (o + 24) 2,
    rsv2 := rd b (o + 26) 2, crc := rd32 b (o + 28) }

/-- Every field lies in the table of R328. -/
def CapHead.ok (h : CapHead) : Bool :=
  h.kind ≤ 3 && h.rsv = 0 && h.rsv2 = 0 && h.source ≤ 4095 && h.plen ≤ 65536
    && (if h.kind = kindAudio then inRange 1 32 h.channels && h.rate ≤ 3 && h.plen % (2 * h.channels) = 0
        else h.channels = 0 && h.rate = 0)

/-- Bytes of a record with its padding. -/
def CapHead.bytes (h : CapHead) : Nat := 8 * ceilDiv (32 + h.plen) 8

/-- Reasons of CAPT_DAMAGE (R348). -/
def dmgMagic : Nat := 0
def dmgCrc : Nat := 1
def dmgRange : Nat := 2
def dmgFormat : Nat := 3
def dmgNoDict : Nat := 4
def dmgDiscont : Nat := 5

/-! ## A packet being parsed -/

/-- What a CAPTURE_DATA packet names (R331). -/
structure CapPacket where
  source : Nat
  frames : Nat
  gapLimit : Nat
  /-- Device address of the audio buffer. -/
  audio : Nat
  /-- Device address and length of the side buffer; length 0 without one. -/
  side : Nat
  sideLen : Nat
  dict : Option Dict
  deriving DecidableEq, Repr

/-- How far its parsing has come. -/
structure CapRun where
  st : State
  src : CaptSrc
  /-- Frames of the packet so far, those beyond the capacity included. -/
  w : Nat
  concealed : Nat
  good : Nat
  damaged : Nat
  empty : Nat
  foreign : Nat
  skipped : Nat
  first : Option Nat
  /-- Bytes used of the side buffer, and an entry did not fit. -/
  used : Nat
  sideFull : Bool

/-- A damaged record (R332): counted, and latched in CAPT_DAMAGE. -/
def CapRun.damage (c : CapRun) (p : CapPacket) (pos reason : Nat) : CapRun :=
  let st := c.st.modCapt (fun k =>
    let k := { k with damaged := satAdd k.damaged 1 }
    if k.dmgValid then k
    else { k with dmgValid := true, dmgReason := BitVec.ofNat 3 reason, dmgSource := BitVec.ofNat 12 p.source,
                  dmgPend := BitVec.ofNat 32 pos })
  { c with st := st, damaged := c.damaged + 1, first := c.first.or (some pos) }

/-- Frames written in planar form from frame `w` on; those at and beyond the capacity are only counted (R333). -/
def CapRun.putFrames (c : CapRun) (p : CapPacket) (frames : List (List (List Byte))) : CapRun :=
  let at_ (ch w : Nat) : Nat := p.audio + 2 * (ch * p.frames + w)
  let put (q : State × Nat) (f : List (List Byte)) : State × Nat :=
    if q.2 < p.frames then
      (((List.range f.length).zip f).foldl (fun (s : State) x => s.hbmWrite (at_ x.1 q.2) x.2) q.1, q.2 + 1)
    else (q.1, q.2 + 1)
  let q := frames.foldl put (c.st, c.w)
  { c with st := q.1, w := q.2 }

/-- The frames of an AUDIO payload: per frame, two bytes per channel. -/
def audioFrames (channels : Nat) (payload : List Byte) : List (List (List Byte)) :=
  (chunks (2 * channels) payload.length payload).map (fun f => chunks 2 channels f)

/-- A good AUDIO record (R333); index differences are taken modulo 2^64. -/
def CapRun.audio (c : CapRun) (p : CapPacket) (pos : Nat) (h : CapHead) (payload : List Byte) : CapRun :=
  let frames := audioFrames h.channels payload
  let n := frames.length
  let c := { c with good := c.good + 1, src := { c.src with fmt := some (h.channels, h.rate) } }
  let after := h.t0 + BitVec.ofNat 64 n
  match c.src.next with
  | none => { c.putFrames p frames with src := { c.src with next := some after } }
  | some next =>
    let d := (h.t0 - next).toInt
    if d < 0 then
      let drop := min n (next - h.t0).toNat
      let c := c.putFrames p (frames.drop drop)
      if 0 < (after - next).toInt then { c with src := { c.src with next := some after } } else c
    else
      let g := d.toNat
      let c := if p.gapLimit < g then c.damage p pos dmgDiscont
        else { c.putFrames p (List.replicate g (List.replicate h.channels [0, 0])) with concealed := c.concealed + g }
      { c.putFrames p frames with src := { c.src with next := some after } }

/-- An entry of the side buffer (R336); the first that does not fit ends the entries of the packet. -/
def CapRun.sideEntry (c : CapRun) (p : CapPacket) (h : CapHead) (out : List Byte) : CapRun :=
  let n := 32 + 32 * ceilDiv out.length 32
  let c := { c with good := c.good + 1 }
  if c.sideFull || p.sideLen < c.used + n then { c with sideFull := true }
  else
    let head := leBytes 1 h.kind ++ [0] ++ leBytes 2 h.source ++ leBytes 4 h.seq ++ le64 h.t0 ++ leBytes 4 out.length
    { c with st := c.st.hbmWrite (p.side + c.used) (padTo 32 head ++ padTo (n - 32) out), used := c.used + n }

/-- fp32 bits of n × 2^-24, for n below 2^24: exact (R338). -/
def unitFloat (n : Nat) : Nat :=
  if n = 0 then 0
  else
    let e := n.log2
    (103 + e) * 2 ^ 23 + (n * 2 ^ (23 - e) - 2 ^ 23)

/-- AUG output (R338); none: a field outside its range. -/
def augOutput (b : List Byte) : Option (List Byte) :=
  let nsamp := rd b 16 2
  let words := rd b 18 1
  let dist := rd b 19 1
  if b.length != 24 || nsamp = 0 || !inRange 1 64 words || 1 < dist || !zeroAt b 20 4 then none
  else
    let word (i l : Nat) : Nat :=
      let x := (gen (rd64 b 0) (rd64 b 8 + BitVec.ofNat 64 i) (BitVec.ofNat 32 l)).toNat
      if dist = 0 then x else unitFloat (x / 256)
    some ((List.range nsamp).flatMap (fun i => (List.range words).flatMap (fun l => leBytes 4 (word i l))))

/-- A good record that is neither empty nor foreign (R332, R333, R336 to R338). -/
def CapRun.record (c : CapRun) (p : CapPacket) (pos : Nat) (h : CapHead) (payload : List Byte) : CapRun :=
  if h.kind = kindAudio then
    if c.src.fmt.any (fun f => f != (h.channels, h.rate)) then c.damage p pos dmgFormat else c.audio p pos h payload
  else if h.kind = kindSide then c.sideEntry p h payload
  else if h.kind = kindText_ then
    match p.dict with
    | none => c.damage p pos dmgNoDict
    | some d => c.sideEntry p h ((tokenize d payload.length payload).flatMap (leBytes 4))
  else match augOutput payload with
    | none => c.damage p pos dmgRange
    | some out => c.sideEntry p h out

/-- Where the next magic lies at or after an offset, in 8-byte steps; the end of the region without one. -/
def nextMagic (b : List Byte) : Nat → Nat → Nat
  | 0, _ => b.length
  | fuel + 1, o => if b.length ≤ o then b.length else if rd b o 4 = capMagic then o else nextMagic b fuel (o + 8)

/-- The record at an offset (R332): the first row that applies; and where parsing goes on. -/
def CapRun.step (c : CapRun) (p : CapPacket) (b : List Byte) (pos : Nat) : CapRun × Nat :=
  if rd b pos 4 != capMagic then
    let n := nextMagic b b.length (pos + 8)
    ({ c.damage p pos dmgMagic with skipped := c.skipped + (n - pos) }, n)
  else
    let h := capHead b pos
    if !h.ok || b.length < pos + h.bytes then (c.damage p pos dmgRange, pos + 8)
    else
      let payload := slice b (pos + 32) h.plen
      let after := pos + h.bytes
      if crc32c (slice b pos 28 ++ payload) != h.crc then (c.damage p pos dmgCrc, after)
      else if h.source != p.source then ({ c with foreign := c.foreign + 1 }, after)
      else if h.plen = 0 then
        ({ c with empty := c.empty + 1, st := c.st.modCapt (fun k => { k with empty := satAdd k.empty 1 }) }, after)
      else (c.record p pos h payload, after)

/-- The records of a region from an offset on; the fuel bounds them. -/
def CapRun.run (p : CapPacket) (b : List Byte) : Nat → CapRun → Nat → CapRun
  | 0, c, _ => c
  | fuel + 1, c, pos => if b.length ≤ pos then c else let q := c.step p b pos; CapRun.run p b fuel q.1 q.2

/-- The summary of R334. -/
def CapRun.summary (c : CapRun) (frames : Nat) : List Byte :=
  [min c.w frames, c.concealed, c.good, c.damaged, c.empty, c.foreign, c.skipped, c.first.getD 0xFFFFFFFF].flatMap
    (fun v => leBytes 4 (min v 0xFFFFFFFF))

/-- The status of a packet (R334). -/
def CapRun.status (c : CapRun) (frames : Nat) : W32 :=
  if frames < c.w then Code.capAudioFull
  else if c.sideFull then Code.capSideFull
  else if c.damaged != 0 || c.concealed != 0 then Code.capConceal
  else Code.ok

/-! ## CAPTURE_DATA (R331) -/

/-- The fields of R331 are legal. -/
def captureOk (b : List Byte) : Bool :=
  rd b 18 1 ≤ 1 && rd b 20 4 ≤ 16777216 && rd b 20 4 % 8 = 0 && rd b 24 8 % 8 = 0 && rd b 48 4 ≤ 16777216
    && rd b 52 3 ≤ 1048576 && rd b 56 8 % 8 = 0

/-- No packet of the opcode that was dispatched earlier is unfinished (R331). -/
def State.firstOf (s : State) (opcode id : Nat) : Bool :=
  !s.ring.ctx.any (fun p => p.2.ops.any (fun o => o.opcode = opcode && decide (o.id < id) && o.fin.isNone))

def captSource (s : State) (n : Nat) : CaptSrc := tgetD s.capt.srcs n { fmt := none, next := none }

/-- The packet's effect on the bytes of its region: the frames fit the audio buffer, or the packet is refused (R331). -/
def State.capture (s : State) (r : Nat) (o : Op) (d : List Byte) : State :=
  let b := o.bytes
  let (audio, audioLen) := (s.bufOf (rd64 b 32)).getD (0, 0)
  let (side, sideLen) := (s.bufOf (rd64 b 40)).getD (0, 0)
  let p : CapPacket :=
    { source := rd b 16 2, frames := rd b 48 4, gapLimit := rd b 52 3, audio := audio, side := side, sideLen := sideLen,
      dict := (s.job (rd b 55 1)).bind (·.dict) }
  let src := if (rd8 b 19).getLsbD 0 then { fmt := none, next := none } else captSource s p.source
  let c := CapRun.run p d d.length
    { st := s, src := src, w := 0, concealed := 0, good := 0, damaged := 0, empty := 0, foreign := 0, skipped := 0,
      first := none, used := 0, sideFull := false } 0
  if c.src.fmt.any (fun f => decide (audioLen < 2 * f.1 * p.frames)) then s.finish r o.id Code.capHandle
  else
    let s := c.st.modCapt (fun k => { k with srcs := tset k.srcs p.source c.src })
    (s.dataWrite (rd b 56 8) (c.summary p.frames)).finish r o.id (c.status p.frames)

/-- CAPTURE_DATA (R331): one at a time, in dispatch order. -/
def execCaptureData (ring : RingId) (s : State) : Outcome :=
  let r := ring.toNat
  .next (s.withOp (.ring ring) 0x60 (fun o s =>
    let b := o.bytes
    let hbm := decide (rd b 18 1 = 1)
    let okHandle (h : W64) : Bool := h = 0 || s.larder.current h
    if !s.firstOf 0x60 o.id then s
    else if !captureOk b then s.finish r o.id Code.capParam
    else if !(okHandle (rd64 b 32) && okHandle (rd64 b 40)) then s.finish r o.id Code.capHandle
    else if rd b 20 4 = 0 then (s.powerUp [domCapture]).capture r o []
    else if hbm && s.windowPoisoned (rd b 24 8) (rd b 20 4) then (s.powerUp [domCapture]).finish r o.id Code.memUe
    else (s.powerUp [domCapture]).withPayload r o hbm (rd b 24 8) (rd b 20 4) (fun d s => s.capture r o d)))

/-! ## DICT_LOAD (R339, R341) -/

/-- DICT_LOAD: a failing check leaves the previous dictionary in force. -/
def execDictLoad (ring : RingId) (s : State) : Outcome :=
  let r := ring.toNat
  .next (s.withOp (.ring ring) 0x61 (fun o s =>
    let b := o.bytes
    let n := rd b 16 1
    let size := rd b 20 4
    let addr := rd b 24 8
    let hbm := decide (rd b 17 1 = 1)
    if !s.jobOpen n then s.finish r o.id Code.dictJob
    else if 1 < rd b 17 1 || addr % 8 != 0 then s.finish r o.id Code.capParam
    else if size = 0 then ((s.powerUp [domCapture]).modJob n (fun j => { j with dict := none })).finish r o.id Code.ok
    else if hbm && s.windowPoisoned addr size then (s.powerUp [domCapture]).finish r o.id Code.memUe
    else (s.powerUp [domCapture]).withPayload r o hbm addr size (fun d s =>
      s.checked r o
        [ (s.jobOpen n, Code.dictJob), (dictFormat d size, Code.dictFormat), (dictCrc d, Code.dictCrc),
          (s.dictFits n (rd d 8 4) (rd d 16 4), Code.dictSpace), (dictEntries d, Code.dictEntry) ]
        (fun s => s.modJob n (fun j => { j with dict := some (parseDict d) })))))

/-! ## CAPT registers (R348) -/

/-- CAPT_SRC_STAT of a source. -/
def CaptSrc.statWord (c : CaptSrc) : Nat :=
  let f := c.fmt.getD (0, 0)
  bit c.fmt.isSome * 2 ^ 31 + bit c.next.isSome * 2 ^ 30 + f.1 * 2 ^ 24 + f.2 * 2 ^ 22

/-- A write of CAPT_SRC_SEL: the selected source's snapshot. -/
def State.srcSel (s : State) (v : W32) : State :=
  let c := captSource s (field v.toNat 0 12)
  s.modCapt (fun k =>
    { k with sel := BitVec.ofNat 12 v.toNat, snapStat := BitVec.ofNat 32 c.statWord, snapNext := c.next.getD 0 })

/-- CAPT_SRC_SEL_WRITE. -/
def execCaptSrcSelWrite (value : W32) (s : State) : Outcome := .next (s.hostWriteReg (fun s => s.srcSel value))

/-- CAPT_CNT_READ: the part that is read is cleared. -/
def execCaptCntRead (part : ReadPart) (s : State) : Outcome :=
  .next (
    if !s.regsUp then s
    else
      let k := s.capt
      match part with
      | .low => (s.reply 4 k.empty.toNat).modCapt (fun k => { k with empty := 0 })
      | .high => (s.reply 4 k.damaged.toNat).modCapt (fun k => { k with damaged := 0 })
      | .both =>
        (s.reply 8 (k.damaged.toNat * 2 ^ 32 + k.empty.toNat)).modCapt (fun k => { k with empty := 0, damaged := 0 }))

def Capt.damageWord (k : Capt) : Nat :=
  bit k.dmgValid * 2 ^ 31 + k.dmgReason.toNat * 2 ^ 28 + k.dmgSource.toNat * 2 ^ 16

/-- CAPT_DAMAGE_READ: fixes CAPT_DAMAGE_POS. -/
def execCaptDamageRead (s : State) : Outcome :=
  .next (
    if !s.regsUp then s
    else (s.reply 4 s.capt.damageWord).modCapt (fun k =>
      { k with dmgValid := false, dmgReason := 0, dmgSource := 0, dmgPend := 0,
               dmgPos := if k.dmgValid then k.dmgPend else 0 }))

/-- CAPT_DICT. -/
def State.captDict (s : State) : Nat :=
  let ds := s.plan.jobs.filterMap (fun p => p.2.dict)
  min ds.length 31 * 2 ^ 19 + (ds.map (·.entries.length)).sum

end Sys2Proof.Machine
end

