-- ==== Sys2Proof/Machine/Seqs.lean ====
section
/-!
DEFINITION. Sequences, step policies, the step builder and the SEQ registers that an access changes (R47, R245 to R261, R269,
R271, R342, R371).
-/
namespace Sys2Proof.Machine

def State.modSeqs (s : State) (f : Seqs → Seqs) : State := { s with seqs := f s.seqs }
def State.seq (s : State) (n : Nat) : Option SeqEnt := tget s.seqs.ents n
def State.modSeq (s : State) (n : Nat) (f : SeqEnt → SeqEnt) : State :=
  s.modSeqs (fun q => { q with ents := tmod q.ents n f })

/-! ## Records of a sequence (R342, R366, R368, R371, R373) -/

/-- A record of a sequence goes to its ring. -/
def State.seqRecord (s : State) (n : Nat) (e : SeqEnt) (kind : Nat) (held last : Bool) (num : W32) (body : List Byte) : State :=
  s.postMeta e.ring (metaRec kind held last true n num e.utag body) last

/-- A STREAM_STATUS record of a sequence; num is its len. -/
def State.seqStatus (s : State) (n : Nat) (e : SeqEnt) (held last : Bool) (status : W32) (pauseUs : Nat) : State :=
  s.seqRecord n e kindStatus held last e.len (statusBody status 0 0 0 pauseUs)

/-- Pieces of at most 44 bytes; one empty piece for no bytes (R371). -/
def textPieces (b : List Byte) : List (List Byte) := if b.isEmpty then [[]] else chunks 44 b.length b

/-- The TEXT records of a token (R371). -/
def State.textRecords (s : State) (n : Nat) (e : SeqEnt) (held : Bool) (num : W32) : List (List Byte) → State
  | [] => s
  | p :: r =>
    let more := !r.isEmpty
    (s.seqRecord n e kindText held (!more) num (leBytes 1 p.length ++ leBytes 1 (bit more) ++ [0, 0] ++ p)).textRecords
      n e held num r

/-- The bytes of an unfinished code point of a sequence that is LEAVING become one U+FFFD in its last TEXT record (R342). -/
def State.flushPend (s : State) (n : Nat) (e : SeqEnt) (held : Bool) : State :=
  if e.pend.isEmpty then s
  else (s.modSeq n (fun e => { e with pend := [] })).textRecords n e held (e.len - 1) [replacement]

/-- A sequence holds a row of the step that runs for its job. -/
def State.inStep (s : State) (n : Nat) (e : SeqEnt) : Bool :=
  (s.job e.job).any (fun j => j.step.any (fun x => x.rows.any (fun r => r.seq = n)))

/-! ## SEQ_JOIN and SEQ_LEAVE (R248 to R250) -/

/-- The policy that a job's next build uses, if it is enabled (R251). -/
def Job.nextPolicy (j : Job) : Option Policy := j.newPolicy.or j.policy

/-- prio, nprefix, max_tokens and meta_ring lie inside R248. -/
def State.joinOk (s : State) (b : List Byte) (p : Policy) : Bool :=
  rd b 19 1 ≤ 4 && rd b 48 1 ≤ 16 && inRange (rd b 48 1 + 1) (40 * p.tpp) (rd b 40 4)
    && s.activeRing (rd b 20 4) .metadata

/-- The entry that a SEQ_JOIN writes (R245, R247). -/
def joinEntry (b : List Byte) (order : W32) : SeqEnt :=
  { state := .joining, job := rd b 18 1, prio := rd b 19 1, leave := false, reported := false, ring := rd b 20 4, enc := 0,
    encHandle := rd64 b 24, utag := rd64 b 32, len := 0, maxTokens := rd32 b 40, endToken := rd32 b 44, lastToken := 0,
    pages := [], prefix_ := (List.range (rd b 48 1)).map (fun k => rd32 b (64 + 4 * k)), joinOrder := order,
    pauseStart := 0, pend := [], leaver := [] }

/-- SEQ_JOIN (R248, R249): completes once the entry is JOINING, with a reference on enc. -/
def execSeqJoin (ring : RingId) (s : State) : Outcome :=
  let r := ring.toNat
  .next (s.withOp (.ring ring) 0x40 (fun o s =>
    let b := o.bytes
    let n := rd b 16 2
    let job := rd b 18 1
    let enc := rd64 b 24
    if 16384 ≤ n || (s.seq n).isSome then s.finish r o.id Code.seqId
    else match (if s.jobOpen job then (s.job job).bind Job.nextPolicy else none) with
      | none => s.finish r o.id Code.seqNoPolicy
      | some p =>
        if !s.joinOk b p then s.finish r o.id Code.seqParam
        else match s.takeRef 0 enc with
          | (t, c) =>
            if c != Code.ok then t.finish r o.id Code.seqHandle
            else
              let e := { joinEntry b t.seqs.counter with enc := ((t.bufOf enc).getD (0, 0)).1 }
              let t := t.modSeqs (fun q => { q with ents := tset q.ents n e, counter := q.counter + 1 })
              (t.bindRing e.ring true).finish r o.id Code.ok))

/-- SEQ_LEAVE (R250): completes at phase 1 of the next step that frees the sequence. A sequence that waits between steps
reaches LEAVING here, and its unfinished bytes are written (R342); one in a running step still writes its token. -/
def execSeqLeave (ring : RingId) (s : State) : Outcome :=
  let r := ring.toNat
  .next (s.withOp (.ring ring) 0x41 (fun o s =>
    let n := rd o.bytes 16 2
    match s.seq n with
    | none => s.finish r o.id Code.seqNotFound
    | some e =>
      if e.job != rd o.bytes 18 1 then s.finish r o.id Code.seqNotFound
      else
        let t := (s.beginOp r o.id).modSeq n (fun e =>
          { e with leave := true, leaver := e.leaver ++ [(r, o.id)],
                   pauseStart := if e.state = .paused then 0 else e.pauseStart,
                   state := match e.state with
                     | .active => .leaving
                     | .paused => .leaving
                     | st => st })
        if s.inStep n e then t else t.flushPend n e false))

/-! ## STEP_POLICY (R251, R252) -/

def policyOf (b : List Byte) : Policy :=
  let ns := rd b 20 2
  { graph := rd b 16 2, ndims := rd b 19 1, nslots := ns, bdim := rd b 22 1, v := valuesAt b 24, pool := rd b 56 1,
    wlSlot := rd b 57 1, resSlot := rd b 58 1, tpp := rd b 60 2, maxBatch := rd b 62 2, pauseUs := rd b 64 4,
    handles := handlesAt b 128 ns }

/-- tpp, max_batch, pause_limit_us and the reserved fields (R271). -/
def policyParamOk (b : List Byte) : Bool :=
  let p := policyOf b
  rd b 23 1 ≤ 1 && zeroAt b 59 1 && zeroAt b 68 60
    && inRange 1 4096 p.tpp && inRange 1 4096 p.maxBatch && inRange 1 60000000 p.pauseUs
    && ((List.range 8).zip p.v).all (fun q => q.1 < p.ndims || q.1 = p.bdim || q.2 = 0)

/-- None of the conditions of R252 holds. -/
def State.policyGraphOk (s : State) (job : Nat) (p : Policy) : Bool :=
  let len (slot : Nat) : Nat :=
    match p.handles[slot]? with
    | some h => ((s.bufOf h).getD (0, 0)).2
    | none => 0
  s.jobOpen job && (s.graph p.graph).any (fun g => g.job = job && decide (p.maxBatch ≤ ((g.dims.getD p.bdim []).getLastD 0)))
    && p.bdim < p.ndims && 256 * p.maxBatch ≤ len p.wlSlot && 4 * p.maxBatch ≤ len p.resSlot
    && (tget s.larder.pools p.pool).any (fun q => q.log2Size = 16)

/-- STEP_POLICY: a policy takes effect at the job's next build; one with ENABLE clear disables. The conditions of R252 are
looked at in its order, with ENABLE set or clear. -/
def execStepPolicy (ring : RingId) (s : State) : Outcome :=
  let r := ring.toNat
  .next (s.withOp (.ring ring) 0x42 (fun o s =>
    let b := o.bytes
    let job := rd b 18 1
    if !policyParamOk b then s.finish r o.id Code.stepParam
    else
      let p := policyOf b
      let enable := rd b 23 1 = 1
      s.checked r o
        [(s.policyGraphOk job p, Code.stepGraph), (enable || !s.seqs.ents.any (fun q => q.2.job = job), Code.stepBusy)]
        (fun s => s.modJob job (fun j =>
          if enable then { j with newPolicy := some p } else { j with policy := none, newPolicy := none }))))

/-! ## Collecting a token (R258, R342) -/

/-- A token of a sequence is collected (R258, R342): len, last_token, its TOKEN record, then its TEXT record. -/
def State.collectToken (s : State) (d : Option Dict) (row : StepRow) (tok : W32) (held : Bool) : State :=
  match s.seq row.seq with
  | none => s
  | some e =>
    let len := e.len + 1 + (if row.first then BitVec.ofNat 32 e.prefix_.length else 0)
    let final := tok == e.endToken || decide (e.maxTokens.toNat ≤ len.toNat)
    let leaving := final || e.state == .leaving
    let num := len - 1
    let raw := match d with
      | some d => e.pend ++ d.bytesOf tok.toNat
      | none => []
    let (text, pend) := detokenize raw.length raw
    let text := if leaving && !pend.isEmpty then text ++ replacement else text
    let e' : SeqEnt :=
      { e with len := len, lastToken := tok, pend := if leaving then [] else pend,
               state := if final && e.state == .active then .leaving else e.state }
    let s := s.modSeq row.seq (fun _ => e')
    let body := le32 tok ++ le32 len ++ leBytes 1 (bit row.first + 2 * bit leaving)
    let s := s.seqRecord row.seq e kindToken held d.isNone num body
    match d with
    | none => s
    | some _ => s.textRecords row.seq e held num (textPieces text)

/-! ## Building a step (R246, R253 to R257, R260) -/

/-- The order of R246 among the sequences of a job: class, then age, oldest first. -/
def Seqs.key (q : Seqs) (e : SeqEnt) : Nat := e.prio * 2 ^ 32 + (2 ^ 32 - 1 - (q.counter - e.joinOrder).toNat)

/-- Puts an entry in its place by the order of R246. -/
def insertSeq (q : Seqs) (p : Nat × SeqEnt) : List (Nat × SeqEnt) → List (Nat × SeqEnt)
  | [] => [p]
  | x :: r => if q.key p.2 < q.key x.2 then p :: x :: r else x :: insertSeq q p r

/-- The sequences of a job in the order of R246. -/
def Seqs.ordered (q : Seqs) (job : Nat) : List (Nat × SeqEnt) :=
  (q.ents.filter (fun p => p.2.job = job)).foldl (fun l p => insertSeq q p l) []

/-- A sequence leaves (R249, R254): its pages, its enc reference, its ring and its entry; any SEQ_LEAVE completes. -/
def State.freeSeq (s : State) (n : Nat) (e : SeqEnt) : State :=
  let s := (s.dropRefs 1 (e.pages ++ [e.encHandle])).bindRing e.ring false
  let s := s.modSeqs (fun q => { q with ents := tdel q.ents n })
  e.leaver.foldl (fun s p => s.finish p.1 p.2 Code.ok) s

/-- Phase 1 (R254). -/
def State.stepLeaves (s : State) (job : Nat) : State :=
  ((s.seqs.ordered job).filter (fun p => p.2.state == .leaving || (p.2.state == .joining && p.2.leave))).foldl
    (fun s p => s.freeSeq p.1 p.2) s

/-- A build in progress: its batch, and joins deferred. -/
structure BuildRun where
  st : State
  rows : List StepRow
  deferred : Nat
  /-- A join found too few pages: those after it are deferred (R254). -/
  blocked : Bool

/-- A sequence of phase 2 (R254): it gets the page it needs, or pauses. A failed page request is not logged (R290). -/
def BuildRun.grow (c : BuildRun) (p : Policy) (n : Nat) (e : SeqEnt) : BuildRun :=
  if p.maxBatch ≤ c.rows.length then
    { c with st := c.st.modSeqs (fun q => { q with skip := satAdd q.skip 1 }) }
  else
    let go (s : State) (pages : List W64) : BuildRun :=
      { c with st := s.modSeq n (fun e => { e with state := .active, pages := pages, pauseStart := 0, reported := false }),
               rows := c.rows ++ [{ seq := n, first := false }] }
    if ceilDiv (e.len.toNat + 1) p.tpp ≤ e.pages.length then go c.st e.pages
    else match c.st.allocPort 1 true p.pool with
      | (s, code, h) =>
        if code = Code.ok then go s (e.pages ++ [h])
        else if e.state == .paused then { c with st := s }
        else { c with st := s.modSeq n (fun e => { e with state := .paused, pauseStart := s.now, reported := false }) }

/-- A PAUSED sequence beyond the pause limit is reported once per pause (R260). -/
def State.pauseLimit (s : State) (p : Policy) (n : Nat) : State :=
  match s.seq n with
  | none => s
  | some e =>
    let ticks := (s.now - e.pauseStart).toNat
    if e.state != .paused || e.reported || ticks ≤ p.pauseUs * ticksPerUs then s
    else
      let s := s.modSeq n (fun e => { e with reported := true })
      let s := s.modSeqs (fun q =>
        { q with pauseValid := true, pauseCount := satAdd q.pauseCount 1,
                 pauseSeq := if q.pauseValid then q.pauseSeq else BitVec.ofNat 14 n })
      s.seqStatus n e false true Code.seqPauseLimit (ticks / ticksPerUs)

/-- A sequence of phase 3 (R254): all its first pages at once, or it is deferred with every join after it. -/
def BuildRun.join (c : BuildRun) (p : Policy) (n : Nat) (e : SeqEnt) : BuildRun :=
  let later : BuildRun := { c with deferred := c.deferred + 1, blocked := c.blocked || decide (c.rows.length < p.maxBatch) }
  if c.blocked || p.maxBatch ≤ c.rows.length then later
  else
    let k := ceilDiv (e.prefix_.length + 1) p.tpp
    let s := c.st.rebuildPool p.pool
    if ((tget s.larder.pools p.pool).map Pool.supply).getD 0 < k then { later with st := s }
    else match s.allocAll 1 true p.pool k with
      | (s, code, hs) =>
        if code != Code.ok then { later with st := s }
        else
          { c with st := s.modSeq n (fun e => { e with state := .active, pages := hs }),
                   rows := c.rows ++ [{ seq := n, first := true }] }

/-- Sequences of a job in some states, in the order of R246. -/
def State.seqsIn (s : State) (job : Nat) (f : SeqState → Bool) : List (Nat × SeqEnt) :=
  (s.seqs.ordered job).filter (fun p => f p.2.state)

/-- The three phases of a build (R254, R260). -/
def State.stepPhases (s : State) (job : Nat) (p : Policy) : BuildRun :=
  let s := s.stepLeaves job
  let grows := s.seqsIn job (fun st => st == .active || st == .paused)
  let c : BuildRun := { st := s, rows := [], deferred := 0, blocked := false }
  let c := grows.foldl (fun c q => c.grow p q.1 q.2) c
  let c : BuildRun := { c with st := grows.foldl (fun (s : State) q => s.pauseLimit p q.1) c.st }
  (c.st.seqsIn job (fun st => st == .joining)).foldl (fun c q => c.join p q.1 q.2) c

/-- A row of the work list (R257). -/
def State.workRow (s : State) (row : StepRow) : List Byte :=
  match s.seq row.seq with
  | none => List.replicate 256 0
  | some e =>
    let page (h : W64) : List Byte := leBytes 4 (((s.bufOf h).getD (0, 0)).1 / 65536)
    padTo 32 (leBytes 2 row.seq ++ leBytes 2 (bit row.first) ++ le32 e.len ++ (if row.first then le32 0 else le32 e.lastToken)
        ++ leBytes 1 e.prefix_.length ++ leBytes 1 e.pages.length ++ [0, 0] ++ leBytes 8 e.enc)
      ++ padTo 64 (if row.first then e.prefix_.flatMap le32 else []) ++ padTo 160 (e.pages.flatMap page)

/-- Device address of the buffer bound at a slot of a policy. -/
def State.policyBuf (s : State) (p : Policy) (slot : Nat) : Nat := ((s.bufOf (p.handles.getD slot 0)).getD (0, 0)).1

/-- Submits the decoder graph with v[bdim] = B (R256); a graph or binding that became invalid fails the step. -/
def State.submitStep (s : State) (job : Nat) (p : Policy) (rows : List StepRow) : State :=
  let s := s.hbmWrite (s.policyBuf p p.wlSlot) (rows.flatMap s.workRow)
  let fail (s : State) (code : W32) : State :=
    s.modJob job (fun j => { j with step := j.step.map (fun x => { x with done := some (code, false) }) })
  let s := s.modJob job (fun j => { j with step := some { rows := rows, resAddr := s.policyBuf p p.resSlot, done := none } })
  match (s.runChecks (s.jobOpen job) job p.graph p.ndims p.nslots p.handles).find? (fun c => !c.1) with
  | some c => fail s c.2
  | none =>
    match s.takeRefs 27 p.handles with
    | (t, false) => fail t Code.admBinding
    | (t, true) => t.newInst (.step job) job p.graph (lset p.v p.bdim rows.length) p.handles 0

/-- The records that a job's last step wrote have left the device (R253). -/
def State.stepWritten (s : State) (job : Nat) : Bool :=
  !s.ring.ctx.any (fun c => c.2.waiting.any (fun m =>
    (rd8 m.bytes 1).getLsbD 3 && (s.seq (rd m.bytes 2 2)).any (fun e => e.job = job)))

/-- The condition of R253. -/
def State.stepReady (s : State) (n : Nat) (j : Job) : Bool :=
  match j.nextPolicy with
  | none => false
  | some p =>
    let free := ((tget s.larder.pools p.pool).map Pool.supply).getD 0
    j.step.isNone && j.closing.isNone && s.stepWritten n
      && s.seqs.ents.any (fun q => q.2.job = n && (q.2.state != .paused || free != 0))

/-- The job whose step is built next: by class, then the lowest number (R253). -/
def State.nextStepJob (s : State) : Option (Nat × Job) :=
  (s.plan.jobs.filter (fun p => s.stepReady p.1 p.2)).foldl (fun b p =>
    match b with
    | none => some p
    | some q => if p.2.prio < q.2.prio then some p else some q) none

/-- STEP_BUILD (R253 to R257, R260, R502). -/
def execStepBuild (s : State) : Outcome :=
  .next (
    if !s.serving then s
    else match s.nextStepJob with
      | none => s
      | some (n, j) =>
        match j.nextPolicy with
        | none => s
        | some p =>
          let s := s.modJob n (fun j => { j with policy := some p, newPolicy := none })
          let c := s.stepPhases n p
          let s := c.st.modSeqs (fun q =>
            { q with stepJob := BitVec.ofNat 6 n, stepBatch := BitVec.ofNat 13 c.rows.length,
                     stepDeferred := satNat 13 c.deferred })
          if c.rows.isEmpty then s else s.submitStep n p c.rows)

/-- STEP_COLLECT (R258, R259): the step's instance has ended. Its tokens count at status 0 alone: every other status, one of
class CORRECTED too, ends the step without a token. A sequence in LEAVING then has no further token, and its unfinished bytes
are written after its STREAM_STATUS record. -/
def execStepCollect (job : JobId) (s : State) : Outcome :=
  let n := job.toNat
  .next (
    match s.job n with
    | none => s
    | some j =>
      match j.step.bind (fun x => x.done.map (fun d => (x, d))) with
      | none => s
      | some (x, status, held) =>
        if !s.working then s
        else
          let s := s.modJob n (fun j => { j with step := none })
          if status = 0 then
            ((List.range x.rows.length).zip x.rows).foldl (fun (s : State) q =>
              s.collectToken j.dict q.2 (rd32 (s.hbmRead (x.resAddr + 4 * q.1) 4) 0) held) s
          else
            let s := x.rows.foldl (fun (s : State) row =>
              match s.seq row.seq with
              | some e =>
                let ends := e.state == .leaving && !e.pend.isEmpty
                let s := s.seqStatus row.seq e held (!ends) status 0
                if ends then s.flushPend row.seq e held else s
              | none => s) s
            (s.modSeqs (fun q => { q with stepErr := status })).modJob n (fun j =>
              { j with policy := none, newPolicy := none }))

/-! ## SEQ registers (R247, R269) -/

def seqStateCode : SeqState → Nat
  | .joining => 1
  | .active => 2
  | .paused => 3
  | .leaving => 4

/-- The 64 bytes of an entry; zeros for a FREE one (R247). -/
def State.seqBytes (s : State) (n : Nat) : List Byte :=
  match s.seq n with
  | none => List.replicate 64 0
  | some e =>
    padTo 64 (leBytes 1 (seqStateCode e.state) ++ leBytes 1 e.job ++ leBytes 1 e.prio
      ++ leBytes 1 (bit e.leave + 2 * bit e.reported) ++ leBytes 4 e.ring ++ leBytes 8 e.enc ++ le64 e.utag ++ le32 e.len
      ++ le32 e.maxTokens ++ le32 e.endToken ++ le32 e.lastToken ++ leBytes 1 e.pages.length ++ leBytes 1 e.prefix_.length
      ++ [0, 0] ++ le32 e.joinOrder ++ le64 e.pauseStart)

/-- A write of SEQ_SEL: the selected entry's snapshot. -/
def State.seqSel (s : State) (v : W32) : State :=
  let b := s.seqBytes (field v.toNat 0 14)
  s.modSeqs (fun q => { q with sel := BitVec.ofNat 14 v.toNat, snap := b })

/-- SEQ_SEL_WRITE: the selected entry's snapshot. -/
def execSeqSelWrite (value : W32) (s : State) : Outcome := .next (s.hostWriteReg (fun s => s.seqSel value))

def Seqs.pauseWord (q : Seqs) : Nat := bit q.pauseValid * 2 ^ 31 + q.pauseCount.toNat * 2 ^ 16 + q.pauseSeq.toNat

/-- SEQ_PAUSE_EVT_READ. -/
def execSeqPauseEvtRead (s : State) : Outcome :=
  .next (if !s.regsUp then s
    else (s.reply 4 s.seqs.pauseWord).modSeqs (fun q => { q with pauseValid := false, pauseCount := 0, pauseSeq := 0 }))

/-- SEQ_SKIP_READ. -/
def execSeqSkipRead (s : State) : Outcome :=
  .next (if !s.regsUp then s else (s.reply 4 s.seqs.skip.toNat).modSeqs (fun q => { q with skip := 0 }))

/-- SEQ_STEP_ERR_READ. -/
def execSeqStepErrRead (s : State) : Outcome :=
  .next (if !s.regsUp then s else (s.reply 4 s.seqs.stepErr.toNat).modSeqs (fun q => { q with stepErr := 0 }))

/-- Sequences in a state. -/
def Seqs.countIn (q : Seqs) (st : SeqState) : Nat := (q.ents.filter (fun p => p.2.state == st)).length

/-- SEQ_COUNT. -/
def Seqs.countWord (q : Seqs) : Nat := q.countIn .paused * 2 ^ 32 + q.countIn .joining * 2 ^ 16 + q.countIn .active

/-- SEQ_STEP. -/
def Seqs.stepWord (q : Seqs) : Nat := q.stepJob.toNat * 2 ^ 26 + q.stepBatch.toNat * 2 ^ 13 + q.stepDeferred.toNat

end Sys2Proof.Machine
end

