-- ==== Sys2Proof/Machine/Warp.lean ====
section
/-!
DEFINITION. Warp meshes, the lens model, the warp and the planar pyramid (R297, R316, R343 to R347).
-/
namespace Sys2Proof.Machine

/-! ## The mesh (R343, R344) -/

def meshMagic : Nat := 0x4853454D

/-- Grid points of a mesh's header: columns and rows. -/
def meshCols (b : List Byte) : Nat := rd b 8 2 / 2 ^ rd b 7 1 + 1
def meshRows (b : List Byte) : Nat := rd b 10 2 / 2 ^ rd b 7 1 + 1

/-- Bytes that a mesh's header calls for. -/
def meshSize (b : List Byte) : Nat := if rd b 6 1 = 1 then 64 else 64 + 8 * meshCols b * meshRows b

/-- A mesh keeps the table of R343. -/
def meshOk (b : List Byte) : Bool :=
  let s := rd b 7 1
  let side (v : Nat) : Bool := decide (64 ≤ v ∧ v ≤ 4096) && v % 2 ^ s = 0
  rd b 0 4 = meshMagic && rd b 4 2 = 1 && rd b 6 1 ≤ 1 && decide (3 ≤ s ∧ s ≤ 6) && side (rd b 8 2) && side (rd b 10 2)
    && rd b 12 4 = meshSize b && (rd b 6 1 = 1 || zeroAt b 16 40) && zeroAt b 56 4
    && crc32c (b.take 60 ++ [0, 0, 0, 0] ++ slice b 64 (meshSize b - 64)) == rd32 b 60

/-- One rounding to fp32. -/
def r32 (x : Fp) : Fp := fpSingle.unpack (fpSingle.pack x).1
def mulR (x y : Fp) : Fp := r32 (x.mul y)
def addR (x y : Fp) : Fp := r32 (Fp.sum [x, y])

/-- Rounds to the nearest integer, ties to even, and clamps to int32 (R344). -/
def cvtInt32 (x : Fp) : Int :=
  match x with
  | .nan => Config.nanToInt
  | .inf n => if n then -2147483648 else 2147483647
  | .fin n m e =>
    let a : Nat := if 0 ≤ e then m * 2 ^ e.toNat else shiftRne m (-e).toNat
    let v : Int := if n then -(a : Int) else a
    max (-2147483648) (min 2147483647 v)

/-- The grid point of the lens model at an output position (R344). -/
def lensPoint (b : List Byte) (xo yo : Nat) : Int × Int :=
  let p (k : Nat) : Fp := f32 (rd32 b (16 + 4 * k))
  let one := Fp.ofInt 1
  let two := Fp.ofInt 2
  let scale := Fp.ofInt 65536
  let ro := p 0
  let a := mulR (r32 (Fp.ofInt ((xo : Int) - (rd b 8 2 / 2 : Nat)))) ro
  let c := mulR (r32 (Fp.ofInt ((yo : Int) - (rd b 10 2 / 2 : Nat)))) ro
  let r2 := addR (mulR a a) (mulR c c)
  let f := addR one (mulR r2 (addR (p 1) (mulR r2 (addR (p 2) (mulR r2 (p 3))))))
  let xd := addR (addR (mulR a f) (mulR (mulR (mulR two (p 4)) a) c)) (mulR (p 5) (addR r2 (mulR (mulR two a) a)))
  let yd := addR (addR (mulR c f) (mulR (p 4) (addR r2 (mulR (mulR two c) c)))) (mulR (mulR (mulR two (p 5)) a) c)
  (cvtInt32 (mulR scale (addR (p 8) (mulR (p 6) xd))), cvtInt32 (mulR scale (addR (p 9) (mulR (p 7) yd))))

def signed32 (v : Nat) : Int := (BitVec.ofNat 32 v).toInt

/-- The grid of a mesh (R343, R344). -/
def parseMesh (b : List Byte) : Mesh :=
  let n := meshCols b
  let s := 2 ^ rd b 7 1
  { log2Step := rd b 7 1, outW := rd b 8 2, outH := rd b 10 2,
    points := (List.range (n * meshRows b)).map (fun i =>
      if rd b 6 1 = 1 then lensPoint b (i % n * s) (i / n * s)
      else (signed32 (rd b (64 + 8 * i) 4), signed32 (rd b (68 + 8 * i) 4))) }

/-! ## Source positions (R345) -/

/-- Source position of a level-0 sample, in 1/256 sample. -/
def Mesh.position (m : Mesh) (wo ho xo yo : Nat) : Int × Int :=
  let s := m.log2Step
  let size := 2 ^ s
  let cols := m.outW / size + 1
  let i := xo / size
  let j := yo / size
  let u : Int := (xo % size : Nat)
  let v : Int := (yo % size : Nat)
  let full : Int := size
  let at_ (dx dy : Nat) : Int × Int :=
    let q := m.points.getD ((j + dy) * cols + i + dx) (0, 0)
    (q.1 * wo / 256, q.2 * ho / 256)
  let mix (f : Int × Int → Int) : Int :=
    (f (at_ 0 0) * (full - u) * (full - v) + f (at_ 1 0) * u * (full - v) + f (at_ 0 1) * (full - u) * v
      + f (at_ 1 1) * u * v) / (2 ^ (2 * s) : Nat)
  (mix (·.1), mix (·.2))

/-- A picture plane in row order. -/
structure Plane where
  w : Nat
  h : Nat
  data : List Nat
  deriving DecidableEq, Repr

/-- A sample, or the fill value outside the plane. -/
def Plane.at_ (p : Plane) (fill : Nat) (x y : Int) : Nat :=
  if x < 0 || y < 0 || (p.w : Int) ≤ x || (p.h : Int) ≤ y then fill else p.data.getD (y.toNat * p.w + x.toNat) 0

/-- The bilinear sample at a position in 1/256 sample (R345). -/
def Plane.bilinear (p : Plane) (fill : Nat) (x256 y256 : Int) : Nat :=
  let ix := x256 / 256
  let fx := (x256 % 256).toNat
  let iy := y256 / 256
  let fy := (y256 % 256).toNat
  ((256 - fx) * (256 - fy) * p.at_ fill ix iy + fx * (256 - fy) * p.at_ fill (ix + 1) iy
    + (256 - fx) * fy * p.at_ fill ix (iy + 1) + fx * fy * p.at_ fill (ix + 1) (iy + 1) + 32768) / 65536

/-- The points of a plane of a size in row order. -/
def gridPoints (w h : Nat) : List (Nat × Nat) := (List.range h).flatMap (fun y => (List.range w).map (fun x => (x, y)))

/-- Level 0 of a pyramid: Y, U and V, warped or copied (R345). -/
def levelZero (m : Option Mesh) (y u v : Plane) : List Plane :=
  match m with
  | none => [y, u, v]
  | some m =>
    let pos := m.position y.w y.h
    let cw := ceilDiv m.outW 2
    let ch := ceilDiv m.outH 2
    let chroma (p : Plane) : Plane :=
      { w := cw, h := ch, data := (gridPoints cw ch).map (fun q =>
          let a := pos (2 * q.1) (2 * q.2)
          p.bilinear 128 (a.1 / 2) (a.2 / 2)) }
    [ { w := m.outW, h := m.outH, data := (gridPoints m.outW m.outH).map (fun q =>
          let a := pos q.1 q.2
          y.bilinear 0 a.1 a.2) }, chroma u, chroma v ]

/-- A 10-bit sample as the pyramid holds it (R297; log entry 34). -/
def tenToEight (v : Nat) : Nat := min ((v + 2) / 4) 255

/-! ## The pyramid (R346, R347) -/

/-- The next level of a plane (R346). -/
def Plane.reduce (p : Plane) : Plane :=
  let w := ceilDiv p.w 2
  let h := ceilDiv p.h 2
  let px (x y : Nat) : Nat := p.data.getD (min y (p.h - 1) * p.w + min x (p.w - 1)) 0
  { w := w, h := h, data := (gridPoints w h).map (fun q =>
      let x := 2 * q.1
      let y := 2 * q.2
      (px x y + px (x + 1) y + px x (y + 1) + px (x + 1) (y + 1) + 2) / 4) }

/-- The levels from a level on; at most `fuel` more. -/
def levelsFrom : Nat → List Plane → List (List Plane)
  | 0, l => [l]
  | fuel + 1, l =>
    match l with
    | y :: _ =>
      if ceilDiv y.w 2 < 64 || ceilDiv y.h 2 < 64 then [l] else l :: levelsFrom fuel (l.map Plane.reduce)
    | [] => [l]

/-- Widths and heights of the levels of a pyramid (R346). -/
def levelDims : Nat → Nat → Nat → List (Nat × Nat)
  | 0, w, h => [(w, h)]
  | fuel + 1, w, h =>
    if ceilDiv w 2 < 64 || ceilDiv h 2 < 64 then [(w, h)] else (w, h) :: levelDims fuel (ceilDiv w 2) (ceilDiv h 2)

def pitchOf (w : Nat) : Nat := 64 * ceilDiv w 64

/-- Bytes of one level: Y, U and V (R347). -/
def levelBytes (d : Nat × Nat) : Nat := pitchOf d.1 * d.2 + 2 * (pitchOf (ceilDiv d.1 2) * ceilDiv d.2 2)

/-- Bytes of a pyramid whose level 0 has a size. -/
def pyramidBytes (w h : Nat) : Nat := 64 + ((levelDims 5 w h).map levelBytes).sum

/-- The rows of a plane as writes: offset and bytes; the offset behind the plane. -/
def Plane.rows (p : Plane) (off : Nat) : List (Nat × List Byte) :=
  (List.range p.h).map (fun y =>
    (off + pitchOf p.w * y, ((p.data.drop (y * p.w)).take p.w).map (fun v => BitVec.ofNat 8 v)))

/-- The writes of a pyramid's samples (R347). -/
def pyramidWrites (l : List Plane) : List (Nat × List Byte) :=
  ((levelsFrom 5 l).flatten.foldl (fun (q : List (Nat × List Byte) × Nat) p =>
    (q.1 ++ p.rows q.2, q.2 + pitchOf p.w * p.h)) ([], 64)).1

/-- The header of a pyramid (R347). -/
def pyramidHeader (w h : Nat) (k : W32) (pts : W64) : List Byte :=
  let d := levelDims 5 w h
  leBytes 4 0x4D525950 ++ leBytes 1 d.length ++ [0, 0, 0] ++ padTo 24 (d.flatMap (fun q => leBytes 2 q.1 ++ leBytes 2 q.2))
    ++ le32 k ++ [0, 0, 0, 0] ++ le64 pts ++ List.replicate 16 0

/-! ## The warp mode (R316) -/

/-- First and last source row of each band of 16 level-0 rows. -/
def Mesh.bands (m : Mesh) (wo ho hc : Nat) : List (Int × Int) :=
  (List.range (ceilDiv m.outH 16)).map (fun b =>
    let rows := (List.range (min 16 (m.outH - 16 * b))).map (16 * b + ·)
    let ys := rows.flatMap (fun y => (List.range m.outW).map (fun x => (m.position wo ho x y).2 / 256))
    let lo := ys.foldl min (ys.headD 0)
    let hi := ys.foldl max (ys.headD 0)
    (max 0 lo, min ((hc : Int) - 1) (hi + 1)))

/-- The last rows never go back. -/
def bandsRise : List (Int × Int) → Bool
  | a :: b :: r => decide (a.2 ≤ b.2) && bandsRise (b :: r)
  | _ => true

/-- The mode is SEPARATE. -/
def Mesh.separate (m : Mesh) (wo ho hc : Nat) : Bool :=
  let bs := m.bands wo ho hc
  !(bs.all (fun b => decide (b.2 - b.1 + 1 ≤ 64)) && bandsRise bs)

end Sys2Proof.Machine
end

