-- ==== Sys2Proof/Machine/VideoCore.lean ====
section
/-!
DEFINITION. Streams: sequence parameter sets, buffers, decode pipes, output order, frames (R294 to R317, R327).
-/
namespace Sys2Proof.Machine

def State.modVideo (s : State) (f : Video → Video) : State := { s with video := f s.video }
def State.stream (s : State) (n : Nat) : Option Stream := tget s.video.streams n
def State.modStream (s : State) (n : Nat) (f : Stream → Stream) : State :=
  s.modVideo (fun v => { v with streams := tmod v.streams n f })

/-- A frame's or a header's STREAM_STATUS. -/
def note (status : W32) : Note := { status := status, pos := 0, row := 0, rows := 0 }

/-! ## Sequence parameter sets (R294, R295, R304, R305) -/

/-- Profile, chroma format, bit depth and tools of R294 and R295. -/
def spsToolsOk (h265 : Bool) (c : Config.SpsInfo) : Bool :=
  let depth (d : Nat) : Bool := d = 8 || (h265 && d = 10)
  let profile := if h265 then c.profile = 1 || c.profile = 2 || c.profile = 3
    else c.profile = 66 || c.profile = 77 || c.profile = 100
  profile && c.chroma = 1 && depth c.bitLuma && depth c.bitChroma && (h265 || c.frameOnly) && !(h265 && c.extension)

/-- MaxFS by ten times the level (H.264, Table A-1; PRESUMED). -/
def maxFs (level : Nat) : Option Nat :=
  match level with
  | 9 | 10 => some 99
  | 11 | 12 | 13 | 20 => some 396
  | 21 => some 792
  | 22 | 30 => some 1620
  | 31 => some 3600
  | 32 => some 5120
  | 40 | 41 => some 8192
  | 42 => some 8704
  | 50 => some 22080
  | 51 => some 36864
  | _ => none

/-- MaxLumaPs by ten times the level (H.265, Table A.8; PRESUMED). -/
def maxLumaPs (level : Nat) : Option Nat :=
  match level with
  | 10 => some 36864
  | 20 => some 122880
  | 21 => some 245760
  | 30 => some 552960
  | 31 => some 983040
  | 40 | 41 => some 2228224
  | 50 | 51 => some 8912896
  | _ => none

/-- Check 3 of R305: a claimed level up to 5.1, its picture size, and each side. -/
def spsLevelOk (h265 : Bool) (c : Config.SpsInfo) : Bool :=
  if h265 then (maxLumaPs c.level).any (fun m =>
    c.wc * c.hc ≤ m && c.wc * c.wc ≤ 8 * m && c.hc * c.hc ≤ 8 * m)
  else (maxFs c.level).any (fun m =>
    c.wc * c.hc ≤ 256 * m && c.wc * c.wc ≤ 2048 * m && c.hc * c.hc ≤ 2048 * m)

def spsTen (c : Config.SpsInfo) : Bool := decide (8 < c.bitLuma) || decide (8 < c.bitChroma)

/-- R_b of R304. -/
def refBytes (c : Config.SpsInfo) : Nat :=
  let d := if spsTen c then 2 else 1
  4096 * ceilDiv (64 * ceilDiv c.wc 64 * c.hc * 3 / 2 * d + ceilDiv c.wc 16 * ceilDiv c.hc 16 * 16) 4096

/-- Buffer size of a pool; 0 for none. -/
def State.poolSize (s : State) (n : Nat) : Nat := ((tget s.larder.pools n).map (fun p => 2 ^ p.log2Size)).getD 0

/-- The checks of R305, in order. -/
def State.spsChecks (s : State) (t : Stream) (c : Config.SpsInfo) : List (Bool × W32) :=
  [ (spsToolsOk t.h265 c, Code.vidTool),
    (decide (c.wo ≤ t.maxW ∧ c.ho ≤ t.maxH ∧ c.wc ≤ 64 * ceilDiv t.maxW 64 ∧ c.hc ≤ 64 * ceilDiv t.maxH 64), Code.vidDimOver),
    (spsLevelOk t.h265 c, Code.vidLevelOver),
    (decide (refBytes c ≤ s.poolSize t.refPool), Code.vidRefSize) ]

/-- Reference buffers of a set: max_dec_pic_buffering + 1 (R304). -/
def refCount (h265 : Bool) (c : Config.SpsInfo) : Nat := if h265 then c.maxDec + 2 else c.maxDec + 1

/-- The stream rate of R319 in frames per 1,000 s, when the VUI, or for H.265 the video parameter set, carries timing; a timing of
0 units in a tick is none (log entry 137). -/
def spsRate (h265 : Bool) (vps : Option (Nat × Nat)) (c : Config.SpsInfo) : Option Nat :=
  let rate (q : Nat × Nat) : Option Nat :=
    if q.1 = 0 then none else some (1000 * q.2 / (if h265 then q.1 else 2 * q.1))
  (if h265 then c.timing.or vps else c.timing).bind rate

/-- What an accepted set fixes (R304, R310, R316, R319). -/
def spsParams (m : Option Mesh) (h265 : Bool) (vps : Option (Nat × Nat)) (c : Config.SpsInfo) : SeqParams :=
  { wc := c.wc, hc := c.hc, wo := c.wo, ho := c.ho, tenBit := spsTen c, fps := spsRate h265 vps c, frameNums := c.maxFrameNum,
    x0 := c.x0, y0 := c.y0, bufs := [],
    separate := (m.map (fun m => m.separate c.wo c.ho c.hc)).getD false,
    outW := (m.map (·.outW)).getD c.wo, outH := (m.map (·.outH)).getD c.ho }

/-- The Larder port through which a stream's buffers come and go outside a pipe (log entry 35). -/
def streamPort : Nat := 2

/-- Reference buffers for an accepted set (R304, R317): all of them, or none. -/
def State.allocRefs (s : State) (pool n : Nat) : State × Bool × List W64 :=
  let s := s.rebuildPool pool
  if ((tget s.larder.pools pool).map Pool.supply).getD 0 < n then (s.answered streamPort Code.bufEmpty 0, false, [])
  else match s.allocAll streamPort false pool n with
    | (s, c, hs) => if c = Code.ok then (s, true, hs) else (s.larderFail streamPort 0 c 0, false, [])

/-! ## Output and frames (R303, R314, R354) -/

/-- A reconstructed picture is output: frame k; its header is complete; open views take it (R314, R320, R347). -/
def State.outputPic (s : State) (n : Nat) (h : HeldPic) : State :=
  match s.stream n with
  | none => s
  | some t =>
    let k := t.nextK
    let s := if h.own then
        s.hbmWrite ((s.bufOf h.pyr).getD (0, 0)).1 (pyramidHeader h.par.outW h.par.outH k h.pts) else s
    let views := s.video.views.filter (fun v => v.2.stream = n && !v.2.closing && h.pyr != 0)
    let s := views.foldl (fun (s : State) v =>
      match s.takeRef (20 + v.2.pipe) h.pyr with
      | (s, c) =>
        if c != Code.ok then s
        else s.modVideo (fun x => { x with views := tmod x.views v.1 (fun w =>
          { w with todo := w.todo ++ [{ k := k, pyr := h.pyr, pts := h.pts, par := h.par }],
                   firstK := w.firstK.or (some k) }) })) s
    let f : FrameSt :=
      { k := k, pyr := h.pyr, pts := h.pts, par := h.par, phase := if h.pyr = 0 then .none else .waiting,
        notes := h.notes ++ (if h.pyr = 0 then [note Code.vidNoPyramid] else []), late := h.late }
    s.modStream n (fun t => { t with nextK := t.nextK + 1, output := satAdd t.output 1, frames := t.frames ++ [f] })

/-- Outputs held pictures by their places in decode order. -/
def State.outputNums (s : State) (n : Nat) : List Nat → State
  | [] => s
  | i :: r =>
    match (s.stream n).bind (fun t => t.held.find? (fun h => h.num = i)) with
    | none => s.outputNums n r
    | some h =>
      ((s.modStream n (fun t => { t with held := t.held.filter (fun x => x.num != i) })).outputPic n h).outputNums n r

/-- A record of a stream goes to its ring (R366, R367). -/
def State.streamRecord (s : State) (n : Nat) (t : Stream) (kind : Nat) (held last : Bool) (num : W32) (tag : W64)
    (body : List Byte) : State :=
  s.postMeta t.ring (metaRec kind held last false n num tag body) last

/-- Once no picture waits for decoding, a stream that takes no more data outputs the pictures it holds; once no frame is
left, a refusal writes its record (R302, R306). -/
def State.settleStream (s : State) (n : Nat) : State :=
  match s.stream n with
  | none => s
  | some t =>
    let ends := t.state == .closing || t.state == .refused
    if !ends || !t.pics.isEmpty then s
    else
      let order := (Config.flushOrder t.h265 t.ctx).map (fun d => t.nextNum - 1 - d)
      let s := s.outputNums n (order ++ t.held.map (·.num))
      match s.stream n with
      | none => s
      | some t =>
        match t.refusal with
        | none => s
        | some (code, pos, pts) =>
          if !t.frames.isEmpty then s
          else
            (s.streamRecord n t kindStatus false true t.nextK pts (statusBody code pos 0 0 0)).modStream n (fun t =>
              { t with refusal := none })

/-! ## Decode pipes (R307, R308) -/

/-- The picture of a stream that is next in decode order. -/
def Stream.head (t : Stream) : Option Pic := t.pics.head?

def State.modPic (s : State) (n : Nat) (f : Pic → Pic) : State :=
  s.modStream n (fun t => { t with pics := lmod t.pics 0 f })

/-- The first ready picture: by class, then dispatch (R308). -/
def State.readyPic (s : State) : Option (Nat × Stream × Pic) :=
  let ready := s.video.streams.filterMap (fun p =>
    match p.2.head with
    | some q => if q.phase = .ready then some (p.1, p.2, q) else none
    | none => none)
  ready.foldl (fun b p =>
    match b with
    | none => some p
    | some q =>
      if p.2.1.prio < q.2.1.prio || (p.2.1.prio = q.2.1.prio && decide (p.2.2.order < q.2.2.order)) then some p
      else some q) none

/-- The pictures that hold a pipe, with their streams. -/
def State.onPipe (s : State) (f : PicPhase → Bool) : List (Nat × Stream × Pic) :=
  s.video.streams.filterMap (fun p =>
    match p.2.head with
    | some q => if f q.phase then some (p.1, p.2, q) else none
    | none => none)

/-- The picture that runs on a pipe. -/
def State.running (s : State) (pipe : Nat) : Option (Nat × Stream × Pic) :=
  (s.onPipe (fun f => f = .pipe pipe)).head?

/-- No picture runs on a pipe or is being saved from it. -/
def State.pipeFree (s : State) (pipe : Nat) : Bool :=
  s.video.dec.getLsbD pipe && (s.onPipe (fun f => f = .pipe pipe || f = .saving pipe)).isEmpty

def State.suspendedOn (s : State) (pipe : Nat) : List (Nat × Stream × Pic) := s.onPipe (fun f => f = .suspended pipe)

/-- Free, and no suspended picture waits for it. -/
def State.pipeIdle (s : State) (pipe : Nat) : Bool := s.pipeFree pipe && (s.suspendedOn pipe).isEmpty

/-- The pipe that takes a ready picture of a class: the lowest idle one, or one whose suspended pictures are all of lower
classes (R308). -/
def State.pipeFor (s : State) (prio : Nat) : Option Nat :=
  (findNat s.pipeIdle 18 0).or
    (findNat (fun p => s.pipeFree p && (s.suspendedOn p).all (fun q => decide (prio < q.2.1.prio))) 18 0)

/-- A ready picture is put on a pipe: its budget and concealment mode are fixed (R310, R449). -/
def State.assignPic (s : State) (pipe : Nat) (q : Nat × Stream × Pic) : State :=
  let t := q.2.1
  let mean := if q.2.2.newSeq then BitVec.ofNat 32 (ceilDiv (q.2.2.par.wc * q.2.2.par.hc) 2) else t.mean
  (s.modStream q.1 (fun t => { t with mean := mean })).modPic q.1 (fun p =>
    { p with phase := .pipe pipe, budget := (if t.budgetX = 0 then 8 else t.budgetX) * mean.toNat, motion := s.video.conceal })

/-! ## Pipes in the ladder (R463, R472, R476) -/

/-- Units of R476 for the pipes. -/
def unitDec : Nat := 2
def unitEnc : Nat := 3

/-- A log entry about a pipe. -/
def pipeEntry (encode : Bool) (p job stream attempt action : Nat) (status : W32) : LogEntry :=
  { status := status, unit := if encode then unitEnc else unitDec, index := p, attempt := attempt, action := action,
    job := job, ctx := BitVec.ofNat 32 (2 ^ 31 + stream) }

/-- A TRANSIENT error is counted against a pipe (R472). -/
def State.countPipe (s : State) (encode : Bool) (p : Nat) : State :=
  if encode then { s with ras := { s.ras with cntEnc := tup s.ras.cntEnc p 0 (· + 1) } }
  else { s with ras := { s.ras with cntDec := tup s.ras.cntDec p 0 (· + 1) } }

/-- The outcome of a picture or an AU that faults had sent back: RCV_RETRIED, counted on the pipe, or RCV_SUBSTITUTED. -/
def State.pipeOutcome (s : State) (encode : Bool) (p job stream faults : Nat) : State :=
  match faults with
  | 0 => s
  | 1 => (s.log (pipeEntry encode p job stream 2 1 Code.rcvRetried)).countPipe encode p
  | _ => s.log (pipeEntry encode p job stream 3 2 Code.rcvSubstituted)

/-! ## Reference buffers (R304, R312, R317)

R304 gives a reference picture's size: luma rows at a pitch of 64 × ceil(Wc ÷ 64) samples, half as many chroma samples, and the motion
field. The order Y, U, V, field is the model's (log entry 70). -/

/-- A plane's rows, each filled up to a pitch in samples. -/
def shotPlane (ten : Bool) (w pitch : Nat) (data : List Nat) : List Byte :=
  let d := if ten then 2 else 1
  (chunks w data.length data).flatMap (fun r => padTo (pitch * d) (r.flatMap (leBytes d)))

/-- A picture as a reference buffer holds it. -/
def Shot.bytes (ten : Bool) (p : Shot) : List Byte :=
  let pitch := 64 * ceilDiv p.w 64
  shotPlane ten p.w pitch p.y ++ shotPlane ten (p.w / 2) (pitch / 2) p.u ++ shotPlane ten (p.w / 2) (pitch / 2) p.v

/-- Samples of a plane in the HBM. -/
def State.planeFrom (s : State) (ten : Bool) (a w h pitch : Nat) : List Nat :=
  let d := if ten then 2 else 1
  (List.range h).flatMap (fun y =>
    let b := s.hbmRead (a + pitch * d * y) (w * d)
    (List.range w).map (fun x => rd b (d * x) d))

/-- A picture read back from a reference buffer. -/
def State.shotFrom (s : State) (ten : Bool) (a w h : Nat) : Shot :=
  let d := if ten then 2 else 1
  let pitch := 64 * ceilDiv w 64
  let u := a + pitch * d * h
  { w := w, h := h, y := s.planeFrom ten a w h pitch, u := s.planeFrom ten u (w / 2) (h / 2) (pitch / 2),
    v := s.planeFrom ten (u + pitch / 2 * d * (h / 2)) (w / 2) (h / 2) (pitch / 2) }

/-- A picture of mid-grey samples (R312, R313). -/
def Shot.grey (w h : Nat) (ten : Bool) : Shot :=
  let g := if ten then 512 else 128
  { w := w, h := h, y := List.replicate (w * h) g, u := List.replicate (w / 2 * (h / 2)) g, v := List.replicate (w / 2 * (h / 2)) g }

/-- The references that a picture may use: none of an earlier sequence. -/
def Stream.refsOf (t : Stream) (p : Pic) : List RefEntry := if p.newSeq then [] else t.entries

/-- Offsets of the poisoned 64-byte blocks of a range. -/
def State.poisonOffsets (s : State) (a n : Nat) : List Nat :=
  ((List.range (ceilDiv n 64)).map (64 * ·)).filter (fun k => s.poisoned (a + k) 64)

/-- The reference pictures of a picture: entry, bytes and poison. An entry without a buffer is not among them (log entry 138). -/
def State.refInputs (s : State) (t : Stream) (p : Pic) : List (Nat × List Byte × List Nat) :=
  (t.refsOf p).filterMap (fun e =>
    if e.buf = 0 then none
    else (s.bufOf e.buf).map (fun q => (e.no, s.hbmRead q.1 q.2, s.poisonOffsets q.1 q.2)))

/-- Some reference of a picture reports MEM_UE (R464). -/
def State.refsBad (s : State) (t : Stream) (p : Pic) : Bool := (s.refInputs t p).any (fun r => !r.2.2.isEmpty)

/-! ## Concealment (R313) -/

/-- No slice gives a block row. -/
def missesRow (d : Config.Decoded) (row : Nat) : Bool :=
  d.missing.any (fun m => decide (m.2.1 ≤ row ∧ row < m.2.1 + m.2.2))

/-- The motion vector of a block in mode MOTION: a concealed block takes that of the block above it, zero in the first row. -/
def blockVector (d : Config.Decoded) (cols col : Nat) : Nat → Int × Int
  | 0 => if missesRow d 0 then (0, 0) else d.vectors.getD col (0, 0)
  | row + 1 => if missesRow d (row + 1) then blockVector d cols col row else d.vectors.getD ((row + 1) * cols + col) (0, 0)

/-- A sample of a plane of the previous picture at a motion vector, positions clamped to the picture. -/
def motionSample (h265 chroma : Bool) (p : List Nat) (w h x y : Nat) (mv : Int × Int) : Nat :=
  let unit : Int := if chroma then 8 else 4
  let px := (x : Int) + mv.1 / unit
  let py := (y : Int) + mv.2 / unit
  let cl (v : Int) (n : Nat) : Nat := (max 0 (min v ((n : Int) - 1))).toNat
  if mv.1 % unit = 0 && mv.2 % unit = 0 then p.getD (cl py h * w + cl px w) 0
  else Config.interpolate h265 chroma p w h px py (mv.1 % unit) (mv.2 % unit)

/-- A plane with its concealed samples: co-located samples of the previous picture (COPY), or a prediction from it (MOTION). -/
def concealPlane (h265 chroma motion : Bool) (d : Config.Decoded) (cols : Nat) (prev data : List Nat) (w h : Nat) : List Nat :=
  let n := if chroma then 8 else 16
  ((gridPoints w h).zip data).map (fun q =>
    let x := q.1.1
    let y := q.1.2
    if !missesRow d (y / n) then q.2
    else motionSample h265 chroma prev w h x y (if motion then blockVector d cols (x / n) (y / n) else (0, 0)))

/-- The picture that concealment repeats: the previous one in decode order, or mid-grey where there is none of the same size. -/
def Stream.before (t : Stream) (p : Pic) : Shot :=
  match t.shot with
  | some q => if q.w = p.par.wc && q.h = p.par.hc then q else Shot.grey p.par.wc p.par.hc p.par.tenBit
  | none => Shot.grey p.par.wc p.par.hc p.par.tenBit

/-- The reconstructed picture, concealed where slices are missing. -/
def Stream.rebuilt (t : Stream) (p : Pic) (d : Config.Decoded) : Shot :=
  let q := t.before p
  let w := p.par.wc
  let h := p.par.hc
  let cols := ceilDiv w 16
  let f (chroma : Bool) (prev data : List Nat) (w h : Nat) : List Nat := concealPlane t.h265 chroma p.motion d cols prev data w h
  { w := w, h := h, y := f false q.y d.y w h, u := f true q.u d.u (w / 2) (h / 2), v := f true q.v d.v (w / 2) (h / 2) }

/-! ## Reconstruction (R310 to R314, R317) -/

/-- What decoding the picture gives. -/
def State.decoded (s : State) (t : Stream) (p : Pic) : Config.Decoded :=
  Config.decodePicture t.h265 p.ctx t.dec p.units (s.refInputs t p) ((Shot.grey p.par.wc p.par.hc p.par.tenBit).bytes p.par.tenBit)

/-- c of R310: with the separate warp pass of a picture that has a pyramid, at two samples per vclk. -/
def Pic.cycles (p : Pic) (d : Config.Decoded) : Nat :=
  d.cycles + if p.par.separate && p.shown then ceilDiv (p.par.outW * p.par.outH) 2 else 0

/-- M after a picture (R310): signed, rounded toward zero. -/
def nextMean (m c : Nat) : Nat := if m ≤ c then m + (c - m) / 32 else m - (m - c) / 32

/-- A rectangle of a plane that is `stride` wide. -/
def cutPlane (data : List Nat) (stride x0 y0 w h : Nat) : Plane :=
  { w := w, h := h, data := (gridPoints w h).map (fun q => data.getD ((y0 + q.2) * stride + x0 + q.1) 0) }

/-- The planes of a picture after cropping, in 8 bits (R297). -/
def picPlanes (p : Pic) (q : Shot) : List Plane :=
  let f (l : List Nat) : List Nat := if p.par.tenBit then l.map tenToEight else l
  let cw := ceilDiv p.par.wo 2
  let ch := ceilDiv p.par.ho 2
  let half (l : List Nat) : Plane := cutPlane (f l) (q.w / 2) (p.par.x0 / 2) (p.par.y0 / 2) cw ch
  [ cutPlane (f q.y) q.w p.par.x0 p.par.y0 p.par.wo p.par.ho, half q.u, half q.v ]

/-- The buffers of a picture's set that serve as references. -/
def SeqParams.refBufs (p : SeqParams) : List W64 := if p.separate then p.bufs.take (p.bufs.length - 1) else p.bufs

/-- The references that stay after a picture; an alias that goes drops its reference on the buffer. -/
def State.keepRefs (s : State) (n pipe : Nat) (t : Stream) (p : Pic) (keep : List Nat) : State × List RefEntry :=
  let stay := (t.refsOf p).filter (fun e => keep.contains e.no)
  let gone := t.entries.filter (fun e => e.alias_ && !stay.contains e)
  ((s.dropRefs (streamPort + pipe) (gone.map (·.buf))).modStream n (fun t => { t with entries := stay }), stay)

/-- A reconstructed picture goes to a reference buffer where the codec needs it as a reference, and in SEPARATE mode always (R317): the
first buffer of its set that holds none of the references that stay, or the extra one. -/
def State.storeRef (s : State) (n pipe : Nat) (t : Stream) (p : Pic) (d : Config.Decoded) (q : Shot) : State × W64 :=
  let (s, stay) := s.keepRefs n pipe t p d.keep
  let free := (p.par.refBufs.find? (fun h => stay.all (fun e => e.buf != h))).getD 0
  let buf := if d.entry.isSome then free else if p.par.separate then p.par.bufs.getLastD 0 else 0
  let s := match s.bufOf buf with
    | some (a, len) => s.hbmWrite a ((q.bytes p.par.tenBit ++ if d.entry.isSome then d.field else []).take len)
    | none => s
  (s.modStream n (fun t =>
    { t with entries := t.entries ++ (d.entry.map (fun e => { no := e, buf := buf, alias_ := false : RefEntry })).toList,
             shot := some q, lastBuf := if d.entry.isSome then buf else 0 }), buf)

/-- The picture that the warp engine reads: the reconstruction itself (INLINE), or what it reads back (SEPARATE) (R317). -/
def State.warpSource (s : State) (p : Pic) (q : Shot) (buf : W64) : Shot :=
  if p.par.separate && buf != 0 then s.shotFrom p.par.tenBit ((s.bufOf buf).getD (0, 0)).1 q.w q.h else q

/-- The pyramid of a picture: its buffer is allocated and its samples are written; none when the pool is short or its buffers
are too small (R314, R347). -/
def State.writePyramid (s : State) (pipe : Nat) (t : Stream) (p : Pic) (q : Shot) : State × W64 :=
  if s.poolSize t.pyrPool < pyramidBytes p.par.outW p.par.outH then (s, 0)
  else match s.takeBuf (streamPort + pipe) t.pyrPool with
    | (s, c, h) =>
      if c != Code.ok then (s, 0)
      else
        let at_ := ((s.bufOf h).getD (0, 0)).1
        let level0 := match picPlanes p q with
          | [y, u, v] => levelZero t.mesh y u v
          | l => l
        ((pyramidWrites level0).foldl (fun (s : State) w => s.hbmWrite (at_ + w.1) w.2) s, h)

/-- A picture leaves its pipe: buffers of an earlier sequence go after the last picture that uses them; the pictures it
brings out are output (R303, R304). Those that wait while it recovers are delayed by it (R78, R309). -/
def State.picDone (s : State) (n : Nat) (p : Pic) (pipe : Nat) (h : Option HeldPic) : State :=
  match s.stream n with
  | none => s
  | some t =>
    let old := t.oldRefs.filter (fun r => decide (r.1 ≤ p.num))
    let s := s.dropRefs (streamPort + pipe) (old.flatMap (·.2))
    let s := s.modStream n (fun t =>
      { t with pics := (t.pics.drop 1).map (fun q => { q with late := q.late || p.faults != 0 }),
               oldRefs := t.oldRefs.filter (fun r => decide (p.num < r.1)),
               held := t.held.map (fun q => { q with late := q.late || p.faults != 0 }) ++ h.toList })
    (s.outputNums n (p.bump.map (fun d => p.num - d))).settleStream n

/-- The previous picture's pyramid, which an abandoned picture repeats, keeps a reference (R311; log entry 36). -/
def State.keepLast (s : State) (n pipe : Nat) (h : W64) : State :=
  match s.stream n with
  | none => s
  | some t =>
    if h = t.lastPyr then s
    else
      let s := (s.takeRef (streamPort + pipe) h).1
      (s.dropRef (streamPort + pipe) t.lastPyr).modStream n (fun t => { t with lastPyr := h })

/-- A recovery delays the picture's records (R78, R309). -/
def Pic.delayed (p : Pic) : Bool := p.late || p.faults != 0

/-- PICTURE_RECONSTRUCTED on a picture within its budget; poisoned references are logged (R464). -/
def State.reconstruct (s : State) (pipe n : Nat) (t : Stream) (p : Pic) (d : Config.Decoded) : State :=
  let samples := p.par.wc * p.par.hc
  let s := if s.refsBad t p then s.log (pipeEntry false pipe t.job n 0 0 Code.memUe) else s
  let s := s.pipeOutcome false pipe t.job n p.faults
  let s := (s.count 8 samples).jobEnergy t.job (s.energyOf 8 samples)
  let notes := d.missing.map (fun c =>
    { status := Code.vidConceal, pos := p.pos + BitVec.ofNat 64 c.1, row := c.2.1, rows := c.2.2 : Note })
  let clears := t.slow && decide (31 ≤ t.within)
  let s := s.modVideo (fun v => { v with concealed := satAdd v.concealed d.missing.length })
  let q := t.rebuilt p d
  let (s, buf) := s.storeRef n pipe t p d q
  let s := s.modStream n (fun t =>
    { t with mean := BitVec.ofNat 32 (nextMean t.mean.toNat (p.cycles d)), dec := d.next, slow := t.slow && !clears,
             state := if t.state == .refreshing && p.shown then .running else t.state,
             within := if clears then 0 else if t.slow then t.within + 1 else 0 })
  if !p.shown then s.picDone n p pipe none
  else match s.writePyramid pipe t p (s.warpSource p q buf) with
    | (s, h) =>
      (s.keepLast n pipe h).picDone n p pipe (some
        { num := p.num, pyr := h, own := h != 0, pts := p.pts, par := p.par,
          notes := notes ++ (if clears then [note Code.ok] else []), late := p.delayed })

/-- The reference entry of an abandoned picture: an alias of the previous picture in decode order, with a reference on its buffer
(R311). -/
def State.aliasRef (s : State) (n pipe : Nat) (t : Stream) (p : Pic) (r : Config.Repeated) : State :=
  let (s, _) := s.keepRefs n pipe t p r.keep
  let buf := if p.newSeq then 0 else t.lastBuf
  let add (s : State) (e : RefEntry) : State := s.modStream n (fun t => { t with entries := t.entries ++ [e] })
  let s := s.modStream n (fun t => { t with lastBuf := buf })
  match r.entry with
  | none => s
  | some no =>
    match s.takeRef (streamPort + pipe) buf with
    | (s, c) =>
      if c = Code.ok && buf != 0 then add s { no := no, buf := buf, alias_ := true }
      else add s { no := no, buf := 0, alias_ := false }

/-- A picture is given up and repeats the previous one (R311); `why` is noted beside VID_SLOW. -/
def State.abandon (s : State) (pipe n : Nat) (t : Stream) (p : Pic) (slow : Bool) (why : List Note) : State :=
  let r := Config.repeatPicture t.h265 p.ctx t.dec p.units
  let s := if slow then s.modVideo (fun v => { v with slow := satAdd v.slow 1 }) else s
  let s := (s.aliasRef n pipe t p r).modStream n (fun t =>
    { t with dec := r.next, slow := t.slow || slow, within := if slow then 0 else t.within,
             state := if t.state == .refreshing && p.shown then .running else t.state })
  if !p.shown then s.picDone n p pipe none
  else
    let taken := s.takeRef (streamPort + pipe) t.lastPyr
    let h := if taken.2 = Code.ok then t.lastPyr else 0
    taken.1.picDone n p pipe (some
      { num := p.num, pyr := h, own := false, pts := p.pts, par := p.par,
        notes := (if slow && !t.slow then [note Code.vidSlow] else []) ++ why, late := p.delayed })

end Sys2Proof.Machine
end

