-- ==== Sys2Proof/Machine/Video.lean ====
section
/-!
DEFINITION. Stream commands, the decode pipes' events, per-frame graphs and the VIDEO registers that an access changes
(R298 to R318, R326).
-/
namespace Sys2Proof.Machine

/-! ## STREAM_OPEN (R299) -/

/-- The values of R299 other than the stream. -/
def State.streamParamOk (s : State) (b : List Byte) : Bool :=
  let pool (n : Nat) : Bool := (tget s.larder.pools n).any (·.strong)
  rd b 19 1 ≤ 4 && s.activeRing (rd b 20 4) .metadata && rd b 24 1 ≤ 1 && rd b 25 1 ≤ 128 && inRange 64 4096 (rd b 26 2)
    && inRange 64 4096 (rd b 28 2) && pool (rd b 30 1) && pool (rd b 31 1) && rd b 37 1 < rd b 34 2
    && rd b 40 4 ≤ 65536 && rd64 b (128 + 8 * rd b 37 1) = 0

/-- The checks of R108, with no buffer yet at the pyramid's slot. -/
def State.streamGraphOk (s : State) (b : List Byte) : Bool :=
  let hs := handlesAt b 128 (rd b 34 2)
  let slot := rd b 37 1
  let job := rd b 18 1
  s.jobOpen job && (s.graph (rd b 32 2)).any (fun g =>
    g.job = job && g.dims.length = rd b 36 1 && g.slots.length = rd b 34 2 && (!g.layouts || s.glb.dev == .maintenance)
      && ((List.range hs.length).zip (g.slots.zip hs)).all (fun p => p.1 = slot || s.boundOk p.2.2 p.2.1.1))

/-- Bytes of the mesh that a handle names; none: the handle is not current, or the mesh is poisoned or malformed. -/
def State.meshBytes (s : State) (h : W64) : Option (List Byte) :=
  if !s.larder.current h then none
  else match s.bufOf h with
    | none => none
    | some (a, n) =>
      let size := meshSize (s.hbmRead a 64)
      if n < size || s.poisoned a size then none
      else
        let b := s.hbmRead a size
        if meshOk b then some b else none

/-- A stream as STREAM_OPEN makes it. -/
def newStream (b : List Byte) (mesh : Option Mesh) : Stream :=
  { state := .syncing, job := rd b 18 1, prio := rd b 19 1, ring := rd b 20 4, h265 := rd b 24 1 = 1,
    budgetX := rd b 25 1, maxW := rd b 26 2, maxH := rd b 28 2, refPool := rd b 30 1, pyrPool := rd b 31 1,
    graph := rd b 32 2, nslots := rd b 34 2, ndims := rd b 36 1, pyrSlot := rd b 37 1, declass := rd b 40 4,
    meshHandle := rd64 b 48, mesh := mesh, v := valuesAt b 64, handles := handlesAt b 128 (rd b 34 2), pos := 0, empty := 0,
    discarded := 0, output := 0, slow := false, within := 0, sps := none, refs := [], oldRefs := [], mean := 0,
    vpsTiming := none, refresh := none, raslSkip := false, entries := [], shot := none, lastBuf := 0, ctx := 0,
    dec := 0, nextNum := 0, newSeq := false, outputting := false, pics := [], held := [], lastPyr := 0, nextK := 0,
    frames := [], refusal := none, closer := none }

/-- STREAM_OPEN (R299): the stream enters SYNCING, with a reference on its mesh (R343). -/
def execStreamOpen (ring : RingId) (s : State) : Outcome :=
  let r := ring.toNat
  .next (s.withOp (.ring ring) 0x50 (fun o s =>
    let b := o.bytes
    let n := rd b 16 2
    let mesh := rd64 b 48
    let open_ (s : State) (m : Option Mesh) : State :=
      match s.takeRef 0 mesh with
      | (s, c) =>
        if c != Code.ok then s.finish r o.id Code.vidMesh
        else
          let s := s.modVideo (fun v => { v with streams := tset v.streams n (newStream b m) })
          ((s.bindRing (rd b 20 4) true).powerUp []).finish r o.id Code.ok
    if 1024 ≤ n || (s.stream n).isSome then s.finish r o.id Code.vidStreamId
    else if ((valuesAt b 64).drop (rd b 36 1)).any (· != 0) then s.finish r o.id Code.pktReserved
    else if !s.streamParamOk b then s.finish r o.id Code.vidParam
    else if !s.streamGraphOk b then s.finish r o.id Code.vidGraph
    else if mesh = 0 then open_ s none
    else match s.meshBytes mesh with
      | none => s.finish r o.id Code.vidMesh
      | some m => open_ s (some (parseMesh m))))

/-! ## STREAM_DATA (R300, R301, R304 to R306) -/

/-- References of the sequence before: they go at once, or after the last picture that uses them (R304). -/
def State.retireRefs (s : State) (n : Nat) : State :=
  match s.stream n with
  | none => s
  | some t =>
    if t.pics.isEmpty then (s.dropRefs streamPort t.refs).modStream n (fun t => { t with refs := [] })
    else s.modStream n (fun t => { t with oldRefs := t.oldRefs ++ [(t.nextNum - 1, t.refs)], refs := [] })

/-- A sequence parameter set is checked and takes effect (R304, R305, R317): the code of its failure, or success. -/
def State.takeSps (s : State) (n : Nat) (c : Config.SpsInfo) : State × W32 :=
  match s.stream n with
  | none => (s, Code.ok)
  | some t =>
    match (s.spsChecks t c).find? (fun x => !x.1) with
    | some x => (s, x.2)
    | none =>
      let p := spsParams t.mesh t.h265 t.vpsTiming c
      let s := s.retireRefs n
      match s.allocRefs t.refPool (refCount t.h265 c + bit p.separate) with
      | (s, false, _) =>
        (s.modStream n (fun t => { t with sps := none, state := .syncing, outputting := false }), Code.vidNoBuffer)
      | (s, true, hs) => (s.modStream n (fun t => { t with sps := some { p with bufs := hs }, refs := hs, newSeq := true }), Code.ok)

/-- What a NAL unit is, by its type (R296, R298, R312). -/
inductive UnitKind where
  | vps
  | sps
  | pps
  | sei
  /-- A slice: of an IRAP picture (H.264: IDR), of a CRA, of a BLA, of a RASL picture. -/
  | slice (irap cra bla rasl : Bool)
  /-- Discarded (R296), or of a type that neither standard gives a slice of R294. -/
  | skip
  deriving DecidableEq, Repr

/-- The type of a NAL unit from its header, as the two standards number them (PRESUMED; log entry 33). A unit of H.265 with
nuh_layer_id above 0 is discarded. -/
def unitKind (h265 : Bool) (u : List Byte) : UnitKind :=
  let b := rd u 0 1
  if h265 then
    let t := b / 2 % 64
    if b % 2 * 32 + rd u 1 1 / 8 != 0 then .skip
    else match t with
      | 32 => .vps
      | 33 => .sps
      | 34 => .pps
      | 39 => .sei
      | 40 => .sei
      | _ =>
        if t ≤ 9 || (16 ≤ t && t ≤ 21) then .slice (16 ≤ t) (t = 21) (16 ≤ t && t ≤ 18) (t = 8 || t = 9) else .skip
  else match b % 32 with
    | 1 => .slice false false false false
    | 5 => .slice true false false false
    | 6 => .sei
    | 7 => .sps
    | 8 => .pps
    | _ => .skip

/-- Places after the start codes 0x00 0x00 0x01 of a byte stream (Annex B). -/
def startCodes (at_ : Nat) : List Byte → List Nat
  | [] => []
  | b :: r => (if b = 0 && r.take 2 = [0, 1] then [at_ + 3] else []) ++ startCodes (at_ + 1) r

/-- The NAL units of a byte stream with the offsets of their first bytes (R301); zero bytes at a unit's end are none of it. -/
def nalUnits (d : List Byte) : List (Nat × List Byte) :=
  let o := startCodes 0 d
  (o.zip ((o.drop 1).map (· - 3) ++ [d.length])).map (fun p =>
    (p.1, (((d.drop p.1).take (p.2 - p.1)).reverse.dropWhile (· = 0)).reverse))

/-- The picture that an access unit begins. -/
structure PicStart where
  irap : Bool
  cra : Bool
  bla : Bool
  rasl : Bool
  /-- H.264 frame_num, H.265 PicOrderCnt. -/
  place : Int
  deriving DecidableEq, Repr

/-- An access unit in the course of its parsing: parser state, macroblock at which the slice before begins (R295), count of a recovery
point SEI, picture and its slices; a second picture has begun (R296). -/
structure AuRun where
  ctx : Nat
  prev : Option Nat
  recovery : Option Nat
  pic : Option PicStart
  units : List (Nat × List Byte)
  second : Bool
  deriving DecidableEq, Repr

/-- A slice of an access unit; those of a second picture are discarded (R296). none: arbitrary slice order (R295). -/
def AuRun.slice (a : AuRun) (h265 : Bool) (off : Nat) (u : List Byte) (p : PicStart) (i : Config.SliceInfo) : Option AuRun :=
  if a.second || (i.starts && a.pic.isSome) then some { a with second := true }
  else if !h265 && a.prev.any (fun q => decide (i.first < q)) then none
  else some { a with prev := some i.first, pic := a.pic.or (some p), units := a.units ++ [(off, u)] }

/-- The units of an access unit in order, up to the first header that fails: its code and offset (R295, R296, R305). -/
def State.takeUnits (s : State) (n : Nat) (h265 : Bool) : AuRun → List (Nat × List Byte) → State × AuRun × Option (W32 × Nat)
  | a, [] => (s, a, none)
  | a, (off, u) :: r =>
    let next := { a with ctx := Config.parserNext h265 a.ctx u }
    match unitKind h265 u with
    | .skip => s.takeUnits n h265 a r
    | .sps =>
      match s.takeSps n (Config.readSps h265 a.ctx u) with
      | (s, code) => if code = Code.ok then s.takeUnits n h265 next r else (s, a, some (code, off))
    | .pps =>
      let p := Config.readPps a.ctx u
      if !h265 && (p.1 || p.2) then (s, a, some (Code.vidTool, off)) else s.takeUnits n h265 next r
    | .vps =>
      let p := Config.readVps u
      if p.1 then (s, a, some (Code.vidTool, off))
      else (s.modStream n (fun t => { t with vpsTiming := p.2 })).takeUnits n h265 next r
    | .sei => s.takeUnits n h265 { a with recovery := a.recovery.or (Config.readRecovery h265 u) } r
    | .slice irap cra bla rasl =>
      let i := Config.readSlice h265 a.ctx u
      match a.slice h265 off u { irap := irap, cra := cra, bla := bla, rasl := rasl, place := i.place } i with
      | none => (s, a, some (Code.vidTool, off))
      | some a => s.takeUnits n h265 (if a.second then a else { a with ctx := Config.parserNext h265 a.ctx u }) r

/-- A stream is refused (R306). -/
def State.refuse (s : State) (n : Nat) (code : W32) (pos pts : W64) : State :=
  let s := s.modVideo (fun v =>
    if v.refValid then v
    else { v with refValid := true, refStream := BitVec.ofNat 10 n, refCode := Code.low code, refPend := pos })
  (s.modStream n (fun t => { t with state := .refused, refusal := some (code, pos, pts) })).settleStream n

/-- A refresh has reached its recovery-point picture: `count` pictures lie between (R312; log entry 73). -/
def refreshReached (h265 : Bool) (par : SeqParams) (from_ : Int) (count : Nat) (place : Int) : Bool :=
  let d := place - from_
  decide (count ≤ (if h265 then d else d % (par.frameNums : Int)).toNat)

/-- The picture is output: the stream starts at an IRAP picture, has begun output, or reaches the recovery point (R312). -/
def Stream.shows (t : Stream) (par : SeqParams) (i : PicStart) (recovery : Option Nat) : Bool :=
  if t.state == .syncing then i.irap || recovery = some 0
  else t.outputting || i.irap || t.refresh.any (fun f => refreshReached t.h265 par f.1 f.2 i.place)

/-- The picture of a packet enters the stream, or is discarded (R298, R312). -/
def State.takePicture (s : State) (n : Nat) (o : Op) (a : AuRun) (pos pts : W64) (i : PicStart) : State :=
  match s.stream n with
  | none => s
  | some t =>
    let discard := s.modStream n (fun t => { t with discarded := satAdd t.discarded 1 })
    match t.sps with
    | none => discard
    | some par =>
      let starts := t.state == .syncing
      if starts && !i.irap && a.recovery.isNone then discard
      else if i.rasl && t.raslSkip then s
      else
        let shown := t.shows par i a.recovery
        let p : Pic :=
          { units := a.units, pos := pos, order := o.id, pts := pts, ctx := a.ctx, num := t.nextNum,
            bump := Config.bumpOrder t.h265 a.ctx, par := par, newSeq := t.newSeq, shown := shown, phase := .ready, budget := 0,
            motion := false, faults := 0, late := false }
        s.modStream n (fun t =>
          { t with state := if starts then (if i.irap then .running else .refreshing) else t.state, outputting := shown,
                   refresh := if starts && !i.irap then a.recovery.map (fun r => (i.place, r)) else t.refresh,
                   raslSkip := if i.irap then i.bla || (i.cra && starts) else t.raslSkip,
                   nextNum := t.nextNum + 1, newSeq := false, pics := t.pics ++ [p] })

/-- The bytes of a packet: its headers are checked, then its picture is taken (R300, R305, R306). -/
def State.takeAu (s : State) (r n : Nat) (o : Op) (d : List Byte) : State :=
  match s.stream n with
  | none => s.finish r o.id Code.vidNotOpen
  | some t =>
    let pts := if (rd8 o.bytes 19).getLsbD 0 then rd64 o.bytes 32 else 0
    let s := s.modStream n (fun t => { t with pos := t.pos + BitVec.ofNat 64 d.length })
    let start : AuRun := { ctx := t.ctx, prev := none, recovery := none, pic := none, units := [], second := false }
    match s.takeUnits n t.h265 start (nalUnits d) with
    | (s, a, bad) =>
      let s := s.modStream n (fun t => { t with ctx := a.ctx })
      match bad with
      | some (code, off) =>
        if code = Code.vidNoBuffer then s.finish r o.id code
        else (s.refuse n code (t.pos + BitVec.ofNat 64 off) pts).finish r o.id code
      | none =>
        (match a.pic with
          | some i => s.takePicture n o a t.pos pts i
          | none => s).finish r o.id Code.ok

/-- A packet that was dispatched before another and that its stream has not yet taken: a STREAM_DATA, or a STREAM_CLOSE not yet
accepted. -/
def Op.before (o : Op) (n id : Nat) : Bool :=
  rd o.bytes 16 2 = n && decide (o.id < id) && o.fin.isNone && (o.opcode = 0x51 || (o.opcode = 0x52 && !o.waits))

/-- Every STREAM_DATA and STREAM_CLOSE of the stream that was dispatched before has been taken (R302). -/
def State.firstOfStream (s : State) (n id : Nat) : Bool := !s.ring.ctx.any (fun p => p.2.ops.any (fun o => o.before n id))

/-- STREAM_DATA (R300). -/
def execStreamData (ring : RingId) (s : State) : Outcome :=
  let r := ring.toNat
  .next (s.withOp (.ring ring) 0x51 (fun o s =>
    let b := o.bytes
    let n := rd b 16 2
    let hbm := decide (rd b 18 1 = 1)
    let size := rd b 20 4
    if !s.firstOfStream n o.id then s
    else if 1024 ≤ n then s.finish r o.id Code.vidStreamId
    else if 1 < rd b 18 1 || 16777216 < size then s.finish r o.id Code.vidParam
    else match s.stream n with
      | none => s.finish r o.id Code.vidNotOpen
      | some t =>
        if t.state == .closing then s.finish r o.id Code.vidNotOpen
        else if t.state == .refused then s.finish r o.id Code.vidRefused
        else if size = 0 then (s.modStream n (fun t => { t with empty := satAdd t.empty 1 })).finish r o.id Code.ok
        else if hbm && s.windowPoisoned (rd b 24 8) size then s.finish r o.id Code.memUe
        else s.withPayload r o hbm (rd b 24 8) size (fun d s => s.takeAu r n o d)))

/-! ## STREAM_CLOSE (R302) -/

/-- STREAM_CLOSE: refused while a view is open; otherwise accepted after the stream's earlier packets. -/
def execStreamClose (ring : RingId) (s : State) : Outcome :=
  let r := ring.toNat
  .next (s.withOp (.ring ring) 0x52 (fun o s =>
    let n := rd o.bytes 16 2
    if 1024 ≤ n then s.finish r o.id Code.vidStreamId
    else if !s.firstOfStream n o.id then s
    else match s.stream n with
    | none => s.finish r o.id Code.vidNotOpen
    | some t =>
      if t.state == .closing then s.finish r o.id Code.vidNotOpen
      else if s.video.views.any (fun v => v.2.stream = n) then s.finish r o.id Code.vidBusy
      else
        ((s.beginOp r o.id).modStream n (fun t => { t with state := .closing, closer := some (r, o.id) })).settleStream n))

/-- Records of a stream wait to be written. -/
def State.streamOwes (s : State) (n : Nat) (t : Stream) : Bool :=
  (s.ringCtx t.ring).any (fun c => c.waiting.any (fun m =>
    (rd8 m.bytes 1).getLsbD 3 = false && rd m.bytes 0 1 != kindQuality && rd m.bytes 2 2 = n))

/-- A STREAM-form TRACK_POLICY that waits when its stream closes finds it closed (R356). -/
def State.dropTrackPend (s : State) (n : Nat) : State :=
  match tget s.track.pend n with
  | none => s
  | some p =>
    ({ s with track := { s.track with pend := tdel s.track.pend n } }).finish p.ring p.op Code.vidNotOpen

/-- Device address of entry `i` of a partition: the track table lies after the Larder records (R351, R509). -/
def State.trackAddr (s : State) (p : Partition) (i : Nat) : Nat := s.aboveSave (64 + 1024 + 128) + 64 * (16 * p.base + i)

/-- The track table's entries of a partition are FREE again (R352). -/
def State.clearPart (s : State) (p : Partition) : State := s.hbmWrite (s.trackAddr p 0) (List.replicate (64 * p.policy.cap) 0)

/-- A stream's partition is released: its tracks are deleted (R352). -/
def State.releasePart (s : State) (n : Nat) : State :=
  match tget s.track.parts n with
  | none => s
  | some p => { (s.clearPart p) with track := { s.track with parts := tdel s.track.parts n } }

/-- STREAM_CLOSE_DONE: the last picture's records are written; its buffers, mesh, partition and binding go (R302, R343, R352). -/
def execStreamCloseDone (stream : StreamId) (s : State) : Outcome :=
  let n := stream.toNat
  .next (
    match s.stream n with
    | none => s
    | some t =>
      match t.closer with
      | none => s
      | some (r, op) =>
        if !s.working || !t.pics.isEmpty || !t.held.isEmpty || !t.frames.isEmpty || t.refusal.isSome || s.streamOwes n t then s
        else
          let s := s.dropRefs streamPort (t.oldRefs.flatMap (·.2) ++ t.refs ++ (t.entries.filter (·.alias_)).map (·.buf)
            ++ [t.lastPyr, t.meshHandle])
          let s := ((s.dropTrackPend n).releasePart n).bindRing t.ring false
          let s := { s with track := { s.track with
            targets := tdel s.track.targets n, done := tdel s.track.done n,
            decisions := tdel s.track.decisions n } }
          (s.modVideo (fun v => { v with streams := tdel v.streams n })).finish r op Code.ok)

/-! ## The decode pipes (R307 to R311) -/

/-- PICTURE_ASSIGN (R308). -/
def execPictureAssign (s : State) : Outcome :=
  .next (
    if !s.working then s
    else match s.readyPic with
      | none => s
      | some q =>
        match s.pipeFor q.2.1.prio with
        | none => s
        | some p => s.assignPic p q)

/-- BLOCK_ROW_BOUNDARY (R308): the pipe begins to save its picture for a ready one of a higher class. -/
def execBlockRowBoundary (pipe : PipeId) (s : State) : Outcome :=
  let p := pipe.toNat
  .next (
    match s.running p, s.readyPic with
    | some q, some w =>
      if !s.working || q.2.1.prio ≤ w.2.1.prio || (findNat s.pipeIdle 18 0).isSome then s
      else s.modPic q.1 (fun x => { x with phase := .saving p })
    | _, _ => s)

/-- PICTURE_CONTEXT_SAVED (R308): the pipe takes the ready picture. -/
def execPictureContextSaved (pipe : PipeId) (s : State) : Outcome :=
  let p := pipe.toNat
  .next (
    match (s.onPipe (fun f => f = .saving p)).head? with
    | none => s
    | some q =>
      if !s.working then s
      else
        let s := s.modPic q.1 (fun x => { x with phase := .suspended p })
        match s.readyPic with
        | none => s
        | some w => if w.2.1.prio < q.2.1.prio then s.assignPic p w else s)

/-- The suspended picture that a pipe resumes: of the highest class. -/
def highestClass : List (Nat × Stream × Pic) → Option (Nat × Stream × Pic)
  | [] => none
  | p :: r =>
    match highestClass r with
    | none => some p
    | some q => some (if q.2.1.prio < p.2.1.prio then q else p)

/-- PICTURE_RESUME (R308): no ready picture of a higher class remains. -/
def execPictureResume (pipe : PipeId) (s : State) : Outcome :=
  let p := pipe.toNat
  .next (
    match highestClass (s.suspendedOn p) with
    | none => s
    | some q =>
      let higher := s.readyPic.any (fun w => decide (w.2.1.prio < q.2.1.prio))
      if !s.working || !s.pipeFree p || higher then s else s.modPic q.1 (fun x => { x with phase := .pipe p }))

/-- PICTURE_RECONSTRUCTED (R314): a picture whose c stays within its budget. -/
def execPictureReconstructed (pipe : PipeId) (s : State) : Outcome :=
  let p := pipe.toNat
  .next (
    match s.running p with
    | none => s
    | some (n, t, q) =>
      let d := s.decoded t q
      if !s.working || q.budget < q.cycles d then s else s.reconstruct p n t q d)

/-- PICTURE_ABANDON (R311): c exceeds the budget. -/
def execPictureAbandon (pipe : PipeId) (s : State) : Outcome :=
  let p := pipe.toNat
  .next (
    match s.running p with
    | none => s
    | some (n, t, q) => if !s.working || q.cycles (s.decoded t q) ≤ q.budget then s else s.abandon p n t q true [])

/-! ## Pipe faults (R309, R463, R471) -/

/-- A pipe leaves service; a spare takes its place when one stands by: the spare. -/
def Video.sparePipe (v : Video) (encode : Bool) (p : Nat) : Video × Option Nat :=
  if encode then
    match findNat v.encSpare.getLsbD 5 0 with
    | some q => ({ v with enc := setBit (clearBit v.enc p) q, encSpare := clearBit v.encSpare q }, some q)
    | none => ({ v with enc := clearBit v.enc p }, none)
  else
    match findNat v.decSpare.getLsbD 18 0 with
    | some q => ({ v with dec := setBit (clearBit v.dec p) q, decSpare := clearBit v.decSpare q }, some q)
    | none => ({ v with dec := clearBit v.dec p }, none)

/-- A pipe is replaced by a spare, or retired: RAS_SPARES, the pictures suspended on it and the views placed on it follow. -/
def State.replacePipe (s : State) (encode : Bool) (p : Nat) : State × Option Nat :=
  match s.video.sparePipe encode p with
  | (v, none) => ({ s with video := v, ras := { s.ras with retired := satAdd s.ras.retired 1 } }, none)
  | (v, some q) =>
    let move (f : PicPhase) : PicPhase := match f with
      | .pipe x => .pipe (if x = p then q else x)
      | .saving x => .saving (if x = p then q else x)
      | .suspended x => .suspended (if x = p then q else x)
      | .ready => .ready
    let v : Video := if encode then { v with views := v.views.map (fun w =>
          (w.1, if w.2.pipe = p then { w.2 with pipe := q } else w.2)) }
      else { v with streams := v.streams.map (fun t => (t.1, { t.2 with pics := t.2.pics.map (fun x => { x with phase := move x.phase }) })) }
    let ras := { s.ras with retired := satAdd s.ras.retired 1 }
    let ras := if encode then { ras with spEnc := ras.spEnc - 1 } else { ras with spDec := ras.spDec - 1 }
    (({ s with video := v, ras := ras } : State).powerUp [], some q)

/-- A decode pipe's fault: the picture restarts on the pipe, then on a spare, and is then given up. -/
def State.decPipeFault (s : State) (p n : Nat) (t : Stream) (q : Pic) : State :=
  let e := pipeEntry false p t.job n
  let restart (s : State) : State := s.modPic n (fun x => { x with faults := x.faults + 1 })
  let give (s : State) (pipe : Nat) : State := s.abandon pipe n t q false [note Code.rcvFailed]
  match q.faults with
  | 0 => restart (s.log (e 1 1 Code.pipeFault))
  | 1 =>
    match s.replacePipe false p with
    | (s, some _) => restart (s.log (e 2 2 Code.pipeFault))
    | (s, none) => give ((s.log (e 2 0 Code.pipeFault)).log (e 2 3 Code.rcvNoSpare)) p
  | _ => give ((s.log (e 3 0 Code.pipeFault)).log (e 3 0 Code.rcvFailed)) p

/-- The view whose AU an encode pipe works on: the lowest with a frame to encode. -/
def State.encoding (s : State) (p : Nat) : Option (Nat × View) :=
  s.video.views.find? (fun v => v.2.pipe = p && !v.2.closing && !v.2.todo.isEmpty)

/-- An AU is given up: its frame is passed over (log entry 37). -/
def State.skipAu (s : State) (n : Nat) : State :=
  match tget s.video.views n with
  | none => s
  | some v =>
    match v.todo with
    | [] => s
    | f :: r =>
      let s := (s.dropRef (20 + v.pipe) f.pyr).modVideo (fun x =>
        { x with views := tmod x.views n (fun w => { w with todo := r, faults := 0 }) })
      match s.stream v.stream with
      | some t => s.streamRecord v.stream t kindStatus false true f.k f.pts (statusBody Code.rcvFailed 0 0 0 0)
      | none => s

/-- An encode pipe's fault: the AU is encoded again on the pipe, then on the spare, and is then given up. -/
def State.encPipeFault (s : State) (p n : Nat) (v : View) : State :=
  let job := ((s.stream v.stream).map (·.job)).getD 0xFF
  let e := pipeEntry true p job v.stream
  let again (s : State) : State :=
    s.modVideo (fun x => { x with views := tmod x.views n (fun w => { w with faults := w.faults + 1 }) })
  match v.faults with
  | 0 => again (s.log (e 1 1 Code.pipeFault))
  | 1 =>
    match s.replacePipe true p with
    | (s, some _) => again (s.log (e 2 2 Code.pipeFault))
    | (s, none) => ((s.log (e 2 0 Code.pipeFault)).log (e 2 3 Code.rcvNoSpare)).skipAu n
  | _ => ((s.log (e 3 0 Code.pipeFault)).log (e 3 0 Code.rcvFailed)).skipAu n

/-- PIPE_FAULT (R309). -/
def execPipeFault (encode : Bool) (pipe : PipeId) (s : State) : Outcome :=
  let p := pipe.toNat
  .next (
    if !s.working then s
    else if encode then
      match s.encoding p with
      | some (n, v) => s.encPipeFault p n v
      | none => s
    else match s.running p with
      | some (n, t, q) => s.decPipeFault p n t q
      | none => s)

/-! ## RATE_RETIREMENT (R472) -/

/-- A pipe is between pictures, or between AUs. -/
def State.pipeAtRest (s : State) (encode : Bool) (p : Nat) : Bool :=
  if encode then s.video.enc.getLsbD p else s.pipeFree p

/-- An Attic slice has no spare: its rows are repaired at the next start (R463, R471). -/
def State.retireAttic (s : State) (slice : Nat) : State :=
  if !s.working || !s.atLimit (tgetD s.ras.cntAttic slice 0) then s
  else
    let s := { s with ras := { s.ras with cntAttic := tdel s.ras.cntAttic slice, rows := s.ras.rows ++ [(5, slice)] } }
    s.log { status := Code.rcvRetiredRate, unit := 5, index := slice, action := 3 }

/-- RATE_RETIREMENT: a unit whose count reached the limit retires at its idle point. -/
def execRateRetirement (unit : LadderUnit) (s : State) : Outcome :=
  let pipe (encode : Bool) (p : Nat) (count : Nat) : State :=
    if !s.working || !s.atLimit count || !s.pipeAtRest encode p then s
    else
      let t := (s.replacePipe encode p).1
      let t := if encode then { t with ras := { t.ras with cntEnc := tdel t.ras.cntEnc p } }
        else { t with ras := { t.ras with cntDec := tdel t.ras.cntDec p } }
      t.log { status := Code.rcvRetiredRate, unit := if encode then unitEnc else unitDec, index := p, action := 3 }
  .next (
    match unit with
    | .room n => s.retireRoom n.toNat
    | .decPipe p => pipe false p.toNat (tgetD s.ras.cntDec p.toNat 0)
    | .encPipe p => pipe true p.toNat (tgetD s.ras.cntEnc p.toNat 0)
    | .attic k => s.retireAttic k.toNat)

/-! ## Per-frame graphs (R314, R315, R357) -/

/-- The first frame whose graph has not been submitted, if the earlier ones allow it. -/
def State.nextFrame (s : State) (n : Nat) (t : Stream) : Option FrameSt :=
  if thas s.track.parts n then t.frames.head?.bind (fun f => if f.phase == .waiting then some f else none)
  else t.frames.find? (fun f => f.phase == .waiting)

/-- Marks frame k of a stream. -/
def State.setFrame (s : State) (n : Nat) (k : W32) (p : FramePhase) : State :=
  s.modStream n (fun t => { t with frames := t.frames.map (fun f => if f.k = k then { f with phase := p } else f) })

/-- The device's own reference on a frame's pyramid drops (R314). -/
def State.dropFramePyr (s : State) (n : Nat) (f : FrameSt) : State :=
  (s.dropRef streamPort f.pyr).modStream n (fun t =>
    { t with frames := t.frames.map (fun x => if x.k = f.k then { x with pyr := 0 } else x) })

/-- PER_FRAME_GRAPH_SUBMIT: at the stream's class, with a fresh DECLASS budget (R314, R315). -/
def execPerFrameGraphSubmit (stream : StreamId) (s : State) : Outcome :=
  let n := stream.toNat
  .next (
    match s.stream n with
    | none => s
    | some t =>
      match s.nextFrame n t with
      | none => s
      | some f =>
        if !s.working then s
        else
          let hs := lset t.handles t.pyrSlot f.pyr
          let fail (s : State) (c : W32) : State := (s.dropFramePyr n f).setFrame n f.k (.ended c false)
          match (s.runChecks (s.jobOpen t.job) t.job t.graph t.ndims t.nslots hs).find? (fun c => !c.1) with
          | some c => fail s c.2
          | none =>
            match s.takeRefs 27 hs with
            | (u, false) => fail u Code.admBinding
            | (u, true) =>
              let i := u.plan.nextInst
              ((u.newInst (.frame n f.k.toNat) t.job t.graph t.v hs t.declass).modInst i (fun x =>
                { x with cls := t.prio })).setFrame n f.k .running)

/-! ## VIDEO registers (R318, R326) -/

def blockVideo : Nat := 7

def streamCode : StreamState → Nat
  | .syncing => 1
  | .refreshing => 2
  | .running => 3
  | .refused => 4
  | .closing => 5

/-- VIDEO_STREAM_STAT of a stream; 0 for a CLOSED one. -/
def Stream.statWord (t : Stream) : Nat :=
  streamCode t.state * 2 ^ 29 + bit t.slow * 2 ^ 28 + bit (t.sps.any (·.separate)) * 2 ^ 27 + bit t.h265 * 2 ^ 26
    + t.prio * 2 ^ 23

def Stream.cntWord (t : Stream) : Nat := t.empty.toNat * 2 ^ 48 + t.discarded.toNat * 2 ^ 32 + t.output.toNat

/-- A write of VIDEO_STREAM_SEL: the selected stream's snapshot. -/
def State.streamSel (s : State) (x : W32) : State :=
  let t := s.stream (field x.toNat 0 10)
  s.modVideo (fun v =>
    { v with sel := BitVec.ofNat 10 x.toNat, snapStat := BitVec.ofNat 32 ((t.map Stream.statWord).getD 0),
             snapPos := (t.map (·.pos)).getD 0, snapCnt := BitVec.ofNat 64 ((t.map Stream.cntWord).getD 0) })

/-- VIDEO_STREAM_SEL_WRITE. -/
def execVideoStreamSelWrite (value : W32) (s : State) : Outcome := .next (s.hostWriteReg (fun s => s.streamSel value))

/-- A write of VIDEO_EGRESS: ignored, arming included, while lock is 1 (R11, R318). -/
def State.putEgress (s : State) (x : W32) : State :=
  if s.video.lock then s
  else s.lockedWrite blockVideo (fun s => s.modVideo (fun v =>
    { v with lock := x.getLsbD 31, declass := x.getLsbD 9, allow := x.getLsbD 8, maxViews := BitVec.ofNat 6 x.toNat }))

/-- VIDEO_EGRESS_WRITE (R318). -/
def execVideoEgressWrite (value : W32) (s : State) : Outcome := .next (s.hostWriteReg (fun s => s.putEgress value))

/-- VIDEO_EGRESS as a word. -/
def Video.egressWord (v : Video) : Nat :=
  bit v.lock * 2 ^ 31 + bit v.declass * 2 ^ 9 + bit v.allow * 2 ^ 8 + v.maxViews.toNat

/-- VIDEO_VIEW_CIDX of a view: C of R323. -/
def Video.cidxOf (v : Video) (n : Nat) : W32 := tgetD v.cidx n 0

/-- P of an open view. -/
def Video.pidxOf (v : Video) (n : Nat) : W32 := ((tget v.views n).map (·.pidx)).getD (v.cidxOf n)

/-- A write of VIDEO_VIEW_CIDX: one that moves C beyond P is ignored. -/
def State.viewCidx (s : State) (n : Nat) (x : W32) : State :=
  let c := s.video.cidxOf n
  let p := s.video.pidxOf n
  if (p - c).toNat < (x - c).toNat then s else s.modVideo (fun v => { v with cidx := tset v.cidx n x })

/-- VIEW_CIDX_WRITE (R326). -/
def execViewCidxWrite (view : ViewId) (value : W32) (s : State) : Outcome :=
  .next (s.hostWriteReg (fun s => s.viewCidx view.toNat value))

def Video.refuseWord (v : Video) : Nat := bit v.refValid * 2 ^ 31 + v.refStream.toNat * 2 ^ 16 + v.refCode.toNat

/-- VIDEO_REFUSE_READ: fixes VIDEO_REFUSE_POS. -/
def execVideoRefuseRead (s : State) : Outcome :=
  .next (if !s.regsUp then s
    else (s.reply 4 s.video.refuseWord).modVideo (fun v =>
      { v with refPos := if v.refValid then v.refPend else 0, refValid := false, refStream := 0, refCode := 0,
               refPend := 0 }))

/-- VIDEO_SLOW_READ. -/
def execVideoSlowRead (s : State) : Outcome :=
  .next (if !s.regsUp then s else (s.reply 4 s.video.slow.toNat).modVideo (fun v => { v with slow := 0 }))

/-- VIDEO_CONCEAL_READ. -/
def execVideoConcealRead (s : State) : Outcome :=
  .next (if !s.regsUp then s else (s.reply 4 s.video.concealed.toNat).modVideo (fun v => { v with concealed := 0 }))

/-- VIDEO_VIEW_DROP_READ. -/
def execVideoViewDropRead (view : ViewId) (s : State) : Outcome :=
  let n := view.toNat
  .next (if !s.regsUp then s
    else (s.reply 4 (tgetD s.video.dropped n 0).toNat).modVideo (fun v => { v with dropped := tdel v.dropped n }))

end Sys2Proof.Machine
end

