-- ==== Sys2Proof/Machine/Tracker.lean ====
section
/-!
DEFINITION. The Tracker: policies, candidate and association blocks, assignment, tracks, records; and the TRACK registers that
an access changes (R351 to R376).
-/
namespace Sys2Proof.Machine

def State.modTrack (s : State) (f : Track → Track) : State := { s with track := f s.track }
def State.modPart (s : State) (n : Nat) (f : Partition → Partition) : State :=
  s.modTrack (fun t => { t with parts := tmod t.parts n f })

/-! ## Policies and partitions (R352, R354 to R356) -/

def trackPolicyOf (b : List Byte) : TrackPolicy :=
  { cap := rd b 20 2, confirm := rd b 22 1, maxMiss := rd b 23 1, rounds := rd b 24 1, alpha := rd b 26 2, beta := rd b 28 2,
    gate := rd b 30 2, birth := rd b 32 2, assocSlot := rd b 34 1, candSlot := rd b 35 1, tent := (rd8 b 17).getLsbD 2 }

/-- The fields of R355 lie in their ranges. -/
def TrackPolicy.ok (p : TrackPolicy) : Bool :=
  inRange 16 2048 p.cap && p.cap % 16 = 0 && inRange 1 16 p.confirm && p.maxMiss ≤ 254 && inRange 1 64 p.rounds
    && p.alpha ≤ 256 && p.beta ≤ 256 && p.gate ≤ 65534

/-- The handles at the policy's slots meet R355. -/
def State.trackSlotsOk (s : State) (t : Stream) (p : TrackPolicy) : Bool :=
  let h (slot : Nat) : W64 := t.handles.getD slot 0
  let len (slot : Nat) : Nat := ((s.bufOf (h slot)).getD (0, 0)).2
  p.assocSlot < t.nslots && p.candSlot < t.nslots && s.larder.current (h p.assocSlot) && s.strongHandle (h p.assocSlot)
    && 68672 ≤ len p.assocSlot && s.larder.current (h p.candSlot) && 64 + 32 * p.cap ≤ len p.candSlot

/-- Units of 16 entries in the track table. -/
def trackUnits : Nat := 131072

/-- The lowest free run for a partition (R352). -/
def Track.grant (t : Track) (cap : Nat) : Option Nat :=
  let n := cap / 16
  findNat (fun u => decide (u + n ≤ trackUnits) && t.parts.all (fun p => apart u n p.2.base (p.2.policy.cap / 16)))
    (trackUnits + 1) 0

/-- Position after the prediction of R362. -/
def TrackEnt.predict (e : TrackEnt) : TrackEnt :=
  { e with x := e.x + e.vx.sshiftRight 4, y := e.y + e.vy.sshiftRight 4 }

def trkCode : TrkState → Nat
  | .tentative => 1
  | .confirmed => 2
  | .lost => 3

/-- A track entry (R353). -/
def TrackEnt.bytes (e : TrackEnt) : List Byte :=
  padTo 64 (leBytes 1 (trkCode e.state) ++ leBytes 1 e.hits.toNat ++ leBytes 1 e.misses.toNat ++ [0] ++ le32 e.id ++ le32 e.x ++ le32 e.y
    ++ le32 e.w ++ le32 e.h ++ le32 e.vx ++ le32 e.vy ++ le16 e.cls ++ le16 e.score ++ le32 e.born ++ le32 e.last)

/-- An entry of a partition in the track table reads as poisoned (R464). -/
def State.entryPoisoned (s : State) (p : Partition) (i : Nat) : Bool := s.poisoned (s.trackAddr p i) 64

/-- The Tracker writes a stream's entries to the track table (R351, R353). An entry that reads as poisoned stays so until its
partition is released (log entry 77). -/
def State.storeTracks (s : State) (n : Nat) : State :=
  match tget s.track.parts n with
  | none => s
  | some p =>
    (List.range p.policy.cap).foldl (fun (t : State) i =>
      if s.entryPoisoned p i then t
      else t.hbmWrite (s.trackAddr p i) (((tget p.tracks i).map TrackEnt.bytes).getD (List.replicate 64 0))) s

/-- A candidate entry (R358). -/
def candBytes (i : Nat) (e : TrackEnt) : List Byte :=
  let q := e.predict
  padTo 32 (le32 e.id ++ leBytes 2 i ++ leBytes 1 (trkCode e.state) ++ [0] ++ le32 q.x ++ le32 q.y ++ le32 q.w ++ le32 q.h)

/-- Device address of the buffer bound at a slot of a stream. -/
def State.streamBuf (s : State) (t : Stream) (slot : Nat) : Nat := ((s.bufOf (t.handles.getD slot 0)).getD (0, 0)).1

/-- The candidate block for frame k is written (R357, R358). -/
def State.writeCands (s : State) (n : Nat) (k : W32) : State :=
  match s.stream n, tget s.track.parts n with
  | some t, some p =>
    let head := padTo 64 (leBytes 4 0x444E4143 ++ le32 k ++ leBytes 4 p.tracks.length)
    let s := s.hbmWrite (s.streamBuf t p.policy.candSlot) (head ++ p.tracks.flatMap (fun e => candBytes e.1 e.2))
    s.modPart n (fun p => { p with cands := p.tracks.map (·.1) })
  | _, _ => s

/-- A STREAM-form policy comes into force, and its command completes (R352, R356). -/
def State.applyPolicy (s : State) (n : Nat) (k : W32) (q : TrackPend) : State :=
  let s := s.modTrack (fun t => { t with pend := tdel t.pend n })
  let set (s : State) (p : Partition) : State :=
    (((s.modTrack (fun t => { t with parts := tset t.parts n p })).powerUp []).writeCands n k).finish q.ring q.op Code.ok
  if !q.enable then (s.releasePart n).finish q.ring q.op Code.ok
  else match tget s.track.parts n with
    | some p =>
      if !q.reset then set s { p with policy := q.policy }
      else
        let u := s.releasePart n
        match u.track.grant q.policy.cap with
        | none => s.finish q.ring q.op Code.trkPartition
        | some base => set u { base := base, policy := q.policy, tracks := [], nextId := 1, cands := [] }
    | none =>
      match s.track.grant q.policy.cap with
      | none => s.finish q.ring q.op Code.trkPartition
      | some base => set s { base := base, policy := q.policy, tracks := [], nextId := 1, cands := [] }

/-- A frame's graph is under way or done, its update not. -/
def Stream.busy (t : Stream) : Bool := t.frames.head?.any (fun f => f.phase != .waiting)

/-- The next frame a stream's candidates serve. -/
def Stream.nextFrameNo (t : Stream) : W32 := (t.frames.head?.map (·.k)).getD t.nextK

/-- TRACK_POLICY (R355, R356). -/
def execTrackPolicy (ring : RingId) (s : State) : Outcome :=
  let r := ring.toNat
  .next (s.withOp (.ring ring) 0x70 (fun o s =>
    let b := o.bytes
    if rd b 16 1 = 0 then
      let n := rd b 18 2
      let p := trackPolicyOf b
      let enable := (rd8 b 17).getLsbD 0
      let reset := (rd8 b 17).getLsbD 1
      match s.stream n with
      | none => s.finish r o.id Code.vidNotOpen
      | some t =>
        let sameCap := (tget s.track.parts n).all (fun q => q.policy.cap = p.cap)
        if t.state == .closing then s.finish r o.id Code.vidNotOpen
        else if thas s.track.pend n then s
        else if !p.ok || !s.trackSlotsOk t p || (!reset && !sameCap) then s.finish r o.id Code.vidParam
        else
          let q : TrackPend := { ring := r, op := o.id, enable := enable, reset := reset, policy := p }
          let s := s.beginOp r o.id
          if t.busy then s.modTrack (fun t => { t with pend := tset t.pend n q }) else s.applyPolicy n t.nextFrameNo q
    else
      let n := rd b 18 1
      let q := rd b 20 4
      s.checked r o
        [ (rd b 16 1 = 1, Code.vidParam), (s.jobOpen n, Code.vidNotOpen),
          (q = 0 || s.activeRing q .metadata, Code.vidParam) ]
        (fun s =>
          let old := ((s.job n).map (·.qring)).getD 0
          let s := if old = 0 then s else s.bindRing old false
          let s := if q = 0 then s else s.bindRing q true
          s.modJob n (fun j => { j with qring := q }))))

/-! ## The association block (R359, R360) -/

/-- A detection (R359). -/
structure Det where
  x : W32
  y : W32
  w : W32
  h : W32
  score : W16
  cls : W16
  npair : Nat
  /-- Candidate index and cost. -/
  pairs : List (Nat × Nat)
  deriving DecidableEq, Repr

def parseDet (b : List Byte) (o : Nat) : Det :=
  let n := rd b (o + 20) 1
  { x := rd32 b o, y := rd32 b (o + 4), w := rd32 b (o + 8), h := rd32 b (o + 12), score := rd16 b (o + 16),
    cls := rd16 b (o + 18), npair := n,
    pairs := (List.range (min n 8)).map (fun i => (rd b (o + 24 + 4 * i) 2, rd b (o + 26 + 4 * i) 2)) }

/-- An association block. -/
structure Assoc where
  magic : W32
  frame : W32
  nspk : Nat
  nfrm : Nat
  ndet : Nat
  dets : List Det
  spks : List (List Byte)
  frms : List (List Byte)
  deriving DecidableEq, Repr

def parseAssoc (b : List Byte) : Assoc :=
  let nd := rd b 8 2
  let ns := rd b 10 1
  let nf := rd b 11 1
  { magic := rd32 b 0, frame := rd32 b 4, ndet := nd, nspk := ns, nfrm := nf,
    dets := (List.range (min nd 1024)).map (fun i => parseDet b (64 + 64 * i)),
    spks := (List.range (min ns 64)).map (fun i => slice b (65600 + 32 * i) 32),
    frms := (List.range (min nf 32)).map (fun i => slice b (67648 + 32 * i) 32) }

/-- The block is not rejected under R360. -/
def Assoc.ok (a : Assoc) (k : W32) : Bool :=
  a.magic = 0x434F5341 && a.frame = k && a.ndet ≤ 1024 && a.nspk ≤ 64 && a.nfrm ≤ 32 && a.dets.all (fun d => d.npair ≤ 8)

/-- The bytes of a block that the Tracker reads read as poisoned: its header, or an entry that the header's counts cover (R359,
R464). -/
def State.blockPoisoned (s : State) (at_ : Nat) (a : Assoc) : Bool :=
  s.poisoned at_ 64 || s.poisoned (at_ + 64) (64 * min a.ndet 1024) || s.poisoned (at_ + 65600) (32 * min a.nspk 64)
    || s.poisoned (at_ + 67648) (32 * min a.nfrm 32)

/-- Some entry of a stream's partition reads as poisoned (R464). -/
def State.partPoisoned (s : State) (p : Partition) : Bool := (List.range p.policy.cap).any (s.entryPoisoned p)

/-! ## Assignment (R361) -/

/-- The lower of two choices by cost, then index. -/
def lower (a b : Nat × Nat) : Bool := decide (a.2 < b.2) || (a.2 = b.2 && decide (a.1 < b.1))

/-- The choice of lowest cost, ties to the lower index. -/
def lowest : List (Nat × Nat) → Option (Nat × Nat)
  | [] => none
  | p :: r =>
    match lowest r with
    | none => some p
    | some q => some (if lower q p then q else p)

/-- One round: proposals, then acceptances, both from the assignments at its start. Assignments are (detection, candidate). -/
def assignRound (gate ncand : Nat) (dets : List (Nat × Det)) (done : List (Nat × Nat)) : List (Nat × Nat) :=
  let free (c : Nat) : Bool := !done.any (fun p => p.2 = c)
  let props : List (Nat × Nat × Nat) := dets.filterMap (fun d =>
    if done.any (fun p => p.1 = d.1) then none
    else (lowest (d.2.pairs.filter (fun p => p.2 ≤ gate && p.1 < ncand && free p.1))).map (fun p => (d.1, p.1, p.2)))
  done ++ (List.range ncand).filterMap (fun c =>
    (lowest ((props.filter (fun p => p.2.1 = c)).map (fun p => (p.1, p.2.2)))).map (fun p => (p.1, c)))

/-- All rounds. -/
def assign (gate ncand : Nat) (dets : List (Nat × Det)) : Nat → List (Nat × Nat) → List (Nat × Nat)
  | 0, done => done
  | n + 1, done => assign gate ncand dets n (assignRound gate ncand dets done)

/-! ## The update of a track (R362, R363) -/

/-- a × d + 128, shifted right by 8, in int32. -/
def gain (a : Nat) (d : W32) : W32 := (BitVec.ofNat 32 a * d + 128).sshiftRight 8

def TrackEnt.follow (e : TrackEnt) (p : TrackPolicy) (k : W32) (d : Det) : TrackEnt :=
  let rx := d.x - e.x
  let ry := d.y - e.y
  { e with x := e.x + gain p.alpha rx, y := e.y + gain p.alpha ry, vx := e.vx + gain p.beta (rx <<< 4),
           vy := e.vy + gain p.beta (ry <<< 4), w := e.w + gain p.alpha (d.w - e.w), h := e.h + gain p.alpha (d.h - e.h),
           cls := d.cls, score := d.score, last := k }

/-- What an update makes of a track: its entry, whether it is deleted, and the detection it matched. -/
structure TrackOut where
  entry : Nat
  ent : TrackEnt
  deleted : Bool
  det : Option Nat
  /-- Its records depend on REPORT_TENT. -/
  tent : Bool
  deriving DecidableEq, Repr

/-- A track that existed before the update (R363). -/
def updateTrack (p : TrackPolicy) (k : W32) (i : Nat) (e : TrackEnt) (m : Option (Nat × Det)) : TrackOut :=
  let e := e.predict
  match m with
  | some (j, d) =>
    let e := e.follow p k d
    let hits := satAdd e.hits 1
    let st := match e.state with
      | .tentative => if p.confirm ≤ hits.toNat then TrkState.confirmed else .tentative
      | _ => .confirmed
    { entry := i, ent := { e with hits := hits, misses := 0, state := st }, deleted := false, det := some j,
      tent := st == .tentative }
  | none =>
    match e.state with
    | .tentative => { entry := i, ent := e, deleted := true, det := none, tent := true }
    | .confirmed => { entry := i, ent := { e with misses := 1, state := .lost }, deleted := false, det := none, tent := false }
    | .lost =>
      let misses := satAdd e.misses 1
      { entry := i, ent := { e with misses := misses }, deleted := decide (p.maxMiss < misses.toNat), det := none,
        tent := false }

/-- A new track (R361 to R363). -/
def bornTrack (p : TrackPolicy) (k id : W32) (i j : Nat) (d : Det) : TrackOut :=
  let st : TrkState := if p.confirm ≤ 1 then .confirmed else .tentative
  { entry := i, deleted := false, det := some j, tent := st == .tentative,
    ent := { state := st, hits := 1, misses := 0, id := id, x := d.x, y := d.y, w := d.w, h := d.h, vx := 0, vy := 0,
             cls := d.cls, score := d.score, born := k, last := k } }

def nextTrackId (id : W32) : W32 := if id = 0xFFFFFFFF then 1 else id + 1

/-- Births in ascending detection index, each at the lowest FREE entry: the new tracks, the next identifier, and those that found
no entry (R361, R354). -/
def births (p : TrackPolicy) (k : W32) : List (Nat × Det) → List Nat → W32 → List TrackOut × W32 × Nat
  | [], _, id => ([], id, 0)
  | d :: r, free, id =>
    match free with
    | [] => let q := births p k r [] id; (q.1, q.2.1, q.2.2 + 1)
    | i :: free => let q := births p k r free (nextTrackId id); (bornTrack p k id i d.1 d.2 :: q.1, q.2)

/-- Tracks after a frame's association: every track's outcome, the next identifier, and births refused. -/
def Partition.update (p : Partition) (k : W32) (dets : List Det) : List TrackOut × W32 × Nat :=
  let pol := p.policy
  let ds := (List.range dets.length).zip dets
  let pairs := assign pol.gate p.cands.length ds pol.rounds []
  let matched (i : Nat) : Option (Nat × Det) :=
    (pairs.find? (fun q => p.cands[q.2]? == some i)).bind (fun q => (dets[q.1]?).map (fun d => (q.1, d)))
  let old := p.tracks.map (fun e => updateTrack pol k e.1 e.2 (matched e.1))
  let fresh := ds.filter (fun d => !pairs.any (fun q => q.1 = d.1) && decide (pol.birth ≤ d.2.score.toNat))
  let free := (List.range pol.cap).filter (fun i => !thas p.tracks i)
  let q := births pol k fresh free p.nextId
  (old ++ q.1, q.2.1, q.2.2)

/-! ## Records (R366 to R372) -/

def trackBody (o : TrackOut) : List Byte :=
  let e := o.ent
  le32 e.id ++ leBytes 1 (if o.deleted then 4 else trkCode e.state) ++ leBytes 1 (bit o.det.isSome) ++ le16 e.cls ++ le32 e.x
    ++ le32 e.y ++ le32 e.w ++ le32 e.h ++ le32 e.vx ++ le32 e.vy ++ le16 e.score ++ leBytes 1 e.hits.toNat
    ++ leBytes 1 e.misses.toNat ++ leBytes 2 (o.det.getD 0xFFFF) ++ leBytes 2 o.entry ++ le32 e.born

/-- A SPEAKER body: identifiers that name no track of the stream are written as 0, other events as ACTIVE (R370). -/
def speakerBody (ids : List W32) (b : List Byte) : List Byte :=
  let t := rd32 b 0
  let ev := rd b 8 1
  le32 (if ids.contains t then t else 0) ++ slice b 4 4 ++ leBytes 1 (if ev ≤ 2 then ev else 1) ++ [0] ++ slice b 10 4 ++ [0, 0]
    ++ slice b 16 8

/-- A framing decision, clamped to level 0 (R372). -/
def parseFraming (outW outH : Nat) (b : List Byte) : FramingT :=
  let clamp (lo hi v : Nat) : Nat := max lo (min hi v)
  let cw := clamp 16 outW (rd b 8 2)
  let ch := clamp 16 outH (rd b 10 2)
  let x0 := clamp 0 (outW - cw) (rd b 4 2)
  let y0 := clamp 0 (outH - ch) (rd b 6 2)
  { target := rd32 b 0, x0 := x0, y0 := y0, cw := cw, ch := ch, track := rd32 b 12,
    clamped := [x0, y0, cw, ch] != [rd b 4 2, rd b 6 2, rd b 8 2, rd b 10 2] }

def framingBody (f : FramingT) (carried : Bool) : List Byte :=
  le32 f.target ++ leBytes 2 f.x0 ++ leBytes 2 f.y0 ++ leBytes 2 f.cw ++ leBytes 2 f.ch ++ le32 f.track
    ++ leBytes 1 (bit f.clamped + 2 * bit carried)

/-- The first decision for each target of a block. -/
def firstDecisions : List FramingT → List FramingT → List FramingT
  | acc, [] => acc
  | acc, f :: r => firstDecisions (if acc.any (fun g => g.target = f.target) then acc else acc ++ [f]) r

/-- The target table after a block: the table, and decisions dropped (R372). -/
def mergeTargets (table : List FramingT) (ds : List FramingT) : List FramingT × Nat :=
  let kept := table.map (fun t => (ds.find? (fun d => d.target = t.target)).getD t)
  let fresh := ds.filter (fun d => !table.any (fun t => t.target = d.target))
  let room := 32 - table.length
  (kept ++ fresh.take room, fresh.length - room)

/-- The records of a frame, in order; the last carries LAST (R367, R368). -/
def State.frameRecords (s : State) (n : Nat) (t : Stream) (held : Bool) (f : FrameSt) : List (Nat × List Byte) → State
  | [] => s
  | r :: rest => (s.streamRecord n t r.1 held rest.isEmpty f.k f.pts r.2).frameRecords n t held f rest

def noteRecord (x : Note) : Nat × List Byte := (kindStatus, statusBody x.status x.pos x.row x.rows 0)

/-! ## TRACKER_UPDATE (R357, R360, R364) -/

/-- A rejected block is latched (R375). -/
def Track.reject (t : Track) (n : Nat) : Track :=
  { t with rejValid := true, rejCount := satAdd t.rejCount 1,
           rejStream := if t.rejValid then t.rejStream else BitVec.ofNat 10 n }

/-- The log entry of a poisoned association block or track entry (R464). -/
def blockEntry (job n addr : Nat) : LogEntry :=
  { status := Code.memUe, unit := 13, job := job, ctx := BitVec.ofNat 32 (2 ^ 31 + n), addr := addr }

/-- A coasting frame: the prediction alone (R364). -/
def State.coast (s : State) (n : Nat) : State :=
  s.modPart n (fun p => { p with tracks := p.tracks.map (fun e => (e.1, e.2.predict)) })

/-- The update of a frame whose block is sound: TRACK, SPEAKER records and the decisions. -/
def State.track1 (s : State) (n : Nat) (p : Partition) (f : FrameSt) (a : Assoc) :
    State × List (Nat × List Byte) × List FramingT :=
  let (outs, next, refused) := p.update f.k a.dets
  let live := outs.filter (fun o => !o.deleted)
  let tracks := live.foldl (fun (m : Tab TrackEnt) o => tset m o.entry o.ent) []
  let s := s.modPart n (fun p => { p with tracks := tracks, nextId := next })
  let s := s.modTrack (fun t => { t with drop := satAdd t.drop refused })
  let byEntry := (List.range p.policy.cap).filterMap (fun i => outs.find? (fun o => o.entry = i))
  let shown := byEntry.filter (fun o => !o.tent || p.policy.tent)
  (s, shown.map (fun o => (kindTrack, trackBody o)) ++ a.spks.map (fun b => (kindSpeaker, speakerBody (live.map (·.ent.id)) b)),
    firstDecisions [] (a.frms.map (parseFraming f.par.outW f.par.outH)))

/-- A frame's decisions may still be asked for: it is among the last 8, or a view has not come past it (R320). -/
def State.decisionKept (s : State) (n : Nat) (now k : W32) : Bool :=
  decide ((now - k).toNat ≤ 8) || s.video.views.any (fun v =>
    v.2.stream = n && v.2.todo.head?.any (fun w => !(k + BitVec.ofNat 32 v.2.lag - w.k).msb))

/-- A frame is over: its framing records, its decisions and its place in the order (R320, R367, R372). -/
def State.closeFrame (s : State) (n : Nat) (t : Stream) (f : FrameSt) (held tracked : Bool) (recs : List (Nat × List Byte))
    (ds : List FramingT) : State :=
  let table := tgetD s.track.targets n []
  let (table, dropped) := if tracked then mergeTargets table ds else (table, 0)
  let framing := if tracked then table.map (fun x =>
      (kindFraming, framingBody x (!ds.any (fun d => d.target = x.target)))) else []
  let s := s.frameRecords n t held f (recs ++ framing)
  let s := s.modTrack (fun x =>
    let old := (tgetD x.decisions n []).filter (fun d => s.decisionKept n f.k d.1)
    { x with drop := satAdd x.drop dropped, targets := if tracked then tset x.targets n table else x.targets,
             done := tset x.done n (f.k + 1), decisions := tset x.decisions n (old ++ [(f.k, table)]) })
  (s.modStream n (fun t => { t with frames := t.frames.drop 1 })).settleStream n

/-- TRACKER_UPDATE: the frame's instance has completed, or it has none (R357). A frame of a stream without a policy ends here
too. -/
def execTrackerUpdate (stream : StreamId) (s : State) : Outcome :=
  let n := stream.toNat
  .next (
    match s.stream n with
    | none => s
    | some t =>
      match t.frames with
      | [] => s
      | f :: _ =>
        let ended : Option (Option W32 × Bool) := match f.phase with
          | .ended c held => some (some c, held)
          | .none => some (none, false)
          | _ => none
        match ended with
        | none => s
        | some (status, held) =>
          if !s.working then s
          else
            let s := match tget s.track.pend n with
              | some q => s.applyPolicy n f.k q
              | none => s
            let held := held || f.late
            let faulted := status.any (fun c => c != 0 && Code.cls c != 1)
            let notes := f.notes ++ (match status with
              | some c => if faulted then [note c] else []
              | none => [])
            match tget s.track.parts n with
            | none => s.closeFrame n t f held false (notes.map noteRecord) []
            | some p =>
              let at_ := s.streamBuf t p.policy.assocSlot
              let a := parseAssoc (s.hbmRead at_ 68672)
              let s :=
                if faulted || status.isNone then (s.coast n).closeFrame n t f held true (notes.map noteRecord) []
                else if s.blockPoisoned at_ a || s.partPoisoned p || !a.ok f.k then
                  let s := if s.blockPoisoned at_ a then s.log (blockEntry t.job n at_)
                    else if s.partPoisoned p then s.log (blockEntry t.job n (s.trackAddr p 0)) else s
                  ((s.modTrack (fun x => x.reject n)).coast n).closeFrame n t f held true
                    ((notes ++ [note Code.trkBlock]).map noteRecord) []
                else match s.track1 n p f a with
                  | (s, recs, ds) => s.closeFrame n t f held true (notes.map noteRecord ++ recs) ds
              (s.storeTracks n).writeCands n (f.k + 1))

/-! ## TRACK registers (R375) -/

def Partition.partWord (p : Partition) : Nat := p.base * 2 ^ 12 + p.policy.cap

def Partition.countWord (p : Partition) : Nat :=
  let c := (p.tracks.filter (fun e => e.2.state == .confirmed)).length
  min c 2047 * 2 ^ 11 + min (p.tracks.length - c) 2047

/-- A write of TRACK_SEL: the selected stream's snapshot. -/
def State.trackSel (s : State) (v : W32) : State :=
  let p := tget s.track.parts (field v.toNat 0 10)
  s.modTrack (fun t =>
    { t with sel := BitVec.ofNat 10 v.toNat, snapPart := BitVec.ofNat 32 ((p.map Partition.partWord).getD 0),
             snapCount := BitVec.ofNat 32 ((p.map Partition.countWord).getD 0) })

/-- TRACK_SEL_WRITE. -/
def execTrackSelWrite (value : W32) (s : State) : Outcome := .next (s.hostWriteReg (fun s => s.trackSel value))

/-- TRACK_DROP_READ. -/
def execTrackDropRead (s : State) : Outcome :=
  .next (if !s.regsUp then s else (s.reply 4 s.track.drop.toNat).modTrack (fun t => { t with drop := 0 }))

/-- TRACK_QDROP_READ. -/
def execTrackQdropRead (s : State) : Outcome :=
  .next (if !s.regsUp then s else (s.reply 4 s.track.qdrop.toNat).modTrack (fun t => { t with qdrop := 0 }))

def Track.rejectWord (t : Track) : Nat := bit t.rejValid * 2 ^ 31 + t.rejCount.toNat * 2 ^ 10 + t.rejStream.toNat

/-- TRACK_REJECT_READ. -/
def execTrackRejectRead (s : State) : Outcome :=
  .next (if !s.regsUp then s
    else (s.reply 4 s.track.rejectWord).modTrack (fun t => { t with rejValid := false, rejCount := 0, rejStream := 0 }))

/-- TRACK_USED: entries in granted partitions. -/
def Track.used (t : Track) : Nat := (t.parts.map (·.2.policy.cap)).sum

end Sys2Proof.Machine
end

