-- ==== Sys2Proof/Machine/Views.lean ====
section
/-!
DEFINITION. Framing-encode views (R318 to R325).
-/
namespace Sys2Proof.Machine

def State.view (s : State) (n : Nat) : Option View := tget s.video.views n
def State.modView (s : State) (n : Nat) (f : View → View) : State :=
  s.modVideo (fun v => { v with views := tmod v.views n f })

/-- The Larder port of an encode pipe (R290). -/
def viewPort (pipe : Nat) : Nat := 20 + pipe

/-! ## VIEW_OPEN (R318, R319) -/

/-- The fields of R319 lie in their ranges. -/
def viewFieldsOk (b : List Byte) : Bool :=
  let even (lo hi v : Nat) : Bool := inRange lo hi v && v % 2 = 0
  let fps := rd b 56 4
  rd b 16 1 ≤ 31 && rd b 17 1 ≤ 1 && even 128 1920 (rd b 20 2) && even 128 1080 (rd b 22 2)
    && inRange 100 20000 (rd b 24 4) && inRange 2 120 (rd b 28 1) && inRange 1 8 (rd b 29 1) && rd b 30 1 ≤ rd b 31 1
    && rd b 31 1 ≤ 51 && inRange 20 28 (rd b 36 1) && rd b 38 2 ≤ 2047 && rd b 40 8 % 4096 = 0 && rd b 48 8 % 8 = 0
    && (fps = 0 || inRange 1000 240000 fps)

/-- The egress policy lets views be opened (R318). -/
def State.egressOpen (s : State) : Bool := s.video.lock && s.video.allow && s.glb.dev == .serving && !s.glb.stopped

/-- Frames per 1,000 s of a view: the stream's own timing, or the field of VIEW_OPEN (R319). -/
def viewRate (own : Option Nat) (field : Nat) : Nat := own.getD (if field = 0 then 30000 else field)

/-- The load of the views on a pipe, in samples per 1,000 s. -/
def Video.pipeLoad (v : Video) (p : Nat) : Nat := ((v.views.filter (fun w => w.2.pipe = p)).map (·.2.load)).sum

/-- The pipe a view of a load is placed on (R319). -/
def Video.placeView (v : Video) (load : Nat) : Option Nat :=
  findNat (fun p => v.enc.getLsbD p && decide (v.pipeLoad p + load ≤ 600000000 * 1000)) 5 0

/-- A view as VIEW_OPEN makes it; P and the drop count begin at 0 (log entry 38). -/
def newView (b : List Byte) (pipe load : Nat) : View :=
  { h265 := rd b 17 1 = 1, stream := rd b 18 2, width := rd b 20 2, height := rd b 22 2, kbps := rd b 24 4,
    refresh := rd b 28 1, lag := rd b 29 1, qpMin := rd b 30 1, qpMax := rd b 31 1, target := rd32 b 32,
    log2Out := rd b 36 1, vector := rd b 38 2, outBase := rd b 40 8, idxAddr := rd b 48 8, fps := rd b 56 4, pipe := pipe,
    load := load, pidx := 0, drops := 0, todo := [], firstK := none, count := 0, qp := (rd b 30 1 + rd b 31 1) / 2,
    enc := 0, faults := 0, closer := none, closing := false }

/-- VIEW_OPEN. -/
def execViewOpen (ring : RingId) (s : State) : Outcome :=
  let r := ring.toNat
  .next (s.withOp (.ring ring) 0x53 (fun o s =>
    let b := o.bytes
    let n := rd b 16 1
    let t := s.stream (rd b 18 2)
    let load := rd b 20 2 * rd b 22 2 * viewRate (t.bind (fun t => t.sps.bind (·.fps))) (rd b 56 4)
    let full := decide (s.video.maxViews.toNat ≤ s.video.views.length)
    s.checked r o
      [ (decide (rd b 18 2 < 1024), Code.vidStreamId), (viewFieldsOk b, Code.vidParam), (t.any (fun t => t.state != .closing), Code.vidNotOpen),
        (t.any (fun t => t.state == .running), Code.vidParam), (s.egressOpen, Code.viewEgress),
        ((s.view n).isNone, Code.viewId), (!full && (s.video.placeView load).isSome, Code.viewLimit) ]
      (fun s =>
        let v := newView b ((s.video.placeView load).getD 0) load
        (s.modVideo (fun x => { x with views := tset x.views n v, cidx := tdel x.cidx n })).powerUp [])))

/-! ## VIEW_CLOSE (R325) -/

/-- VIEW_CLOSE: no further AU of the view begins. -/
def execViewClose (ring : RingId) (s : State) : Outcome :=
  let r := ring.toNat
  .next (s.withOp (.ring ring) 0x54 (fun o s =>
    let n := rd o.bytes 16 1
    match s.view n with
    | none => s.finish r o.id Code.viewId
    | some v =>
      if v.closer.isSome then s.finish r o.id Code.viewId
      else (s.beginOp r o.id).modView n (fun v => { v with closing := true, closer := some (r, o.id) })))

/-- VIEW_CLOSE_DONE: its AUs and index words have all been written; the frames it was still to encode go. -/
def execViewCloseDone (view : ViewId) (s : State) : Outcome :=
  let n := view.toNat
  .next (
    match s.view n with
    | none => s
    | some v =>
      if !v.closing then s
      else
        let s := (s.dropRefs (viewPort v.pipe) (v.todo.map (·.pyr))).modVideo (fun x => { x with views := tdel x.views n })
        match v.closer with
        | some (r, op) => s.finish r op Code.ok
        | none => s)

/-! ## The crop (R320) -/

/-- The crop rectangle of frame k: x0, y0, cw, ch; none while the decision of frame k − d is awaited. -/
def State.viewCrop (s : State) (v : View) (f : ViewFrame) : Option (Nat × Nat × Nat × Nat) :=
  let whole := (0, 0, f.par.outW, f.par.outH)
  let lag := BitVec.ofNat 32 v.lag
  if (f.k - v.firstK.getD f.k).toNat < v.lag then some whole
  else if !(f.k - tgetD s.track.done v.stream 0).slt lag then none
  else
    let table := ((tgetD s.track.decisions v.stream []).find? (fun d => d.1 = f.k - lag)).map (·.2)
    some (((table.getD []).find? (fun d => d.target = v.target)).elim whole (fun d => (d.x0, d.y0, d.cw, d.ch)))

/-- A plane of a pyramid in the HBM. -/
def State.planeAt (s : State) (a w h : Nat) : Plane :=
  { w := w, h := h, data := (List.range h).flatMap (fun y => (s.hbmRead (a + pitchOf w * y) w).map (·.toNat)) }

/-- Level 0 of a pyramid: Y, U and V (R347). -/
def State.levelZeroAt (s : State) (a w h : Nat) : Plane × Plane × Plane :=
  let cw := ceilDiv w 2
  let ch := ceilDiv h 2
  let u := a + 64 + pitchOf w * h
  (s.planeAt (a + 64) w h, s.planeAt u cw ch, s.planeAt (u + pitchOf cw * ch) cw ch)

/-- Source position in 1/256 sample of an output sample along one axis: crop origin and extent, output extent. -/
def cropPos (o c n x : Nat) : Int := 256 * (o : Int) + (((2 * x + 1) * c * 256 : Nat) : Int) / (2 * n : Nat) - 128

/-- The sample at a position, coordinates clamped to a range along each axis. -/
def Plane.clamped (p : Plane) (x0 y0 cw ch : Nat) (x y : Int) : Nat :=
  let cl (o c : Nat) (v : Int) : Int := max (o : Int) (min ((o : Int) + c - 1) v)
  p.at_ 0 (cl x0 cw x) (cl y0 ch y)

/-- The bilinear sample of R345 with coordinates clamped to the crop. -/
def Plane.cropSample (p : Plane) (c : Nat × Nat × Nat × Nat) (x256 y256 : Int) : Nat :=
  let g (x y : Int) : Nat := p.clamped c.1 c.2.1 c.2.2.1 c.2.2.2 x y
  let ix := x256 / 256
  let fx := (x256 % 256).toNat
  let iy := y256 / 256
  let fy := (y256 % 256).toNat
  ((256 - fx) * (256 - fy) * g ix iy + fx * (256 - fy) * g (ix + 1) iy + (256 - fx) * fy * g ix (iy + 1)
    + fx * fy * g (ix + 1) (iy + 1) + 32768) / 65536

/-- The luma samples of a view's picture in row order. -/
def Plane.crop (p : Plane) (c : Nat × Nat × Nat × Nat) (width height : Nat) : List Nat :=
  (gridPoints width height).map (fun q =>
    p.cropSample c (cropPos c.1 c.2.2.1 width q.1) (cropPos c.2.1 c.2.2.2 height q.2))

/-! ## Encoding (R321, R322) -/

/-- Block rows and columns of a side (16 samples; log entry 39). -/
def viewBlocks (n : Nat) : Nat := ceilDiv n 16

/-- The first column coded intra in picture j, and how many (R321). -/
def intraCols (cb n j : Nat) : Nat × Nat :=
  let w := ceilDiv cb n
  let first := min cb (w * (j % n))
  (first, min w (cb - first))

/-- Picture target T in bits (R322). -/
def bitTarget (kbps rate : Nat) : Nat := kbps * 1000 * 1000 / rate

/-- The QP after block row r of R rows, b bits spent so far (R322). -/
def nextQp (t rows r b q qmin qmax : Nat) : Nat :=
  if t * 11 * (r + 1) < b * 10 * rows then min (q + 1) qmax
  else if b * 10 * rows < t * 9 * (r + 1) then max (q - 1) qmin
  else q

/-- The encoder in the course of a picture: its state, bits spent, QP of the next row. -/
structure EncRun where
  enc : Nat
  bits : Nat
  qp : Nat
  deriving DecidableEq, Repr

/-- What a picture's rows share. -/
structure EncPic where
  luma : List Nat
  u : List Nat
  v : List Nat
  crop : Nat × Nat × Nat × Nat
  intra : Nat × Nat
  /-- Columns of the groups already refreshed in the cycle: vectors of blocks in them point into no others (R321). -/
  limit : Nat
  idr : Bool
  target : Nat
  rows : Nat
  deriving DecidableEq, Repr

/-- One block row. The QP of the last row is kept for the next picture (R322). -/
def View.encodeRow (v : View) (p : EncPic) (e : EncRun) (row : Nat) : EncRun :=
  let q := Config.encodeRow v.h265 e.enc p.luma p.u p.v p.crop row e.qp p.intra p.limit p.idr
  let bits := e.bits + q.1
  { enc := q.2, bits := bits,
    qp := if row + 1 = p.rows then e.qp else nextQp p.target p.rows row bits e.qp v.qpMin v.qpMax }

def View.encodePicture (v : View) (p : EncPic) : EncRun :=
  (List.range p.rows).foldl (v.encodeRow p) { enc := v.enc, bits := 0, qp := v.qp }

/-! ## VIEW_AU_ENCODE (R323, R324) -/

/-- An AU: header, payload and padding. -/
def auBytes (n : Nat) (v : View) (f : ViewFrame) (payload : List Byte) : List Byte :=
  let flags := bit (decide (v.count = 0)) + 2 * bit (decide (v.count % v.refresh = 0))
  let head := padTo 32 (leBytes 4 0x57454956 ++ leBytes 1 n ++ leBytes 1 flags ++ [0, 0] ++ leBytes 4 payload.length ++ le32 f.k
    ++ le64 f.pts)
  padTo (64 * ceilDiv (32 + payload.length) 64) (head ++ payload)

/-- Bytes written at an index of a ring of 2^s bytes, wrapping past its end. -/
def State.ringBytes (s : State) (base log2 : Nat) (at_ : W32) (b : List Byte) : State :=
  let o := at_.toNat % 2 ^ log2
  let k := 2 ^ log2 - o
  (s.dataWrite (base + o) (b.take k)).dataWrite base (b.drop k)

/-- The index word of a view: P and its drop count. -/
def State.viewIndex (s : State) (v : View) (p drops : W32) : State :=
  s.hostWrite v.idxAddr (le32 p ++ le32 drops) false

/-- The count of the recovery point SEI that the first picture of a refresh cycle carries (R321). -/
def View.recovery (v : View) : Option Nat := if v.count % v.refresh = 0 then some (v.refresh - 1) else none

/-- The AU is written, or dropped for want of space in the output ring. -/
def State.emitAu (s : State) (n : Nat) (v : View) (f : ViewFrame) (e : EncRun) (rest : List ViewFrame) : State :=
  let out := Config.encodeEnd v.h265 e.enc v.recovery
  let au := auBytes n v f out.1
  let c := s.video.cidxOf n
  if 2 ^ v.log2Out - (v.pidx - c).toNat < au.length then
    let s := s.modView n (fun v => { v with todo := rest, qp := e.qp, faults := 0, drops := v.drops + 1 })
    (s.modVideo (fun x => { x with dropped := tup x.dropped n 0 (fun d => satAdd d 1) })).viewIndex v v.pidx (v.drops + 1)
  else
    let p := v.pidx + BitVec.ofNat 32 au.length
    let s := s.ringBytes v.outBase v.log2Out v.pidx au
    let s := (s.viewIndex v p v.drops).oweMsi v.vector
    s.modView n (fun v => { v with todo := rest, qp := e.qp, faults := 0, pidx := p, count := v.count + 1, enc := out.2 })

/-- VIEW_AU_ENCODE: the view's next frame, once its framing decision is there. -/
def execViewAuEncode (view : ViewId) (s : State) : Outcome :=
  let n := view.toNat
  .next (
    match s.view n with
    | none => s
    | some v =>
      match v.todo with
      | [] => s
      | f :: rest =>
        match s.viewCrop v f with
        | none => s
        | some c =>
          if !s.working || v.closing then s
          else
            let base := ((s.bufOf f.pyr).getD (0, 0)).1
            let (y, u, w) := s.levelZeroAt base f.par.outW f.par.outH
            let p : EncPic :=
              { luma := y.crop c v.width v.height, u := u.data, v := w.data, crop := c,
                intra := intraCols (viewBlocks v.width) v.refresh v.count,
                limit := (intraCols (viewBlocks v.width) v.refresh v.count).1, idr := v.count = 0,
                target := bitTarget v.kbps (viewRate f.par.fps v.fps), rows := viewBlocks v.height }
            let e := v.encodePicture p
            if !s.holdRoom (64 * ceilDiv (32 + (Config.encodeEnd v.h265 e.enc v.recovery).1.length) 64 + 8) then s
            else
              let job := ((s.stream v.stream).map (·.job)).getD 0xFF
              let samples := v.width * v.height
              let s := s.pipeOutcome true v.pipe job v.stream v.faults
              let s := (s.count 9 samples).jobEnergy job (s.energyOf 9 samples)
              (s.dropRef (viewPort v.pipe) f.pyr).emitAu n v f e rest)

end Sys2Proof.Machine
end

