-- ==== Sys2Proof/Machine/FabricLink.lean ====
section
/-!
DEFINITION. Fabric ports: training, authentication, frames, credits, resends, partners (R424 to R435).
-/
namespace Sys2Proof.Machine

/-! ## Ports leaving UP (R426, R434) -/

def Port.linked (p : Port) : Bool := p.state == .up || p.state == .slow

/-- Puts frames before those that wait on their new ports (R434); a frame without a usable port is dropped. -/
def State.reroute (s : State) : List Queued → State
  | [] => s
  | q :: r =>
    let s := s.reroute r
    match s.fab.pick (s.fab.route1 q.table q.frame.dst) with
    | none =>
      (if q.owes then s.leaveBuffer q.table (q.frame.vc.toNat % 4) else s).dropFrame.fabErr 0 Code.pathLost
        q.frame.dst.toNat
    | some (p, alt) =>
      let f := { q.frame with fflags := q.frame.fflags &&& 0xFE ||| (if alt then 1 else 0) }
      s.modPort p (fun x => { x with queue := { q with frame := f } :: x.queue })

/-- A port goes to a state in which it carries no frames: its unacknowledged and its waiting frames are rerouted. -/
def State.takeDown (s : State) (p : Nat) (dest : PortState) (erase : Bool) : State :=
  let q := s.port p
  let s := s.modPort p (fun x =>
    { x with state := dest, since := s.now, keyed := x.keyed && !erase, reauth := false, retrain := false, unacked := [], queue := [],
             resends := 0 })
  s.reroute (q.unacked ++ q.queue)

/-! ## Training (R425, R426) -/

/-- A port has stood in its state for `n` ms. -/
def State.stood (s : State) (p : Nat) (n : Nat) : Bool := s.passed (s.port p).since (n * ticksPerMs)

/-- Moves a port from one state to another. -/
def State.stepPort (s : State) (p : PortId) (from_ dest : PortState) (f : Port → Port) : State :=
  if s.glb.dev == .off || (s.port p.toNat).state != from_ then s
  else s.modPort p.toNat (fun x => { f x with state := dest, since := s.now })

/-- PORT_SIGNAL_DETECT (R426). -/
def execPortSignalDetect (port : PortId) (s : State) : Outcome := .next (s.stepPort port .down .training id)

/-- PORT_NO_SIGNAL_TIMEOUT (R426): no signal for 100 ms; training is attempted again, and the port stays DOWN. -/
def execPortNoSignalTimeout (port : PortId) (s : State) : Outcome :=
  .next (if s.stood port.toNat 100 then s.stepPort port .down .down id else s)

/-- TRAINING_LOCK (R426). -/
def execTrainingLock (port : PortId) (s : State) : Outcome := .next (s.stepPort port .training .auth id)

/-- TRAINING_TIMEOUT (R426): no lock within 50 ms. -/
def execTrainingTimeout (port : PortId) (s : State) : Outcome :=
  .next (
    if s.stood port.toNat 50 then
      s.stepPort port .training .down (fun p => { p with fails := satAdd p.fails 1, retrain := false })
    else s)

/-- LANE_FAILURE (R425): the spare lane, or FAILED once it is in use. -/
def execLaneFailure (port : PortId) (s : State) : Outcome :=
  let p := port.toNat
  let q := s.port p
  .next (
    if s.glb.dev == .off || !(q.linked || q.state == .training || q.state == .auth) then s
    else if !q.spared then
      (s.modPort p (fun x => { x with spared := true, retrain := true })).fabErr p Code.laneSpared 0
    else (s.takeDown p .failed true).fabErr p Code.linkPortDown 0)

/-- LANE_RETRAIN_DONE (R425): the frames that waited go on. -/
def execLaneRetrainDone (port : PortId) (s : State) : Outcome :=
  .next (if s.glb.dev == .off then s else s.modPort port.toNat (fun p => { p with retrain := false }))

/-! ## Authentication (R426 to R428, R433) -/

/-- Credits granted at UP, by VC (R424, R431). -/
def fullCredits : List Nat := [128, 128, 192, 64]

/-- This device's HELLO on a port (R433). -/
def State.hello (s : State) (p : Nat) : Hello :=
  { addr := s.fab.addr, port := BitVec.ofNat 8 p, serial := s.part.serial,
    tableCrc := crc32c (s.fab.tables.flatMap (fun t => t.flatMap le16)) }

/-- What a HELLO tells of the partner (R433). -/
def Port.meet (p : Port) (h : Hello) : Port :=
  { p with partner := h.addr, partnerPort := h.port, partnerSerial := h.serial, partnerTable := h.tableCrc }

/-- A port comes UP with fresh keys: sequence numbers and credits begin anew (log entry 41). -/
def Port.fresh (p : Port) (queue : List Queued) : Port :=
  { p with keyed := true, reauth := false, txSeq := 0, txWraps := 0, rxSeq := 0, unacked := [], resends := 0,
           queue := queue, credits := fullCredits, zeroAt := [0, 0, 0, 0], backAt := 0, rxHeld := [0, 0, 0, 0], owed := [0, 0, 0, 0], tagRetry := false,
           tagTimes := [], rsvTimes := [], forged := false }

/-- AUTH_COMPLETE (R426, R427, R433): both sides are verified; keys are installed and HELLO goes out. A port that
reauthenticates goes on where it stood, its count of wraps at 0 (log entry 41). -/
def execAuthComplete (port : PortId) (hello : Hello) (s : State) : Outcome :=
  let p := port.toNat
  let q := s.port p
  .next (
    if s.glb.dev == .off then s
    else if q.linked && q.reauth then
      s.modPort p (fun x => { x.meet hello with keyed := true, reauth := false, txWraps := 0 })
    else if q.state != .auth then s
    else
      let forget (x : Port) : Port :=
        { x with queue := x.queue.map (fun e => if e.table = p then { e with owes := false } else e) }
      let s := s.modFab (fun f => { f with ports := f.ports.map forget })
      let f := { s.fab.frame ftCtrl vcControl hello.addr [] (.hello (s.hello p)) with ttl := 15 }
      s.modPort p (fun x =>
        { (x.fresh [{ table := 8, owes := false, frame := f }]).meet hello with state := .up, since := s.now }))

/-- AUTH_FAIL (R426, R435): verification fails, or no answer comes within 10 ms. -/
def execAuthFail (port : PortId) (s : State) : Outcome :=
  let p := port.toNat
  let q := s.port p
  .next (
    if s.glb.dev == .off || !(q.state == .auth || (q.linked && q.reauth)) then s
    else (s.takeDown p .quarantined true).fabErr p Code.partnerQuarantined 0)

/-- LINK_REKEY (R428): a fresh authentication begins, and traffic pauses until it ends. -/
def execLinkRekey (port : PortId) (s : State) : Outcome :=
  let p := port.toNat
  .next (if s.glb.dev == .off || !(s.port p).linked then s else s.modPort p (fun x => { x with reauth := true }))

/-! ## Sending (R428 to R431) -/

/-- The 64-bit frame index of the next frame (R428). -/
def Port.index (p : Port) : Nat := p.txWraps * 2 ^ 32 + p.txSeq.toNat

/-- Frames may go out on the port. -/
def Port.open_ (p : Port) : Bool := p.linked && p.keyed && !p.retrain && !p.reauth && p.index < 2 ^ 40

/-- The acknowledgement and the credits that a frame carries (R429). -/
def Port.stamp (p : Port) (vc : Nat) (f : Frame) : Frame :=
  { f with ack := BitVec.ofNat 16 (p.rxSeq - 1).toNat, crVc := BitVec.ofNat 8 vc,
           crN := BitVec.ofNat 8 (min 255 (p.owed.getD vc 0)) }

/-- The credits in a stamped frame are no longer owed. -/
def Port.paid (p : Port) (vc : Nat) : Port := { p with owed := lmod p.owed vc (fun n => n - min 255 n) }

/-- The first entry of a queue on a VC, and the queue without it. -/
def takeVc (vc : Nat) : List Queued → Option (Queued × List Queued)
  | [] => none
  | q :: r => if q.frame.vc.toNat = vc then some (q, r) else (takeVc vc r).map (fun x => (x.1, q :: x.2))

/-- Retry buffer of a port in frames (R424). -/
def retryDepth : Nat := 512

/-- A DATA frame takes a credit of its VC (R431). -/
def Port.takeCredit (p : Port) (vc : Nat) (now : W64) : Port :=
  let n := p.credits.getD vc 0 - 1
  { p with credits := lset p.credits vc n, zeroAt := if n = 0 then lset p.zeroAt vc now else p.zeroAt }

/-- A DATA frame sent is an event of term 10; one of this device's own counts for the job whose span it serves (R493, R494). -/
def State.frameEnergy (s : State) (q : Queued) : State :=
  let span : Option W32 := match q.frame.ctrl with
    | .halo span .. => some span
    | .part span .. => some span
    | _ => none
  let fj := s.energyOf 10 1
  let s := s.count 10 1
  match if q.table = 8 then span.bind s.spanJob else none with
  | some j => s.jobEnergy j fj
  | none => s.deviceEnergy fj

/-- A frame of a VC goes out for the first time. -/
def State.sendFirst (s : State) (p vc : Nat) (q : Queued) (rest : List Queued) : State :=
  let s := if q.owes then s.leaveBuffer q.table vc else s
  let s := if q.frame.ftype = ftData then s.frameEnergy q else s
  s.modPort p (fun x =>
    let f := x.stamp vc { q.frame with lseq := x.txSeq }
    let x := x.paid vc
    let x := if f.ftype = ftData then x.takeCredit vc s.now else x
    let x := if x.unacked.isEmpty then { x with progressAt := s.now } else x
    { x with queue := rest, unacked := x.unacked ++ [{ q with owes := false, frame := f }], sent := x.sent ++ [f],
             txSeq := x.txSeq + 1, txWraps := if x.txSeq = 0xFFFFFFFF then x.txWraps + 1 else x.txWraps })

/-- FRAME_TRANSMIT (R429, R431): the next frame of a VC, a DATA frame against a credit; an IDLE frame when nothing waits. -/
def execFrameTransmit (port : PortId) (vc : Vc) (s : State) : Outcome :=
  let p := port.toNat
  let v := vc.toNat
  let q := s.port p
  .next (
    if s.glb.dev == .off || !q.open_ then s
    else match takeVc v q.queue with
      | some (e, rest) =>
        if retryDepth ≤ q.unacked.length || (e.frame.ftype = ftData && q.credits.getD v 0 = 0) then s
        else s.sendFirst p v e rest
      | none =>
        if !q.queue.isEmpty then s
        else s.modPort p (fun x =>
          let f := x.stamp v (s.fab.frame ftIdle v x.partner [] .none)
          { x.paid v with sent := x.sent ++ [f] }))

/-- Resends the retry buffer (R430). -/
def Port.resend (p : Port) (now : W64) : Port :=
  let fs := p.unacked.map (·.frame)
  { p with sent := p.sent ++ fs, resent := satAdd p.resent fs.length, resends := p.resends + 1, progressAt := now }

/-- Resends of one lseq without progress before the port goes DOWN (R430). -/
def resendLimit : Nat := 8

/-- REPLAY_TIMER (R430): 2 µs without progress. -/
def execReplayTimer (port : PortId) (s : State) : Outcome :=
  let q := s.port port.toNat
  .next (
    if s.glb.dev == .off || !q.open_ || q.unacked.isEmpty || resendLimit ≤ q.resends
        || !s.passed q.progressAt (2 * ticksPerUs) then s
    else s.modPort port.toNat (fun x => x.resend s.now))

/-- Frames acknowledged leave the retry buffer: progress (R430). -/
def Port.acked (p : Port) (n : Nat) (now : W64) : Port :=
  if n = 0 then p else { p with unacked := p.unacked.drop n, resends := 0, progressAt := now }

/-- The position of an lseq in the retry buffer. -/
def Port.place (p : Port) (lseq : W32) : Option Nat :=
  findNat (fun i => (p.unacked[i]?).any (fun q => q.frame.lseq == lseq)) p.unacked.length 0

/-- NAK_RECEIVE (R430): the frames before the named one have arrived; from it on they are resent. -/
def execNakReceive (port : PortId) (lseq : W32) (s : State) : Outcome :=
  let q := s.port port.toNat
  .next (
    match q.place lseq with
    | none => s
    | some i =>
      let q := q.acked i s.now
      if s.glb.dev == .off || !q.open_ || resendLimit ≤ q.resends then s
      else s.modPort port.toNat (fun _ => q.resend s.now))

/-- RETRY_EXHAUSTED (R426, R430, R435). -/
def execRetryExhausted (port : PortId) (s : State) : Outcome :=
  let q := s.port port.toNat
  .next (
    if s.glb.dev == .off || !q.linked || q.resends < resendLimit || q.unacked.isEmpty then s
    else (s.takeDown port.toNat .down false).fabErr port.toNat Code.linkPortDown 0)

/-- LOSS_OF_LOCK (R426, R435). -/
def execLossOfLock (port : PortId) (s : State) : Outcome :=
  let q := s.port port.toNat
  .next (
    if s.glb.dev == .off || !q.linked then s
    else (s.takeDown port.toNat .down false).fabErr port.toNat Code.linkPortDown 0)

/-! ## Receiving (R430 to R432, R434, R435) -/

/-- Times of the last second (R435). -/
def lastSecond (now : W64) (l : List W64) : List W64 := l.filter (fun t => decide ((now - t).toNat < 1000000 * ticksPerUs))

/-- Reserved bits of a frame are set: fflags, and the transport header of a DATA frame (R429, R432). -/
def frameReserved (f : Frame) : Bool :=
  decide (2 ≤ f.fflags.toNat) || (f.ftype = ftData && (decide (2 ≤ rd f.payload 5 1) || rd f.payload 6 2 != 0))

/-- Frames that the ack field of a good frame acknowledges. -/
def Port.ackCount (p : Port) (ack : W16) : Nat :=
  (p.unacked.takeWhile (fun q => !(ack - BitVec.ofNat 16 q.frame.lseq.toNat).msb)).length

/-- Credits of a VC come back; where they end a stall that reached FAB_CTL.stall_ms, the time is noted (R426, R435). -/
def Port.credit (p : Port) (vc n stallMs : Nat) (now : W64) : Port :=
  let long := p.credits.getD vc 0 = 0 && n != 0 && decide (stallMs * ticksPerMs ≤ (now - p.zeroAt.getD vc 0).toNat)
  { p with credits := lmod p.credits vc (· + n), backAt := if long then now else p.backAt }

/-- What a good frame's header brings: acknowledgements and credits. -/
def Port.hear (p : Port) (f : Frame) (stallMs : Nat) (now : W64) : Port :=
  (p.acked (p.ackCount f.ack) now).credit (f.crVc.toNat % 4) f.crN.toNat stallMs now

/-- A NAK with the expected lseq goes out (R430). -/
def State.sendNak (s : State) (p : Nat) : State :=
  s.modPort p (fun x =>
    let f := s.fab.frame ftNak vcControl x.partner (le32 x.rxSeq) .none
    { x with sent := x.sent ++ [{ f with ack := BitVec.ofNat 16 (x.rxSeq - 1).toNat }] })

/-- A frame that this device is not the destination of goes on, its ttl falling (R434); one that it is the destination of is
delivered. -/
def State.arrive (s : State) (p : Nat) (f : Frame) : State :=
  let owes := decide (f.ftype = ftData)
  if (s.fab.route1 p f.dst).getLsbD 15 then s.routeFrame p owes f
  else if f.ttl = 0 then (if owes then s.leaveBuffer p (f.vc.toNat % 4) else s).dropFrame
  else s.routeFrame p owes { f with ttl := f.ttl - 1 }

/-- A CONTROL frame: it comes from the partner itself, or it shows a hostile one (R433, R435). -/
def State.control (s : State) (p : Nat) (f : Frame) : State :=
  if f.src != (s.port p).partner then s.modPort p (fun x => { x with forged := true })
  else match f.ctrl with
    | .hello h => s.modPort p (fun x => x.meet h)
    | _ => s

/-- Words that have come let tasks of spanning Suites send the sections that wait for them (R438). -/
def State.moreFaces (s : State) : State :=
  s.plan.insts.foldl (fun s i =>
    (List.range i.2.tasks.length).foldl (fun s k =>
      match s.taskCtx i.1 k with
      | some c => if c.j.span != 0 && c.r.state == .running && c.t.halo then s.sendFaces i.1 k else s
      | none => s) s) s

/-- A good frame. -/
def State.goodFrame (s : State) (p : Nat) (f : Frame) : State :=
  let s := if frameReserved f then s.modPort p (fun x => { x with rsvTimes := lastSecond s.now x.rsvTimes ++ [s.now] }) else s
  if f.ftype = ftData || f.ftype = ftCtrl then
    if f.lseq != (s.port p).rxSeq then s.modPort p (fun x => x.acked (x.ackCount f.ack) s.now)
    else
      let s := s.modPort p (fun x =>
        let x := x.hear f s.fab.stallMs.toNat s.now
        let x := if f.ftype = ftData then { x with rxHeld := lmod x.rxHeld (f.vc.toNat % 4) (· + 1) } else x
        { x with rxSeq := x.rxSeq + 1, tagRetry := false })
      if f.ftype = ftCtrl then s.control p f else (s.arrive p f).moreFaces
  else s.modPort p (fun x => x.hear f s.fab.stallMs.toNat s.now)

/-- A frame from the link: FEC first, then the tag (R430). -/
def State.receive (s : State) (p : Nat) (check : FrameCheck) (frame : Frame) : State :=
  if s.glb.dev == .off || !(s.port p).linked || (s.port p).reauth then s
  else match check with
    | .fecBad => s.sendNak p
    | .tagBad =>
      (s.modPort p (fun x =>
        { x with tagfail := satAdd x.tagfail 1, tagRetry := true,
                 tagTimes := lastSecond s.now x.tagTimes ++ (if x.tagRetry then [s.now] else []) })).sendNak p
    | .good => s.goodFrame p frame

/-- TRANSPORT_GAP_TIMEOUT (R432): a held frame's gap did not close in 100 µs. -/
def execTransportGapTimeout (src : Byte) (vc : Vc) (s : State) : Outcome :=
  let key := tripleKey src vc.toNat
  .next (
    match tget s.fab.rx key with
    | some t =>
      if s.glb.dev == .off || t.ended || !t.held.any (fun h => s.passed h.2.1 (100 * ticksPerUs)) then s else s.endTriple key
    | none => s)

/-! ## Partners (R435) -/

/-- A VC of a port has stood at zero credits for FAB_CTL.stall_ms. -/
def State.stalled (s : State) (q : Port) (vc : Nat) : Bool :=
  q.credits.getD vc 0 = 0 && s.passed (q.zeroAt.getD vc 0) (s.fab.stallMs.toNat * ticksPerMs)

/-- CREDIT_STALL (R426, R435): a VC of an UP port stood at zero credits for FAB_CTL.stall_ms. -/
def execCreditStall (port : PortId) (vc : Vc) (s : State) : Outcome :=
  let q := s.port port.toNat
  .next (
    if s.glb.dev == .off || q.state != .up || !s.stalled q vc.toNat then s
    else (s.modPort port.toNat (fun x => { x with state := .slow, since := s.now })).fabErr port.toNat Code.routeAlt 0)

/-- SLOW_RECOVERY (R426): the credits are back, and for 10 ms no stall has reached the limit. -/
def execSlowRecovery (port : PortId) (s : State) : Outcome :=
  let q := s.port port.toNat
  .next (
    if s.glb.dev == .off || q.state != .slow || (List.range 4).any (s.stalled q) || !s.passed q.backAt (10 * ticksPerMs) then s
    else s.modPort port.toNat (fun x => { x with state := .up, since := s.now }))

/-- The limit of R435 that a partner has reached. -/
def State.hostile (s : State) (p : Port) (cause : HostileCause) : Bool :=
  match cause with
  | .tagFailures => decide (s.fab.tagMax.toNat ≤ (lastSecond s.now p.tagTimes).length)
  | .reservedBits => decide (16 ≤ (lastSecond s.now p.rsvTimes).length)
  | .forgedSource => p.forged

/-- HOSTILE_DETECT (R426, R435). -/
def execHostileDetect (port : PortId) (cause : HostileCause) (s : State) : Outcome :=
  let q := s.port port.toNat
  .next (
    if s.glb.dev == .off || !q.linked || !s.hostile q cause then s
    else (s.takeDown port.toNat .quarantined true).fabErr port.toNat Code.partnerQuarantined 0)

end Sys2Proof.Machine
end

