-- ==== Sys2Proof/Machine/Fabric.lean ====
section
/-!
DEFINITION. FABRIC_JOIN, spans and the FAB registers that an access changes (R433, R436, R437, R442).
-/
namespace Sys2Proof.Machine

/-! ## The site anchor (R436: a compressed SEC1 P-384 point) -/

/-- The prime and the coefficient b of P-384 (the standard curve that R427 names). -/
def p384 : Nat := 2 ^ 384 - 2 ^ 128 - 2 ^ 96 + 2 ^ 32 - 1
def p384b : Nat :=
  0xb3312fa7e23ee7e4988e056be3f82d19181d9c6efe8141120314088f5013875ac656398d8a2ed19d2a85c8edd3ec2aef

/-- b ^ e mod m, for e below 2 ^ fuel. -/
def powMod (m : Nat) : Nat → Nat → Nat → Nat
  | 0, _, _ => 1
  | fuel + 1, b, e =>
    let h := powMod m fuel (b * b % m) (e / 2)
    if e % 2 = 1 then b * h % m else h

/-- Big-endian value of bytes. -/
def beNat (b : List Byte) : Nat := b.foldl (fun n x => n * 256 + x.toNat) 0

/-- A compressed point of the curve. -/
def pointOk (b : List Byte) : Bool :=
  let x := beNat (slice b 1 48)
  let y2 := (x * x % p384 * x + (p384 - 3) * x + p384b) % p384
  (rd b 0 1 = 2 || rd b 0 1 = 3) && x < p384 && (y2 = 0 || powMod p384 384 y2 ((p384 - 1) / 2) = 1)

/-! ## FABRIC_JOIN (R433, R436) -/

/-- The nine routing tables in 4,608 bytes (R434). -/
def parseTables (b : List Byte) : List (List W16) :=
  (List.range 9).map (fun t => (List.range 256).map (fun d => rd16 b (512 * t + 2 * d)))

/-- The fields of R436 lie in their ranges; a location in HBM lies inside the window. -/
def State.joinParamOk (s : State) (b : List Byte) : Bool :=
  rd b 16 1 ≤ 1 && rd b 20 1 ≤ 1 && rd b 21 1 ≤ 1 && rd b 24 8 % 64 = 0
    && (rd b 16 1 = 1 || rd b 20 1 = 0 || s.inWindow (rd b 24 8) 4608)
    && (rd b 21 1 = 0 || pointOk (slice b 64 49))

/-- A port under a JOIN: enabled, returned from QUARANTINED, or reauthenticating under a new anchor (R426, R436). -/
def Port.join (p : Port) (unquar newAnchor : Bool) (now : W64) : Port :=
  match p.state with
  | .disabled => { p with state := .down, since := now }
  | .quarantined => if unquar then { p with state := .down, since := now } else p
  | .up | .slow => { p with reauth := p.reauth || newAnchor }
  | _ => p

/-- A port disabled by FABRIC_JOIN: a FAILED one stays (R426). -/
def State.disablePort (s : State) (p : Nat) : State :=
  if (s.port p).state == .failed then s else s.takeDown p .disabled true

/-- Disables ports; their frames are rerouted once all of them are. -/
def State.disablePorts (s : State) (ps : List Nat) : State :=
  let frames := ps.flatMap (fun p => (s.port p).unacked ++ (s.port p).queue)
  let s := ps.foldl (fun (s : State) p => s.modPort p (fun x => { x with unacked := [], queue := [] })) s
  (ps.foldl State.disablePort s).reroute frames

/-- A JOIN with its routing tables takes effect. -/
def State.join (s : State) (b tables : List Byte) : State :=
  let anchor := if rd b 21 1 = 1 then slice b 64 49 else []
  let fresh := anchor != s.fab.anchor
  let on (p : Nat) : Bool := (rd8 b 18).getLsbD p
  let s := s.modFab (fun f =>
    { f with joined := true, addr := rd8 b 17, anchor := anchor, tables := parseTables tables })
  let s := (List.range 8).foldl (fun (s : State) p =>
    if on p then s.modPort p (fun x => x.join ((rd8 b 19).getLsbD p) fresh s.now) else s) s
  s.disablePorts ((List.range 8).filter (fun p => !on p))

/-- FABRIC_JOIN (R436). -/
def execFabricJoin (ring : RingId) (s : State) : Outcome :=
  let r := ring.toNat
  .next (s.withOp (.ring ring) 0x80 (fun o s =>
    let b := o.bytes
    let hbm := decide (rd b 20 1 = 1)
    let leave := decide (rd b 16 1 = 1)
    let held := (List.range 8).any (fun p => (s.port p).linked && (s.port p).partner = rd8 b 17)
    match [ (s.joinParamOk b, Code.fabParam), (s.fab.spans.isEmpty, Code.fabBusy),
            (leave || !held, Code.fabAddr) ].find? (fun c => !c.1) with
    | some c => s.finish r o.id c.2
    | none =>
      if leave then
        ((s.disablePorts (List.range 8)).modFab (fun f => { f with joined := false })).finish r o.id Code.ok
      else if hbm && s.windowPoisoned (rd b 24 8) 4608 then s.finish r o.id Code.memUe
      else s.withPayload r o hbm (rd b 24 8) 4608 (fun d s => ((s.join b d).powerUp []).finish r o.id Code.ok)))

/-! ## Spans (R437) -/

/-- Fields of R437 other than span and sflags. -/
def State.spanParamOk (s : State) (b : List Byte) : Bool :=
  let m := rd b 20 1
  inRange 2 64 m && rd b 21 1 * rd b 22 1 = m && inRange 1 8 (rd b 24 1) && inRange 1 s.part.rows (rd b 25 1)
    && zeroAt b (64 + m) (64 - m)

/-- Grid neighbours of a member's place. -/
def gridNeighbours (a b i : Nat) : List Nat :=
  let x := i % a
  let y := i / a
  (if 0 < x then [i - 1] else []) ++ (if x + 1 < a then [i + 1] else []) ++ (if 0 < y then [i - a] else [])
    ++ (if y + 1 < b then [i + a] else [])

/-- Direct UP ports to a device. -/
def Fab.directTo (f : Fab) (d : Byte) : Nat := (f.ports.filter (fun p => p.state == .up && p.partner = d)).length

/-- The span that a COLLECTIVE_CFG describes, with p_e to this device's grid neighbours (R438). -/
def State.spanOfPacket (s : State) (b : List Byte) : Span :=
  let m := rd b 20 1
  let members := slice b 64 m
  let i := members.idxOf s.fab.addr
  let near := (gridNeighbours (rd b 21 1) (rd b 22 1) i).map (fun k => members.getD k 0)
  { m := m, a := rd b 21 1, b := rd b 22 1, w := rd b 24 1, h := rd b 25 1, members := members,
    crc := crc32c (slice b 16 112), direct := near.foldl (fun t d => tset t d.toNat (s.fab.directTo d)) [] }

/-- The checks of R437 in order; of the pairs of grid neighbours, those that this device belongs to. -/
def State.topologyOk (s : State) (p : Span) : Bool :=
  (p.members.filter (· = s.fab.addr)).length = 1
    && p.members.all (fun d => d = s.fab.addr || s.fab.reaches d)
    && p.direct.all (fun q => decide (0 < q.2))

/-- The span's configuration ends with a status; success configures it. -/
def State.endSpanCfg (s : State) (c : SpanCfg) (code : W32) : State :=
  let s := s.modFab (fun f =>
    { f with cfg := none, spans := if code = Code.ok then tset f.spans c.id.toNat c.span else f.spans })
  s.finish c.ring c.op code

/-- The configuration in progress completes when every other member has reported, or on a value that differs. -/
def State.settleSpan (s : State) : State :=
  match s.fab.cfg with
  | none => s
  | some c =>
    if c.reports.any (fun r => r.2 != c.span.crc) then s.endSpanCfg c Code.spanMismatch
    else if c.span.members.all (fun d => d = s.fab.addr || thas c.reports d.toNat) then s.endSpanCfg c Code.ok
    else s

/-- COLLECTIVE_CFG begins its CRC exchange; reports that came before it count. -/
def State.beginSpan (s : State) (r : Nat) (o : Op) (p : Span) : State :=
  let id := rd32 o.bytes 16
  let mine := s.fab.early.filter (fun e => e.2.1 = id && p.members.contains e.1)
  let s := (s.beginOp r o.id).modFab (fun f =>
    { f with early := f.early.filter (fun e => e.2.1 != id),
             cfg := some { id := id, span := p, ring := r, op := o.id, at_ := s.now,
                           reports := mine.foldl (fun t e => tset t e.1.toNat e.2.2) [] } })
  ((p.members.filter (· != s.fab.addr)).foldl (fun (s : State) d => s.sendCtrl d (.spanCrc id p.crc)) s).settleSpan

/-- COLLECTIVE_CFG (R437). One configuration is in progress at a time. -/
def execCollectiveCfg (ring : RingId) (s : State) : Outcome :=
  let r := ring.toNat
  .next (s.withOp (.ring ring) 0x81 (fun o s =>
    let b := o.bytes
    let id := rd32 b 16
    let known := thas s.fab.spans id.toNat
    let p := s.spanOfPacket b
    if s.fab.cfg.isSome then s
    else if (rd8 b 23).getLsbD 0 then
      s.checked r o
        [ (id != 0, Code.fabParam), (known && (s.spanJob id).isNone, Code.spanId) ]
        (fun s => s.modFab (fun f => { f with spans := tdel f.spans id.toNat }))
    else
      match [ (id != 0 && s.spanParamOk b, Code.fabParam), (!known && decide (s.fab.spans.length < 64), Code.spanId),
              (s.topologyOk p, Code.spanTopology) ].find? (fun c => !c.1) with
      | some c => s.finish r o.id c.2
      | none => s.beginSpan r o p))

/-- SPAN_CONFIG_TIMEOUT (R437): the members did not all report within 100 ms. -/
def execSpanConfigTimeout (s : State) : Outcome :=
  .next (
    match s.fab.cfg with
    | some c => if s.passed c.at_ (100 * ticksPerMs) then s.endSpanCfg c Code.spanTimeout else s
    | none => s)

/-- FRAME_RECEIVE (R430): FEC first, then the tag; then the frame itself, which may bring a span's last report. -/
def execFrameReceive (port : PortId) (check : FrameCheck) (frame : Frame) (s : State) : Outcome :=
  .next (s.receive port.toNat check frame).settleSpan

/-! ## FAB registers (R442) -/

def portCode : PortState → Nat
  | .disabled => 0
  | .down => 1
  | .training => 2
  | .auth => 3
  | .up => 4
  | .slow => 5
  | .quarantined => 6
  | .failed => 7

def Port.statWord (p : Port) : Nat :=
  portCode p.state * 2 ^ 28 + bit p.spared * 2 ^ 27 + p.partner.toNat * 2 ^ 8 + p.fails.toNat

def Port.cntWord (p : Port) : Nat := p.tagfail.toNat * 2 ^ 32 + p.resent.toNat

/-- A write of FAB_PORT_SEL: the selected port's snapshot. -/
def State.portSel (s : State) (v : W32) : State :=
  let p := s.port (field v.toNat 0 3)
  s.modFab (fun f =>
    { f with portSel := BitVec.ofNat 3 v.toNat, snapStat := BitVec.ofNat 32 p.statWord,
             snapCnt := BitVec.ofNat 64 p.cntWord })

/-- FAB_PORT_SEL_WRITE. -/
def execFabPortSelWrite (value : W32) (s : State) : Outcome := .next (s.hostWriteReg (fun s => s.portSel value))

def Fab.errWord (f : Fab) : Nat := bit f.errValid * 2 ^ 31 + f.errPort.toNat * 2 ^ 16 + f.errCode.toNat

/-- FAB_ERR_READ. -/
def execFabErrRead (s : State) : Outcome :=
  .next (if !s.regsUp then s
    else (s.reply 4 s.fab.errWord).modFab (fun f => { f with errValid := false, errPort := 0, errCode := 0 }))

def Fab.dropWord (f : Fab) : Nat := f.dup.toNat * 2 ^ 16 + f.route.toNat

/-- FAB_DROP_READ. -/
def execFabDropRead (s : State) : Outcome :=
  .next (if !s.regsUp then s else (s.reply 4 s.fab.dropWord).modFab (fun f => { f with dup := 0, route := 0 }))

/-- FAB_ADDR as a word. -/
def Fab.addrWord (f : Fab) : Nat := bit f.joined * 2 ^ 31 + f.spans.length * 2 ^ 8 + f.addr.toNat

end Sys2Proof.Machine
end

