-- ==== Sys2Proof/Machine/Drain.lean ====
section
/-!
DEFINITION. Commands that end the work of others: completion records with the references that drop with them, the end of a ring,
the end of a drain, and the power domains' switching off and failing (R74, R80, R284, R488, R489, R502).
-/
namespace Sys2Proof.Machine

/-! ## Records and references (R74, R284) -/

/-- The references that a packet's instance bound drop. -/
def State.dropDue (s : State) (due : Nat × Nat → Bool) : State :=
  let hs := (s.plan.refsDue.filter (fun d => due (d.1, d.2.1))).flatMap (·.2.2)
  (s.modPlan (fun p => { p with refsDue := p.refsDue.filter (fun d => !due (d.1, d.2.1)) })).dropRefs 27 hs

/-- COMPLETION_RECORD_WRITE (R74), of a COMMAND ring's oldest packet; the Planner's references of that packet drop with it
(R284). -/
def execCompletionRecordWrite (ring : RingId) (s : State) : Outcome :=
  let r := ring.toNat
  .next (
    match (s.opsOf r).head? with
    | none => s
    | some o =>
      let t := s.writeRecord r
      if (t.findOp r o.id).isSome then t else t.dropDue (fun d => d.1 = r && d.2 = o.id))

/-- RING_DESTROY_DONE (R80). The admin pair goes together (R88). References that waited for a record that is never written drop
here. -/
def execRingDestroyDone (ring : RingId) (s : State) : Outcome :=
  .next (
    let r := ring.toNat
    match s.ringCtx r with
    | none => s
    | some c =>
      if c.state != .destroying || !s.ringSpent c then s
      else
        let s := (s.freeRing r c).dropDue (fun d => d.1 = r)
        match c.destroyer with
        | some id => s.finish 0 id Code.ok
        | none => { s with ring := { s.ring with ctx := tdel s.ring.ctx 1 } })

/-! ## Power domains (R488, R489) -/

/-- Room stores of a group that goes off hold nothing; registers stay, since switching changes no result (log entry 44). -/
def State.groupOff (s : State) (g : Nat) : State :=
  { s with rooms := s.rooms.map (fun p =>
      if groupOf s.part.e p.1 = g then (p.1, { p.2 with store := [], lines := [], acc0 := [], acc1 := [], half := false })
      else p) }

/-- DOMAIN_OFF_TIMER (R489): 1 ms after its last condition ended a switched domain goes off. -/
def execDomainOffTimer (domain : Nat) (s : State) : Outcome :=
  .next (
    if 41 ≤ domain || !s.pwr.domains.getLsbD domain || s.domainNeeded domain
        || !(tget s.pwr.idle domain).any (fun t => s.passed t ticksPerMs) then s
    else
      let s := s.modPwr (fun w => { w with domains := clearBit w.domains domain, idle := tdel w.idle domain })
      if domain < 16 then s.groupOff domain else s)

/-- The command of R488 that a packet stands for, where its kind can need a domain. -/
def powerMeaning (opcode : Nat) : Option (RingId → State → Outcome) :=
  match opcode with
  | 0x33 => some execJobOpen
  | 0x50 => some execStreamOpen
  | 0x53 => some execViewOpen
  | 0x60 => some execCaptureData
  | 0x61 => some execDictLoad
  | 0x70 => some execTrackPolicy
  | 0x80 => some execFabricJoin
  | _ => none

/-- The packet that a ring's unit takes next would switch a domain on. -/
def State.wouldPower (s : State) (r domain : Nat) : Option Op :=
  match s.nextOp (.ring (BitVec.ofNat 20 r)) with
  | none => none
  | some o =>
    match powerMeaning o.opcode with
    | none => none
    | some f =>
      match f (BitVec.ofNat 20 r) s with
      | .next t => if t.pwr.domains.getLsbD domain then some o else none
      | _ => none

/-- DOMAIN_FAIL (R489): the domain that a packet needs does not report power-good; the packet completes with DOMAIN_FAIL and has
no other effect, and the bit stays 0. -/
def execDomainFail (domain : Nat) (s : State) : Outcome :=
  .next (
    if 41 ≤ domain || !s.working || s.pwr.domains.getLsbD domain then s
    else
      match s.ring.ctx.findSome? (fun c => (s.wouldPower c.1 domain).map (fun o => (c.1, o))) with
      | some (r, o) => s.finish r o.id Code.domainFail
      | none => s)

/-! ## The end of a drain (R502) -/

/-- Every dispatched packet's record is written, or is held by a FAULTED COMPLETION ring (R82). -/
def State.ringsIdle (s : State) : Bool :=
  s.ring.ctx.all (fun c => c.2.kind != .command || s.ringSpent c.2)

/-- No record of an ACTIVE METADATA ring waits. -/
def State.metaIdle (s : State) : Bool := s.ring.ctx.all (fun c => c.2.waiting.isEmpty)

/-- Every picture of a completed packet is decoded, and those output are through their per-frame graphs; a picture that waits
for its turn in output order waits for pictures still to come. -/
def Stream.idle (t : Stream) : Bool := t.pics.isEmpty && t.frames.isEmpty && t.refusal.isNone

/-- Work in progress has run to its end. -/
def State.quiet (s : State) : Bool :=
  s.ringsIdle && s.metaIdle && s.plan.insts.isEmpty && s.plan.admits.isEmpty && s.plan.jobs.all (fun j => j.2.step.isNone)
    && s.video.streams.all (fun t => t.2.idle) && s.video.views.isEmpty

/-- DRAIN_COMPLETE (R502, R498): the device is HELD, DRAINED. -/
def execDrainComplete (s : State) : Outcome :=
  .next (if s.glb.dev == .draining && s.quiet then s.hold .drained Code.ok else s)

end Sys2Proof.Machine
end

