-- ==== Sys2Proof/Machine/Preempt.lean ====
section
/-!
DEFINITION. Sharing the Rooms: pre-emption, freezes of spanning jobs, switches, suspension, and the end of jobs (R100, R262 to
R270).
-/
namespace Sys2Proof.Machine

/-! ## Names in `Preempt.by_` -/

/-- JOB_PREEMPT asked for the pre-emption (R268). -/
def byHost : Nat := 64
/-- A member of the job's span froze it (R264). -/
def bySpan : Nat := 65
/-- From here on: an ON_DEMAND job that has closed since (R263). -/
def byGone : Nat := 66

/-- Rooms that a pre-emption takes from a victim: those under the ON_DEMAND rectangle, or what the job still holds of its Suite. An
OFFLINE Room stays OFFLINE (R153). -/
def State.overlapRooms (s : State) (victim : Job) (by_ : Nat) : List Nat :=
  (if by_ = byHost then
    victim.roomList.filter (fun q => !victim.pre.any (fun p => p.phase == .out && p.rooms.contains q))
  else match s.job by_ with
    | some o => victim.roomList.filter o.holdsRoom
    | none => []).filter (fun q => !s.glb.grid.lost.contains q)

def State.modPre (s : State) (job by_ : Nat) (f : Preempt → Preempt) : State :=
  s.modJob job (fun j => { j with pre := j.pre.map (fun p => if p.by_ = by_ then f p else p) })

def State.dropPre (s : State) (job by_ : Nat) : State :=
  s.modJob job (fun j => { j with pre := j.pre.filter (fun p => p.by_ != by_) })

/-- The other members of a job's span. -/
def State.othersOf (s : State) (j : Job) : List Byte :=
  match s.spanOf j with
  | some p => p.members.filter (· != s.fab.addr)
  | none => []

def State.tellOthers (s : State) (j : Job) (c : Ctrl) : State :=
  (s.othersOf j).foldl (fun s d => s.sendCtrl d c) s

/-- The semaphores that a job's instances hold. -/
def State.holdsSem (s : State) (job : Nat) : Bool :=
  s.plan.sems.any (fun h => (s.inst h.2.inst).any (fun i => i.job = job))

/-- Highest started task of each admitted instance, by its number in the job, plus 1 (R264). -/
def State.startedTop (s : State) (job : Nat) : List (Nat × Nat) :=
  s.plan.insts.filterMap (fun p =>
    if p.2.job != job || p.2.state == .queued || p.2.state == .waiting then none
    else some (p.2.run, ((List.range p.2.tasks.length).filter (fun k =>
      (p.2.tasks[k]?).any (fun r => !r.unstarted && !r.empty))).foldl (fun m k => max m (k + 1)) 0))

/-- The largest of two reports, instance by instance. -/
def mergeTops (a b : List (Nat × Nat)) : List (Nat × Nat) :=
  b.foldl (fun t p => tset t p.1 (max (tgetD t p.1 0) p.2)) a

/-- A frame that a task of the span has queued on the BULK VC and not yet sent (R440). -/
def Queued.bulkOf (q : Queued) (span : W32) : Bool :=
  q.table = 8 && q.frame.vc = 2 && (match q.frame.ctrl with
    | .halo sp _ _ _ _ _ _ => sp == span
    | .part sp _ _ _ _ => sp == span
    | _ => false)

/-- A switch withdraws the job's queued BULK frames to its save region. A frame that waits in a queue has spent no credit here, so
none is left with the job (R267, R440). -/
def State.withdraw (s : State) (n : Nat) (j : Job) : State :=
  let mine := s.fab.ports.flatMap (fun p => p.queue.filter (fun q => q.bulkOf j.span))
  (s.modFab (fun f => { f with ports := f.ports.map (fun p => { p with queue := p.queue.filter (fun q => !q.bulkOf j.span) }) })).modJob n
    (fun j => { j with withdrawn := j.withdrawn ++ mine })

/-- The withdrawn frames go out again, with their tseq, once the job has resumed (R440). -/
def State.sendWithdrawn (s : State) (n : Nat) (j : Job) : State :=
  (j.withdrawn.foldl (fun s q => s.routeFrame 8 false q.frame) s).modJob n (fun j => { j with withdrawn := [] })

/-- A job that no pre-emption concerns and that is not suspended runs on: its frozen timetable resumes, on every member (R263, R264,
R440). -/
def State.thaw (s : State) (job : Nat) : State :=
  match s.job job with
  | none => s
  | some j =>
    if j.suspended || j.pre.any (fun p => p.by_ != bySpan) then s
    else ((s.sendWithdrawn job j).modJob job (fun j => { j with cut := none })).tellOthers j (.thaw j.span)

/-! ## The switch (R265) -/

/-- S for the live KiB of the Rooms switched (R265): L_r adds 16 KiB of accumulator and 8 KiB of vector state. -/
def switchBeats (live : List Nat) : Nat :=
  let ls := live.map (fun k => (k + 24) * 1024)
  let x := max (32 * ls.foldl max 0) ls.sum
  ceilDiv (225 * 2457600 + 300 * x) 78643200

/-- Live KiB of a Room in a switch: the larger of the outgoing job's ROOM_STORE.live and the incoming job's, `lives` (R265). -/
def State.liveOf (s : State) (lives : Tab (BitVec 11)) (room : Nat) : Nat :=
  max (s.room room).live.toNat (tgetD lives room 0).toNat

/-- The live values that a job's saved state holds. -/
def Job.savedLives (j : Job) : Tab (BitVec 11) := j.saved.map (fun p => (p.1, p.2.live))

/-- A switch is counted in PLAN_PREEMPT and PLAN_SWITCH (R270). -/
def Plan.countSwitch (p : Plan) (job beats : Nat) : Plan :=
  let p := if p.preValid then p else { p with preValid := true, preJob := BitVec.ofNat 6 job }
  { p with preCount := satAdd p.preCount 1, switchBeats := BitVec.ofNat 32 (min beats 0xFFFF) }

/-- Rooms go to a state. -/
def State.roomsTo (s : State) (rooms : List Nat) (st : RoomState) : State :=
  rooms.foldl (fun s q => s.modRoom q (fun r => { r with state := st })) s

/-- The state of a Room is saved with its job (R265). It goes to the job's save region, whose layout the rule does not give:
`Job.saved` stands for its contents (R266; log entry 133). -/
def State.saveRoom (s : State) (job room : Nat) : State :=
  let r := s.room room
  s.modJob job (fun j =>
    { j with saved := tset j.saved room { store := r.store, acc0 := r.acc0, acc1 := r.acc1, half := r.half,
                                          lines := r.lines, live := r.live, sealed := r.sealed } })

/-- The saved state of a Room returns, and its job owns the Room again. A Room lost meanwhile stays OFFLINE (R153). -/
def State.restoreRoom (s : State) (job room : Nat) : State :=
  if s.glb.grid.lost.contains room then s.modJob job (fun j => { j with saved := tdel j.saved room })
  else match (s.job job).bind (fun j => tget j.saved room) with
  | none => s.modRoom room (fun r => { r with state := .idle, job := BitVec.ofNat 6 job, live := 0 })
  | some v =>
    let s := s.modRoom room (fun r =>
      { r with state := .idle, job := BitVec.ofNat 6 job, store := v.store, acc0 := v.acc0, acc1 := v.acc1,
               half := v.half, lines := v.lines, live := v.live, sealed := v.sealed,
               peak := if r.peak.toNat < v.live.toNat then v.live else r.peak })
    s.modJob job (fun j => { j with saved := tdel j.saved room })

/-- A switch of Rooms begins: they are SAVING for S beats, which PLAN_PREEMPT and PLAN_SWITCH count (R265, R270). The answer is the
beat at which it ends. -/
def State.beginSwitch (s : State) (outgoing : Nat) (rooms : List Nat) (lives : Tab (BitVec 11)) : State × Nat :=
  let beats := switchBeats (rooms.map (s.liveOf lives))
  ((s.roomsTo rooms .saving).modPlan (fun x => x.countSwitch outgoing beats), s.beat + beats)

/-! ## PREEMPT_REQUEST and VICTIM_FREEZE (R262, R264) -/

/-- Victims of an ON_DEMAND job: the BULK jobs under its rectangle that are not suspended. -/
def State.victims (s : State) (j : Job) : List (Nat × Job) :=
  s.plan.jobs.filter (fun p => p.2.bulk && !p.2.onDemand && !p.2.suspended && p.2.rect.meets j.rect)

/-- The ON_DEMAND job takes its Rooms (R262, step 5). -/
def State.claimRooms (s : State) (job : Nat) : State :=
  match s.job job with
  | none => s
  | some j => (j.roomList.foldl (fun s q => s.takeRoom job q) s).modJob job (fun j => { j with holds := true })

/-- A pre-emption is asked for: the victim's members are told to freeze (R264). -/
def State.askFreeze (s : State) (victim by_ : Nat) : State :=
  match s.job victim with
  | none => s
  | some v =>
    if v.pre.any (fun p => p.by_ = by_) then s
    else
      let s := s.modJob victim (fun j => { j with pre := j.pre ++ [{ by_ := by_, phase := .requested, at_ := s.beat, rooms := [] }] })
      s.tellOthers v (.freeze v.span)

/-- Every victim of an ON_DEMAND job is switched out, and no other switch has one of its Rooms. -/
def State.allOut (s : State) (job : Nat) (j : Job) : Bool :=
  (s.victims j).all (fun v => v.2.pre.any (fun p => p.by_ = job && p.phase == .out))
    && !j.roomList.any (fun q => (s.room q).state == .saving)

/-- PREEMPT_REQUEST (R262): from the first boundary after admission the victims are to give way; Rooms that are free are
taken at once, and so are those of victims that are out already. -/
def execPreemptRequest (inst : Nat) (s : State) : Outcome :=
  .next (
    match s.inst inst with
    | none => s
    | some i =>
      match s.job i.job with
      | none => s
      | some j =>
        if !s.working || i.state != .waiting || !j.onDemand || j.holds || s.beat < i.b0 then s
        else
          if s.allOut i.job j then s.claimRooms i.job
          else (s.victims j).foldl (fun s v => s.askFreeze v.1 i.job) s)

/-- Reports of the other members that have come. -/
def State.reports (s : State) (j : Job) : List (Byte × List (Nat × Nat)) :=
  s.fab.inbox.filterMap (fun f => match f.ctrl with
    | .started span top => if span == j.span then some (f.src, top) else none
    | _ => none)

/-- The agreed cut of a spanning victim, once every member has reported (R264, step 3). -/
def State.agreeCut (s : State) (job : Nat) (j : Job) : State :=
  let rs := s.reports j
  if !(s.othersOf j).all (fun d => rs.any (fun r => r.1 == d)) then s
  else
    let top := rs.foldl (fun t r => mergeTops t r.2) (s.startedTop job)
    let s := s.modFab (fun f => { f with inbox := f.inbox.filter (fun x => match x.ctrl with
      | .started span _ => span != j.span
      | _ => true) })
    (s.modJob job (fun j => { j with cut := some top })).tellOthers j (.cut j.span top)

/-- VICTIM_FREEZE (R262, steps 2 and 3): at a boundary without a semaphore hold the victim starts no further task. For a
spanning victim it also collects the members' reports into the cut (R264). -/
def execVictimFreeze (job : JobId) (s : State) : Outcome :=
  let n := job.toNat
  .next (
    match s.job n with
    | none => s
    | some j =>
      if !s.working then s
      else if j.pre.any (fun p => p.by_ != bySpan && p.phase == .requested && decide (p.at_ ≤ s.beat)) then
        if s.holdsSem n then s
        else s.modJob n (fun j => { j with pre := j.pre.map (fun p =>
          if p.by_ != bySpan && p.phase == .requested then { p with phase := .frozen } else p) })
      else if j.pre.any (fun p => p.by_ != bySpan && p.phase == .frozen) && j.cut.isNone && !(s.othersOf j).isEmpty then
        s.agreeCut n j
      else s)

/-! ## SWITCH_START, SWITCH_COMPLETE, ROOMS_RETURN (R262, R263, R265) -/

/-- A spanning victim has started every task up to its cut (R264, step 3). -/
def State.cutReached (s : State) (job : Nat) (j : Job) : Bool :=
  (s.othersOf j).isEmpty ||
    (match j.cut with
      | none => false
      | some _ => (s.tasksOf job).all (fun c => !c.withinCut || !c.r.unstarted || c.r.empty))

/-- SWITCH_START (R262, step 4): the overlapped Rooms are IDLE; queued BULK frames are withdrawn (R440), and the Rooms save for S
beats. -/
def execSwitchStart (job : JobId) (s : State) : Outcome :=
  let n := job.toNat
  .next (
    match s.job n with
    | none => s
    | some j =>
      match j.pre.find? (fun p => p.phase == .frozen && p.by_ != bySpan) with
      | none => s
      | some p =>
        let rooms := s.overlapRooms j p.by_
        if !s.working || !s.cutReached n j || !rooms.all (fun q => (s.room q).state == .idle) then s
        else
          let lives := ((s.job p.by_).map (·.lives)).getD []
          let (t, till) := (s.withdraw n j).beginSwitch n rooms lives
          t.modPre n p.by_ (fun q => { q with phase := .saving till, rooms := rooms }))

/-- The packets that wait for a job's suspension or resumption complete (R268). -/
def State.endWaiters (s : State) (n : Nat) (j : Job) (code : W32) : State :=
  j.waiters.foldl (fun s w => s.finish w.1 w.2 code) (s.modJob n (fun j => { j with waiters := [] }))

/-- The host's SUSPEND is done (R268). The job is no victim any more: requests that have not begun to switch end. -/
def State.suspendDone (s : State) (n : Nat) (j : Job) : State :=
  (s.modJob n (fun j => { j with suspended := true,
                                 pre := j.pre.filter (fun p => p.by_ = bySpan || p.phase == .out && p.by_ != byHost) })).endWaiters n j
    Code.ok

/-- The host's RESUME is done: the job runs on (R268). -/
def State.resumeDone (s : State) (n : Nat) (j : Job) : State :=
  ((s.modJob n (fun j => { j with suspended := false, pre := j.pre.filter (fun p => p.by_ = bySpan) })).thaw n).endWaiters n j Code.ok

/-- Rooms that are out return to their job by a switch (R263). -/
def State.beginReturn (s : State) (n : Nat) (j : Job) (outgoing by_ : Nat) (rooms : List Nat) : State :=
  let (t, till) := s.beginSwitch outgoing rooms j.savedLives
  t.modPre n by_ (fun q => { q with phase := .restoring till })

/-- A job's next instance completes with RCV_STORE_LOST: the first it has, or the next it will have (R469). -/
def State.loseStore (s : State) (n : Nat) : State :=
  let mine := s.plan.insts.filter (fun p => p.2.job = n)
  match mine.find? (fun p => mine.all (fun q => decide (p.2.order ≤ q.2.order))) with
  | some p => s.modInst p.1 (fun i => { i with lostStore := true })
  | none => s.modJob n (fun j => { j with storeLost := true })

/-- Parity faults of a save (R469): the first repeats it, the second substitutes the Room or retires it (R470). Whether they come,
the spec leaves open: a free value says, and names the Room (log entry 140). -/
def State.saveFault (s : State) (n : Nat) (rooms : List Nat) : State :=
  let (s, v) := s.draw
  let room := rooms.getD (v.toNat / 4 % max rooms.length 1) 0
  let phys := s.physOf room
  let note (s : State) (attempt action : Nat) : State :=
    s.log { status := Code.roomParity, unit := 1, attempt := attempt, index := phys, action := action, job := n }
  if rooms.isEmpty || !v.getLsbD 0 then s
  else if !v.getLsbD 1 then note s 1 1
  else match s.substitute room with
    | some (t, _) => (note (note t 1 1) 2 2).loseStore n
    | none =>
      ((note (note s 1 1) 2 3).log { status := Code.rcvNoSpare, unit := 1, attempt := 2, index := phys, action := 3, job := n
                                     }).loseRoom room

/-- SWITCH_COMPLETE (R265): after S beats the outgoing state is saved and the Rooms change hands, or the returning state is
restored and the timetable resumes. Where the ON_DEMAND job has closed meanwhile, the Rooms return at once (R263). -/
def execSwitchComplete (job : JobId) (s : State) : Outcome :=
  let n := job.toNat
  .next (
    match s.job n with
    | none => s
    | some j =>
      let due (p : Preempt) : Bool := match p.phase with
        | .saving t => decide (t ≤ s.beat)
        | .restoring t => decide (t ≤ s.beat)
        | _ => false
      match j.pre.find? due with
      | none => s
      | some p =>
        let kept (s : State) := p.rooms.filter (fun q => !s.glb.grid.lost.contains q)
        match p.phase with
        | .saving _ =>
          let s := s.saveFault n (kept s)
          let rooms := kept s
          let s := (rooms.foldl (fun s q => s.saveRoom n q) s).roomsTo rooms .idle
          let s := s.modPre n p.by_ (fun q => { q with phase := .out })
          if p.by_ = byHost then s.suspendDone n j
          else match s.job n, s.job p.by_ with
            | _, some o => if s.allOut p.by_ o then s.claimRooms p.by_ else s
            | some j, none => s.beginReturn n j n p.by_ rooms
            | none, none => s
        | _ =>
          let s := p.rooms.foldl (fun s q => s.restoreRoom n q) s
          if p.by_ = byHost then s.resumeDone n j else (s.dropPre n p.by_).thaw n)

/-- An ON_DEMAND job gives back what it has of a victim (R263): Rooms that are out return by a switch, but for a suspended job,
which takes them at its resumption; a request that has not begun to switch ends; a switch under way goes on. -/
def State.returnVictim (s : State) (job : Nat) (v : Nat × Job) : State :=
  match v.2.pre.find? (fun p => p.by_ = job) with
  | none => s
  | some p =>
    match p.phase with
    | .out =>
      if v.2.suspended then s.dropPre v.1 job
      else s.beginReturn v.1 v.2 job job (p.rooms.filter (fun q => !s.glb.grid.lost.contains q))
    | .requested => (s.dropPre v.1 job).thaw v.1
    | .frozen => (s.dropPre v.1 job).thaw v.1
    | _ => s

/-- An ON_DEMAND job returns its Rooms (R263). Their live values are its own in the switch of its next claim (R265). -/
def State.returnRooms (s : State) (job : Nat) (o : Job) : State :=
  let s := s.modJob job (fun j =>
    { j with holds := false, lives := if o.holds then o.roomList.map (fun q => (q, (s.room q).live)) else j.lives })
  s.plan.jobs.foldl (fun s v => s.returnVictim job v) s

/-- ROOMS_RETURN (R263): the ON_DEMAND job has no instance left. -/
def execRoomsReturn (job : JobId) (s : State) : Outcome :=
  let n := job.toNat
  .next (
    match s.job n with
    | none => s
    | some j =>
      let asked := s.plan.jobs.any (fun p => p.2.pre.any (fun q => q.by_ = n))
      if !s.working || !j.onDemand || (!j.holds && !asked) || s.plan.insts.any (fun p => p.2.job = n)
          || s.plan.jobs.any (fun p => p.2.pre.any (fun q => q.by_ = n && (match q.phase with
            | .saving _ => true
            | .restoring _ => true
            | _ => false))) then s
      else s.returnRooms n j)

/-! ## JOB_PREEMPT (R268) -/

/-- A JOB_PREEMPT packet waits for the job's suspension or resumption. -/
def State.waitFor (s : State) (r op n : Nat) : State :=
  (s.beginOp r op).modJob n (fun j => { j with waiters := j.waiters ++ [(r, op)] })

/-- JOB_PREEMPT (R268): SUSPEND switches a BULK job out of its Suite; RESUME waits for its Rooms. A SUSPEND of a job whose suspension
is under way, and a RESUME of one whose resumption is, waits with the first. -/
def execJobPreempt (ring : RingId) (s : State) : Outcome :=
  let r := ring.toNat
  .next (s.withOp (.ring ring) 0x35 (fun o s =>
    let n := rd o.bytes 16 1
    let act := rd o.bytes 17 1
    if 1 < act then s.finish r o.id Code.pktReserved
    else if !s.jobOpen n then s.finish r o.id Code.jobNotOpen
    else match s.job n with
      | none => s.finish r o.id Code.jobNotOpen
      | some j =>
        if !j.bulk then s.finish r o.id Code.preClass
        else if (act = 0) = (j.suspended = true) then s.finish r o.id Code.preState
        else if act = 0 then (s.waitFor r o.id n).askFreeze n byHost
        else s.waitFor r o.id n))

/-- JOB_RESUME_RESTORE (R268): no ON_DEMAND job holds a Room of the suspended Suite; the Rooms switch back, and SWITCH_COMPLETE
restores them. -/
def execJobResumeRestore (job : JobId) (s : State) : Outcome :=
  let n := job.toNat
  .next (
    match s.job n with
    | none => s
    | some j =>
      let rooms := j.roomList.filter (fun q => !s.glb.grid.lost.contains q)
      if !s.working || !j.suspended || j.waiters.isEmpty || j.pre.any (fun p => p.by_ = byHost)
          || s.plan.jobs.any (fun p => p.2.holds && p.2.rect.meets j.rect) || !rooms.all (fun q => (s.room q).state == .idle) then s
      else
        (s.modJob n (fun j =>
          { j with pre := { by_ := byHost, phase := .frozen, at_ := s.beat, rooms := j.roomList }
                            :: j.pre.filter (fun p => p.by_ = bySpan) })).beginReturn n j n byHost rooms)

/-! ## Spanning freezes at a member (R264) -/

/-- The open job that a span names. -/
def State.jobOfSpan (s : State) (span : W32) : Option (Nat × Job) :=
  (s.spanJob span).bind (fun n => (s.job n).map (fun j => (n, j)))

/-- Takes the first frame of the inbox that `pick` accepts. -/
def Fab.takeFrame (f : Fab) (pick : Ctrl → Bool) : Option (Frame × Fab) :=
  match f.inbox.find? (fun x => pick x.ctrl) with
  | some x => some (x, { f with inbox := f.inbox.takeWhile (fun y => !pick y.ctrl)
                                  ++ (f.inbox.dropWhile (fun y => !pick y.ctrl)).drop 1 })
  | none => none

/-- SPAN_FREEZE (R264, step 2): a received FREEZE takes effect at a boundary without a semaphore hold; the member reports
what it has started. -/
def execSpanFreeze (span : W32) (s : State) : Outcome :=
  .next (
    match s.jobOfSpan span, s.fab.takeFrame (fun c => c == .freeze span) with
    | some (n, j), some (f, fab) =>
      if !s.working then s
      else if s.holdsSem n then
        if j.pre.any (fun p => p.by_ = bySpan) then s
        else s.modJob n (fun j => { j with pre := j.pre ++ [{ by_ := bySpan, phase := .requested, at_ := s.beat, rooms := [] }] })
      else
        let s := { s with fab := fab }
        let s := s.modJob n (fun j =>
          { j with cut := none,
                   pre := j.pre.filter (fun p => p.by_ != bySpan) ++ [{ by_ := bySpan, phase := .frozen, at_ := s.beat, rooms := [] }] })
        s.sendCtrl f.src (.started span (s.startedTop n))
    | _, _ => s)

/-- SPAN_FREEZE_CUT (R264, step 3): the largest reported indices have come; tasks up to them start. -/
def execSpanFreezeCut (span : W32) (cut : List (Nat × Nat)) (s : State) : Outcome :=
  .next (
    match s.jobOfSpan span, s.fab.takeFrame (fun c => c == .cut span cut) with
    | some (n, j), some (_, fab) =>
      if !s.working || !j.pre.any (fun p => p.by_ = bySpan) then s
      else { s with fab := fab }.modJob n (fun j => { j with cut := some cut })
    | _, _ => s)

/-- SPAN_THAW (R264, step 5): the member's frozen timetable resumes, after a return switch of its own. -/
def execSpanThaw (span : W32) (s : State) : Outcome :=
  .next (
    match s.jobOfSpan span, s.fab.takeFrame (fun c => c == .thaw span) with
    | some (n, j), some (_, fab) =>
      if !s.working || j.pre.any (fun p => p.by_ != bySpan) then s
      else ({ s with fab := fab }.dropPre n bySpan).modJob n (fun j => { j with cut := none })
    | _, _ => s)

/-! ## JOB_CLOSE (R100) -/

/-- A stream or a sequence keeps the job from closing (R100). -/
def State.jobInUse (s : State) (n : Nat) : Bool :=
  s.video.streams.any (fun p => p.2.job = n) || s.seqs.ents.any (fun p => p.2.job = n)

/-- The instances of a suspended job that closes are cancelled, in the order of their dispatch (R100). -/
def State.cancelAll (s : State) (n : Nat) : State :=
  let mine := s.plan.insts.filter (fun p => p.2.job = n)
  let rec go : Nat → List (Nat × Inst) → State → State
    | 0, _, s => s
    | fuel + 1, l, s =>
      match firstInst (l.map (fun p => (p.1, { p.2 with cls := 0 }))) with
      | none => s
      | some p => go fuel (l.filter (fun q => q.1 != p.1)) (s.endInst p.1 Code.jobNotOpen)
  go mine.length mine s

/-- JOB_CLOSE (R100). -/
def execJobClose (ring : RingId) (s : State) : Outcome :=
  let r := ring.toNat
  .next (s.withOp (.ring ring) 0x34 (fun o s =>
    let n := rd o.bytes 16 1
    match s.job n with
    | none => s.finish r o.id Code.jobNotOpen
    | some j =>
      if j.closing.isSome then s.finish r o.id Code.jobNotOpen
      else if s.jobInUse n then s.finish r o.id Code.jobBusy
      else
        let s := if j.suspended then s.cancelAll n else s
        (s.beginOp r o.id).modJob n (fun j => { j with closing := some (r, o.id) })))

/-- A GRAPH_RUN of the job that was dispatched before the closing packet has yet to be taken up. -/
def State.runsAhead (s : State) (n op : Nat) : Bool :=
  s.ring.ctx.any (fun p => p.2.ops.any (fun o =>
    decide (o.id < op) && o.fin.isNone && !o.started && o.opcode = 0x32 && rd o.bytes 18 1 = n))

/-- The pre-emptions that a job asked for stay, under a name of their own, until their Rooms are back (R263). -/
def Plan.orphan (p : Plan) (n : Nat) : Plan :=
  { p with jobs := p.jobs.map (fun v =>
      (v.1, { v.2 with pre := v.2.pre.map (fun q =>
        if q.by_ = n then { q with by_ := (v.2.pre.map (·.by_)).foldl max byGone + 1 } else q) })) }

/-- The job is gone: its graphs, policy, dictionary, QUALITY binding, Suite, Attic grant, save region and counters (R100). Rooms
that a switch of its own holds are IDLE again. -/
def State.removeJob (s : State) (n : Nat) (j : Job) : State :=
  let s := if j.onDemand then s.returnRooms n j else s
  let s := if j.qring = 0 then s else s.bindRing j.qring false
  let busy := j.pre.flatMap (fun p => match p.phase with
    | .saving _ => p.rooms
    | .restoring _ => p.rooms
    | _ => [])
  let s := j.roomList.foldl (fun s q =>
    if (s.room q).state == .offline then s
    else if busy.contains q then s.modRoom q (fun r => { r with state := .idle, job := 0, live := 0 })
    else if (s.room q).job.toNat = n then s.modRoom q (fun r => { r with job := 0, live := 0 }) else s) s
  s.modPlan (fun p =>
    { p.orphan n with jobs := tdel (p.orphan n).jobs n, graphs := p.graphs.filter (fun g => g.2.job != n),
                      lastShift := tdel p.lastShift n })

/-- JOB_CLOSE_DONE (R100): every GRAPH_RUN of the job dispatched before the close has completed; those of a suspended job are
cancelled. A JOB_PREEMPT packet that still waits
completes with JOB_NOT_OPEN (the rules name no code for it: DESIGN CHOICE, log entry 128). -/
def execJobCloseDone (job : JobId) (s : State) : Outcome :=
  let n := job.toNat
  .next (
    match s.job n with
    | none => s
    | some j =>
      match j.closing with
      | none => s
      | some (r, op) =>
        let s := if s.working && j.suspended then s.cancelAll n else s
        if !s.working || s.plan.insts.any (fun p => p.2.job = n) || s.runsAhead n op then s
        else
          ((s.endWaiters n j Code.jobNotOpen).removeJob n j).finish r op Code.ok)

end Sys2Proof.Machine
end

