-- ==== Sys2Proof/Machine/Ras.lean ====
section
/-!
DEFINITION. The RAS log's registers, failovers, the rate window, record and replay (chapter 18).
-/
namespace Sys2Proof.Machine

def State.modRas (s : State) (f : Ras → Ras) : State := { s with ras := f s.ras }

/-! ## Failovers (R473) -/

/-- PLL_LOSS_OF_LOCK (R473): the clocks switch to the spare; a second loss is FATAL. -/
def execPllLossOfLock (s : State) : Outcome :=
  .next (
    if s.glb.dev == .off then s
    else if s.ras.spPll = 1 then
      let s := s.modRas (fun r => { r with spPll := 0 })
      let s := s.modPwr (fun w => { w with spareActive := !w.spareActive })
      s.log { status := Code.pllFailover, unit := 7, action := 4 }
    else s.fatal { status := Code.clockLost, unit := 7 })

/-- HEARTH_CROSSCHECK_FAIL (R473): the standby takes over; a second failure is FATAL. -/
def execHearthCrosscheckFail (s : State) : Outcome :=
  .next (
    if s.glb.dev == .off then s
    else if s.hearth.standby then
      (s.modHearth (fun h => { h with standby := false })).log { status := Code.hearthFailover, unit := 6, action := 4 }
    else s.fatal { status := Code.hearthLost, unit := 6 })

/-! ## The rate window (R472) -/

/-- A window in aclk ticks. -/
def Ras.window (r : Ras) : Nat := r.windowH.toNat * 3600 * 1000 * ticksPerMs

/-- RATE_WINDOW_END (R472): the TRANSIENT counts restart; windows run back to back from the start of the device. -/
def execRateWindowEnd (s : State) : Outcome :=
  .next (
    if !s.passed s.ras.windowAt s.ras.window then s
    else s.modRas (fun r =>
      { r with cntRoom := [], cntDec := [], cntEnc := [], cntAttic := [], windowAt := r.windowAt + BitVec.ofNat 64 r.window }))

/-! ## RAS registers (R481) -/

/-- The 128 bytes of a held entry, zeros where the lseq is not held (R481). -/
def Ras.entryBytes (r : Ras) (lseq : W32) : List Byte :=
  match r.log.find? (fun e => e.lseq == lseq) with
  | some e => e.bytes
  | none => List.replicate 128 0

/-- A write of RAS_LOG_SEL. -/
def State.logSel (s : State) (v : W32) : State := s.modRas (fun r => { r with sel := v, snap := r.entryBytes v })

/-- RAS_LOG_SEL_WRITE (R481). -/
def execRasLogSelWrite (value : W32) (s : State) : Outcome := .next (s.hostWriteReg (fun s => s.logSel value))

/-- RAS_LOG_LOST_READ (R481). -/
def execRasLogLostRead (s : State) : Outcome :=
  .next (if !s.regsUp then s
    else (s.reply 4 s.ras.lost.toNat).modRas (fun r => { r with lost := 0 }))

/-- RAS_REPLAN_READ (R481). -/
def execRasReplanRead (s : State) : Outcome :=
  .next (if !s.regsUp then s
    else (s.reply 4 s.ras.replan.toNat).modRas (fun r => { r with replan := 0 }))

/-! ## Record and replay (R477 to R480) -/

/-- The ranges of R477 and R480: addr aligned to 4 KiB, size a multiple of 4 KiB in [1 MiB, 1 TiB]. -/
def recRange (b : List Byte) : Bool :=
  let size := rd b 24 8
  decide (rd b 16 8 % 4096 = 0 ∧ size % 4096 = 0 ∧ 2 ^ 20 ≤ size ∧ size ≤ 2 ^ 40)

/-- No job, pool, stream, view or span exists (R477). -/
def State.noObjects (s : State) : Bool :=
  s.plan.jobs.isEmpty && s.larder.pools.isEmpty && s.video.streams.isEmpty && s.video.views.isEmpty
    && s.fab.spans.isEmpty

/-- Body of the STATE entry (R478): GLOBAL_DKEY, MEM_NR_SEED, P-state, PWR mode and cap; the widths of the last
three are log entry 15. -/
def State.recState (s : State) : List Byte :=
  le64 (s.dkey s.video.conceal) ++ le64 s.mem.nrSeed ++ leBytes 1 s.pwr.pstate.toNat ++ leBytes 1 (bit s.pwr.repeatable)
    ++ leBytes 2 s.pwr.cap.toNat

/-- RECORD_START (R477). -/
def execRecordStart (ring : RingId) (s : State) : Outcome :=
  let r := ring.toNat
  .next (s.withOp (.ring ring) 0xF0 (fun o s =>
    s.checked r o
      [ (recRange o.bytes, Code.recParam),
        (s.glb.dev == .serving && s.noObjects && s.ras.recording.isNone, Code.recState) ]
      (fun s =>
        let rec0 : Recording := { addr := rd64 o.bytes 16, size := rd o.bytes 24 8, used := 0, entries := 0, full := false }
        (s.modRas (fun x => { x with recording := some rec0, recMib := 0 })).record 1 s.recState)))

/-- RECORD_STOP (R479): END is written; a recording that ran out of its buffer reports REC_FULL. -/
def execRecordStop (ring : RingId) (s : State) : Outcome :=
  let r := ring.toNat
  .next (s.withOp (.ring ring) 0xF1 (fun o s =>
    match s.ras.recording with
    | none => s.finish r o.id Code.recState
    | some rec0 =>
      let s := if rec0.full then s
        else s.dataWrite (rec0.addr.toNat + rec0.used) (recEntry 5 s.plan.beat (leBytes 4 (rec0.entries + 1)))
      (s.modRas (fun x => { x with recording := none })).finish r o.id
        (if rec0.full then Code.recFull else Code.ok)))

/-- REPLAY (R480): the recording is read, its STATE entry compared, and its packets then dispatched one by one. -/
def execReplay (ring : RingId) (s : State) : Outcome :=
  let r := ring.toNat
  .next (s.withOp (.ring ring) 0xF2 (fun o s =>
    if !recRange o.bytes then s.finish r o.id Code.recParam
    else if s.glb.dev != .maintenance || !s.plan.jobs.isEmpty || s.ras.replay.isSome then s.finish r o.id Code.recState
    else s.withPayload r o false (rd o.bytes 16 8) (rd o.bytes 24 8) (fun b s =>
      if rd b 0 1 != 1 || slice b 16 16 != le64 (s.dkey s.video.conceal) ++ le64 s.mem.nrSeed then
        s.finish r o.id Code.replayState
      else
        (s.beginOp r o.id).modRas (fun x =>
          { x with recMib := 0,
                   replay := some { ring := r, op := o.id, bytes := b, pos := rd b 4 4, base := none, running := [],
                                    results := [] } }))))

/-- The replay ends with a status (R480); a mismatch is logged with the entry's offset. -/
def State.endReplay (s : State) (p : Replay) (code : W32) : State :=
  let s := s.modRas (fun x => { x with replay := none })
  let s := if code = Code.ok then s else s.log { status := code, unit := 11, addr := p.pos }
  s.finish p.ring p.op code

/-- The body of the next PAYLOAD entry from an offset on, before another PACKET of the recording needs one. -/
def nextPayload (b : List Byte) : Nat → Nat → Option (List Byte)
  | 0, _ => none
  | fuel + 1, pos =>
    let n := rd b (pos + 4) 4
    if n = 0 || b.length ≤ pos then none
    else if rd b pos 1 = 3 then some (slice b (pos + 16) (n - 16))
    else if rd b pos 1 = 2 then none
    else nextPayload b fuel (pos + n)

/-- REPLAY_PACKET (R480): the next entry of the recording: a packet is dispatched at or after its recorded beat, a
result is compared, END completes the replay. -/
def execReplayPacket (s : State) : Outcome :=
  .next (
    match s.ras.replay with
    | none => s
    | some p =>
      let b := p.bytes
      let n := rd b (p.pos + 4) 4
      let next : Replay := { p with pos := p.pos + n }
      let keep (q : Replay) : State :=
        s.modRas (fun x => { x with replay := some q, recMib := satNat 30 (q.pos / 1048576) })
      if n = 0 || b.length ≤ p.pos then s.endReplay p Code.replayMismatch
      else match rd b p.pos 1 with
        | 2 =>
          let beat := rd64 b (p.pos + 8)
          let (b0, r0) := p.base.getD (s.plan.beat, beat)
          if (s.plan.beat - b0).toNat < (beat - r0).toNat then s
          else
            let ring := rd b (p.pos + 16) 4
            let packet := slice b (p.pos + 20) (n - 20)
            let s := keep { next with base := some (b0, r0) }
            let id := s.ring.nextOp
            let target := if s.activeRing ring .command then ring else p.ring
            let o := mkOp id { idx := 0, bytes := packet, bell := s.now, fault := 0 }
            let o := match nextPayload b b.length (p.pos + n) with
              | some d => { o with payload := .arrived d }
              | none => o
            let s := { s with ring := { s.ring with nextOp := id + 1 } }
            let s := s.modRing target (fun c => { c with ops := c.ops ++ [o] })
            match packetFault s.glb.compat (ring = 0) packet with
            | some code => s.finish target id code
            | none => s
        | 4 =>
          match p.results with
          | [] => s
          | got :: rest =>
            if got.2.2 = rd32 b (p.pos + 24) then keep { next with results := rest }
            else s.endReplay p Code.replayMismatch
        | 5 => s.endReplay p Code.ok
        | _ => keep next)

end Sys2Proof.Machine
end

