-- ==== Sys2Proof/Machine/RegWrite.lean ====
section
/-!
DEFINITION. Writes of the register space BAR0/1: KEY registers, every writable field by its access type, and the two widths of
access (R7 to R13, R51, R52, R88, R129, R154, R241, R291, R318, R326, R397, R407, R416, R423, R442, R450, R481, R496, R514).
-/
namespace Sys2Proof.Machine

/-! ## Blocks (R48, R51) -/

/-- Number of a block: bits 27:20 of its offset. -/
def blockNo : BlockId → Nat
  | .global => 0
  | .porch => 1
  | .ring => 2
  | .plan => 3
  | .room => 4
  | .larder => 5
  | .seq => 6
  | .video => 7
  | .capt => 8
  | .track => 9
  | .mem => 10
  | .fab => 11
  | .pwr => 12
  | .ras => 13
  | .hearth => 14

def blockMem : Nat := 10
def blockFab : Nat := 11
def blockPwr : Nat := 12
def blockHearth : Nat := 14

/-- The value that arms a block (R10). -/
def armKey : W32 := 0x0000C1A5

/-- A write of a block's KEY register (R10, R52). -/
def State.writeKey (s : State) (block : Nat) (v : W32) : State :=
  s.modGlobal (fun g => { g with armed := if v = armKey then setBit g.armed block else clearBit g.armed block })

/-- BLOCK_KEY_WRITE (R10). -/
def execBlockKeyWrite (block : BlockId) (value : W32) (s : State) : Outcome :=
  .next (s.hostWriteReg (fun s => s.writeKey (blockNo block) value))

/-! ## Writable fields, block by block -/

def State.writeGlobal (s : State) (o : Nat) (v : W32) : State :=
  if o = 0x20 then s.lockedWrite 0 (fun s => s.modGlobal (fun g => { g with vcomb := v.getLsbD 0 })) else s

/-- PORCH_CTL: a limit outside its range is ignored (R423). -/
def State.writePorchCtl (s : State) (v : W32) : State :=
  let ms := field v.toNat 0 14
  s.modPorch (fun p =>
    { p with evtVec := BitVec.ofNat 11 (field v.toNat 16 11),
             hostlossMs := if inRange 1 10000 ms then BitVec.ofNat 14 ms else p.hostlossMs })

/-- A word of the MSI-X table (R416, R417). -/
def State.writeMsix (s : State) (o : Nat) (v : W32) : State :=
  s.msixPut (o / 16) (fun e =>
    match o % 16 / 4 with
    | 0 => { e with addr := putHalf e.addr false v ||| (v &&& 0xFFF).setWidth 64 }
    | 1 => { e with addr := putHalf e.addr true v }
    | 2 => { e with data := v }
    | _ => { e with masked := v.getLsbD 0 })

def State.writePorch (s : State) (o : Nat) (v : W32) : State :=
  if o = 0x14 then s.writePorchCtl v
  else if 0x100 ≤ o ∧ o < 0x200 then s.intxClear ((o - 0x100) / 4) v
  else if 0xF0000 ≤ o ∧ o < 0xF8000 then s.writeMsix (o - 0xF0000) v
  else s

def State.writeRing (s : State) (o : Nat) (v : W32) : State :=
  match o with
  | 0x10 => if v.getLsbD 0 then s.admSet v else s.admClear v
  | 0x40 => s.ringSel v
  | _ => s

def State.writePlan (s : State) (o : Nat) (v : W32) : State :=
  match o with
  | 0x10 => s.modPlan (fun p => { p with guard := BitVec.ofNat 4 v.toNat })
  | 0x14 =>
    let us := field v.toNat 0 10
    if inRange 1 1000 us then s.modPlan (fun p => { p with semLimit := BitVec.ofNat 10 us }) else s
  | _ => s

/-- A window of a Room: its KEY alias is the block's (R154). -/
def State.writeRoom (s : State) (w o : Nat) (v : W32) : State :=
  if !s.hasWindow w then s
  else match o with
    | 0x004 => s.writeKey blockRoom v
    | 0x028 => s.writeRoomCtl w v
    | 0x060 => s.modRoom w (fun r =>
        { r with qShare := BitVec.ofNat 16 (field v.toNat 16 16), qMinK := BitVec.ofNat 16 v.toNat })
    | 0x064 => s.writeQevent w v
    | _ => s

def State.writeVideo (s : State) (o : Nat) (v : W32) : State :=
  match o with
  | 0x10 => s.lockedWrite blockVideo (fun s => s.modVideo (fun x => { x with conceal := v.getLsbD 0 }))
  | 0x14 => s.putEgress v
  | 0x20 => s.streamSel v
  | _ => if 0x100 ≤ o ∧ o < 0x200 ∧ o % 8 = 0 then s.viewCidx ((o - 0x100) / 8) v else s

/-- MEM_NR_CTL: fields outside their ranges keep their values (R397; log entry 42). -/
def NrCtl.put (n : NrCtl) (v : W32) : NrCtl :=
  let p := field v.toNat 16 4
  let t := field v.toNat 0 16
  { seeded := v.getLsbD 31, log2p := if 4 ≤ p then BitVec.ofNat 4 p else n.log2p,
    thresh := if 64 ≤ t then BitVec.ofNat 16 t else n.thresh }

/-- MEM_WQ_CTL: a pair outside its ranges is ignored (R397). -/
def Mem.putWq (m : Mem) (v : W32) : Mem :=
  let hi := field v.toNat 8 7
  let lo := field v.toNat 0 7
  if lo < hi ∧ hi ≤ 64 then { m with wqHi := BitVec.ofNat 7 hi, wqLo := BitVec.ofNat 7 lo } else m

def State.writeMem (s : State) (o : Nat) (v : W32) : State :=
  let locked (f : Mem → Mem) : State := s.lockedWrite blockMem (fun s => s.modMem f)
  match o with
  | 0x14 => locked (fun m => { m with eccNext := v.getLsbD 0 })
  | 0x18 => s.modMem (fun m => { m with pageIdle := BitVec.ofNat 10 v.toNat })
  | 0x1C =>
    let d := field v.toNat 0 4
    locked (fun m => if inRange 1 8 d then { m with debtMax := BitVec.ofNat 4 d } else m)
  | 0x20 => locked (fun m => { m with nrNext := m.nrNext.put v })
  | 0x30 => s.modMem (fun m => m.putWq v)
  | 0x34 => s.modMem (fun m => { m with scrubHours := BitVec.ofNat 8 v.toNat, scrubFrom := s.now, scrubDone := 0 })
  | _ =>
    if 0x100 ≤ o ∧ o < 0x160 then s.modMem (fun m => m.putPort ((o - 0x100) / 4) v) else s

/-- FAB_CTL: stall_ms on every write, tag_max while armed; values outside their ranges are ignored (R442; log entry 42). -/
def State.writeFabCtl (s : State) (v : W32) : State :=
  let ms := field v.toNat 0 16
  let tm := field v.toNat 16 8
  let s := if ms = 0 then s else s.modFab (fun f => { f with stallMs := BitVec.ofNat 16 ms })
  s.lockedWrite blockFab (fun s => if tm = 0 then s else s.modFab (fun f => { f with tagMax := BitVec.ofNat 8 tm }))

def State.writeFab (s : State) (o : Nat) (v : W32) : State :=
  match o with
  | 0x14 => s.writeFabCtl v
  | 0x18 => s.portSel v
  | _ => s

/-- PWR_CTL: slow and fast on every write, unless slow would lie below fast; mode while armed (R496; log entry 43). -/
def State.writePwrCtl (s : State) (v : W32) : State :=
  let slow := field v.toNat 4 3
  let fast := field v.toNat 0 3
  let s := if slow < fast then s
    else s.modPwr (fun w => { w with slow := BitVec.ofNat 3 slow, fast := BitVec.ofNat 3 fast })
  s.lockedWrite blockPwr (fun s => s.modPwr (fun w => { w with repeatable := v.getLsbD 31 }))

def State.writePwr (s : State) (o : Nat) (v : W32) : State :=
  match o with
  | 0x10 => s.writePwrCtl v
  | 0x14 =>
    let c := field v.toNat 0 10
    if inRange 150 (if s.part.grade112 then 420 else 360) c then s.modPwr (fun w => { w with cap := BitVec.ofNat 10 c }) else s
  | 0x28 =>
    let t := field v.toNat 8 8
    s.lockedWrite blockPwr (fun s =>
      if inRange 85 105 t then s.modPwr (fun w => { w with throttle := BitVec.ofNat 8 t }) else s)
  | _ =>
    if 0x80 ≤ o ∧ o < 0xC0 then
      s.lockedWrite blockPwr (fun s => s.modPwr (fun w => { w with coef := lset w.coef ((o - 0x80) / 4) v }))
    else s

/-- RAS_CTL: a window outside its range is ignored (R481). -/
def State.writeRasCtl (s : State) (v : W32) : State :=
  let h := field v.toNat 8 8
  s.modRas (fun r =>
    { r with rateLimit := BitVec.ofNat 8 (field v.toNat 16 8), evtMask := BitVec.ofNat 4 v.toNat,
             windowH := if inRange 1 168 h then BitVec.ofNat 8 h else r.windowH })

def State.writeRas (s : State) (o : Nat) (v : W32) : State :=
  match o with
  | 0x10 => s.writeRasCtl v
  | 0x18 => s.modRas (fun r => { r with ack := v })
  | 0x20 => s.logSel v
  | _ => s

def State.writeHearth (s : State) (o : Nat) (v : W32) : State :=
  match o with
  | 0x10 =>
    s.lockedWrite blockHearth (fun s => s.modHearth (fun h =>
      { h with preserve := v.getLsbD 12, nextCold := v.getLsbD 11 }))
  | 0x14 => s.putAction (BitVec.ofNat 8 (field v.toNat 16 8))
  | 0x18 => s.mailboxGo v
  | _ =>
    if 0x40 ≤ o ∧ o < 0x80 then s.modHearth (fun h => { h with mboxRegs := lset h.mboxRegs ((o - 0x40) / 4) v }) else s

/-! ## The register space (R7, R48, R407) -/

/-- A word written at an offset of BAR0/1 outside the 64-bit registers; a reserved offset, and a register of which nothing is
writable, discard it (R7, R9). -/
def State.writeWord (s : State) (off : Nat) (v : W32) : State :=
  let b := off / 0x100000
  let o := off % 0x100000
  if b = blockRoom then s.writeRoom (o / 0x1000) (o % 0x1000) v
  else if b < 15 ∧ o = 4 then s.writeKey b v
  else match b with
    | 0 => s.writeGlobal o v
    | 1 => s.writePorch o v
    | 2 => s.writeRing o v
    | 3 => s.writePlan o v
    | 5 => if o = 0x10 then s.poolSel v else s
    | 6 => if o = 0x10 then s.seqSel v else s
    | 7 => s.writeVideo o v
    | 8 => if o = 0x10 then s.srcSel v else s
    | 9 => if o = 0x10 then s.trackSel v else s
    | 10 => s.writeMem o v
    | 11 => s.writeFab o v
    | 12 => s.writePwr o v
    | 13 => s.writeRas o v
    | 14 => s.writeHearth o v
    | _ => s

/-- Offset of MEM_NR_SEED, the 64-bit register with an RW-L field. -/
def offNrSeed : Nat := 0xA00028

/-- A 4-byte write. The low word of a ring base is held for its high word; NR_SEED takes none (R407). -/
def State.write4 (s : State) (off : Nat) (v : W32) : State :=
  if off = offCmdBase || off = offCplBase then
    let s := s.flushLow
    { s with porch := { s.porch with low := some (off, v) } }
  else if off = offCmdBase + 4 || off = offCplBase + 4 then
    match s.porch.low with
    | some (l, w) =>
      if l + 4 = off then ({ s with porch := { s.porch with low := none } }.putBase l false w).putBase l true v
      else s.flushLow.putBase (off - 4) true v
    | none => s.putBase (off - 4) true v
  else s.flushLow.writeWord off v

/-- An 8-byte write: a 64-bit register whole, or two registers in ascending offset (R407). -/
def State.write8 (s : State) (off : Nat) (v : W64) : State :=
  let lo : W32 := v.setWidth 32
  let hi : W32 := (v >>> 32).setWidth 32
  let s := s.flushLow
  if off = offCmdBase || off = offCplBase then (s.putBase off false lo).putBase off true hi
  else if off = offNrSeed then s.lockedWrite blockMem (fun s => s.modMem (fun m => { m with nrSeedNext := v }))
  else (s.writeWord off lo).writeWord (off + 4) hi

/-- REGISTER_WRITE (R7, R9, R50, R407): a write of BAR0/1; one of another alignment is discarded and logged. -/
def execRegisterWrite (offset : Nat) (form : WriteForm) (s : State) : Outcome :=
  let size := match form with
    | .w32 _ => 4
    | .w64 _ => 8
  if !s.regsUp then .next s
  else if offset % size != 0 then .next (s.flushLow.porchErr Code.barAccess none)
  else if offset / 0x100000 = 15 && s.part.debug then .refused .dbgBlock
  else match form with
    | .w32 v => .next (s.write4 offset v)
    | .w64 v => .next (s.write8 offset v)

end Sys2Proof.Machine
end

