-- ==== Sys2Proof/Machine/Dispatch.lean ====
section
/-!
DEFINITION. The effect of a command on the device: one direct call of its meaning for each constructor.
-/
namespace Sys2Proof.Machine

def exec (i : Instr) (s : State) : Host.Outcome State Fault Refusal :=
  match i with
  | .nop src => Sys2Proof.Machine.execNop src s
  | .configure src => Sys2Proof.Machine.execConfigure src s
  | .query src => Sys2Proof.Machine.execQuery src s
  | .ringCreate => Sys2Proof.Machine.execRingCreate s
  | .ringDestroy => Sys2Proof.Machine.execRingDestroy s
  | .ringDestroyDone ring => Sys2Proof.Machine.execRingDestroyDone ring s
  | .poolCreate ring => Sys2Proof.Machine.execPoolCreate ring s
  | .bufAlloc ring => Sys2Proof.Machine.execBufAlloc ring s
  | .bufFree ring => Sys2Proof.Machine.execBufFree ring s
  | .bufRef ring => Sys2Proof.Machine.execBufRef ring s
  | .graphLoad ring => Sys2Proof.Machine.execGraphLoad ring s
  | .graphUnload ring => Sys2Proof.Machine.execGraphUnload ring s
  | .graphRun ring => Sys2Proof.Machine.execGraphRun ring s
  | .jobOpen ring => Sys2Proof.Machine.execJobOpen ring s
  | .jobClose ring => Sys2Proof.Machine.execJobClose ring s
  | .jobCloseDone job => Sys2Proof.Machine.execJobCloseDone job s
  | .jobPreempt ring => Sys2Proof.Machine.execJobPreempt ring s
  | .jobResumeRestore job => Sys2Proof.Machine.execJobResumeRestore job s
  | .seqJoin ring => Sys2Proof.Machine.execSeqJoin ring s
  | .seqLeave ring => Sys2Proof.Machine.execSeqLeave ring s
  | .stepPolicy ring => Sys2Proof.Machine.execStepPolicy ring s
  | .streamOpen ring => Sys2Proof.Machine.execStreamOpen ring s
  | .streamData ring => Sys2Proof.Machine.execStreamData ring s
  | .streamClose ring => Sys2Proof.Machine.execStreamClose ring s
  | .streamCloseDone stream => Sys2Proof.Machine.execStreamCloseDone stream s
  | .viewOpen ring => Sys2Proof.Machine.execViewOpen ring s
  | .viewClose ring => Sys2Proof.Machine.execViewClose ring s
  | .viewCloseDone view => Sys2Proof.Machine.execViewCloseDone view s
  | .captureData ring => Sys2Proof.Machine.execCaptureData ring s
  | .dictLoad ring => Sys2Proof.Machine.execDictLoad ring s
  | .trackPolicy ring => Sys2Proof.Machine.execTrackPolicy ring s
  | .fabricJoin ring => Sys2Proof.Machine.execFabricJoin ring s
  | .collectiveCfg ring => Sys2Proof.Machine.execCollectiveCfg ring s
  | .spanConfigTimeout => Sys2Proof.Machine.execSpanConfigTimeout s
  | .recordStart ring => Sys2Proof.Machine.execRecordStart ring s
  | .recordStop ring => Sys2Proof.Machine.execRecordStop ring s
  | .replay ring => Sys2Proof.Machine.execReplay ring s
  | .replayPacket => Sys2Proof.Machine.execReplayPacket s
  | .doorbellWrite ring form => Sys2Proof.Machine.execDoorbellWrite ring form s
  | .packetFetch ring => Sys2Proof.Machine.execPacketFetch ring s
  | .packetDispatch => Sys2Proof.Machine.execPacketDispatch s
  | .completionRecordWrite ring => Sys2Proof.Machine.execCompletionRecordWrite ring s
  | .metadataRecordWrite ring => Sys2Proof.Machine.execMetadataRecordWrite ring s
  | .msixMessage vector => Sys2Proof.Machine.execMsixMessage vector s
  | .msixVectorUnmask vector => Sys2Proof.Machine.execMsixVectorUnmask vector s
  | .intxAssert => Sys2Proof.Machine.execIntxAssert s
  | .intxDeassert => Sys2Proof.Machine.execIntxDeassert s
  | .intxPendClear k value => Sys2Proof.Machine.execIntxPendClear k value s
  | .deviceReadCompletion tag status data => Sys2Proof.Machine.execDeviceReadCompletion tag status data s
  | .completionTimeout tag => Sys2Proof.Machine.execCompletionTimeout tag s
  | .busMasterEnableClear => Sys2Proof.Machine.execBusMasterEnableClear s
  | .busMasterEnableSet => Sys2Proof.Machine.execBusMasterEnableSet s
  | .hostLoss => Sys2Proof.Machine.execHostLoss s
  | .powerStateWrite value => Sys2Proof.Machine.execPowerStateWrite value s
  | .barSizeWrite size => Sys2Proof.Machine.execBarSizeWrite size s
  | .windowRead offset size => Sys2Proof.Machine.execWindowRead offset size s
  | .windowWrite offset data => Sys2Proof.Machine.execWindowWrite offset data s
  | .hostPoisonedWrite => Sys2Proof.Machine.execHostPoisonedWrite s
  | .linkUp rate width flit => Sys2Proof.Machine.execLinkUp rate width flit s
  | .linkRecovery => Sys2Proof.Machine.execLinkRecovery s
  | .linkDown => Sys2Proof.Machine.execLinkDown s
  | .blockKeyWrite block value => Sys2Proof.Machine.execBlockKeyWrite block value s
  | .adminRingsEnable value => Sys2Proof.Machine.execAdminRingsEnable value s
  | .adminRingsDisable value => Sys2Proof.Machine.execAdminRingsDisable value s
  | .ringSelWrite value => Sys2Proof.Machine.execRingSelWrite value s
  | .seqSelWrite value => Sys2Proof.Machine.execSeqSelWrite value s
  | .larderPoolSelWrite value => Sys2Proof.Machine.execLarderPoolSelWrite value s
  | .videoStreamSelWrite value => Sys2Proof.Machine.execVideoStreamSelWrite value s
  | .captSrcSelWrite value => Sys2Proof.Machine.execCaptSrcSelWrite value s
  | .trackSelWrite value => Sys2Proof.Machine.execTrackSelWrite value s
  | .fabPortSelWrite value => Sys2Proof.Machine.execFabPortSelWrite value s
  | .rasLogSelWrite value => Sys2Proof.Machine.execRasLogSelWrite value s
  | .roomActClear window value => Sys2Proof.Machine.execRoomActClear window value s
  | .roomQclipSnapshot read => Sys2Proof.Machine.execRoomQclipSnapshot read s
  | .roomQeventClear window value => Sys2Proof.Machine.execRoomQeventClear window value s
  | .viewCidxWrite view value => Sys2Proof.Machine.execViewCidxWrite view value s
  | .videoEgressWrite value => Sys2Proof.Machine.execVideoEgressWrite value s
  | .mailboxGo value => Sys2Proof.Machine.execMailboxGo value s
  | .restartWarm => Sys2Proof.Machine.execRestartWarm s
  | .restartCold => Sys2Proof.Machine.execRestartCold s
  | .drain => Sys2Proof.Machine.execDrain s
  | .resume => Sys2Proof.Machine.execResume s
  | .maintEnter => Sys2Proof.Machine.execMaintEnter s
  | .maintExit => Sys2Proof.Machine.execMaintExit s
  | .override => Sys2Proof.Machine.execOverride s
  | .registerWrite offset form => Sys2Proof.Machine.execRegisterWrite offset form s
  | .ringOrphanRead => Sys2Proof.Machine.execRingOrphanRead s
  | .ringFaultRead => Sys2Proof.Machine.execRingFaultRead s
  | .ringFaultInfoRead => Sys2Proof.Machine.execRingFaultInfoRead s
  | .planSlipRead => Sys2Proof.Machine.execPlanSlipRead s
  | .planRefuseRead => Sys2Proof.Machine.execPlanRefuseRead s
  | .planDuptileRead => Sys2Proof.Machine.execPlanDuptileRead s
  | .planPreemptRead => Sys2Proof.Machine.execPlanPreemptRead s
  | .roomStoreRead window => Sys2Proof.Machine.execRoomStoreRead window s
  | .roomSatRead window => Sys2Proof.Machine.execRoomSatRead window s
  | .roomFaultRead window => Sys2Proof.Machine.execRoomFaultRead window s
  | .seqPauseEvtRead => Sys2Proof.Machine.execSeqPauseEvtRead s
  | .seqSkipRead => Sys2Proof.Machine.execSeqSkipRead s
  | .seqStepErrRead => Sys2Proof.Machine.execSeqStepErrRead s
  | .larderErrRead => Sys2Proof.Machine.execLarderErrRead s
  | .larderDfreeRead => Sys2Proof.Machine.execLarderDfreeRead s
  | .videoRefuseRead => Sys2Proof.Machine.execVideoRefuseRead s
  | .videoSlowRead => Sys2Proof.Machine.execVideoSlowRead s
  | .videoConcealRead => Sys2Proof.Machine.execVideoConcealRead s
  | .videoViewDropRead view => Sys2Proof.Machine.execVideoViewDropRead view s
  | .captCntRead part => Sys2Proof.Machine.execCaptCntRead part s
  | .captDamageRead => Sys2Proof.Machine.execCaptDamageRead s
  | .trackDropRead => Sys2Proof.Machine.execTrackDropRead s
  | .trackQdropRead => Sys2Proof.Machine.execTrackQdropRead s
  | .trackRejectRead => Sys2Proof.Machine.execTrackRejectRead s
  | .memFwdRead part => Sys2Proof.Machine.execMemFwdRead part s
  | .memCeRead => Sys2Proof.Machine.execMemCeRead s
  | .memUeRead => Sys2Proof.Machine.execMemUeRead s
  | .memRegWaitRead port => Sys2Proof.Machine.execMemRegWaitRead port s
  | .porchLinkRead => Sys2Proof.Machine.execPorchLinkRead s
  | .porchErrRead => Sys2Proof.Machine.execPorchErrRead s
  | .porchRetryRead => Sys2Proof.Machine.execPorchRetryRead s
  | .fabErrRead => Sys2Proof.Machine.execFabErrRead s
  | .fabDropRead => Sys2Proof.Machine.execFabDropRead s
  | .rasLogLostRead => Sys2Proof.Machine.execRasLogLostRead s
  | .rasReplanRead => Sys2Proof.Machine.execRasReplanRead s
  | .pwrDroopRead => Sys2Proof.Machine.execPwrDroopRead s
  | .hearthMboxStatRead => Sys2Proof.Machine.execHearthMboxStatRead s
  | .admission => Sys2Proof.Machine.execAdmission s
  | .admissionComplete => Sys2Proof.Machine.execAdmissionComplete s
  | .entryReservation => Sys2Proof.Machine.execEntryReservation s
  | .prefetchStart inst task => Sys2Proof.Machine.execPrefetchStart inst task s
  | .taskStart inst task arrived => Sys2Proof.Machine.execTaskStart inst task arrived s
  | .taskBodyEnd inst task => Sys2Proof.Machine.execTaskBodyEnd inst task s
  | .taskCommit inst task accepted => Sys2Proof.Machine.execTaskCommit inst task accepted s
  | .roomFault inst task position cause => Sys2Proof.Machine.execRoomFault inst task position cause s
  | .ladderStep inst task => Sys2Proof.Machine.execLadderStep inst task s
  | .rateRetirement unit => Sys2Proof.Machine.execRateRetirement unit s
  | .tileClaim inst task position q => Sys2Proof.Machine.execTileClaim inst task position q s
  | .claimRoundServe inst task => Sys2Proof.Machine.execClaimRoundServe inst task s
  | .tileClaimResend inst task position => Sys2Proof.Machine.execTileClaimResend inst task position s
  | .semHoldLimit sem => Sys2Proof.Machine.execSemHoldLimit sem s
  | .fabLate inst task position rclk => Sys2Proof.Machine.execFabLate inst task position rclk s
  | .atticParity slice inst again => Sys2Proof.Machine.execAtticParity slice inst again s
  | .preemptRequest inst => Sys2Proof.Machine.execPreemptRequest inst s
  | .victimFreeze job => Sys2Proof.Machine.execVictimFreeze job s
  | .switchStart job => Sys2Proof.Machine.execSwitchStart job s
  | .switchComplete job => Sys2Proof.Machine.execSwitchComplete job s
  | .roomsReturn job => Sys2Proof.Machine.execRoomsReturn job s
  | .spanFreeze span => Sys2Proof.Machine.execSpanFreeze span s
  | .spanFreezeCut span cut => Sys2Proof.Machine.execSpanFreezeCut span cut s
  | .spanThaw span => Sys2Proof.Machine.execSpanThaw span s
  | .stepBuild => Sys2Proof.Machine.execStepBuild s
  | .stepCollect job => Sys2Proof.Machine.execStepCollect job s
  | .larderRequest port seqno req => Sys2Proof.Machine.execLarderRequest port seqno req s
  | .larderFreelistRebuild pool => Sys2Proof.Machine.execLarderFreelistRebuild pool s
  | .pictureAssign => Sys2Proof.Machine.execPictureAssign s
  | .blockRowBoundary pipe => Sys2Proof.Machine.execBlockRowBoundary pipe s
  | .pictureContextSaved pipe => Sys2Proof.Machine.execPictureContextSaved pipe s
  | .pictureResume pipe => Sys2Proof.Machine.execPictureResume pipe s
  | .pictureAbandon pipe => Sys2Proof.Machine.execPictureAbandon pipe s
  | .pictureReconstructed pipe => Sys2Proof.Machine.execPictureReconstructed pipe s
  | .perFrameGraphSubmit stream => Sys2Proof.Machine.execPerFrameGraphSubmit stream s
  | .pipeFault encode pipe => Sys2Proof.Machine.execPipeFault encode pipe s
  | .viewAuEncode view => Sys2Proof.Machine.execViewAuEncode view s
  | .trackerUpdate stream => Sys2Proof.Machine.execTrackerUpdate stream s
  | .memReadRequest port addr => Sys2Proof.Machine.execMemReadRequest port addr s
  | .memWriteRequest port addr data => Sys2Proof.Machine.execMemWriteRequest port addr data s
  | .portAdmit port => Sys2Proof.Machine.execPortAdmit port s
  | .pcCommandIssue pc => Sys2Proof.Machine.execPcCommandIssue pc s
  | .activationThreshold pc bank => Sys2Proof.Machine.execActivationThreshold pc bank s
  | .memReadReturn pc errors => Sys2Proof.Machine.execMemReadReturn pc errors s
  | .refreshInterval pc bank => Sys2Proof.Machine.execRefreshInterval pc bank s
  | .pageIdleTimeout pc bank => Sys2Proof.Machine.execPageIdleTimeout pc bank s
  | .softRowRepair => Sys2Proof.Machine.execSoftRowRepair s
  | .rowRepairDone pc bank => Sys2Proof.Machine.execRowRepairDone pc bank s
  | .patrolScrub none_ => Sys2Proof.Machine.execPatrolScrub none_ s
  | .memTempUpdate t => Sys2Proof.Machine.execMemTempUpdate t s
  | .laneParityLimit pc lane => Sys2Proof.Machine.execLaneParityLimit pc lane s
  | .portSignalDetect port => Sys2Proof.Machine.execPortSignalDetect port s
  | .portNoSignalTimeout port => Sys2Proof.Machine.execPortNoSignalTimeout port s
  | .trainingLock port => Sys2Proof.Machine.execTrainingLock port s
  | .trainingTimeout port => Sys2Proof.Machine.execTrainingTimeout port s
  | .authComplete port hello => Sys2Proof.Machine.execAuthComplete port hello s
  | .authFail port => Sys2Proof.Machine.execAuthFail port s
  | .frameReceive port check frame => Sys2Proof.Machine.execFrameReceive port check frame s
  | .nakReceive port lseq => Sys2Proof.Machine.execNakReceive port lseq s
  | .frameTransmit port vc => Sys2Proof.Machine.execFrameTransmit port vc s
  | .replayTimer port => Sys2Proof.Machine.execReplayTimer port s
  | .retryExhausted port => Sys2Proof.Machine.execRetryExhausted port s
  | .lossOfLock port => Sys2Proof.Machine.execLossOfLock port s
  | .laneFailure port => Sys2Proof.Machine.execLaneFailure port s
  | .laneRetrainDone port => Sys2Proof.Machine.execLaneRetrainDone port s
  | .creditStall port vc => Sys2Proof.Machine.execCreditStall port vc s
  | .slowRecovery port => Sys2Proof.Machine.execSlowRecovery port s
  | .hostileDetect port cause => Sys2Proof.Machine.execHostileDetect port cause s
  | .linkRekey port => Sys2Proof.Machine.execLinkRekey port s
  | .transportGapTimeout src vc => Sys2Proof.Machine.execTransportGapTimeout src vc s
  | .powerIntervalEnd measured => Sys2Proof.Machine.execPowerIntervalEnd measured s
  | .pstateStepBegin => Sys2Proof.Machine.execPstateStepBegin s
  | .pstateStepEnd => Sys2Proof.Machine.execPstateStepEnd s
  | .modelDeviation measured model => Sys2Proof.Machine.execModelDeviation measured model s
  | .droopDetect => Sys2Proof.Machine.execDroopDetect s
  | .droopEnd => Sys2Proof.Machine.execDroopEnd s
  | .pllLossOfLock => Sys2Proof.Machine.execPllLossOfLock s
  | .hearthCrosscheckFail => Sys2Proof.Machine.execHearthCrosscheckFail s
  | .thermalSample die temps => Sys2Proof.Machine.execThermalSample die temps s
  | .thermtripComparator => Sys2Proof.Machine.execThermtripComparator s
  | .domainOffTimer domain => Sys2Proof.Machine.execDomainOffTimer domain s
  | .domainFail domain => Sys2Proof.Machine.execDomainFail domain s
  | .pgInAssert => Sys2Proof.Machine.execPgInAssert s
  | .pgInDeassert => Sys2Proof.Machine.execPgInDeassert s
  | .perstAssert => Sys2Proof.Machine.execPerstAssert s
  | .perstDeassert => Sys2Proof.Machine.execPerstDeassert s
  | .supplyFault => Sys2Proof.Machine.execSupplyFault s
  | .coldStart r => Sys2Proof.Machine.execColdStart r s
  | .warmStart r => Sys2Proof.Machine.execWarmStart r s
  | .startStepFail code => Sys2Proof.Machine.execStartStepFail code s
  | .startComplete => Sys2Proof.Machine.execStartComplete s
  | .drainComplete => Sys2Proof.Machine.execDrainComplete s
  | .configurationWrite offset size value => Sys2Proof.Machine.execConfigurationWrite offset size value s
  | .rateWindowEnd => Sys2Proof.Machine.execRateWindowEnd s
  | .unsupportedRequest kind => Sys2Proof.Machine.execUnsupportedRequest kind s
  | .malformedTlp kind => Sys2Proof.Machine.execMalformedTlp kind s
  | .barAccess offset size => Sys2Proof.Machine.execBarAccess offset size s

end Sys2Proof.Machine
end

