-- ==== Sys2Proof/Machine/Tick.lean ====
section
/-!
DEFINITION. One beat of time: what happens by the clocks alone (R117, R121, R147, R154, R262, R395, R455, R456, R483, R484). It is
what a step does when no command waits (log entry 2).
-/
namespace Sys2Proof.Machine

/-! ## Slips and pre-emption beats (R121, R262, R455, R456) -/

/-- Tasks of a job's RUNNING and ENDING instances that are not over. -/
def State.openTasks (s : State) (job : Nat) : List TaskCtx :=
  (s.tasksOf job).filter (fun c => (c.i.state == .running || c.i.state == .ending) && !c.r.over && !c.r.empty)

/-- The start beat has come and the task has not started. -/
def TaskCtx.startDue (c : TaskCtx) (beat : Nat) : Bool := c.r.unstarted && decide (c.r.s ≤ beat)

/-- The commit beat has come and the commit has not been signalled; a faulted task waits for its ladder instead. -/
def TaskCtx.commitDue (c : TaskCtx) (beat : Nat) : Bool :=
  (match c.r.state with
    | .running => true
    | .writeback => true
    | _ => false) && decide (c.r.e ≤ beat)

/-- The task moves a beat later whatever its checks say: its job is frozen and the cut does not let it start (R262, R264). -/
def TaskCtx.still (c : TaskCtx) : Bool := c.j.frozen && !c.withinCut

/-- A SEM_ACQ task of a job that is to give way holds the timetable (R262, step 2). -/
def TaskCtx.semHeld (c : TaskCtx) : Bool := c.j.requested && c.t.semAcq

/-- The checks of a job that fail at a boundary: one slip, however many (R455). A held SEM_ACQ task and a frozen job's starts
are pre-emption beats and no slips; a frozen job's waiting commit is one (R263, R456). -/
def slipped (ts : List TaskCtx) (beat : Nat) : Bool :=
  ts.any (fun c => c.commitDue beat || (c.startDue beat && !c.still && !c.semHeld))

/-- A claim of a TILED task waits for its answer (R455). -/
def State.claimWaits (s : State) (c : TaskCtx) : Bool :=
  c.r.state == .running && (s.claimsOf c.n c.k).any (fun x => !x.arrived.isEmpty)

/-- The Suite slips by a beat at this boundary (R455). -/
def State.slips (s : State) (ts : List TaskCtx) : Bool := slipped ts s.beat || ts.any s.claimWaits

/-- Tasks that have not started move a beat later. -/
def State.moves (s : State) (ts : List TaskCtx) : Bool :=
  s.slips ts || ts.any (fun c => c.startDue s.beat && c.semHeld)

/-- A task's beats after the boundary. -/
def TaskCtx.later (c : TaskCtx) (beat : Nat) (all : Bool) : TaskRun :=
  if c.r.unstarted && (all || c.still) then { c.r with s := c.r.s + 1, e := c.r.e + 1 }
  else if c.commitDue beat then { c.r with e := c.r.e + 1 }
  else c.r

/-- PLAN_SLIP counts a slip beat (R129, R456). -/
def Plan.slip (p : Plan) (job : Nat) : Plan :=
  { p with slipValid := true, slipJob := if p.slipValid then p.slipJob else BitVec.ofNat 6 job,
           slipBeats := satAdd p.slipBeats 1 }

/-- A job at a beat boundary. -/
def State.boundary (s : State) (job : Nat) : State :=
  let beat := s.beat
  let ts := s.openTasks job
  let slip := s.slips ts
  let all := s.moves ts
  let s := ts.foldl (fun s c => s.modTask c.n c.k (fun _ => c.later beat all)) s
  if slip then
    ((ts.map (·.n)).eraseDups.foldl (fun s n => s.modInst n (fun i => { i with slips := satAdd i.slips 1 })) s).modPlan
      (fun p => p.slip job)
  else s

/-! ## Counters -/

/-- ROOM_CYCLE of the Rooms of running tasks: 256 rclk more, up to c_t (R154, R452). -/
def State.cycles (s : State) : State :=
  let run := s.plan.jobs.flatMap (fun j => (s.openTasks j.1).filter (fun c => !c.r.unstarted))
  run.foldl (fun s c => (s.positions c).foldl (fun s q =>
    s.modRoom q.2 (fun r =>
      if r.state == .fault || r.index.toNat != c.k then r
      else { r with cycle := satNat 32 (min c.r.c (r.cycle.toNat + 256)) })) s) s

/-- One beat passes. PLAN_BEAT counts from the end of a start (R129). -/
def State.tick (s : State) : State :=
  if s.glb.dev == .off then s
  else
    let s := s.elapse s.pwr.beatRoot
    let s := { s with mem := s.mem.elapse s.pwr.beatMclk }.noteIdle
    if s.glb.dev == .starting then s
    else
      let s := (s.plan.jobs.map (·.1)).foldl State.boundary s.cycles
      s.modPlan (fun p => { p with beat := p.beat + 1 })

end Sys2Proof.Machine
end

