-- ==== Sys2Proof/Safety.lean ====
section
/-!
DEFINITION. What a safe run is, and the words that the statements are made of.
-/
namespace Sys2Proof.Machine

/-- The step at a state does not stop. -/
def Safe (s : State) : Prop := ∃ t, step s = .next t

/-- `k` steps from a state answer next states. -/
def SafeFor : Nat → State → Prop
  | 0, _ => True
  | k + 1, s => ∃ t, step s = .next t ∧ SafeFor k t

/-- A command answers a next state of which `P` holds. -/
def Gives (c : Instr) (s : State) (P : State → Prop) : Prop := ∃ t, exec c s = .next t ∧ P t

/-- The packet that its unit takes next from ring `r` carries opcode `op`, and the device executes packets (R39, R502). -/
def Offers (s : State) (r : RingId) (op : Nat) (o : Op) : Prop :=
  s.nextOp (.ring r) = some o ∧ o.opcode = op ∧ s.working = true

/-- The status with which an operation has finished; none while it has not. -/
def State.statusOf (s : State) (r id : Nat) : Option W32 := (s.findOp r id).bind (fun o => o.fin.map (·.status))

/-- The operation has been taken up and goes on: no status yet, and its unit does not take it again. -/
def State.goesOn (s : State) (r id : Nat) : Prop := ∃ o, s.findOp r id = some o ∧ o.started = true ∧ o.fin = none

/-- A packet completes with success, and `P` holds of the state after it. -/
def Succeeds (c : Instr) (s : State) (r : RingId) (o : Op) (P : State → Prop) : Prop :=
  Gives c s (fun t => t.statusOf r.toNat o.id = some Code.ok ∧ P t)

/-- Task `k` of instance `n` stands as `r` says. -/
def State.hasRun (s : State) (n k : Nat) (r : TaskRun) : Prop := ∃ i, s.inst n = some i ∧ i.tasks[k]? = some r

/-- The state after a register read that returns the `n` low bytes of `v`, before any effect of the read. -/
def State.answers (s : State) (n v : Nat) : State := { s with out := s.out ++ [.cpl (leBytes n v) false] }

/-- The device is OFF with its supplies down and nothing under way: no start, no mailbox packet, no work of any unit, and no
waiting command that reports good supplies. -/
structure State.Dark (s : State) : Prop where
  dev : s.glb.dev = .off
  start : s.hearth.start = none
  mbox : s.hearth.mbox = none
  pgIn : s.pins.pgIn = false
  pending : Instr.pgInAssert ∉ s.pending
  plan : s.plan = Plan.reset
  ctx : s.ring.ctx = []
  streams : s.video.streams = []
  views : s.video.views = []
  ents : s.seqs.ents = []
  parts : s.track.parts = []
  cfg : s.fab.cfg = none
  replay : s.ras.replay = none

end Sys2Proof.Machine
end

