-- ==== Sys2Proof/Certificates/Slice0/Obligations.lean ====
section
/-!
DEFINITION. The statements for the provers.
-/
open Sys2Proof Sys2Proof.Machine

/-- A read of RING_ORPHAN, RING_FAULT or RING_FAULT_INFO returns its word and clears it; the read of RING_FAULT fixes
RING_FAULT_CODE. A read of PLAN_SLIP, PLAN_REFUSE, PLAN_DUPTILE or PLAN_PREEMPT returns its word and clears it; the read of
PLAN_REFUSE fixes PLAN_REFUSE_VAL (at 0 where no refusal was latched: the model's choice, log entry 131). A read of
SEQ_PAUSE_EVT, SEQ_SKIP, SEQ_STEPERR, LARDER_ERR or LARDER_DFREE returns its word and clears it; the read of LARDER_ERR fixes
LARDER_ERR_HANDLE. Rules: R9, R88, R129, R269, R270, R291. -/
def Obligations.ReadsClearRingPlan : Prop :=
  (∀ s : State, s.regsUp = true →
     exec .ringOrphanRead s = .next { s.answers 4 s.ring.orphanWord with
       ring := { s.ring with orphanValid := false, orphanCount := 0, orphanRing := 0 } } ∧
     exec .ringFaultRead s = .next { s.answers 4 s.ring.faultWord with
       ring := { s.ring with faultValid := false, faultKind := 0, faultRing := 0, faultPend := 0,
                             faultCode := if s.ring.faultValid then s.ring.faultPend else 0 } } ∧
     exec .ringFaultInfoRead s = .next { s.answers 4 s.ring.faultInfoWord with ring := { s.ring with dropped := 0 } }) ∧
  (∀ s : State, s.regsUp = true →
     exec .planSlipRead s = .next { s.answers 4 s.plan.slipWord with
       plan := { s.plan with slipValid := false, slipJob := 0, slipBeats := 0 } } ∧
     exec .planRefuseRead s = .next { s.answers 4 s.plan.refuseWord with
       plan := { s.plan with refValid := false, refJob := 0, refDim := 0, refCode := 0, refPend := 0,
                             refVal := if s.plan.refValid then s.plan.refPend else 0 } } ∧
     exec .planDuptileRead s = .next { s.answers 4 s.plan.dupTile.toNat with plan := { s.plan with dupTile := 0 } } ∧
     exec .planPreemptRead s = .next { s.answers 4 s.plan.preemptWord with
       plan := { s.plan with preValid := false, preJob := 0, preCount := 0 } }) ∧
  (∀ s : State, s.regsUp = true →
     exec .seqPauseEvtRead s = .next { s.answers 4 s.seqs.pauseWord with
       seqs := { s.seqs with pauseValid := false, pauseCount := 0, pauseSeq := 0 } } ∧
     exec .seqSkipRead s = .next { s.answers 4 s.seqs.skip.toNat with seqs := { s.seqs with skip := 0 } } ∧
     exec .seqStepErrRead s = .next { s.answers 4 s.seqs.stepErr.toNat with seqs := { s.seqs with stepErr := 0 } } ∧
     exec .larderErrRead s = .next { s.answers 4 s.larder.errWord with
       larder := { s.larder with errValid := false, errPort := 0, errPos := 0, errCode := 0, errPend := 0,
                                 errHandle := if s.larder.errValid then s.larder.errPend else 0 } } ∧
     exec .larderDfreeRead s = .next { s.answers 4 s.larder.dfree.toNat with larder := { s.larder with dfree := 0 } })

/-- A read of VIDEO_REFUSE, VIDEO_SLOW, VIDEO_CONCEAL or of a view's VIDEO_VIEW_DROP returns its word and clears it; the read
of VIDEO_REFUSE fixes VIDEO_REFUSE_POS. A read of CAPT_CNT (either word, or both), CAPT_DAMAGE, TRACK_DROP, TRACK_QDROP or
TRACK_REJECT returns what it reaches and clears it; the read of CAPT_DAMAGE fixes CAPT_DAMAGE_POS. A read of MEM_FWD (either
word, or both), MEM_CE, MEM_UE or of a port's MEM_REG_WAIT returns what it reaches and clears it; the read of MEM_UE fixes
MEM_UE_ADDR. Rules: R9, R326, R348, R375, R397, R407. -/
def Obligations.ReadsClearVideoMem : Prop :=
  (∀ (s : State) (v : ViewId), s.regsUp = true →
     exec .videoRefuseRead s = .next { s.answers 4 s.video.refuseWord with
       video := { s.video with refValid := false, refStream := 0, refCode := 0, refPend := 0,
                               refPos := if s.video.refValid then s.video.refPend else 0 } } ∧
     exec .videoSlowRead s = .next { s.answers 4 s.video.slow.toNat with video := { s.video with slow := 0 } } ∧
     exec .videoConcealRead s = .next { s.answers 4 s.video.concealed.toNat with
       video := { s.video with concealed := 0 } } ∧
     exec (.videoViewDropRead v) s = .next { s.answers 4 (tgetD s.video.dropped v.toNat 0).toNat with
       video := { s.video with dropped := tdel s.video.dropped v.toNat } }) ∧
  (∀ s : State, s.regsUp = true →
     exec (.captCntRead .both) s = .next { s.answers 8 (s.capt.damaged.toNat * 2 ^ 32 + s.capt.empty.toNat) with
       capt := { s.capt with empty := 0, damaged := 0 } } ∧
     exec (.captCntRead .low) s = .next { s.answers 4 s.capt.empty.toNat with capt := { s.capt with empty := 0 } } ∧
     exec (.captCntRead .high) s = .next { s.answers 4 s.capt.damaged.toNat with capt := { s.capt with damaged := 0 } } ∧
     exec .captDamageRead s = .next { s.answers 4 s.capt.damageWord with
       capt := { s.capt with dmgValid := false, dmgReason := 0, dmgSource := 0, dmgPend := 0,
                             dmgPos := if s.capt.dmgValid then s.capt.dmgPend else 0 } } ∧
     exec .trackDropRead s = .next { s.answers 4 s.track.drop.toNat with track := { s.track with drop := 0 } } ∧
     exec .trackQdropRead s = .next { s.answers 4 s.track.qdrop.toNat with track := { s.track with qdrop := 0 } } ∧
     exec .trackRejectRead s = .next { s.answers 4 s.track.rejectWord with
       track := { s.track with rejValid := false, rejCount := 0, rejStream := 0 } }) ∧
  (∀ s : State, s.regsUp = true →
     exec (.memFwdRead .both) s = .next { s.answers 8 (s.mem.fwdPartial.toNat * 2 ^ 32 + s.mem.fwdFull.toNat) with
       mem := { s.mem with fwdFull := 0, fwdPartial := 0 } } ∧
     exec (.memFwdRead .low) s = .next { s.answers 4 s.mem.fwdFull.toNat with mem := { s.mem with fwdFull := 0 } } ∧
     exec (.memFwdRead .high) s = .next { s.answers 4 s.mem.fwdPartial.toNat with
       mem := { s.mem with fwdPartial := 0 } } ∧
     exec .memCeRead s = .next { s.answers 4 s.mem.ce.toNat with mem := { s.mem with ce := 0 } } ∧
     exec .memUeRead s = .next { s.answers 4 s.mem.ueWord with
       mem := { s.mem with ueValid := false, uePc := 0, ueCode := 0, uePend := 0,
                           ueAddr := if s.mem.ueValid then s.mem.uePend else 0 } } ∧
     ∀ (p : MemPort) (q : MemPortState), s.mem.ports[p.toNat]? = some q →
       Gives (.memRegWaitRead p) s (fun t =>
         t.out = (s.answers 4 q.wait.toNat).out ∧ t.mem.ports[p.toNat]? = some { q with wait := 0 } ∧
         ∀ k, k ≠ p.toNat → t.mem.ports[k]? = s.mem.ports[k]?))

/-- A read of PORCH_LINK, PORCH_ERR, PORCH_RETRY, FAB_ERR or FAB_DROP returns its word and clears its RC fields; the read of
PORCH_ERR fixes PORCH_ERR_RING. A read of RAS_LOG_LOST, RAS_REPLAN, PWR_DROOP or HEARTH_MBOX_STAT returns its word and clears
its RC fields; the end of a rate window, RATE_WINDOW_END once RAS_CTL.window_h hours have passed, clears the error counts of
Rooms, pipes and Attic slices, and the next window begins where this one ended. Rules: R9, R423, R442, R472, R481, R496,
R514. -/
def Obligations.ReadsClearLink : Prop :=
  (∀ s : State, s.regsUp = true →
     exec .porchLinkRead s = .next { s.answers 4 s.porch.linkWord with porch := { s.porch with recoveries := 0 } } ∧
     exec .porchErrRead s = .next { s.answers 4 s.porch.errWord with
       porch := { s.porch with errValid := false, errCode := 0, errPend := none,
                               errRing := if s.porch.errValid then s.porch.errPend else none } } ∧
     exec .porchRetryRead s = .next { s.answers 4 s.porch.retryWord with
       porch := { s.porch with retryPoison := 0, retryTimeout := 0 } } ∧
     exec .fabErrRead s = .next { s.answers 4 s.fab.errWord with
       fab := { s.fab with errValid := false, errPort := 0, errCode := 0 } } ∧
     exec .fabDropRead s = .next { s.answers 4 s.fab.dropWord with fab := { s.fab with dup := 0, route := 0 } }) ∧
  (∀ s : State, s.regsUp = true →
     exec .rasLogLostRead s = .next { s.answers 4 s.ras.lost.toNat with ras := { s.ras with lost := 0 } } ∧
     exec .rasReplanRead s = .next { s.answers 4 s.ras.replan.toNat with ras := { s.ras with replan := 0 } } ∧
     exec .pwrDroopRead s = .next { s.answers 4 s.pwr.droops.toNat with pwr := { s.pwr with droops := 0 } } ∧
     exec .hearthMboxStatRead s = .next { s.answers 4 s.hearth.mboxWord with
       hearth := { s.hearth with done := false } } ∧
     (s.passed s.ras.windowAt s.ras.window = true → exec .rateWindowEnd s = .next { s with
       ras := { s.ras with cntRoom := [], cntDec := [], cntEnc := [], cntAttic := [],
                           windowAt := s.ras.windowAt + BitVec.ofNat 64 s.ras.window } }))

/-- In a Room window, a read of ROOM_STORE clears the peak, of ROOM_SAT and ROOM_FAULT their values; a read of ROOM_QCLIP, of
its low word or of all 8 bytes, fixes the snapshots of both counters and clears them. Rules: R9, R49, R154. -/
def Obligations.RoomReads : Prop :=
  ∀ (s : State) (w : RoomIdx), s.regsUp = true → s.hasWindow w.toNat = true →
    let r := s.room w.toNat
    let after (v : Nat) (q : Room) : State := { s.answers 4 v with rooms := tset s.rooms w.toNat q }
    exec (.roomStoreRead w) s = .next (after r.storeWord { r with peak := 0 }) ∧
    exec (.roomSatRead w) s = .next (after r.sat.toNat { r with sat := 0 }) ∧
    exec (.roomFaultRead w) s = .next (after r.fault.toNat { r with fault := 0 }) ∧
    exec (.roomQclipSnapshot ⟨w, false⟩) s = .next (after (r.qclip.toNat % 2 ^ 32)
      { r with qclipSnap := r.qclip, qconvSnap := r.qconv, qclip := 0, qconv := 0 }) ∧
    exec (.roomQclipSnapshot ⟨w, true⟩) s = .next { s.answers 8 r.qclip.toNat with
      rooms := tset s.rooms w.toNat { r with qclipSnap := r.qclip, qconvSnap := r.qconv, qclip := 0, qconv := 0 } }

/-- Writes that select what a snapshot shows: RING_SEL, SEQ_SEL, LARDER_POOL_SEL, VIDEO_STREAM_SEL. `u` is the state after a
low word that was held has taken effect (R407). The same of CAPT_SRC_SEL, TRACK_SEL, FAB_PORT_SEL and RAS_LOG_SEL. Rules:
R88, R269, R291, R326, R348, R375, R442, R481. -/
def Obligations.SelectWrites : Prop :=
  (∀ (s : State) (v : W32), s.regsUp = true →
     let u := s.flushLow
     exec (.ringSelWrite v) s = .next { u with
       ring := { u.ring with sel := BitVec.ofNat 20 v.toNat, snap := ctxBytes (u.ringCtx (v.toNat % 2 ^ 20)) } } ∧
     exec (.seqSelWrite v) s = .next { u with
       seqs := { u.seqs with sel := BitVec.ofNat 14 v.toNat, snap := u.seqBytes (v.toNat % 2 ^ 14) } } ∧
     exec (.larderPoolSelWrite v) s = .next { u with
       larder :=
         let p := tget u.larder.pools (v.toNat % 256)
         { u.larder with sel := BitVec.ofNat 8 v.toNat, snapCfg := BitVec.ofNat 32 (poolCfgWord p),
                         snapFree := BitVec.ofNat 32 ((p.map (·.listed)).getD 0),
                         snapNew := BitVec.ofNat 32 ((p.map (fun p => p.first + p.count - p.fresh)).getD 0) } } ∧
     exec (.videoStreamSelWrite v) s = .next { u with
       video := let t := u.stream (v.toNat % 1024)
         { u.video with sel := BitVec.ofNat 10 v.toNat, snapStat := BitVec.ofNat 32 ((t.map Stream.statWord).getD 0),
                        snapPos := (t.map (·.pos)).getD 0, snapCnt := BitVec.ofNat 64 ((t.map Stream.cntWord).getD 0) } }) ∧
  (∀ (s : State) (v : W32), s.regsUp = true →
     let u := s.flushLow
     exec (.captSrcSelWrite v) s = .next { u with
       capt := let c := captSource u (v.toNat % 4096)
         { u.capt with sel := BitVec.ofNat 12 v.toNat, snapStat := BitVec.ofNat 32 c.statWord,
                       snapNext := c.next.getD 0 } } ∧
     exec (.trackSelWrite v) s = .next { u with
       track := let p := tget u.track.parts (v.toNat % 1024)
         { u.track with sel := BitVec.ofNat 10 v.toNat, snapPart := BitVec.ofNat 32 ((p.map Partition.partWord).getD 0),
                        snapCount := BitVec.ofNat 32 ((p.map Partition.countWord).getD 0) } } ∧
     exec (.fabPortSelWrite v) s = .next { u with
       fab := let p := u.port (v.toNat % 8)
         { u.fab with portSel := BitVec.ofNat 3 v.toNat, snapStat := BitVec.ofNat 32 p.statWord,
                      snapCnt := BitVec.ofNat 64 p.cntWord } } ∧
     exec (.rasLogSelWrite v) s = .next { u with ras := { u.ras with sel := v, snap := u.ras.entryBytes v } })

/-- A KEY write arms its block with 0xC1A5 and disarms it with anything else, and does nothing to another block. Rules: R10. -/
def Obligations.KeyWriteArms : Prop :=
  ∀ (s : State) (b : BlockId) (v : W32), s.regsUp = true → s.porch.low = none →
    Gives (.blockKeyWrite b v) s (fun t =>
      t.glb.armed.getLsbD (blockNo b) = decide (v = 0x0000C1A5#32) ∧
      (∀ k, k ≠ blockNo b → t.glb.armed.getLsbD k = s.glb.armed.getLsbD k) ∧
      t = { s with glb := { s.glb with armed := t.glb.armed } })

/-- A write of RW-L fields in a block that is not armed changes nothing; in one that is armed it takes effect and disarms the
block. VIDEO_CTL (0x700010), RW-L whole, and HEARTH's control word (0xE00010). Rules: R11. -/
def Obligations.LockedFieldNeedsArming : Prop :=
  ∀ (s : State) (v : W32), s.regsUp = true → s.porch.low = none →
    (s.glb.armed.getLsbD 7 = false → exec (.registerWrite 0x700010 (.w32 v)) s = .next s) ∧
    (s.glb.armed.getLsbD 14 = false → exec (.registerWrite 0xE00010 (.w32 v)) s = .next s) ∧
    (s.glb.armed.getLsbD 7 = true → Gives (.registerWrite 0x700010 (.w32 v)) s (fun t =>
      t.video = { s.video with conceal := v.getLsbD 0 } ∧ t.glb.armed.getLsbD 7 = false ∧
      t = { s with glb := { s.glb with armed := t.glb.armed }, video := t.video })) ∧
    (s.glb.armed.getLsbD 14 = true → Gives (.registerWrite 0xE00010 (.w32 v)) s (fun t =>
      t.hearth = { s.hearth with preserve := v.getLsbD 12, nextCold := v.getLsbD 11 } ∧
      t.glb.armed.getLsbD 14 = false ∧
      t = { s with glb := { s.glb with armed := t.glb.armed }, hearth := t.hearth }))

/-- Register writes of fields that need no arming: PLAN_GUARD, PLAN_SEM_LIMIT within its range, RAS_ACK, HEARTH_MBOX and a
reserved offset, which discards the write. An access of BAR0/1 that is not naturally aligned is discarded and logged as
BAR_ACCESS. Room windows: a write of ROOM_CTL with act_clr set clears the activity counters of that Room, and one of
ROOM_QEVENT with valid set clears its event, and nothing else changes while the block is not armed. Rules: R7, R49, R51,
R129, R154, R407, R481, R514. -/
def Obligations.RegisterWrites : Prop :=
  (∀ (s : State) (v : W32), s.regsUp = true → s.porch.low = none →
     exec (.registerWrite 0x300010 (.w32 v)) s = .next { s with
       plan := { s.plan with guard := BitVec.ofNat 4 v.toNat } } ∧
     (1 ≤ v.toNat % 1024 → v.toNat % 1024 ≤ 1000 →
       exec (.registerWrite 0x300014 (.w32 v)) s = .next { s with
         plan := { s.plan with semLimit := BitVec.ofNat 10 v.toNat } }) ∧
     exec (.registerWrite 0xD00018 (.w32 v)) s = .next { s with ras := { s.ras with ack := v } } ∧
     (∀ k, k < 16 → exec (.registerWrite (0xE00040 + 4 * k) (.w32 v)) s = .next { s with
       hearth := { s.hearth with mboxRegs := lset s.hearth.mboxRegs k v } }) ∧
     exec (.registerWrite 0x300FF0 (.w32 v)) s = .next s ∧
     (∀ o, o % 4 ≠ 0 → exec (.registerWrite o (.w32 v)) s = .next (s.porchErr Code.barAccess none)) ∧
     ∀ (o : Nat) (x : W64), o % 8 ≠ 0 → exec (.registerWrite o (.w64 x)) s = .next (s.porchErr Code.barAccess none)) ∧
  (∀ (s : State) (w : RoomIdx) (v : W32), s.regsUp = true → s.porch.low = none → s.hasWindow w.toNat = true →
     (v.getLsbD 1 = true → s.glb.armed.getLsbD 4 = false →
       let q := { s.room w.toNat with fed := 0, mac := 0, gated := 0, fnFp32 := 0, fnShort := 0 }
       exec (.roomActClear w v) s = .next { s with rooms := tset s.rooms w.toNat q }) ∧
     (v.getLsbD 31 = true →
       let q := { s.room w.toNat with qevValid := false, qevGraph := 0, qevIndex := 0, qevEvents := 0, qevShare := 0 }
       exec (.roomQeventClear w v) s = .next { s with rooms := tset s.rooms w.toNat q }))

/-- MSIX_VECTOR_UNMASK, INTX_PEND_CLEAR: the host unmasks a vector whose bit in the pending array is clear, or, with MSI-X
enabled, one whose bit is set: then its single message is sent and the bit cleared. A write of a word of PORCH_INTX_PEND
clears the bits written as 1. VIDEO_EGRESS while its block is armed and lock is 0, and while lock is 1; VIDEO_VIEW_CIDX,
which moves C no further than P. Rules: R11, R318, R326, R416, R417, R418. -/
def Obligations.VectorWrites : Prop :=
  (∀ (s : State) (x : VectorId) (k : BitVec 6) (v : W32), s.regsUp = true → s.porch.low = none →
     let e := { s.porch.entry x.toNat with masked := false }
     (s.porch.pba.getLsbD x.toNat = false →
       exec (.msixVectorUnmask x) s = .next { s with
         porch := { s.porch with msix := tset s.porch.msix x.toNat e } }) ∧
     (s.porch.pba.getLsbD x.toNat = true → s.porch.cfg.msixEnable = true → s.glb.compat = false → s.porch.cfg.funcMask = false →
       s.porch.cfg.bme = true → s.silent = false → e.addr.toNat % 4 = 0 →
       exec (.msixVectorUnmask x) s = .next { s with
         out := s.out ++ [.write e.addr (le32 e.data) false],
         porch := { s.porch with msix := tset s.porch.msix x.toNat e, pba := clearBit s.porch.pba x.toNat } }) ∧
     exec (.intxPendClear k v) s = .next { s with
       porch := { s.porch with intx := s.porch.intx &&& ~~~((v.setWidth 2048) <<< (32 * k.toNat)) } }) ∧
  (∀ (s : State) (n : ViewId) (v : W32), s.regsUp = true → s.porch.low = none →
     (s.video.lock = false → s.glb.armed.getLsbD 7 = true →
       exec (.videoEgressWrite v) s = .next { s with
         glb := { s.glb with armed := clearBit s.glb.armed 7 },
         video := { s.video with lock := v.getLsbD 31, declass := v.getLsbD 9, allow := v.getLsbD 8,
                                 maxViews := BitVec.ofNat 6 v.toNat } }) ∧
     (s.video.lock = true → exec (.videoEgressWrite v) s = .next s) ∧
     ((v - s.video.cidxOf n.toNat).toNat ≤ (s.video.pidxOf n.toNat - s.video.cidxOf n.toNat).toNat →
       exec (.viewCidxWrite n v) s = .next { s with
         video := { s.video with cidx := tset s.video.cidx n.toNat v } }) ∧
     ((s.video.pidxOf n.toNat - s.video.cidxOf n.toNat).toNat < (v - s.video.cidxOf n.toNat).toNat →
       exec (.viewCidxWrite n v) s = .next s))

/-- LINK_UP in a rate, width and mode in which the link can train (64.0 GT/s in Flit Mode only), while PERST# is not
asserted: the link is up with them, degraded below 64.0 GT/s or x16; LINK_RECOVERY counts a retrain; HOST_POISONED_WRITE is
discarded and logged. Each changes nothing else, and the first code since the last read of PORCH_ERR stays latched there.
Rules: R399, R421, R422, R423. -/
def Obligations.LinkEvents : Prop :=
  ∀ (s : State) (rate : BitVec 4) (width : BitVec 5) (flit : Bool),
    (s.glb.dev ≠ .off → s.porch.up = false → s.pins.perst = false →
      exec (.linkUp 6 16 true) s = .next { s with
        porch := { s.porch with up := true, rate := 6, width := 16, flit := true } }) ∧
    (s.glb.dev ≠ .off → s.porch.up = false → s.pins.perst = false → linkMode rate width flit = true → (rate.toNat < 6 ∨ width.toNat < 16) →
      Gives (.linkUp rate width flit) s (fun t =>
        t.porch.up = true ∧ t.porch.rate = rate ∧ t.porch.width = width ∧ t.porch.errValid = true ∧
        t.porch.errCode = (if s.porch.errValid then s.porch.errCode else Code.low Code.linkDegraded) ∧
        t.ras.head = s.ras.head + 1 ∧ t = { s with porch := t.porch, ras := t.ras })) ∧
    (s.porch.up = true → Gives .linkRecovery s (fun t =>
        t.porch.recoveries = satAdd s.porch.recoveries 1 ∧ t.porch.errValid = true ∧
        t.porch.errCode = (if s.porch.errValid then s.porch.errCode else Code.low Code.linkRecovery) ∧
        t.ras.head = s.ras.head + 1 ∧ t = { s with porch := t.porch, ras := t.ras })) ∧
    (s.regsUp = true → Gives .hostPoisonedWrite s (fun t =>
        t.porch.cfg.aerUnc.getLsbD 12 = true ∧ t.porch.errValid = true ∧
        t.porch.errCode = (if s.porch.errValid then s.porch.errCode else Code.low Code.rxPoison) ∧
        t.ras.head = s.ras.head + 1 ∧ t = { s with porch := t.porch, ras := t.ras }))

/-- Requests that the device does not take: UNSUPPORTED_REQUEST is answered so and logged in AER, MALFORMED_TLP is discarded
and logged in AER only, each error at its own bit, and BAR_ACCESS, a read of the register space with a bad size or alignment,
returns zeros and is logged as BAR_ACCESS. The bits' places in AER are the model's (PRESUMED, log entry 123). Rules: R407,
R421, R422, R423. -/
def Obligations.RefusedRequests : Prop :=
  ∀ (s : State) (k : UrKind) (e : TlpError) (x o n : Nat),
    (s.cfgUp = true → (k = .memory → s.porch.cfg.mse = false) → exec (.unsupportedRequest k) s = .next { s with
        porch := s.porch.aerUnc aerUnsupported, out := s.out ++ [.unsupported] }) ∧
    (s.cfgUp = true → (e, x) ∈ [(.malformed, 18), (.ecrc, 19), (.flowControl, 13), (.dataLink, 4), (.overflow, 17)] →
      exec (.malformedTlp e) s = .next { s with porch := s.porch.aerUnc x } ∧
      (s.porch.aerUnc x).cfg.aerUnc = setBit s.porch.cfg.aerUnc x) ∧
    (s.regsUp = true → (n ≠ 4 ∧ n ≠ 8) ∨ o % n ≠ 0 → Gives (.barAccess o n) s (fun t =>
        t.out = s.out ++ [.cpl (List.replicate n 0) false] ∧ t.porch.errValid = true ∧
        t.porch.errCode = (if s.porch.errValid then s.porch.errCode else Code.low Code.barAccess) ∧
        t = { s with porch := t.porch, ras := t.ras, out := t.out }))

/-- Bus Master Enable: BUS_MASTER_ENABLE_CLEAR makes every outstanding read stale and queues those not stale before again,
with those that waited for a tag behind them; BUS_MASTER_ENABLE_SET ends the hold and issues what was held, so that nothing
stays held. In D3hot (the model's choice, log entry 123) either is kept for the return to D0. POWER_STATE_WRITE: the D3hot
state clears Memory Space and Bus Master Enable and D0 gives the kept Memory Space Enable back. Rules: R403, R414, R415. -/
def Obligations.BusMasterEnable : Prop :=
  ∀ s : State,
    (s.cfgUp = true → s.porch.cfg.d3 = false → s.porch.cfg.bme = true → Gives .busMasterEnableClear s (fun t =>
      t.porch.cfg = { s.porch.cfg with bme := false } ∧ t.porch.reads = s.porch.reads.map (fun r => { r with stale := true }) ∧
      t.porch.queue = s.porch.queue ++ (s.porch.reads.filter (fun r => !r.stale)).map
        (fun r => .read r.what r.addr r.len r.off r.again) ++ s.porch.backlog ∧ t.porch.backlog = [] ∧ t = { s with porch := t.porch })) ∧
    (s.cfgUp = true → s.porch.cfg.d3 = false → s.porch.cfg.bme = false → s.porch.lost = false → Gives .busMasterEnableSet s (fun t =>
      t.porch.cfg.bme = true ∧ t.porch.queue = [] ∧ t.porch.held = false ∧
      t = { s with porch := t.porch, out := t.out, ras := t.ras })) ∧
    (s.cfgUp = true → s.porch.cfg.d3 = true →
      Gives .busMasterEnableClear s (fun t =>
        t = { s with porch := { s.porch with cfg := { s.porch.cfg with saved := (s.porch.cfg.saved.1, false) } } }) ∧
      Gives .busMasterEnableSet s (fun t =>
        t = { s with porch := { s.porch with cfg := { s.porch.cfg with saved := (s.porch.cfg.saved.1, true) } } })) ∧
    (s.cfgUp = true → s.porch.cfg.d3 = false → Gives (.powerStateWrite 3) s (fun t =>
      t.porch.cfg.d3 = true ∧ t.porch.cfg.mse = false ∧ t.porch.cfg.bme = false ∧
      t.porch.cfg.saved = (s.porch.cfg.mse, s.porch.cfg.bme) ∧ t = { s with porch := t.porch })) ∧
    (s.cfgUp = true → s.porch.cfg.d3 = true → s.porch.cfg.saved.2 = false → Gives (.powerStateWrite 0) s (fun t =>
      t = { s with porch := { s.porch with cfg := { s.porch.cfg with d3 := false, mse := s.porch.cfg.saved.1 } } }))

/-- Configuration space and loss of the host: BAR_SIZE_WRITE with a size reported for BAR4/5 is taken while Memory Space
Enable is 0, and the base cleared; CONFIGURATION_WRITE of the Command register outside D3hot takes its bits, and of the
Interrupt Line its value; HOST_LOSS once the hold has lasted hostloss_ms: outputs stop and the device is HELD. Rules: R401,
R405, R414, R415. -/
def Obligations.ConfigurationAndHostLoss : Prop :=
  ∀ (s : State) (k : BitVec 6) (v : W32),
    (s.cfgUp = true → s.porch.cfg.mse = false → 8 ≤ k.toNat → k.toNat ≤ 17 →
      exec (.barSizeWrite k) s = .next { s with
        porch := { s.porch with cfg := { s.porch.cfg with barLog2 := k.toNat + 20, bar4 := 0 } } }) ∧
    (s.cfgUp = true → s.porch.cfg.d3 = false → s.porch.cfg.bme = v.getLsbD 2 → exec (.configurationWrite 4 2 v) s = .next { s with
        porch := { s.porch with cfg := { s.porch.cfg with
          mse := v.getLsbD 1, per := v.getLsbD 6, serr := v.getLsbD 8, intDis := v.getLsbD 10 } } }) ∧
    (s.cfgUp = true → exec (.configurationWrite 0x3C 1 v) s = .next { s with
        porch := { s.porch with cfg := { s.porch.cfg with intLine := BitVec.ofNat 8 v.toNat } } }) ∧
    (s.porch.held = true → s.porch.lost = false → s.porch.hostlossMs.toNat ≤ s.porch.holdMs.toNat → s.glb.dev = .serving →
      Gives .hostLoss s (fun t => t.porch.lost = true ∧ t.glb.dev = .held ∧ t.glb.reason = .fatal ∧
        t.glb.cause = Code.low Code.hostLoss ∧ t.glb.stopped = true ∧ t.ring = s.ring ∧ t.mem = s.mem ∧ t.out = s.out ∧
        t.plan = s.plan ∧ t.rooms = s.rooms ∧ t.larder = s.larder))

/-- INTx and MSI-X: Assert_INTA goes out when a bit of PORCH_INTX_PEND stands and the pin is not asserted, Deassert_INTA when
none does; a vector that owes a message sends it, or leaves its bit in the pending array while it is masked. Rules: R416,
R417, R418, R419. -/
def Obligations.Interrupts : Prop :=
  ∀ (s : State) (x : VectorId), s.silent = false →
    (s.porch.intx ≠ 0 → s.porch.cfg.intDis = false → s.porch.inta = false →
      exec .intxAssert s = .next { s with porch := { s.porch with inta := true }, out := s.out ++ [.inta true] }) ∧
    (s.porch.intx = 0 ∨ s.porch.cfg.intDis = true → s.porch.inta = true →
      exec .intxDeassert s = .next { s with porch := { s.porch with inta := false }, out := s.out ++ [.inta false] }) ∧
    (s.porch.owed.getLsbD x.toNat = true → s.glb.compat = false → s.porch.cfg.msixEnable = true →
      let e := s.porch.entry x.toNat
      let p := { s.porch with owed := clearBit s.porch.owed x.toNat }
      (s.porch.cfg.funcMask = true ∨ e.masked = true →
        exec (.msixMessage x) s = .next { s with porch := { p with pba := setBit s.porch.pba x.toNat } }) ∧
      (s.porch.cfg.funcMask = false → e.masked = false → s.porch.cfg.bme = true → e.addr.toNat % 4 = 0 →
        exec (.msixMessage x) s = .next { s with porch := p, out := s.out ++ [.write e.addr (le32 e.data) false] }))

/-- Device reads, while no HEARTH_ACTION waits for the mailbox: DEVICE_READ_COMPLETION with the data of the one request of a
payload read gives them to the packet that waits for them; a stale completion is discarded; the first poisoned completion,
and COMPLETION_TIMEOUT once the timer has run out for the first time, of a read give up its tag and issue the read again
under a new one. A tag that comes free is given to a request that waits for one. Rules: R411, R412, R413, R414. -/
def Obligations.DeviceReads : Prop :=
  ∀ (s : State) (tag : Nat) (r : DevRead) (d : List Byte),
    s.porch.reads.find? (fun r => r.tag == tag) = some r → s.hearth.actionWaits = none →
    let rest := s.porch.reads.filter (fun r => r.tag != tag)
    (r.stale = true →
      exec (.deviceReadCompletion tag .sc d) s = .next ({ s with porch := { s.porch with reads := rest } } : State).pumpReads) ∧
    (∀ g id, r.what = .payload g id → r.stale = false → r.off = 0 → s.porch.backlog = [] → s.ras.recording = none →
      (∀ q ∈ rest, q.what = r.what → q.stale = true) → (∀ h ∈ s.porch.queue, h.isFor r.what = false) →
      (∀ x ∈ s.porch.parts, x.1 ≠ r.what) →
      exec (.deviceReadCompletion tag .sc d) s =
        .next (({ s with porch := { s.porch with reads := rest } }).modOp g id
          (fun o => { o with payload := .arrived (padTo r.len d) }))) ∧
    (r.stale = false → r.again = false → s.glb.stopped = false → s.porch.lost = false → s.porch.cfg.bme = true →
      s.porch.backlog = [] → s.porch.reads.length ≤ 512 →
      let again (t : State) : Prop :=
        t.porch.abandoned = s.porch.abandoned ++ [(tag, r.what.ring)] ∧
        t.out = s.out ++ [.read s.porch.nextTag r.addr r.len] ∧
        (∃ n : DevRead, t.porch.reads = rest ++ [n] ∧ n.tag = s.porch.nextTag ∧ n.what = r.what ∧ n.addr = r.addr ∧
          n.len = r.len ∧ n.off = r.off ∧ n.again = true ∧ n.stale = false ∧ n.issued = s.now) ∧
        t = { s with porch := t.porch, out := t.out, ras := t.ras }
      Gives (.deviceReadCompletion tag .poisoned d) s (fun t =>
        t.porch.retryPoison = satAdd s.porch.retryPoison 1 ∧ t.porch.retryTimeout = s.porch.retryTimeout ∧ again t) ∧
      (s.passed r.issued r.timer = true → Gives (.completionTimeout tag) s (fun t =>
        t.porch.retryTimeout = satAdd s.porch.retryTimeout 1 ∧ t.porch.retryPoison = s.porch.retryPoison ∧ again t)))

/-- The BAR4/5 window: WINDOW_READ of bytes below V returns them; WINDOW_WRITE below V stores exactly the enabled bytes, at
the addresses they name, and every other byte of the HBM reads as before. Rules: R404, R406, R407. -/
def Obligations.WindowAccess : Prop :=
  ∀ (s : State) (o n : Nat) (d : List (Option Byte)), s.regsUp = true → Memory.wf s.mem.dram = true →
    (o + n ≤ 2 ^ s.porch.cfg.barLog2 → o + n ≤ s.vBytes → s.poisoned o n = false →
      exec (.windowRead o n) s = .next { s with out := s.out ++ [.cpl (s.hbmRead o n) false] }) ∧
    (o + d.length ≤ 2 ^ s.porch.cfg.barLog2 → o + d.length ≤ s.vBytes → Gives (.windowWrite o d) s (fun t =>
      (∀ a, o ≤ a → a < o + d.length → ∀ b, d[a - o]? = some (some b) → t.mem.dram.byte a = b) ∧
      (∀ a, (a < o ∨ o + d.length ≤ a ∨ d[a - o]? = some none) → t.mem.dram.byte a = s.mem.dram.byte a) ∧
      Memory.wf t.mem.dram = true ∧
      t = { s with mem := { s.mem with dram := t.mem.dram, poison := t.mem.poison, pcs := t.mem.pcs } }))

/-- DOORBELL_WRITE: one of an ACTIVE ring moves P (COMMAND) or C (the record rings) when the index lies in bounds, and the
one that repeats the index changes nothing; one of a ring that is FREE or being destroyed is counted as an orphan, and one of
a FAULTED ring is ignored; the high word of the slot is ignored, and a 64-bit write acts by its low word. Of an ACTIVE ring,
the context is on chip or reads without MEM_UE. A doorbell out of bounds faults its ring with DB_OVERRUN: a COMMAND ring that
reads no packet stops fetching and owes the fault's record after the packets fetched before, and a record ring drops what
waits and latches RING_FAULT. Rules: R58, R59, R60, R62, R80, R81, R84. -/
def Obligations.Doorbells : Prop :=
  (∀ (s : State) (r : RingId) (v : W32) (x : W64) (c : RingCtx), s.regsUp = true →
     exec (.doorbellWrite r (.high v)) s = .next s ∧
     exec (.doorbellWrite r (.both x)) s = exec (.doorbellWrite r (.low (BitVec.ofNat 32 x.toNat))) s ∧
     ((∀ k, s.ringCtx r.toNat = some k → k.state = .destroying) →
       exec (.doorbellWrite r (.low v)) s = .next { s with ring := { s.ring with
         orphanValid := true, orphanCount := satAdd s.ring.orphanCount 1,
         orphanRing := if s.ring.orphanValid then s.ring.orphanRing else r } }) ∧
     (s.ringCtx r.toNat = some c → c.state = .faulted → exec (.doorbellWrite r (.low v)) s = .next s) ∧
     (s.ringCtx r.toNat = some c → c.state = .active → (s.ctxAway r.toNat && s.poisoned (s.ctxAddr r.toNat) 64) = false →
       (c.kind = .command →
         (v = c.pidx → exec (.doorbellWrite r (.low v)) s = .next s) ∧
         (v ≠ c.pidx → (v - c.cidx).toNat ≤ 2 ^ c.log2Size → exec (.doorbellWrite r (.low v)) s =
           .next (s.modRing r.toNat (fun c => { c with pidx := v, bells := c.bells ++ [(v, s.now)] })))) ∧
       (c.kind ≠ .command →
         (v = c.cidx → exec (.doorbellWrite r (.low v)) s = .next s) ∧
         (v ≠ c.cidx → (v - c.cidx).toNat ≤ (c.pidx - c.cidx).toNat → exec (.doorbellWrite r (.low v)) s =
           .next (s.modRing r.toNat (fun c => { c with cidx := v })))))) ∧
  (∀ (s : State) (r : RingId) (v : W32) (c : RingCtx), s.regsUp = true → s.ringCtx r.toNat = some c → c.state = .active →
     (s.ctxAway r.toNat && s.poisoned (s.ctxAddr r.toNat) 64) = false →
     (c.kind = .command → c.busy = false → v ≠ c.pidx → 2 ^ c.log2Size < (v - c.cidx).toNat →
       Gives (.doorbellWrite r (.low v)) s (fun t =>
         (∃ k f, t.ringCtx r.toNat = some k ∧ k.state = .faulted ∧ k.fault = Code.dbOverrun ∧ k.faultIdx = c.cidx ∧
           k.pidx = c.pidx ∧ k.cidx = c.cidx ∧ k.fetched = c.fetched ++ [f] ∧ f.fault = Code.dbOverrun) ∧
         (∀ n, n ≠ r.toNat → t.ringCtx n = s.ringCtx n) ∧ t = { s with ring := { s.ring with ctx := t.ring.ctx } })) ∧
     (c.kind ≠ .command → v ≠ c.cidx → (c.pidx - c.cidx).toNat < (v - c.cidx).toNat →
       Gives (.doorbellWrite r (.low v)) s (fun t =>
         t.ringCtx r.toNat = some { c with state := .faulted, fault := Code.dbOverrun, waiting := [] } ∧
         (∀ n, n ≠ r.toNat → t.ringCtx n = s.ringCtx n) ∧ t.ring.faultValid = true ∧
         t.ring.faultRing = (if s.ring.faultValid then s.ring.faultRing else r) ∧
         t.ring.dropped = satAdd s.ring.dropped c.waiting.length ∧ t.ras.head = s.ras.head + 1 ∧
         t = { s with ring := t.ring, porch := t.porch, ras := t.ras })))

/-- RING_CREATE makes the ring that its packet describes, where its checks hold; RING_DESTROY begins to destroy one that
nothing is bound to, drops what was fetched, gives up its reads and goes on; once its records are written, RING_DESTROY_DONE
frees the ring and the packet completes. The admin pair: ADMIN_RINGS_ENABLE, a write of RING_ADMIN_CTL with enable set, makes
rings 0 and 1 while the device is SERVING or in MAINTENANCE; ADMIN_RINGS_DISABLE, one with enable clear, destroys ring 0
unless another COMMAND ring is bound to ring 1. Rules: R56, R57, R80, R83, R85, R86, R89. -/
def Obligations.RingLifecycle : Prop :=
  (∀ (s : State) (o : Op),
     (Offers s 0 0x10 o → (∀ c ∈ s.ringCreateChecks o.bytes, c.1 = true) →
       Succeeds .ringCreate s 0 o (fun t =>
         t.ringCtx (rd o.bytes 16 4) = some (ringOfPacket o.bytes) ∧
         (∀ n, n ≠ rd o.bytes 16 4 → n ≠ 0 → t.ringCtx n = s.ringCtx n) ∧
         t = { s with ring := { s.ring with ctx := t.ring.ctx, ready := t.ring.ready } })) ∧
     (∀ c, Offers s 0 0x11 o → 2 ≤ rd o.bytes 16 4 → rd o.bytes 16 4 < 2 ^ 20 → s.ringCtx (rd o.bytes 16 4) = some c →
       c.state ≠ .destroying → s.ringBound (rd o.bytes 16 4) = false →
       (∀ p ∈ s.opsOf 0, p.id = o.id → p.fin = none) →
       Gives .ringDestroy s (fun t =>
         (∃ k, t.ringCtx (rd o.bytes 16 4) = some k ∧ k.state = .destroying ∧ k.fetched = [] ∧ k.waiting = [] ∧
           k.ops = c.ops ∧ k.destroyer = some o.id) ∧ t.goesOn 0 o.id ∧
         (∀ n, n ≠ rd o.bytes 16 4 → n ≠ 0 → t.ringCtx n = s.ringCtx n) ∧
         t = { s with ring := { s.ring with ctx := t.ring.ctx }, porch := s.porch.dropFetches (rd o.bytes 16 4) })) ∧
     (∀ (r : RingId) c p, s.ringCtx r.toNat = some c → c.state = .destroying → c.ops = [] → c.destroyer = some o.id →
       2 ≤ r.toNat → (∀ d ∈ s.plan.refsDue, d.1 ≠ r.toNat) → s.findOp 0 o.id = some p →
       Gives (.ringDestroyDone r) s (fun t => t.ringCtx r.toNat = none ∧ t.statusOf 0 o.id = some Code.ok ∧
         (∀ n, n ≠ r.toNat → n ≠ 0 → t.ringCtx n = s.ringCtx n) ∧
         t = { s with ring := { s.ring with ctx := t.ring.ctx, ready := t.ring.ready } }))) ∧
  (∀ (s : State) (v : W32), s.regsUp = true → s.porch.low = none →
     (v.getLsbD 0 = true → s.ring.admEnable = false → s.ringCtx 0 = none → s.ringCtx 1 = none →
       s.glb.dev = .serving ∨ s.glb.dev = .maintenance →
       let l := v.toNat / 2 ^ 8 % 2 ^ 4
       let n := if 6 ≤ l then l else 6
       let vec := v.toNat / 2 ^ 16 % 2 ^ 11
       Gives (.adminRingsEnable v) s (fun t =>
         t.ringCtx 0 = some (newRing .command n (v.getLsbD 1) 0 0 s.ring.cmdBase 1 0) ∧
         t.ringCtx 1 = some (newRing .completion n (v.getLsbD 1) 0 vec s.ring.cplBase 0 0) ∧
         (∀ k, 2 ≤ k → t.ringCtx k = s.ringCtx k) ∧ t.ring.admEnable = true ∧ t = { s with ring := t.ring })) ∧
     (v.getLsbD 0 = false → s.ring.admEnable = true →
       (∀ p ∈ s.ring.ctx, p.1 ≠ 0 → p.2.kind = .command → p.2.bind ≠ 1) →
       exec (.adminRingsDisable v) s = .next (let t := s.destroyRing 0 none
         { t with ring := { t.ring with admEnable := false } })))

/-- NOP completes with success wherever it comes from; QUERY of a block 0 to 3, in STARTING of block 0 only, completes with
success and puts the block into HEARTH_REPORT where it comes from the mailbox, and at a 64 B aligned address of host memory
where it comes from a ring; MAILBOX_GO gives the mailbox a packet while it serves none. The mailbox shows the record of a
packet that completes. No HEARTH_ACTION waits for the mailbox. Rules: R69, R512, R513, R514. -/
def Obligations.NopQueryMailbox : Prop :=
  ∀ (s : State) (r : RingId) (o : Op) (v : W32), s.hearth.actionWaits = none →
    (Offers s r 0x01 o → exec (.nop (.ring r)) s = .next (s.finish r.toNat o.id Code.ok) ∧
      (s.finish r.toNat o.id Code.ok).statusOf r.toNat o.id = some Code.ok) ∧
    (s.hearth.mbox = some o → o.started = false → o.fin = none → o.opcode = 0x01 → Gives (.nop .mailbox) s (fun t =>
      t.hearth.mbox = none ∧ t.hearth.done = true ∧ t.hearth.mboxCpl.take 4 = le32 Code.ok ∧
      t = { s with hearth := { s.hearth with mbox := none, done := true, mboxCpl := t.hearth.mboxCpl } })) ∧
    (s.hearth.mbox = some o → o.started = false → o.fin = none → o.opcode = 0x03 → rd o.bytes 16 1 ≤ 3 →
      (s.glb.dev = .starting → rd o.bytes 16 1 = 0) → Gives (.query .mailbox) s (fun t =>
        t.hearth.report = padTo 128 (s.queryBlock (rd o.bytes 16 1)) ∧ t.hearth.mbox = none ∧ t.hearth.done = true ∧
        t.hearth.mboxCpl.take 4 = le32 Code.ok ∧
        t = { s with hearth := { s.hearth with
          mbox := none, done := true, mboxCpl := t.hearth.mboxCpl, report := t.hearth.report } })) ∧
    (Offers s r 0x03 o → rd o.bytes 16 1 ≤ 3 → rd o.bytes 24 8 % 64 = 0 →
      let t := s.dataWrite (rd o.bytes 24 8) (s.queryBlock (rd o.bytes 16 1))
      exec (.query (.ring r)) s = .next (t.finish r.toNat o.id Code.ok) ∧
      (t.finish r.toNat o.id Code.ok).statusOf r.toNat o.id = some Code.ok) ∧
    (s.regsUp = true → s.porch.low = none → v.getLsbD 0 = true → s.hearth.mbox = none →
      mboxFault (s.hearth.mboxRegs.flatMap le32) = none → Gives (.mailboxGo v) s (fun t =>
        (∃ q, t.hearth.mbox = some q ∧ q.bytes = s.hearth.mboxRegs.flatMap le32 ∧ q.started = false ∧ q.fin = none) ∧
        t = { s with hearth := { s.hearth with mbox := t.hearth.mbox }, ring := { s.ring with nextOp := s.ring.nextOp + 1 } }))

/-- CONFIGURE through the mailbox: once the blob has arrived and every check holds, its layout is in force and the device is
SERVING, or in MAINTENANCE where the strap asks for it. Memory stays, but for a preserved Strongroom. Rules: R507, R508,
R509, R511. -/
def Obligations.Configures : Prop :=
  ∀ (s : State) (o : Op) (b : List Byte), s.hearth.actionWaits = none → s.hearth.mbox = some o → o.started = false →
    o.fin = none → o.opcode = 0x02 → rd o.bytes 16 4 = 128 → rd o.bytes 24 8 % 64 = 0 → s.glb.dev = .held →
    s.glb.reason = .unconfigured → o.payload = .arrived b → (∀ c ∈ s.blobChecks b, c.1 = true) →
    Gives (.configure .mailbox) s (fun t =>
      t.glb.layout = some { win := rd b 12 4, strong := rd b 16 4, save := rd b 20 4 } ∧
      t.glb.dev = (if s.glb.maint then .maintenance else .serving) ∧ t.glb.reason = .none ∧
      t.hearth.mbox = none ∧ t.hearth.done = true ∧ t.hearth.mboxCpl.take 4 = le32 Code.ok ∧ t.hearth.blob = b ∧
      (∀ a, (∀ q, s.hearth.preserved = some q → a < q.1 * 2 ^ 20 ∨ (q.1 + q.2) * 2 ^ 20 ≤ a) →
        t.mem.dram.byte a = s.mem.dram.byte a) ∧ (s.hearth.preserved = none → t.mem = s.mem) ∧
      t = { s with glb := { s.glb with dev := t.glb.dev, reason := t.glb.reason, layout := t.glb.layout },
                   hearth := t.hearth, mem := { s.mem with dram := t.mem.dram, poison := t.mem.poison } })

/-- PACKET_FETCH: the ring manager fetches: a one-slot packet of a ring in HBM joins the fetched ones and C and the expected
seq move on; one with a wrong seq faults the ring with PKT_SEQUENCE; for a ring in host memory a read of the slot is issued.
In the compatibility form the packet is turned into the 64-byte form. Rules: R64, R66, R68. -/
def Obligations.PacketFetches : Prop :=
  ∀ (s : State) (r : RingId) (c : RingCtx), s.ringCtx r.toNat = some c → c.kind = .command → c.state = .active →
    c.reading = false → c.head = [] → c.occupancy ≠ 0 → s.serving = true →
    let b := s.hbmSlots c c.cidx 1
    (c.hbm = true → s.hbmSlotsBad c c.cidx 1 = false → rd32 b 4 = c.seqNext → (rd8 b 3).toNat ≤ 1 → c.pendFault = 0 →
      Gives (.packetFetch r) s (fun t =>
        (∃ k f, t.ringCtx r.toNat = some k ∧ k.cidx = c.cidx + 1 ∧ k.seqNext = c.seqNext + 1 ∧ k.state = .active ∧
          k.pidx = c.pidx ∧ k.fetched = c.fetched ++ [f] ∧ f.idx = c.cidx ∧
          f.bytes = (if s.glb.compat then fromCompat b else b) ∧ f.fault = 0) ∧
        (∀ n, n ≠ r.toNat → t.ringCtx n = s.ringCtx n) ∧ t = { s with ring := { s.ring with ctx := t.ring.ctx } })) ∧
    (c.hbm = true → s.hbmSlotsBad c c.cidx 1 = false → rd32 b 4 ≠ c.seqNext →
      Gives (.packetFetch r) s (fun t =>
        (∃ k f, t.ringCtx r.toNat = some k ∧ k.cidx = c.cidx ∧ k.state = .faulted ∧ k.fault = Code.pktSequence ∧
          k.faultIdx = c.cidx ∧ k.fetched = c.fetched ++ [f] ∧ f.fault = Code.pktSequence) ∧
        (∀ n, n ≠ r.toNat → t.ringCtx n = s.ringCtx n) ∧ t = { s with ring := { s.ring with ctx := t.ring.ctx } })) ∧
    (c.hbm = false → s.porch.lost = false → s.porch.cfg.bme = true → s.porch.reads.length < 512 →
      Gives (.packetFetch r) s (fun t =>
        let a : W64 := BitVec.ofNat 64 (c.base.toNat + s.slotSize * (c.cidx.toNat % 2 ^ c.log2Size))
        t.ringCtx r.toNat = some { c with reading := true } ∧ t.out = s.out ++ [.read s.porch.nextTag a s.slotSize] ∧
        (∃ n : DevRead, t.porch = { s.porch with reads := s.porch.reads ++ [n], nextTag := s.porch.nextTag + 1 } ∧
          n.tag = s.porch.nextTag ∧ n.what = .slot r.toNat ∧ n.addr = a ∧ n.len = s.slotSize ∧ n.off = 0 ∧ n.again = false ∧
          n.stale = false ∧ n.issued = s.now) ∧
        (∀ n, n ≠ r.toNat → t.ringCtx n = s.ringCtx n) ∧
        t = { s with ring := { s.ring with ctx := t.ring.ctx }, porch := t.porch, out := t.out }))

/-- PACKET_DISPATCH: the Hearth dispatches the packet that the rings offer first: it comes into execution with its fields,
and one that breaks a packet rule completes with that rule's code. Rules: R39, R66, R68, R75. -/
def Obligations.PacketDispatches : Prop :=
  ∀ (s : State) (r : Nat) (f : Fetched) (c : RingCtx), s.serving = true → s.pickRing = some (r, f) →
    s.ringCtx r = some c → r < 2 ^ 20 → c.bind ≠ r → f.fault = 0 → s.ras.recording = none →
    let o := mkOp s.ring.nextOp f
    let t := s.startOp r f
    t.ringCtx r = some { c with fetched := c.fetched.drop 1, ops := c.ops ++ [o], outstanding := c.outstanding + 1 } ∧
    (packetFault s.glb.compat (r = 0) f.bytes = none → exec .packetDispatch s = .next t) ∧
    (∀ e, packetFault s.glb.compat (r = 0) f.bytes = some e → exec .packetDispatch s = .next (t.finish r o.id e)) ∧
    o.opcode = rd f.bytes 0 2 ∧ o.seq = rd32 f.bytes 4 ∧ o.tag = rd64 f.bytes 8 ∧ o.idx = f.idx

/-- COMPLETION_RECORD_WRITE: the record of a ring's oldest packet goes to the next slot of its COMPLETION ring, in host
memory or in HBM, with the phase of that slot; its reservations return, the packets finished behind it are noted as held, and
a status other than success, or the IRQ flag, owes the ring's message. A NOCPL success writes no record. The ring's turn has
come among those that share the COMPLETION ring, and no reference waits for the record. METADATA_RECORD_WRITE: a metadata
record that waits goes to the next slot of its ring, in host memory or in HBM, while that lies below C + 2^s, with the phase
of the slot in bit 0 of its second byte. Rules: R65, R70, R71, R72, R74, R75, R366. -/
def Obligations.CompletionRecords : Prop :=
  (∀ (s : State) (r : RingId) (c k : RingCtx) (o : Op) (l : List Op) (f : Fin), s.ringCtx r.toNat = some c →
     c.ops = o :: l → o.fin = some f → s.ringCtx c.bind = some k → c.bind ≠ r.toNat → k.state = .active →
     k.base.toNat % 4096 = 0 → s.silent = false → s.porch.cfg.bme = true → s.ras.recording = none →
     (∀ d ∈ s.plan.refsDue, ¬ (d.1 = r.toNat ∧ d.2.1 = o.id)) → s.recordTurn r.toNat c.bind = true →
     (f.status = 0 → o.flags.getLsbD 2 = true → Gives (.completionRecordWrite r) s (fun t =>
       t.ringCtx r.toNat = some { c with ops := l, outstanding := c.outstanding - 1 } ∧
       t.ringCtx c.bind = some { k with outstanding := k.outstanding - 1 } ∧
       (∀ n, n ≠ r.toNat → n ≠ c.bind → t.ringCtx n = s.ringCtx n) ∧
       t = { s with ring := { s.ring with ctx := t.ring.ctx, ready := t.ring.ready } })) ∧
     ((f.status = 0 → o.flags.getLsbD 2 = false) → Gives (.completionRecordWrite r) s (fun t =>
       let a := k.base.toNat + 32 * (k.pidx.toNat % 2 ^ k.log2Size)
       let b := le32 f.status ++ le32 o.seq ++ le64 o.tag ++ le64 f.timestamp ++ le32 f.energy ++ le16 f.slips ++
         leBytes 2 (phaseBit k.log2Size k.pidx + 2 * bit f.held + 4 * bit (o.flags.getLsbD 0))
       t.out = (if k.hbm then s.out else s.out ++ [.write (BitVec.ofNat 64 a) b false]) ∧
       t.mem = (if k.hbm then (s.hbmWrite a b).mem else s.mem) ∧
       t.ringCtx r.toNat = some { c with ops := l.map Op.behind, outstanding := c.outstanding - 1 } ∧
       t.ringCtx c.bind = some { k with pidx := k.pidx + 1, outstanding := k.outstanding - 1 } ∧
       (∀ n, n ≠ r.toNat → n ≠ c.bind → t.ringCtx n = s.ringCtx n) ∧
       t.porch.owed = (if o.flags.getLsbD 0 ∨ f.status ≠ 0 then setBit s.porch.owed k.vector else s.porch.owed) ∧
       t = { s with ring := { s.ring with ctx := t.ring.ctx, ready := t.ring.ready }, out := t.out, mem := t.mem,
                    porch := { s.porch with owed := t.porch.owed } }))) ∧
  (∀ (s : State) (r : RingId) (c : RingCtx) (m : MetaRec) (l : List MetaRec), s.ringCtx r.toNat = some c →
     c.kind = .metadata → c.state = .active → c.waiting = m :: l → c.occupancy < 2 ^ c.log2Size →
     c.base.toNat % 4096 = 0 → m.bytes.length = 64 → s.silent = false → s.porch.cfg.bme = true → s.ras.recording = none →
     Gives (.metadataRecordWrite r) s (fun t =>
       let a := c.base.toNat + 64 * (c.pidx.toNat % 2 ^ c.log2Size)
       (∃ b, t.out = (if c.hbm then s.out else s.out ++ [.write (BitVec.ofNat 64 a) b false]) ∧
         t.mem = (if c.hbm then (s.hbmWrite a b).mem else s.mem) ∧
         b.length = 64 ∧ rd b 1 1 % 2 = phaseBit c.log2Size c.pidx ∧ rd b 1 1 / 2 = rd m.bytes 1 1 / 2 ∧
         ∀ i, i ≠ 1 → b[i]? = m.bytes[i]?) ∧
       t.ringCtx r.toNat = some { c with waiting := l, pidx := c.pidx + 1 } ∧
       (∀ n, n ≠ r.toNat → t.ringCtx n = s.ringCtx n) ∧
       t.porch.owed = (if m.irq then setBit s.porch.owed c.vector else s.porch.owed) ∧
       t = { s with ring := { s.ring with ctx := t.ring.ctx }, out := t.out, mem := t.mem,
                    porch := { s.porch with owed := t.porch.owed } }))

/-- POOL_CREATE makes the pool its packet describes, or with count 0 removes one that holds no allocated buffer; it completes
with success, which port 0 keeps as its last result. BUF_ALLOC of one buffer takes the head of the pool's free list, whose
link becomes the head, or else the never-used index; its count is 1 and its generation the next, the handle goes to host
memory, and port 0 keeps the result under the next number. An allocation of 0 bytes gives null handles and takes nothing.
Rules: R276, R277, R278, R279, R285, R287. -/
def Obligations.PoolCreates : Prop :=
  (∀ (s : State) (r : RingId) (o : Op), Offers s r 0x20 o →
     let n := rd o.bytes 16 1
     let p := poolOfPacket o.bytes
     (p.count ≠ 0 → 8 ≤ p.log2Size → p.log2Size ≤ 26 → rd o.bytes 18 1 ≤ 1 → p.base % 2 ^ p.log2Size = 0 →
       tget s.larder.pools n = none → s.poolFits p = true →
       exec (.poolCreate r) s = .next
         ((({ s with larder := { s.larder with pools := tset s.larder.pools n p } }).served 0 Code.ok 0).finish r.toNat o.id Code.ok)) ∧
     (∀ q, p.count = 0 → tget s.larder.pools n = some q → s.larder.busy q = false →
       exec (.poolCreate r) s = .next
         ((({ s with larder := { s.larder with pools := tdel s.larder.pools n } }).served 0 Code.ok 0).finish r.toNat o.id Code.ok))) ∧
  (∀ (s : State) (r : RingId) (o : Op) (p : Pool) (i : Nat), Offers s r 0x21 o → rd o.bytes 24 8 % 8 = 0 →
     let n := rd o.bytes 16 1
     let gen : W16 := if (s.larder.entry i).gen = 0xFFFF then 1 else (s.larder.entry i).gen + 1
     (rd o.bytes 18 2 = 1 → rd o.bytes 20 4 ≠ 0 → tget s.larder.pools n = some p → rd o.bytes 20 4 ≤ 2 ^ p.log2Size →
       p.rebuild = false → 1 ≤ p.supply → (p.head = some i ∨ p.head = none ∧ i = p.fresh ∧ p.fresh < p.first + p.count) →
       s.recPoisoned i = false → s.poisoned (s.bufAddr p i) 8 = false →
       Succeeds (.bufAlloc r) s r o (fun t =>
         tget t.larder.pools n = some (if p.head.isSome then { p with head := s.linkOf p i, listed := p.listed - 1 }
           else { p with fresh := p.fresh + 1 }) ∧
         t.larder.entry i = { count := 1, gen := gen, alloc := true } ∧ (∀ k, k ≠ i → t.larder.entry k = s.larder.entry k) ∧
         (∀ k, k ≠ n → tget t.larder.pools k = tget s.larder.pools k) ∧
         t.out = (s.dataWrite (rd o.bytes 24 8) (le64 (mkHandle n i gen))).out ∧ t.mem = s.mem ∧ t.plan = s.plan ∧
         t.rooms = s.rooms ∧ tget t.larder.ports 0 = some
           ⟨((tget s.larder.ports 0).map (fun q => q.seqno + 1)).getD 0, Code.ok, mkHandle n i gen⟩ ∧
         ∀ k, k ≠ 0 → tget t.larder.ports k = tget s.larder.ports k)) ∧
     (1 ≤ rd o.bytes 18 2 → rd o.bytes 18 2 ≤ 1024 → rd o.bytes 20 4 = 0 →
       exec (.bufAlloc r) s = .next
         ((s.dataWrite (rd o.bytes 24 8) ((List.replicate (rd o.bytes 18 2) 0).flatMap le64)).finish r.toNat o.id Code.ok)))

/-- BUF_REF adds its delta to the count of a current, allocated buffer. BUF_FREE takes 1 from it; at count 1 it frees the
buffer, puts it on top of its pool's free list and writes the link of 8 bytes at the buffer's start, nothing else. A handle
of another generation is stale: nothing changes but LARDER_ERR. Port 0 keeps the result of each. Rules: R274, R276, R278,
R279, R280, R288, R289. -/
def Obligations.BufReferences : Prop :=
  ∀ (s : State) (r : RingId) (o : Op) (h : W64) (p : Pool) (i : Nat), h ≠ 0 → rd64 o.bytes 64 = h →
    rd o.bytes 16 2 = 1 → s.larder.place h = some (p, i) → s.recPoisoned i = false → Memory.wf s.mem.dram = true →
    let e := s.larder.entry i
    (Offers s r 0x23 o → rd o.bytes 18 2 ≠ 0 → e.gen = handleGen h → e.alloc = true →
      e.count.toNat + rd o.bytes 18 2 < 2 ^ 32 →
      let f := { e with count := e.count + BitVec.ofNat 32 (rd o.bytes 18 2) }
      exec (.bufRef r) s = .next
        ((({ s with larder := { s.larder with recs := tset s.larder.recs i f } }).served 0 Code.ok h).finish r.toNat o.id Code.ok)) ∧
    (Offers s r 0x22 o → e.gen = handleGen h → e.alloc = true → 1 < e.count.toNat →
      let f := { e with count := e.count - 1 }
      exec (.bufFree r) s = .next
        ((({ s with larder := { s.larder with recs := tset s.larder.recs i f } }).served 0 Code.ok h).finish r.toNat o.id Code.ok)) ∧
    (∀ q, Offers s r 0x22 o → e.gen = handleGen h → e.alloc = true → e.count = 1 →
      tget s.larder.pools (handlePool h) = some q → q.rebuild = false →
      Succeeds (.bufFree r) s r o (fun t =>
        t.larder.entry i = { e with count := 0, alloc := false } ∧ (∀ k, k ≠ i → t.larder.entry k = s.larder.entry k) ∧
        tget t.larder.pools (handlePool h) = some { q with head := some i, listed := q.listed + 1 } ∧
        (∀ k, k ≠ handlePool h → tget t.larder.pools k = tget s.larder.pools k) ∧
        Memory.read t.mem.dram (s.bufAddr q i) 4 = leBytes 4 (q.head.getD 0xFFFFFFFF) ∧
        (∀ a, a < s.bufAddr q i ∨ s.bufAddr q i + 8 ≤ a → t.mem.dram.byte a = s.mem.dram.byte a) ∧
        t.out = s.out ∧ t.plan = s.plan ∧ t.rooms = s.rooms ∧ ∀ k, k ≠ 0 → tget t.larder.ports k = tget s.larder.ports k)) ∧
    (Offers s r 0x22 o → e.gen ≠ handleGen h → Gives (.bufFree r) s (fun t =>
        t.statusOf r.toNat o.id = some Code.bufStale ∧ t.larder.recs = s.larder.recs ∧ t.larder.pools = s.larder.pools ∧
        t.larder.errValid = true ∧ (s.larder.errValid = false → t.larder.errCode = Code.low Code.bufStale) ∧
        t.mem = s.mem ∧ t.out = s.out ∧ t.plan = s.plan))

/-- LARDER_REQUEST, a request of a unit's port, is served once: the same sequence number again changes nothing, another is
served (an increment, for one) and its result kept for the port. LARDER_FREELIST_REBUILD of a pool that needs none changes
nothing; of one that does, the list begins at the first free buffer below the never-used index and counts all of them. Rules:
R277, R281, R282, R283. -/
def Obligations.LarderPorts : Prop :=
  ∀ (s : State) (n : BitVec 5) (q : W16) (req : LarderReq) (h : W64) (d : W32) (p : Pool) (i : Nat) (b : PoolId),
    s.working = true → n.toNat < 28 →
    ((tget s.larder.ports n.toNat).any (fun p => p.seqno == q) = true → exec (.larderRequest n q req) s = .next s) ∧
    ((tget s.larder.ports n.toNat).any (fun p => p.seqno == q) = false → h ≠ 0 → s.larder.place h = some (p, i) →
      s.recPoisoned i = false → (s.larder.entry i).gen = handleGen h → (s.larder.entry i).alloc = true →
      (s.larder.entry i).count.toNat + d.toNat < 2 ^ 32 →
      let e := { s.larder.entry i with count := (s.larder.entry i).count + BitVec.ofNat 32 d.toNat }
      exec (.larderRequest n q (.increment h d)) s = .next { s with
        larder := { s.larder with
          recs := tset s.larder.recs i e, ports := tset s.larder.ports n.toNat { seqno := q, code := Code.ok, handle := h } } }) ∧
    (tget s.larder.pools b.toNat = some p → p.rebuild = false → exec (.larderFreelistRebuild b) s = .next s) ∧
    (tget s.larder.pools b.toNat = some p → p.rebuild = true → Gives (.larderFreelistRebuild b) s (fun t =>
      let free := ((List.range (p.fresh - p.first)).map (p.first + ·)).filter (fun i => !(s.larder.entry i).alloc)
      tget t.larder.pools b.toNat = some { p with rebuild := false, head := free.head?, listed := free.length } ∧
      (∀ k, k ≠ b.toNat → tget t.larder.pools k = tget s.larder.pools k) ∧ t.larder.recs = s.larder.recs ∧
      t = { s with larder := { s.larder with pools := t.larder.pools }, mem := t.mem }))

/-- GRAPH_LOAD of an open job (or one whose JOB_CLOSE was dispatched later) enters the graph that its image holds, whether
the image comes from host memory or from the window, once every check holds; GRAPH_UNLOAD takes away a graph without
instances. GRAPH_RUN of an acceptable packet makes one QUEUED instance with the packet's values and handles, of the job's
class, at the packet's place in dispatch order; the packet goes on. `u` is the state after the Planner has taken its
references on the handles; an instance of a job whose save was incomplete takes over its lost store. Rules: R105, R106, R108,
R284. -/
def Obligations.GraphsLoadAndRun : Prop :=
  (∀ (s : State) (r : RingId) (o : Op) (j : Job) (d : List Byte),
     let b := o.bytes
     let n := rd b 16 2
     let jn := rd b 18 1
     (Offers s r 0x30 o → s.job jn = some j → (∀ c, j.closing = some c → o.id < c.2) → rd b 24 8 % 64 = 0 → n < 4096 →
       tget s.plan.graphs n = none → s.plan.stored + rd b 20 4 ≤ 2 ^ 30 → 64 ≤ rd b 20 4 → rd b 20 4 % 64 = 0 →
       (rd b 19 1 = 0 ∧ o.payload = .arrived d ∨ rd b 19 1 = 1 ∧ o.payload = .unread ∧ s.ras.recording = none ∧
         s.windowPoisoned (rd b 24 8) (rd b 20 4) = false ∧ d = s.windowBytes (rd b 24 8) (rd b 20 4)) →
       (∀ c ∈ s.imageChecks jn j (rd b 20 4) d, c.1 = true) →
       exec (.graphLoad r) s = .next (({ s with plan := { s.plan with
         graphs := tset s.plan.graphs n (parseGraph jn d) } }).finish r.toNat o.id Code.ok)) ∧
     (∀ g, Offers s r 0x31 o → s.job jn = some j → (∀ c, j.closing = some c → o.id < c.2) → s.graph n = some g → g.job = jn →
       (∀ p ∈ s.plan.insts, p.2.graph ≠ n) →
       exec (.graphUnload r) s = .next (({ s with plan := { s.plan with
         graphs := tdel s.plan.graphs n } }).finish r.toNat o.id Code.ok))) ∧
  (∀ (s u : State) (r : RingId) (o : Op) (j : Job), Offers s r 0x32 o →
     let b := o.bytes
     let n := rd b 16 2
     let jn := rd b 18 1
     let hs := handlesAt b 64 (rd b 20 2)
     (∀ v ∈ (valuesAt b 24).drop (rd b 19 1), v = 0) → s.jobOpenFor jn o.id = true →
     (∀ c ∈ s.runChecks true jn n (rd b 19 1) (rd b 20 2) hs, c.1 = true) → s.takeRefs 27 hs = (u, true) → u.job jn = some j →
     Gives (.graphRun r) s (fun t =>
       (∃ i, tget t.plan.insts u.plan.nextInst = some i ∧ i.state = .queued ∧ i.who = .packet r.toNat o.id ∧ i.job = jn ∧
         i.graph = n ∧ i.cls = j.prio ∧ i.v = valuesAt b 24 ∧ i.handles = hs ∧ i.order = 2 * o.id + 1 ∧ i.lostStore = j.storeLost ∧ i.tasks = [] ∧
         i.fault = none) ∧
       (∀ k, k ≠ u.plan.nextInst → tget t.plan.insts k = tget u.plan.insts k) ∧
       t.plan.nextInst = u.plan.nextInst + 1 ∧ t.job jn = some { j with runs := j.runs + 1, storeLost := false } ∧
       (∀ k, k ≠ jn → t.job k = u.job k) ∧ t.plan.graphs = u.plan.graphs ∧
       t = { u with ring := t.ring, plan := t.plan } ∧ t.ring = (u.beginOp r.toNat o.id).ring))

/-- JOB_OPEN opens the job its packet asks for on the rectangle and Attic units that are free; JOB_CLOSE of a job without
streams and sequences (and, if it is suspended, without instances, which would be cancelled) begins to close it;
JOB_CLOSE_DONE of one without instances or runs dispatched ahead removes it and its graphs. Rules: R96, R97, R98, R99, R100. -/
def Obligations.JobLifecycle : Prop :=
  ∀ (s : State) (r : RingId) (o : Op),
    let b := o.bytes
    let n := rd b 16 1
    (∀ q u, Offers s r 0x33 o → n ≤ 63 → s.job n = none → s.jobModeOk b = true →
      s.placeJob (decide (rd b 17 1 = 1)) (decide (rd b 18 1 = 4)) (rd b 19 1) (rd b 20 1) (rd b 21 1) (rd b 22 1) = some q →
      (rd b 18 1 = 4 → 1048 * (rd b 19 1 * rd b 20 1) ≤ s.saveFree) → s.placeAttic (rd b 24 2) = some u →
      Succeeds (.jobOpen r) s r o (fun t =>
        (∃ j, t.job n = some j ∧ j.onDemand = decide (rd b 17 1 = 1) ∧ j.prio = rd b 18 1 ∧ j.rect = q ∧ j.atticAt = u ∧
          j.attic = rd b 24 2 ∧ j.span = rd32 b 28 ∧ j.holds = false ∧ j.suspended = false ∧ j.closing = none ∧
          j.saved = [] ∧ j.runs = 0) ∧
        (∀ k, k ≠ n → t.job k = s.job k) ∧ t.plan.graphs = s.plan.graphs ∧ t.plan.insts = s.plan.insts ∧ t.mem = s.mem ∧
        t.out = s.out ∧ t.larder = s.larder)) ∧
    (∀ j, Offers s r 0x34 o → s.job n = some j → j.closing = none → s.jobInUse n = false →
      (j.suspended = true → ∀ q ∈ s.plan.insts, q.2.job ≠ n) →
      exec (.jobClose r) s = .next ({ s.beginOp r.toNat o.id with
        plan := { s.plan with jobs := tmod s.plan.jobs n (fun j => { j with closing := some (r.toNat, o.id) }) } })) ∧
    (∀ (m : JobId) j g id p, s.job m.toNat = some j → j.closing = some (g, id) → s.working = true →
      (∀ q ∈ s.plan.insts, q.2.job ≠ m.toNat) → s.runsAhead m.toNat id = false → g < 2 ^ 20 → s.findOp g id = some p →
      Gives (.jobCloseDone m) s (fun t => t.job m.toNat = none ∧ (∀ q ∈ t.plan.graphs, q.2.job ≠ m.toNat) ∧
        (j.waiters = [] → j.onDemand = false → j.qring = 0 → t.statusOf g id = some Code.ok ∧
          (∀ k, k ≠ m.toNat → (t.job k).map (fun v => { v with pre := [] }) = (s.job k).map (fun v => { v with pre := [] })) ∧ t.plan.insts = s.plan.insts ∧ t.mem = s.mem ∧ t.out = s.out)))

/-- At JOB_OPEN each of the job's 64 work counters is 0 and its Attic grant reads 0 throughout, in the very state in which
the packet is complete. Rules: R99. -/
def Obligations.JobOpenClears : Prop :=
  ∀ (s : State) (r : RingId) (o : Op) (q : Rect) (u : Nat), Offers s r 0x33 o →
    let b := o.bytes
    let n := rd b 16 1
    n ≤ 63 → s.job n = none → s.jobModeOk b = true →
    s.placeJob (decide (rd b 17 1 = 1)) (decide (rd b 18 1 = 4)) (rd b 19 1) (rd b 20 1) (rd b 21 1) (rd b 22 1) = some q →
    (rd b 18 1 = 4 → 1048 * (rd b 19 1 * rd b 20 1) ≤ s.saveFree) → s.placeAttic (rd b 24 2) = some u →
    Succeeds (.jobOpen r) s r o (fun t => ∃ j, t.job n = some j ∧ (∀ k, k < 64 → tgetD j.ctrs k 0 = 0) ∧
      ∀ a, j.atticMem.byte a = 0)

/-- JOB_PREEMPT of a BULK job waits for the suspension, which it asks for (the first SUSPEND does), or for the return of the
Rooms; JOB_RESUME_RESTORE, once no ON_DEMAND job holds a Room of a suspended Suite and its Rooms are IDLE, begins the switch
back: the Rooms are SAVING for S beats from now. SWITCH_COMPLETE of the host's own switch: at the end of the save (without a
second parity fault, log entry 140) the job is suspended, and at the end of the restore it runs on; the JOB_PREEMPT packet
that waited completes with success. Rules: R262, R263, R268. -/
def Obligations.JobPreempts : Prop :=
  (∀ (s : State) (r : RingId) (o : Op) (j : Job),
     let n := rd o.bytes 16 1
     let waits : Job := { j with waiters := j.waiters ++ [(r.toNat, o.id)] }
     (Offers s r 0x35 o → s.job n = some j → j.closing = none → j.prio = 4 →
       (rd o.bytes 17 1 = 0 → j.suspended = false → (∀ p ∈ j.pre, p.by_ ≠ 64) → Gives (.jobPreempt r) s (fun t =>
         t.job n = some { waits with pre := j.pre ++ [⟨64, .requested, s.beat, []⟩] } ∧
         (∀ k, k ≠ n → t.job k = s.job k) ∧ t.ring = (s.beginOp r.toNat o.id).ring ∧ t.plan.insts = s.plan.insts ∧
         t.rooms = s.rooms ∧ t.mem = s.mem ∧ t.larder = s.larder)) ∧
       (rd o.bytes 17 1 = 1 ∧ j.suspended = true ∨ rd o.bytes 17 1 = 0 ∧ j.suspended = false ∧ (∃ p ∈ j.pre, p.by_ = 64) →
         Gives (.jobPreempt r) s (fun t => t.job n = some waits ∧ (∀ k, k ≠ n → t.job k = s.job k) ∧
           t.ring = (s.beginOp r.toNat o.id).ring ∧ t = { s with ring := t.ring, plan := t.plan }))) ∧
     (∀ (m : JobId), s.job m.toNat = some j → s.working = true → j.suspended = true → j.waiters ≠ [] →
       (∀ p ∈ j.pre, p.by_ ≠ 64) → (∀ q ∈ s.plan.jobs, q.2.holds = true → q.2.rect.meets j.rect = false) →
       let rooms := j.roomList.filter (fun q => !s.glb.grid.lost.contains q)
       (∀ q ∈ rooms, (s.room q).state = .idle) →
       Gives (.jobResumeRestore m) s (fun t =>
         let till := s.beat + switchBeats (rooms.map (s.liveOf j.savedLives))
         t.job m.toNat = some { j with
           pre := ⟨64, .restoring till, s.beat, j.roomList⟩ :: j.pre.filter (fun p => decide (p.by_ = 65)) } ∧
         (∀ k, k ≠ m.toNat → t.job k = s.job k) ∧
         (∀ q, t.room q = if q ∈ rooms then { s.room q with state := .saving } else s.room q) ∧
         t.plan.insts = s.plan.insts ∧ t = { s with plan := t.plan, rooms := t.rooms }))) ∧
  (∀ (s : State) (m : JobId) (j : Job) (p : Preempt) (till g id : Nat) (o : Op) (l : List Preempt), s.job m.toNat = some j →
     j.pre = p :: l → p.by_ = 64 → till ≤ s.beat → j.waiters = [(g, id)] → g < 2 ^ 20 → s.findOp g id = some o →
     (p.phase = .saving till →
       ((Config.freeWord s.free).getLsbD 0 && (Config.freeWord s.free).getLsbD 1) = false → Gives (.switchComplete m) s (fun t =>
       t.statusOf g id = some Code.ok ∧
       (∃ k, t.job m.toNat = some k ∧ k.suspended = true ∧ k.waiters = [] ∧
         (∀ q ∈ p.rooms, q ∉ s.glb.grid.lost → ∃ v, tget k.saved q = some v ∧ v.store = (s.room q).store)) ∧
       (∀ q ∈ p.rooms, q ∉ s.glb.grid.lost → (t.room q).state = .idle) ∧ (∀ k, k ≠ m.toNat → t.job k = s.job k) ∧
       t.plan.insts = s.plan.insts ∧ t.mem = s.mem ∧ t.larder = s.larder ∧ t.out = s.out)) ∧
     (p.phase = .restoring till → Gives (.switchComplete m) s (fun t =>
       t.statusOf g id = some Code.ok ∧
       (∃ k, t.job m.toNat = some k ∧ k.suspended = false ∧ k.waiters = [] ∧ k.pre = j.pre.filter (fun p => p.by_ = 65)) ∧
       (∀ q ∈ p.rooms, q ∉ s.glb.grid.lost → (t.room q).state = .idle ∧ (t.room q).job = BitVec.ofNat 6 m.toNat) ∧
       (∀ k, k ≠ m.toNat → t.job k = s.job k) ∧ t.plan.insts = s.plan.insts ∧ t.mem = s.mem ∧ t.larder = s.larder ∧
       t.out = s.out)))

/-- PREEMPT_REQUEST: an ON_DEMAND instance whose beat has come takes its Rooms where every BULK job under them is switched
out and none of them is SAVING, and else asks every victim to give way. VICTIM_FREEZE: at a boundary at which the victim
holds no semaphore its requests take effect; with a hold they wait. Rules: R262. -/
def Obligations.PreemptionIsAsked : Prop :=
  (∀ (s : State) (n : Nat) (i : Inst) (j : Job), s.inst n = some i → s.job i.job = some j → s.working = true →
    i.state = .waiting → j.onDemand = true → j.holds = false → i.b0 ≤ s.beat →
    ((∀ v ∈ s.victims j, ∃ p ∈ v.2.pre, p.by_ = i.job ∧ p.phase = .out) → (∀ q ∈ j.roomList, (s.room q).state ≠ .saving) →
      Gives (.preemptRequest n) s (fun t =>
      t.job i.job = some { j with holds := true } ∧ (∀ k, k ≠ i.job → t.job k = s.job k) ∧
      (∀ q, t.room q = if q ∈ j.roomList then { s.room q with job := BitVec.ofNat 6 i.job, live := 0 } else s.room q) ∧
      t = { s with rooms := t.rooms, plan := { s.plan with jobs := t.plan.jobs } })) ∧
    ((∃ v ∈ s.victims j, ∀ p ∈ v.2.pre, p.by_ = i.job → p.phase ≠ .out) ∨ (∃ q ∈ j.roomList, (s.room q).state = .saving) →
      Gives (.preemptRequest n) s (fun t =>
      (∀ v ∈ s.victims j, ∃ w, t.job v.1 = some w ∧ ∃ p ∈ w.pre, p.by_ = i.job) ∧
      (∀ k, (∀ v ∈ s.victims j, v.1 ≠ k) → t.job k = s.job k) ∧
      t = { s with plan := { s.plan with jobs := t.plan.jobs }, fab := t.fab, porch := t.porch, ras := t.ras }))) ∧
  (∀ (s : State) (m : JobId) (j : Job) (p : Preempt), s.job m.toNat = some j → s.working = true → p ∈ j.pre →
    p.by_ ≠ 65 → p.phase = .requested → p.at_ ≤ s.beat →
    (s.holdsSem m.toNat = false → exec (.victimFreeze m) s = .next { s with plan := { s.plan with
      jobs := tmod s.plan.jobs m.toNat (fun j => { j with pre := j.pre.map (fun p =>
        if p.by_ != 65 && p.phase == .requested then { p with phase := .frozen } else p) }) } }) ∧
    (s.holdsSem m.toNat = true → exec (.victimFreeze m) s = .next s))

/-- SWITCH_START: once the overlapped Rooms of a frozen victim are IDLE (and it has reached its cut) they are SAVING for S
beats, which PLAN_SWITCH shows, and the victim's queued BULK frames are withdrawn to it. SWITCH_COMPLETE, where no second
parity fault comes (log entry 140): after those beats what the Rooms held is kept with the job, and they pass to the
ON_DEMAND job once every victim is out, or return at once where it has closed; or it is given back to the job and the
pre-emption is over. ROOMS_RETURN: an ON_DEMAND job without instances whose victims are in no switch holds its Rooms no
longer; what its Rooms held is its value of the next switch. A member's part in the freeze of a spanning Suite: it freezes at
a boundary without a semaphore hold and reports what it has started; the agreed cut is noted; the thaw ends the freeze.
Rules: R262, R263, R264, R265, R266, R270. -/
def Obligations.SwitchesChangeHands : Prop :=
  (∀ (s : State) (m : JobId) (j : Job) (p : Preempt), s.job m.toNat = some j →
     (s.working = true → j.pre.find? (fun p => p.phase == .frozen && p.by_ != 65) = some p → s.cutReached m.toNat j = true →
       let rooms := s.overlapRooms j p.by_
       (∀ q ∈ rooms, (s.room q).state = .idle) →
       let beats := switchBeats (rooms.map (s.liveOf (((s.job p.by_).map (·.lives)).getD [])))
       let mine := s.fab.ports.flatMap (fun p => p.queue.filter (fun q => q.bulkOf j.span))
       Gives (.switchStart m) s (fun t =>
         (∀ q, t.room q = if q ∈ rooms then { s.room q with state := .saving } else s.room q) ∧
         t.job m.toNat = some { j with
           withdrawn := j.withdrawn ++ mine,
           pre := j.pre.map (fun q =>
             if q.by_ = p.by_ then { q with phase := .saving (s.beat + beats), rooms := rooms } else q) } ∧
         (∀ k, k ≠ m.toNat → t.job k = s.job k) ∧ t.plan.preCount = satAdd s.plan.preCount 1 ∧
         t.plan.switchBeats = BitVec.ofNat 32 (min beats 0xFFFF) ∧
         t.fab = { s.fab with ports := s.fab.ports.map (fun p => { p with
           queue := p.queue.filter (fun q => !q.bulkOf j.span) }) } ∧
         t = { s with rooms := t.rooms, fab := t.fab, plan := { s.plan with
           jobs := t.plan.jobs, preValid := true, preCount := t.plan.preCount, switchBeats := t.plan.switchBeats,
           preJob := if s.plan.preValid then s.plan.preJob else BitVec.ofNat 6 m.toNat } })) ∧
     (∀ till l₁ l₂, j.pre = l₁ ++ p :: l₂ → till ≤ s.beat →
       (∀ q ∈ l₁, ∀ t, q.phase = .saving t ∨ q.phase = .restoring t → s.beat < t) →
       let rooms := p.rooms.filter (fun q => !s.glb.grid.lost.contains q)
       (p.phase = .saving till → p.by_ ≠ 64 → p.by_ ≠ m.toNat →
         ((Config.freeWord s.free).getLsbD 0 && (Config.freeWord s.free).getLsbD 1) = false → ∃ (u : State) (k : Job),
         (∀ o, s.job p.by_ = some o → exec (.switchComplete m) s = .next (if u.allOut p.by_ o then u.claimRooms p.by_ else u)) ∧
         (s.job p.by_ = none → exec (.switchComplete m) s = .next (u.beginReturn m.toNat k m.toNat p.by_ rooms)) ∧
         (∀ q, u.room q = if q ∈ rooms then { s.room q with state := .idle } else s.room q) ∧
         u.job m.toNat = some k ∧
         k.pre = j.pre.map (fun q => if q.by_ = p.by_ then { q with phase := .out } else q) ∧
         (∀ q ∈ rooms, ∃ v, tget k.saved q = some v ∧ v.store = (s.room q).store ∧
             v.acc0 = (s.room q).acc0 ∧ v.acc1 = (s.room q).acc1 ∧ v.lines = (s.room q).lines) ∧
         (∀ k, k ≠ m.toNat → u.job k = s.job k) ∧
         u = { s with free := s.free + 1, rooms := u.rooms, porch := u.porch, ras := u.ras, plan := { s.plan with jobs := u.plan.jobs } }) ∧
       (p.phase = .restoring till → p.by_ ≠ 64 → Gives (.switchComplete m) s (fun t =>
         (∃ k, t.job m.toNat = some k ∧ k.pre = j.pre.filter (fun q => q.by_ != p.by_)) ∧
         (∀ q ∈ rooms, (t.room q).state = .idle ∧ (t.room q).job = BitVec.ofNat 6 m.toNat) ∧
         (∀ k, k ≠ m.toNat → t.job k = s.job k) ∧ t.plan.insts = s.plan.insts ∧ t.ring = s.ring ∧ t.mem = s.mem ∧
         t.larder = s.larder ∧ t.out = s.out)))) ∧
  (∀ (s : State) (m : JobId) (j : Job), s.job m.toNat = some j → s.working = true → j.onDemand = true →
     (j.holds = true ∨ ∃ v ∈ s.plan.jobs, ∃ q ∈ v.2.pre, q.by_ = m.toNat) → (∀ q ∈ s.plan.insts, q.2.job ≠ m.toNat) →
     (∀ v ∈ s.plan.jobs, ∀ q ∈ v.2.pre, q.by_ = m.toNat → (∀ t, q.phase ≠ .saving t) ∧ ∀ t, q.phase ≠ .restoring t) →
     (∀ v ∈ s.plan.jobs, v.1 = m.toNat → ∀ q ∈ v.2.pre, q.by_ ≠ m.toNat) →
     Gives (.roomsReturn m) s (fun t =>
       t.job m.toNat = some { j with
         holds := false, lives := if j.holds then j.roomList.map (fun q => (q, (s.room q).live)) else j.lives } ∧
       (∀ k, k ≠ m.toNat → (∀ v ∈ s.plan.jobs, v.1 = k → ∀ q ∈ v.2.pre, q.by_ ≠ m.toNat) → t.job k = s.job k) ∧
       t.plan.insts = s.plan.insts ∧ t.ring = s.ring ∧ t.mem = s.mem ∧ t.larder = s.larder ∧ t.out = s.out)) ∧
  (∀ (s : State) (span : W32) (n : Nat) (j : Job) (f : Frame) (g : Fab), s.jobOfSpan span = some (n, j) → s.working = true →
     (s.fab.takeFrame (fun c => c == .freeze span) = some (f, g) → s.holdsSem n = false → Gives (.spanFreeze span) s (fun t =>
       t.job n = some { j with cut := none, pre := j.pre.filter (fun p => p.by_ != 65) ++ [⟨65, .frozen, s.beat, []⟩] } ∧
       (∀ k, k ≠ n → t.job k = s.job k) ∧
       (∃ u : State, u.fab = g ∧ u.plan = t.plan ∧ (u.sendCtrl f.src (.started span (s.startedTop n))).fab = t.fab) ∧
       t = { s with plan := { s.plan with jobs := t.plan.jobs }, fab := t.fab, porch := t.porch, ras := t.ras })) ∧
     (∀ top, s.fab.takeFrame (fun c => c == .cut span top) = some (f, g) → (∃ p ∈ j.pre, p.by_ = 65) →
       exec (.spanFreezeCut span top) s = .next { s with fab := g, plan := { s.plan with
         jobs := tmod s.plan.jobs n (fun j => { j with cut := some top }) } }) ∧
     (s.fab.takeFrame (fun c => c == .thaw span) = some (f, g) → (∀ p ∈ j.pre, p.by_ = 65) → Gives (.spanThaw span) s (fun t =>
       t.job n = some { j with pre := [], cut := none } ∧ (∀ k, k ≠ n → t.job k = s.job k) ∧
       t = { s with fab := g, plan := { s.plan with jobs := t.plan.jobs } })))

/-- ADMISSION takes up the next QUEUED instance, with the smallest bucket of each dimension that holds its value, with G (log
entry 130) and the occupancy of its Suite as they stand, before any admission under way, or plans a further chunk of the one
under way; ADMISSION_COMPLETE, once every chunk is planned, gives the instance its timetable from the next beat on (less what
suspensions lasted) and makes it WAITING, or ends it with ADM_SHAPE_OVER, or with ROOM_LOST where its Suite lost a Room;
ENTRY_RESERVATION makes the first WAITING instance RUNNING once its entries and its Rooms are free, and waits before. Rules:
R93, R94, R113, R115, R117, R120. -/
def Obligations.Admission : Prop :=
  ∀ (s : State), s.working = true →
    (∀ n i g, s.nextQueued = some (n, i) → s.graph i.graph = some g →
      exec .admission s = .next { s with plan := { s.plan with
        admits := ⟨n, 0, s.beat, s.plan.guard.toNat, s.placedOf i.job, 0⟩ :: s.plan.admits,
        insts := tmod s.plan.insts n (fun i' => { i' with
          once := s.glb.vcomb,
          b := (List.range g.dims.length).map (fun d => (bucketOf (g.dims.getD d []) (i.v.getD d 0)).getD 0) }) } }) ∧
    (∀ a rest, s.plan.admits = a :: rest → s.nextQueued = none →
      exec .admission s = .next { s with plan := { s.plan with admits := { a with done := a.done + 1 } :: rest } }) ∧
    (∀ a rest i j g, s.plan.admits = a :: rest → s.inst a.inst = some i → s.job i.job = some j → s.graph i.graph = some g →
      (g.refused i.v = none → 1024 * a.done < g.tasks.length → exec .admissionComplete s = .next s) ∧
      (g.refused i.v = none → g.tasks.length ≤ 1024 * a.done → s.jobLost j = false →
        let b0 := s.beat + 1 - a.paused
        let w : Inst := { i with state := .waiting, b0 := b0, guard := a.guard,
                                 tasks := timetable a.guard a.occ i g (s.suiteSize j).1 (s.suiteSize j).2 b0 }
        exec .admissionComplete s = .next { s with plan := { s.plan with
          admits := resumeAdmits (s.beat - a.began) rest, insts := tset s.plan.insts a.inst { w with k := w.need g },
          varies := satAdd s.plan.varies (g.tasks.filter Task.varies).length } }) ∧
      (g.refused i.v = none → g.tasks.length ≤ 1024 * a.done → s.jobLost j = true → Gives .admissionComplete s (fun t =>
        t.inst a.inst = none ∧ (∀ r id o, i.who = .packet r id → r < 2 ^ 20 → s.findOp r id = some o →
          t.statusOf r id = some Code.roomLost ∧ t.plan.refsDue = s.plan.refsDue ++ [(r, id, i.handles)] ∧
          t = { s with ring := t.ring, plan := t.plan }))) ∧
      (∀ d, g.refused i.v = some d → Gives .admissionComplete s (fun t => t.inst a.inst = none ∧
        (s.plan.refValid = false → t.plan.refValid = true ∧ t.plan.refJob = BitVec.ofNat 6 i.job ∧
          t.plan.refDim = BitVec.ofNat 3 d ∧ t.plan.refPend = BitVec.ofNat 32 (i.v.getD d 0)) ∧
        (∀ r id o, i.who = .packet r id → r < 2 ^ 20 → s.findOp r id = some o →
          t.statusOf r id = some Code.admShapeOver ∧ t.plan.refsDue = s.plan.refsDue ++ [(r, id, i.handles)] ∧
          t = { s with ring := t.ring, plan := t.plan })))) ∧
    (∀ n i, firstInst (s.inOrder .waiting) = some (n, i) →
      let rooms := (s.job i.job).any (fun j => !j.onDemand || j.holds)
      (i.k ≤ s.plan.freeEntries → s.stays i = false → rooms = true → exec .entryReservation s = .next { s with plan := { s.plan with
        insts := tmod s.plan.insts n (fun i' => { i' with
          state := .running, b0 := i'.b0 + (s.beat + 1 - i.b0),
          tasks := i'.tasks.map (fun r => { r with s := r.s + (s.beat + 1 - i.b0), e := r.e + (s.beat + 1 - i.b0) }) }) } }) ∧
      (s.plan.freeEntries < i.k ∨ s.stays i = true ∨ rooms = false → exec .entryReservation s = .next s))

/-- PREFETCH_START: a planned task with far operands begins to fetch them when its window has opened; TASK_START: a task
starts exactly at its start beat, in every Room of its footprint, once its operands are there, its predecessors are over, its
Rooms are IDLE and its semaphore is free. `c` is the task with its instance, job and graph. Rules: R117, R121, R127, R142. -/
def Obligations.TasksStart : Prop :=
  ∀ (s : State) (n k : Nat) (c : TaskCtx), s.taskCtx n k = some c → s.working = true → c.i.state = .running → c.r.c ≠ 0 →
    (c.r.state = .planned → c.t.far = true → c.i.opens c.r ≤ s.beat → (c.j.frozen = true → c.withinCut = true) →
      (c.j.onDemand = true → c.j.holds = true) → Gives (.prefetchStart n k) s (fun t =>
        (∃ r, t.hasRun n k r ∧ r.state = .prefetch ∧
          r.fetched = c.r.fetched ++ (s.positions c).map (fun q => (q.1, s.fetchFar c q.1))) ∧
        t = { s with plan := { s.plan with insts := t.plan.insts }, rooms := t.rooms, mem := { s.mem with ports := t.mem.ports } })) ∧
    (∀ arrived : Bool, arrived = true → c.r.state = (if c.t.far then .prefetch else .planned) → c.r.s = s.beat →
      c.mayStart = true → c.predsOver = true → (∀ q ∈ s.positions c, (s.room q.2).state = .idle) →
      (s.semCheck c = .go → exec (.taskStart n k arrived) s = .next (s.beginTask c) ∧
        (c.t.halo = false → c.t.op ≠ opCollective → c.r.faults = [] → c.t.tiled = false →
          (∃ r, (s.beginTask c).hasRun n k r ∧ r.state = .running) ∧
          (∀ q ∈ s.positions c, ((s.beginTask c).room q.2).state = .run ∧
            ((s.beginTask c).room q.2).job = BitVec.ofNat 6 c.i.job ∧
            ((s.beginTask c).room q.2).index = BitVec.ofNat 16 k ∧ ((s.beginTask c).room q.2).cycle = 0) ∧
          (c.t.semAcq = true → tget s.plan.sems c.t.sem = none →
            tget (s.beginTask c).plan.sems c.t.sem = some ⟨n, k, s.now⟩) ∧
          s.beginTask c = { s with plan := (s.beginTask c).plan, rooms := (s.beginTask c).rooms })) ∧
      (s.semCheck c = .wait → exec (.taskStart n k arrived) s = .next s))

/-- TASK_BODY_END: at the end of its body a task without faults begins write-back, and one with faults is discarded; another
task that charges the same budget in the same cycle and has the lower Room goes first. TASK_COMMIT: at its end beat, once its
writes are accepted, it commits: its results reach their places and its Rooms are IDLE. A task that occupies no beat commits
when its predecessors are over. Rules: R114, R121, R147, R167. -/
def Obligations.TasksEnd : Prop :=
  ∀ (s : State) (n k : Nat) (c : TaskCtx), s.taskCtx n k = some c → s.working = true →
    (∀ d, c.r.state = .running ∨ c.r.state = .faulted → s.bodyBeat c ≤ s.beat → s.claimed c = true →
      (s.chargesFirst c = true → exec (.taskBodyEnd n k) s = .next s) ∧ (s.chargesFirst c = false →
      let ps := s.bodyRun c
      let u := s.endBody c ps
      u.taskCtx n k = some d →
      (d.r.faults = [] → u.commitFaults d = [] → u.badRelease d = false →
        exec (.taskBodyEnd n k) s = .next (u.passCheck d ps) ∧
        ∀ r, (u.passCheck d ps).hasRun n k r → r.state = .writeback ∧
          r.stage = ps.flatMap ((if u.charged d then
            u.modInst d.n (fun i => { i with declass := i.declass - u.chargeBytes d }) else u).writeBack d)) ∧
      (d.r.faults ≠ [] → exec (.taskBodyEnd n k) s = .next (u.discardTask n k) ∧
        ∀ r, (u.discardTask n k).hasRun n k r → r.state = .discarded ∧ r.stage = []))) ∧
    (c.i.state = .running ∨ c.i.state = .ending → c.r.e ≤ s.beat →
      (c.r.c = 0 → c.r.state = .planned → c.predsOver = true → ∀ b, exec (.taskCommit n k b) s = .next (s.closeTask c .committed)) ∧
      (∀ near, c.r.c ≠ 0 → c.r.state = .writeback → s.nearArrived c = some near → ∃ u : State,
        exec (.taskCommit n k true) s = .next (u.closeTask c .committed) ∧
        u.mem = ((c.r.stage ++ near).foldl (fun t w => t.applyBack c.i.job (s.isSealed c) w) s).mem ∧
        (∀ q ∈ s.positions c, (u.room q.2).state = .idle) ∧
        (c.t.semRel = true → tget u.plan.sems c.t.sem = none) ∧ u.larder = s.larder ∧ u.out = s.out ∧ u.fab = s.fab) ∧
      (c.r.c ≠ 0 → c.r.state = .writeback → exec (.taskCommit n k false) s = .next s))

/-- ROOM_FAULT, FAB_LATE: a position of a running task takes its first fault of an attempt: the task is faulted, the Room
stops in FAULT with the fault record. Parity, failed issue checks, poisoned inputs and missing words of other devices enter
the recovery ladder; an access beyond a resource does not and is logged. Rules: R95, R153, R166, R168, R171, R463. -/
def Obligations.TasksFault : Prop :=
  ∀ (s : State) (n k p room : Nat) (c : TaskCtx) (rclk : W32), s.taskCtx n k = some c → s.working = true →
    c.r.state = .running ∨ c.r.state = .faulted → p < c.rooms → s.roomOf c p = some room → (∀ f ∈ c.r.faults, f.pos ≠ p) →
    let at_ (code : W32) (phase opnd clk : Nat) : TaskFault :=
      { pos := p, rec_ := c.record p code phase opnd clk noIdx 0, ladder := true }
    exec (.roomFault n k p (.parity rclk)) s =
      .next (s.noteFault c (at_ Code.roomParity (s.phaseAt c rclk.toNat) 0 rclk.toNat)) ∧
    exec (.roomFault n k p (.issue rclk)) s =
      .next (s.noteFault c (at_ Code.roomIssue (s.phaseAt c rclk.toNat) 0 rclk.toNat)) ∧
    (∀ b, c.r.bad.find? (fun b => b.1 = p) = some b →
      exec (.roomFault n k p .poison) s = .next (s.noteFault c (s.poisonFault c p b))) ∧
    (∀ q f, (s.bodyRun c).find? (fun q => q.pos = p) = some q → q.fault = some f → f.ladder = false →
      exec (.roomFault n k p .resource) s = .next (s.noteFault c f)) ∧
    (∀ d ∈ s.members c.j c.t, c.t.op = opCollective → d ≠ s.fab.addr → s.contribution c [] p d = none →
      exec (.fabLate n k p rclk) s = .next (s.noteFault c (at_ Code.fabLate (if c.t.halo then 1 else 2) oHalo rclk.toNat))) ∧
    (∀ sec q, sec < 4 → c.t.op ≠ opCollective → c.t.halo = true → c.beside p (sideOf sec) = some q → s.roomOf c q = none →
      s.haloFrames c p sec (c.t.sectionBytes sec) = none →
      exec (.fabLate n k p rclk) s = .next (s.noteFault c (at_ Code.fabLate 1 oHalo rclk.toNat))) ∧
    (∀ f : TaskFault, f.pos = p →
      (s.noteFault c f).hasRun n k { c.r with state := .faulted, faults := c.r.faults ++ [f],
                                              fbeat := if c.r.faults = [] then s.beat else c.r.fbeat } ∧
      ((s.noteFault c f).room room).state = .fault ∧ ((s.noteFault c f).room room).frec = f.rec_.bytes ∧
      ((s.noteFault c f).room room).fault = f.rec_.status ∧ (∀ q, q ≠ room → (s.noteFault c f).room q = s.room q) ∧
      (f.ladder = true → s.noteFault c f = { s with
        rooms := (s.noteFault c f).rooms, plan := { s.plan with insts := (s.noteFault c f).plan.insts } }) ∧
      (f.ladder = false → (s.noteFault c f).ras.head = s.ras.head + 1))

/-- LADDER_STEP: an overflow past its commit check ends the task with its status; the first parity error or failed issue
check of a Room sends the task back as attempt 2, after L + G beats; a step that another goes before waits. SEM_HOLD_LIMIT
logs the fault, frees the semaphore and faults the holder. ATTIC_PARITY: the repeated read corrects the instance that reads
the slice, a second error ends its task and gives the row for repair. RATE_RETIREMENT of an Attic slice at the limit logs its
row for repair. Rules: R128, R463, R465, R466, R472, R474. -/
def Obligations.Recoveries : Prop :=
  (∀ (s : State) (n k room : Nat) (c : TaskCtx) (f : TaskFault), s.taskCtx n k = some c → s.working = true →
    c.r.state = .discarded → c.r.fbeat < s.beat → s.ladderFault c = some f →
    (f.ladder = false → exec (.ladderStep n k) s = .next (s.failTask c f.rec_.status)) ∧
    (f.ladder = true → s.roomOf c f.pos = some room → s.ladderBehind c room = true → exec (.ladderStep n k) s = .next s) ∧
    (f.ladder = true → s.roomOf c f.pos = some room → s.ladderBehind c room = false → c.i.state = .running →
      f.rec_.status ≠ Code.memUe → f.rec_.status ≠ Code.fabLate → c.r.attempt ≤ 1 → room ∉ c.r.once →
      Gives (.ladderStep n k) s (fun t =>
        (∀ r, t.hasRun n k r → r.attempt = 2 ∧ r.state = .planned ∧ room ∈ r.once ∧
          r.s = s.beat + c.r.l + s.plan.guard.toNat ∧ r.e = r.s + c.r.d ∧ r.faults = []) ∧
        t.ras.head = s.ras.head + 1 ∧ t.mem = s.mem ∧ t.larder = s.larder ∧ t.ring = s.ring ∧ t.out = s.out))) ∧
  (∀ (s : State) (n : BitVec 8) (h : SemHold), tget s.plan.sems n.toNat = some h → s.working = true →
    let u : State := { s with plan := { s.plan with sems := tdel s.plan.sems n.toNat } }
    (s.plan.semLimit.toNat * 150 < (s.now - h.at_).toNat →
      (∀ c, u.taskCtx h.inst h.task = some c → exec (.semHoldLimit n) s =
        .next ((u.log (c.entry Code.semHoldLimit 0 0 0 0 0 0 [])).instFault h.inst h.task Code.semHoldLimit)) ∧
      (u.taskCtx h.inst h.task = none → exec (.semHoldLimit n) s = .next (u.instFault h.inst h.task Code.semHoldLimit))) ∧
    ((s.now - h.at_).toNat ≤ s.plan.semLimit.toNat * 150 → exec (.semHoldLimit n) s = .next s)) ∧
  (∀ (s : State) (k : BitVec 3) (n : Nat),
    (∀ again, s.atticReader n k.toNat = none → exec (.atticParity k n again) s = .next s) ∧
    (∀ c, s.atticReader n k.toNat = some c → s.working = true →
      Gives (.atticParity k n false) s (fun t =>
        (∀ i, s.inst n = some i → t.inst n = some { i with
          recovered := i.recovered.orElse (fun _ => some Code.rcvRetried), heldRec := true }) ∧
        t.ras.head = s.ras.head + 2 ∧ t.ras.cntAttic = tset s.ras.cntAttic k.toNat (tgetD s.ras.cntAttic k.toNat 0 + 1) ∧
        t = { s with plan := { s.plan with insts := t.plan.insts }, ras := t.ras, porch := t.porch }) ∧
      ∃ u : State, exec (.atticParity k n true) s = .next
          (if c.r.state == .prefetch then (u.instFault c.n c.k Code.sramParity).closeTask c .ended else u.failTask c Code.sramParity) ∧
        u.ras.rows = s.ras.rows ++ [(5, k.toNat)] ∧ u.ras.head = s.ras.head + 2 ∧ u = { s with ras := u.ras, porch := u.porch })) ∧
  (∀ (s : State) (k : BitVec 3), s.working = true → s.ras.rateLimit ≠ 0 →
    s.ras.rateLimit.toNat ≤ tgetD s.ras.cntAttic k.toNat 0 → Gives (.rateRetirement (.attic k)) s (fun t =>
      tget t.ras.cntAttic k.toNat = none ∧ t.ras.rows = s.ras.rows ++ [(5, k.toNat)] ∧ t.ras.head = s.ras.head + 1 ∧
      t = { s with ras := t.ras, porch := t.porch }))

/-- TILE_CLAIM of a position that still claims: the next q joins its round, the last q is answered from the stored value
(before the first, with q = 0xFFFF_FFFF, by a free value, log entry 132), any other faults the task. CLAIM_ROUND_SERVE
answers the claims of all positions that still claim in ascending position from the job's counter. TILE_CLAIM_RESEND repeats
the stored answer; a free value says whether the Room stages the tile again (log entry 28), which is counted where its bit is
set. Rules: R123, R124, R125. -/
def Obligations.TileClaims : Prop :=
  ∀ (s : State) (n k p : Nat) (c : TaskCtx) (cl : Claims), s.taskCtx n k = some c → s.claimsOf n k = some cl →
    s.working = true →
    (c.claims p = true → tget cl.arrived p = none → ∀ q : W32,
      (q = (tgetD cl.served p (0xFFFFFFFF, 0)).1 + 1 → exec (.tileClaim n k p q) s =
        .next (s.modClaims n k (fun x => { x with arrived := tset x.arrived p q }))) ∧
      (∀ v, tget cl.served p = some (q, v) → exec (.tileClaim n k p q) s =
        .next (s.modClaims n k (fun x => { x with twice := x.twice ++ [(p, v)] }))) ∧
      (tget cl.served p = none → q = 0xFFFFFFFF → exec (.tileClaim n k p q) s =
        .next ({ s with free := s.free + 1 }.modClaims n k (fun x => { x with
          twice := x.twice ++ [(p, (Config.freeWord s.free).setWidth 32)] }))) ∧
      (q ≠ (tgetD cl.served p (0xFFFFFFFF, 0)).1 + 1 → q ≠ (tgetD cl.served p (0xFFFFFFFF, 0)).1 →
        exec (.tileClaim n k p q) s = .next (s.claimFault c p))) ∧
    (cl.arrived ≠ [] → (∀ q < c.rooms, (∃ v, tget cl.arrived q = some v) ∨ c.claims q = false) →
      let r := serveRound (tgetD c.j.ctrs c.t.counter 0) cl.arrived
      exec (.claimRoundServe n k) s = .next
        ((s.modJob c.i.job (fun j => { j with ctrs := tset j.ctrs c.t.counter r.2 })).modClaims n k (Claims.serve c.t r.1))) ∧
    (∀ q v, c.claims p = true → tget cl.arrived p = none → tget cl.served p = some (q, v) →
      let u : State := { s.modClaims n k (fun x => { x with twice := x.twice ++ [(p, v)] }) with free := s.free + 1 }
      exec (.tileClaimResend n k p) s = .next
        (if (Config.freeWord s.free).getLsbD 0 && (cl.stage (c.t.trips roleTile) (c.t.tileIndex q.toNat v)).2
          then { u with plan := { u.plan with dupTile := satAdd u.plan.dupTile 1 } } else u))

/-- SEQ_JOIN makes a FREE entry JOINING with the next join order and a reference on its enc buffer; SEQ_LEAVE marks an entry,
and makes an ACTIVE or PAUSED one LEAVING, while its packet goes on (outside a step its unfinished bytes are then written);
STEP_POLICY notes a policy for the next build, or with ENABLE clear disables the job's, once no condition of STEP_GRAPH or
STEP_BUSY holds. STEP_BUILD builds a step of the first job that is ready: the sequences that leave, grow and join make its
batch, and with a batch the work list is written and the decoder graph submitted. STEP_COLLECT collects a token per row of a
step that ended with status 0, or reports any other status to every row and disables the policy. Rules: R246, R248, R249,
R252, R256, R258, R259. -/
def Obligations.Sequences : Prop :=
  (∀ (s : State) (r : RingId) (o : Op) (j : Job),
     let b := o.bytes
     let n := rd b 16 2
     (∀ p t, Offers s r 0x40 o → n < 16384 → s.seq n = none → s.job (rd b 18 1) = some j → j.closing = none →
       j.nextPolicy = some p → rd b 19 1 ≤ 4 → rd b 48 1 ≤ 16 → rd b 48 1 + 1 ≤ rd b 40 4 → rd b 40 4 ≤ 40 * p.tpp →
       s.activeRing (rd b 20 4) .metadata = true → s.takeRef 0 (rd64 b 24) = (t, Code.ok) →
       exec (.seqJoin r) s = .next
         ((({ t with seqs := { t.seqs with
               counter := t.seqs.counter + 1,
               ents := tset t.seqs.ents n { joinEntry b t.seqs.counter with enc := ((t.bufOf (rd64 b 24)).getD (0, 0)).1 } }
             }).bindRing (rd b 20 4) true).finish r.toNat o.id Code.ok)) ∧
     (∀ e, Offers s r 0x41 o → s.seq n = some e → e.job = rd b 18 1 → Gives (.seqLeave r) s (fun t =>
       (∃ x, t.seq n = some x ∧ x.leave = true ∧ x.leaver = e.leaver ++ [(r.toNat, o.id)] ∧
         (e.state = .active ∨ e.state = .paused → x.state = .leaving) ∧ (e.state = .joining → x.state = .joining)) ∧
       (∀ k, k ≠ n → t.seq k = s.seq k) ∧
       (s.inStep n e = true ∨ e.pend = [] → t = { s.beginOp r.toNat o.id with seqs := t.seqs }) ∧
       (s.inStep n e = false → ∀ x, t.seq n = some x → x.pend = []) ∧ t = { s with ring := t.ring, seqs := t.seqs })) ∧
     (Offers s r 0x42 o → policyParamOk b = true →
       s.policyGraphOk (rd b 18 1) (policyOf b) = true →
       (rd b 23 1 = 1 → exec (.stepPolicy r) s = .next
         ((s.modJob (rd b 18 1) (fun j => { j with newPolicy := some (policyOf b) })).finish r.toNat o.id Code.ok)) ∧
       (rd b 23 1 = 0 → (∀ q ∈ s.seqs.ents, q.2.job ≠ rd b 18 1) → exec (.stepPolicy r) s = .next
         ((s.modJob (rd b 18 1) (fun j => { j with policy := none, newPolicy := none })).finish r.toNat o.id Code.ok)))) ∧
  ((∀ (s : State) (n : Nat) (j : Job) (p : Policy), s.serving = true → s.nextStepJob = some (n, j) → j.nextPolicy = some p →
     let c := (s.modJob n (fun j => { j with policy := some p, newPolicy := none })).stepPhases n p
     let t := { c.st with seqs := { c.st.seqs with
       stepJob := BitVec.ofNat 6 n, stepBatch := BitVec.ofNat 13 c.rows.length, stepDeferred := satNat 13 c.deferred } }
     (c.rows = [] → exec .stepBuild s = .next t) ∧
     (∀ u, c.rows ≠ [] →
       let v := t.hbmWrite (t.policyBuf p p.wlSlot) (c.rows.flatMap t.workRow)
       let w := v.modJob n (fun j =>
         { j with step := some { rows := c.rows, resAddr := v.policyBuf p p.resSlot, done := none } })
       (∀ q ∈ w.runChecks (w.jobOpen n) n p.graph p.ndims p.nslots p.handles, q.1 = true) → w.takeRefs 27 p.handles = (u, true) →
       exec .stepBuild s = .next (u.newInst (.step n) n p.graph (lset p.v p.bdim c.rows.length) p.handles 0))) ∧
   (∀ (s : State) (m : JobId) (j : Job) (x : StepRun) (status : W32) (held : Bool), s.job m.toNat = some j →
     j.step = some x → x.done = some (status, held) → s.working = true →
     (status = 0 → exec (.stepCollect m) s = .next
       (((List.range x.rows.length).zip x.rows).foldl (fun (s : State) q =>
         s.collectToken j.dict q.2 (rd32 (s.hbmRead (x.resAddr + 4 * q.1) 4) 0) held)
         (s.modJob m.toNat (fun j => { j with step := none })))) ∧
     (status ≠ 0 → Gives (.stepCollect m) s (fun t =>
       t.job m.toNat = some { j with step := none, policy := none, newPolicy := none } ∧ t.seqs.stepErr = status ∧
       (∀ k, (t.seq k).map (fun e => { e with pend := [] }) = (s.seq k).map (fun e => { e with pend := [] })) ∧
       t = { s with plan := { s.plan with jobs := t.plan.jobs }, seqs := t.seqs, ring := t.ring }))))

/-- STREAM_OPEN opens a SYNCING stream as its packet says, with a reference on its mesh. STREAM_DATA of no bytes counts; the
NAL units of another are taken in order: a header that fails refuses the stream (VID_NO_BUFFER does not), and a picture is
taken, which in a RUNNING stream whose headers did not change means appended. STREAM_CLOSE begins to close the stream, and
STREAM_CLOSE_DONE removes it with its buffers, partition and binding once nothing of it is left. What a NAL unit says is free
(log entry 33). Rules: R298, R299, R300, R301, R302, R306. -/
def Obligations.VideoStreams : Prop :=
  ∀ (s u : State) (r : RingId) (o : Op) (m : Option Mesh),
    let b := o.bytes
    let n := rd b 16 2
    (Offers s r 0x50 o → n < 1024 → s.stream n = none → (∀ v ∈ (valuesAt b 64).drop (rd b 36 1), v = 0) →
      s.streamParamOk b = true → s.streamGraphOk b = true →
      (rd64 b 48 = 0 ∧ u = s ∧ m = none ∨
        rd64 b 48 ≠ 0 ∧ s.takeRef 0 (rd64 b 48) = (u, Code.ok) ∧ ∃ d, s.meshBytes (rd64 b 48) = some d ∧ m = some (parseMesh d)) →
      exec (.streamOpen r) s = .next (((({ u with video := { u.video with
        streams := tset u.video.streams n (newStream b m) } }).bindRing (rd b 20 4) true).powerUp []).finish r.toNat o.id Code.ok)) ∧
    (∀ t, Offers s r 0x51 o → s.firstOfStream n o.id = true → n < 1024 → rd b 18 1 ≤ 1 → rd b 20 4 ≤ 16777216 →
      s.stream n = some t → t.state ≠ .closing → t.state ≠ .refused →
      (rd b 20 4 = 0 → exec (.streamData r) s = .next
        ((s.modStream n (fun t => { t with empty := satAdd t.empty 1 })).finish r.toNat o.id Code.ok)) ∧
      (∀ d a bad, rd b 20 4 ≠ 0 → rd b 18 1 = 0 → o.payload = .arrived d →
        let s0 := s.modStream n (fun t => { t with pos := t.pos + BitVec.ofNat 64 d.length })
        let pts := if (rd8 b 19).getLsbD 0 then rd64 b 32 else 0
        let v := u.modStream n (fun t => { t with ctx := a.ctx })
        s0.takeUnits n t.h265 ⟨t.ctx, none, none, none, [], false⟩ (nalUnits d) = (u, a, bad) →
        (∀ code off, bad = some (code, off) → code ≠ Code.vidNoBuffer → exec (.streamData r) s = .next
          ((v.refuse n code (t.pos + BitVec.ofNat 64 off) pts).finish r.toNat o.id code)) ∧
        (∀ off, bad = some (Code.vidNoBuffer, off) → exec (.streamData r) s = .next (v.finish r.toNat o.id Code.vidNoBuffer)) ∧
        (bad = none → a.pic = none → exec (.streamData r) s = .next (v.finish r.toNat o.id Code.ok)) ∧
        (∀ i, bad = none → a.pic = some i → exec (.streamData r) s = .next
          ((v.takePicture n o a t.pos pts i).finish r.toNat o.id Code.ok)) ∧
        (∀ i par, bad = none → u = s0 → a.pic = some i → t.sps = some par → t.state = .running →
          (i.rasl && t.raslSkip) = false → Succeeds (.streamData r) s r o (fun v =>
            (∃ q : Pic, q.units = a.units ∧ q.pos = t.pos ∧ q.order = o.id ∧ q.num = t.nextNum ∧ q.phase = .ready ∧ q.par = par ∧
              q.newSeq = t.newSeq ∧ q.faults = 0 ∧ q.shown = t.shows par i a.recovery ∧ q.pts = pts ∧
              v.stream n = some { t with
                pos := t.pos + BitVec.ofNat 64 d.length, ctx := a.ctx, outputting := q.shown,
                raslSkip := if i.irap then i.bla else t.raslSkip,
                nextNum := t.nextNum + 1, newSeq := false, pics := t.pics ++ [q] }) ∧
            (∀ k, k ≠ n → v.stream k = s.stream k) ∧
            v = { s with video := v.video, ring := v.ring })))) ∧
    (∀ t, Offers s r 0x52 o → n < 1024 → s.firstOfStream n o.id = true → s.stream n = some t → t.state ≠ .closing →
      (∀ v ∈ s.video.views, v.2.stream ≠ n) →
      exec (.streamClose r) s = .next (((s.beginOp r.toNat o.id).modStream n (fun t =>
        { t with state := .closing, closer := some (r.toNat, o.id) })).settleStream n)) ∧
    (∀ (k : StreamId) t g id p, s.stream k.toNat = some t → t.closer = some (g, id) → s.working = true → t.pics = [] →
      t.held = [] → t.frames = [] → t.refusal = none → s.streamOwes k.toNat t = false →
      tget s.track.pend k.toNat = none → g < 2 ^ 20 → s.findOp g id = some p →
      Gives (.streamCloseDone k) s (fun v => v.stream k.toNat = none ∧ v.statusOf g id = some Code.ok ∧
        (∀ q, q ≠ k.toNat → v.stream q = s.stream q ∧ tget v.track.parts q = tget s.track.parts q) ∧
        tget v.track.parts k.toNat = none ∧ v.plan = s.plan ∧ v.rooms = s.rooms ∧ v.out = s.out ∧
        v.larder = (s.dropRefs streamPort (t.oldRefs.flatMap (·.2) ++ t.refs ++ (t.entries.filter (·.alias_)).map (·.buf) ++
          [t.lastPyr, t.meshHandle])).larder))

/-- PICTURE_ASSIGN puts the first ready picture on a pipe. At a block row boundary (BLOCK_ROW_BOUNDARY) a pipe saves its
picture for one of a higher class when no pipe is idle; saved (PICTURE_CONTEXT_SAVED), it gives the pipe up, and takes it
again (PICTURE_RESUME) when no higher class waits. A picture within its budget is reconstructed (PICTURE_RECONSTRUCTED), one
beyond it repeats the picture before (PICTURE_ABANDON). Rules: R307, R308, R310, R311, R449. -/
def Obligations.DecodePipes : Prop :=
  ∀ (s : State) (k : PipeId) (q w : Nat × Stream × Pic), s.working = true →
    let p := k.toNat
    (∀ x, s.readyPic = some q → s.pipeFor q.2.1.prio = some x → exec .pictureAssign s = .next (s.assignPic x q)) ∧
    (s.running p = some q → s.readyPic = some w → w.2.1.prio < q.2.1.prio → findNat s.pipeIdle 18 0 = none →
      exec (.blockRowBoundary k) s = .next (s.modPic q.1 (fun x => { x with phase := .saving p }))) ∧
    ((s.onPipe (fun f => f = .saving p)).head? = some q →
      let t := s.modPic q.1 (fun x => { x with phase := .suspended p })
      (t.readyPic = none → exec (.pictureContextSaved k) s = .next t) ∧
      (t.readyPic = some w → w.2.1.prio < q.2.1.prio → exec (.pictureContextSaved k) s = .next (t.assignPic p w))) ∧
    (highestClass (s.suspendedOn p) = some q → s.pipeFree p = true → (∀ w, s.readyPic = some w → q.2.1.prio ≤ w.2.1.prio) →
      exec (.pictureResume k) s = .next (s.modPic q.1 (fun x => { x with phase := .pipe p }))) ∧
    (s.running p = some q → q.2.2.cycles (s.decoded q.2.1 q.2.2) ≤ q.2.2.budget →
      exec (.pictureReconstructed k) s = .next (s.reconstruct p q.1 q.2.1 q.2.2 (s.decoded q.2.1 q.2.2))) ∧
    (s.running p = some q → q.2.2.budget < q.2.2.cycles (s.decoded q.2.1 q.2.2) →
      exec (.pictureAbandon k) s = .next (s.abandon p q.1 q.2.1 q.2.2 true [])) ∧
    (∀ t, s.stream q.1 = some t →
      (s.assignPic p q).stream q.1 = some { t with
        mean := if q.2.2.newSeq then BitVec.ofNat 32 (ceilDiv (q.2.2.par.wc * q.2.2.par.hc) 2) else q.2.1.mean
        pics := lmod t.pics 0 (fun x => { x with
          phase := .pipe p, motion := s.video.conceal
          budget := (if q.2.1.budgetX = 0 then 8 else q.2.1.budgetX) *
            (if q.2.2.newSeq then BitVec.ofNat 32 (ceilDiv (q.2.2.par.wc * q.2.2.par.hc) 2) else q.2.1.mean).toNat }) } ∧
      (∀ j, j ≠ q.1 → (s.assignPic p q).stream j = s.stream j))

/-- PIPE_FAULT sends a picture back on its pipe, then on the lowest spare, and then gives it up; an encode pipe's AU
likewise. PER_FRAME_GRAPH_SUBMIT makes an instance of the stream's class with the frame's pyramid bound and a fresh DECLASS
budget, or ends the frame with the code of the check that fails. Rules: R309, R314, R315, R463, R471. -/
def Obligations.PipeFaultsAndFrames : Prop :=
  (∀ (s : State) (k : PipeId) (n : Nat) (t : Stream) (x : Pic), s.working = true →
    let p := k.toNat
    let e := pipeEntry false p t.job n
    s.running p = some (n, t, x) →
    (x.faults = 0 → exec (.pipeFault false k) s = .next
      ((s.log (e 1 1 Code.pipeFault)).modPic n (fun x => { x with faults := x.faults + 1 }))) ∧
    (∀ z, x.faults = 1 → findNat s.video.decSpare.getLsbD 18 0 = some z → Gives (.pipeFault false k) s (fun u =>
      u.video.dec = setBit (clearBit s.video.dec p) z ∧ u.video.decSpare = clearBit s.video.decSpare z ∧
      u.ras.spDec = s.ras.spDec - 1 ∧ u.ras.retired = satAdd s.ras.retired 1 ∧ u.ras.head = s.ras.head + 1 ∧
      u.ring = s.ring ∧ u.mem = s.mem ∧ u.plan = s.plan ∧
      (∀ t y, s.stream n = some t → t.pics.head? = some y → y.phase = .pipe p →
        ∃ v, u.stream n = some v ∧ v.pics.head? = some { y with phase := .pipe z, faults := y.faults + 1 }))) ∧
    (x.faults = 1 → findNat s.video.decSpare.getLsbD 18 0 = none → exec (.pipeFault false k) s = .next
      (((({ s with video := { s.video with dec := clearBit s.video.dec p }
                   ras := { s.ras with retired := satAdd s.ras.retired 1 } }).log (e 2 0 Code.pipeFault)).log
        (e 2 3 Code.rcvNoSpare)).abandon p n t x false [note Code.rcvFailed])) ∧
    (2 ≤ x.faults → exec (.pipeFault false k) s = .next
      (((s.log (e 3 0 Code.pipeFault)).log (e 3 0 Code.rcvFailed)).abandon p n t x false [note Code.rcvFailed]))) ∧
  (∀ (s : State) (k : PipeId) (n : Nat) (v : View), s.working = true → s.encoding k.toNat = some (n, v) →
    let job := ((s.stream v.stream).map (·.job)).getD 0xFF
    let e := pipeEntry true k.toNat job v.stream
    (v.faults = 0 → exec (.pipeFault true k) s = .next ((s.log (e 1 1 Code.pipeFault)).modView n (fun w =>
      { w with faults := w.faults + 1 }))) ∧
    (∀ z u, v.faults = 1 → s.replacePipe true k.toNat = (u, some z) → exec (.pipeFault true k) s = .next
      ((u.log (e 2 2 Code.pipeFault)).modView n (fun w => { w with faults := w.faults + 1 }))) ∧
    (∀ u, v.faults = 1 → s.replacePipe true k.toNat = (u, none) → exec (.pipeFault true k) s = .next
      (((u.log (e 2 0 Code.pipeFault)).log (e 2 3 Code.rcvNoSpare)).skipAu n)) ∧
    (2 ≤ v.faults → exec (.pipeFault true k) s = .next
      (((s.log (e 3 0 Code.pipeFault)).log (e 3 0 Code.rcvFailed)).skipAu n))) ∧
  (∀ (s u : State) (k : StreamId) (t : Stream) (f : FrameSt), s.working = true → s.stream k.toNat = some t →
    s.nextFrame k.toNat t = some f →
    let hs := lset t.handles t.pyrSlot f.pyr
    ((∀ c ∈ s.runChecks (s.jobOpen t.job) t.job t.graph t.ndims t.nslots hs, c.1 = true) → s.takeRefs 27 hs = (u, true) →
      (∃ j, u.job t.job = some j) → Gives (.perFrameGraphSubmit k) s (fun v =>
        (∃ i, tget v.plan.insts u.plan.nextInst = some i ∧ i.state = .queued ∧ i.who = .frame k.toNat f.k.toNat ∧
          i.job = t.job ∧ i.graph = t.graph ∧ i.cls = t.prio ∧ i.v = t.v ∧ i.handles = hs ∧ i.declass = t.declass) ∧
        (∀ j, j ≠ u.plan.nextInst → tget v.plan.insts j = tget u.plan.insts j) ∧
        v.stream k.toNat = (u.stream k.toNat).map (fun t => { t with
          frames := t.frames.map (fun g => if g.k = f.k then { g with phase := .running } else g) }) ∧
        v = { u with plan := v.plan, video := v.video })) ∧
    (∀ c, (s.runChecks (s.jobOpen t.job) t.job t.graph t.ndims t.nslots hs).find? (fun c => !c.1) = some c →
      exec (.perFrameGraphSubmit k) s = .next ((s.dropFramePyr k.toNat f).setFrame k.toNat f.k (.ended c.2 false))))

/-- VIEW_OPEN places a view on the lowest encode pipe with room for it, when the egress policy allows views and the stream is
RUNNING; VIEW_CLOSE begins to close it and VIEW_CLOSE_DONE removes it. VIEW_AU_ENCODE encodes the next frame: its AU is
written to the output ring, or dropped and counted when the ring has no space for it. Rules: R318, R319, R320, R321, R322,
R323, R324, R325. -/
def Obligations.Views : Prop :=
  (∀ (s : State) (r : RingId) (o : Op) (t : Stream) (p : Nat),
    let b := o.bytes
    let n := rd b 16 1
    let load := rd b 20 2 * rd b 22 2 * viewRate (t.sps.bind (·.fps)) (rd b 56 4)
    (Offers s r 0x53 o → rd b 18 2 < 1024 → viewFieldsOk b = true → s.stream (rd b 18 2) = some t → t.state = .running → s.egressOpen = true →
      s.view n = none → s.video.views.length < s.video.maxViews.toNat → s.video.placeView load = some p →
      exec (.viewOpen r) s = .next ((({ s with video := { s.video with
        views := tset s.video.views n (newView b p load), cidx := tdel s.video.cidx n } }).powerUp []).finish
          r.toNat o.id Code.ok)) ∧
    (s.video.placeView load = some p → s.video.enc.getLsbD p = true ∧ p < 5 ∧
      s.video.pipeLoad p + load ≤ 600000000 * 1000 ∧
      ∀ q < p, s.video.enc.getLsbD q = true → 600000000 * 1000 < s.video.pipeLoad q + load) ∧
    (∀ v, Offers s r 0x54 o → s.view n = some v → v.closer = none → exec (.viewClose r) s = .next
      ((s.beginOp r.toNat o.id).modView n (fun v => { v with closing := true, closer := some (r.toNat, o.id) })))) ∧
  (∀ (s : State) (k : ViewId) (v : View),
    let n := k.toNat
    s.view n = some v →
    (∀ g id p, v.closing = true → v.closer = some (g, id) → g < 2 ^ 20 → s.findOp g id = some p →
      Gives (.viewCloseDone k) s (fun t => t.view n = none ∧ t.statusOf g id = some Code.ok ∧
        (∀ q, q ≠ n → t.view q = s.view q) ∧ t.plan = s.plan ∧ t.out = s.out)) ∧
    (∀ f rest c, v.todo = f :: rest → s.viewCrop v f = some c → s.working = true → v.closing = false →
      let y := s.levelZeroAt ((s.bufOf f.pyr).getD (0, 0)).1 f.par.outW f.par.outH
      let e := v.encodePicture
        { luma := y.1.crop c v.width v.height, u := y.2.1.data, v := y.2.2.data, crop := c,
          intra := intraCols (viewBlocks v.width) v.refresh v.count,
          limit := (intraCols (viewBlocks v.width) v.refresh v.count).1, idr := v.count = 0,
          target := bitTarget v.kbps (viewRate f.par.fps v.fps), rows := viewBlocks v.height }
      let out := Config.encodeEnd v.h265 e.enc v.recovery
      let len := (auBytes n v f out.1).length
      s.holdRoom (64 * ceilDiv (32 + out.1.length) 64 + 8) = true → Gives (.viewAuEncode k) s (fun t =>
        (2 ^ v.log2Out - (v.pidx - s.video.cidxOf n).toNat < len →
          t.view n = some { v with todo := rest, qp := e.qp, faults := 0, drops := v.drops + 1 } ∧
          tgetD t.video.dropped n 0 = satAdd (tgetD s.video.dropped n 0) 1) ∧
        (len ≤ 2 ^ v.log2Out - (v.pidx - s.video.cidxOf n).toNat →
          t.view n = some { v with
            todo := rest, qp := e.qp, faults := 0, pidx := v.pidx + BitVec.ofNat 32 len, count := v.count + 1, enc := out.2 } ∧
          t.video.dropped = s.video.dropped) ∧
        (∀ q, q ≠ n → t.view q = s.view q) ∧ t.video.streams = s.video.streams ∧ t.ring = s.ring)))

/-- CAPTURE_DATA parses the records of its region, the first applicable row deciding each; its summary goes to host memory
and the source's format and position are kept. DICT_LOAD puts the dictionary that its checks accept in force for the job, or
takes it away. Rules: R331, R332, R333, R334, R339, R341. -/
def Obligations.Captures : Prop :=
  ∀ (s : State) (r : RingId) (o : Op) (d : List Byte),
    let b := o.bytes
    (Offers s r 0x60 o → s.firstOf 0x60 o.id = true → captureOk b = true → rd b 18 1 = 0 → rd b 20 4 ≠ 0 →
      o.payload = .arrived d → (∀ h, h = rd64 b 32 ∨ h = rd64 b 40 → h = 0 ∨ s.larder.current h = true) →
      let u := s.powerUp [domCapture]
      let p : CapPacket :=
        { source := rd b 16 2, frames := rd b 48 4, gapLimit := rd b 52 3, audio := ((s.bufOf (rd64 b 32)).getD (0, 0)).1,
          side := ((s.bufOf (rd64 b 40)).getD (0, 0)).1, sideLen := ((s.bufOf (rd64 b 40)).getD (0, 0)).2,
          dict := (s.job (rd b 55 1)).bind (·.dict) }
      let c := CapRun.run p d d.length
        { st := u, src := if (rd8 b 19).getLsbD 0 then { fmt := none, next := none } else captSource s p.source, w := 0,
          concealed := 0, good := 0, damaged := 0, empty := 0, foreign := 0, skipped := 0, first := none, used := 0,
          sideFull := false } 0
      (∀ f, c.src.fmt = some f → 2 * f.1 * p.frames ≤ ((s.bufOf (rd64 b 32)).getD (0, 0)).2) →
      exec (.captureData r) s = .next (((c.st.modCapt (fun k => { k with srcs := tset k.srcs p.source c.src })).dataWrite
        (rd b 56 8) (c.summary p.frames)).finish r.toNat o.id (c.status p.frames))) ∧
    (∀ (c : CapRun) (p : CapPacket) (pos : Nat),
      let h := capHead d pos
      (rd d pos 4 ≠ capMagic → (c.step p d pos).2 = nextMagic d d.length (pos + 8) ∧
        (c.step p d pos).1.skipped = c.skipped + (nextMagic d d.length (pos + 8) - pos)) ∧
      (rd d pos 4 = capMagic → h.ok = false ∨ d.length < pos + h.bytes → c.step p d pos = (c.damage p pos dmgRange, pos + 8)) ∧
      (rd d pos 4 = capMagic → h.ok = true → pos + h.bytes ≤ d.length →
        let sum := crc32c (slice d pos 28 ++ slice d (pos + 32) h.plen)
        (sum ≠ h.crc → c.step p d pos = (c.damage p pos dmgCrc, pos + h.bytes)) ∧
        (sum = h.crc → h.source ≠ p.source → c.step p d pos = ({ c with foreign := c.foreign + 1 }, pos + h.bytes)) ∧
        (sum = h.crc → h.source = p.source → h.plen ≠ 0 →
          c.step p d pos = (c.record p pos h (slice d (pos + 32) h.plen), pos + h.bytes)))) ∧
    (Offers s r 0x61 o → s.jobOpen (rd b 16 1) = true → rd b 17 1 = 0 → rd b 24 8 % 8 = 0 →
      let u := s.powerUp [domCapture]
      (rd b 20 4 = 0 → exec (.dictLoad r) s = .next
        ((u.modJob (rd b 16 1) (fun j => { j with dict := none })).finish r.toNat o.id Code.ok)) ∧
      (rd b 20 4 ≠ 0 → o.payload = .arrived d → dictFormat d (rd b 20 4) = true → dictCrc d = true →
        s.dictFits (rd b 16 1) (rd d 8 4) (rd d 16 4) = true → dictEntries d = true → exec (.dictLoad r) s = .next
          ((u.modJob (rd b 16 1) (fun j => { j with dict := some (parseDict d) })).finish r.toNat o.id Code.ok)))

/-- TRACK_POLICY of a stream whose frame is under way waits for the frame's end, else comes into force at once; for a job it
binds the quality ring. TRACKER_UPDATE ends the first frame of a stream: without a policy with its notes alone; with one, a
faulted frame, a frame without an instance or a rejected block coasts, a poisoned block or track entry is logged, and a good
block updates the tracks. Rules: R355, R356, R357, R360, R364. -/
def Obligations.Tracking : Prop :=
  (∀ (s : State) (r : RingId) (o : Op), Offers s r 0x70 o →
    let b := o.bytes
    (∀ t, rd b 16 1 = 0 → s.stream (rd b 18 2) = some t → t.state ≠ .closing → tget s.track.pend (rd b 18 2) = none →
      (trackPolicyOf b).ok = true → s.trackSlotsOk t (trackPolicyOf b) = true →
      ((rd8 b 17).getLsbD 1 = false →
        ∀ q, tget s.track.parts (rd b 18 2) = some q → q.policy.cap = (trackPolicyOf b).cap) →
      let q : TrackPend := { ring := r.toNat, op := o.id, enable := (rd8 b 17).getLsbD 0, reset := (rd8 b 17).getLsbD 1,
                             policy := trackPolicyOf b }
      let u := s.beginOp r.toNat o.id
      (t.busy = true → exec (.trackPolicy r) s = .next
        { u with track := { s.track with pend := tset s.track.pend (rd b 18 2) q } }) ∧
      (t.busy = false → exec (.trackPolicy r) s = .next (u.applyPolicy (rd b 18 2) t.nextFrameNo q))) ∧
    (∀ j, rd b 16 1 = 1 → s.job (rd b 18 1) = some j → j.closing = none → j.qring = 0 →
      s.activeRing (rd b 20 4) .metadata = true → rd b 20 4 ≠ 0 → exec (.trackPolicy r) s = .next
        (((s.bindRing (rd b 20 4) true).modJob (rd b 18 1) (fun j => { j with qring := rd b 20 4 })).finish r.toNat o.id
          Code.ok))) ∧
  (∀ (s : State) (k : StreamId) (t : Stream) (f : FrameSt) (l : List FrameSt) (held : Bool),
    let n := k.toNat
    let h := held || f.late
    s.stream n = some t → t.frames = f :: l → s.working = true → tget s.track.pend n = none →
    (∀ c, f.phase = .ended c held →
      let bad := c != 0 && Code.cls c != 1
      let notes := f.notes ++ (if bad then [note c] else [])
      (tget s.track.parts n = none → exec (.trackerUpdate k) s = .next
        (s.closeFrame n t f h false (notes.map noteRecord) [])) ∧
      (∀ p, tget s.track.parts n = some p →
        let at_ := s.streamBuf t p.policy.assocSlot
        let a := parseAssoc (s.hbmRead at_ 68672)
        let ends (u : State) : State := (u.storeTracks n).writeCands n (f.k + 1)
        let rejected (u : State) : State := ends
          (((u.modTrack (fun x => x.reject n)).coast n).closeFrame n t f h true ((notes ++ [note Code.trkBlock]).map noteRecord) [])
        (bad = true → exec (.trackerUpdate k) s = .next
          (ends ((s.coast n).closeFrame n t f h true (notes.map noteRecord) []))) ∧
        (bad = false → s.blockPoisoned at_ a = true → exec (.trackerUpdate k) s = .next
          (rejected (s.log (blockEntry t.job n at_)))) ∧
        (bad = false → s.blockPoisoned at_ a = false → s.partPoisoned p = true → exec (.trackerUpdate k) s = .next
          (rejected (s.log (blockEntry t.job n (s.trackAddr p 0))))) ∧
        (bad = false → s.blockPoisoned at_ a = false → s.partPoisoned p = false → a.ok f.k = false →
          exec (.trackerUpdate k) s = .next (rejected s)) ∧
        (bad = false → s.blockPoisoned at_ a = false → s.partPoisoned p = false → a.ok f.k = true →
          exec (.trackerUpdate k) s = .next
          (ends ((s.track1 n p f a).1.closeFrame n t f h true (notes.map noteRecord ++ (s.track1 n p f a).2.1)
            (s.track1 n p f a).2.2))))) ∧
    (∀ p, f.phase = .none → held = false → tget s.track.parts n = some p → exec (.trackerUpdate k) s = .next
      ((((s.coast n).closeFrame n t f h true (f.notes.map noteRecord) []).storeTracks n).writeCands n (f.k + 1))))

/-- MEM_READ_REQUEST and MEM_WRITE_REQUEST: a request at a port with no earlier one and enough tokens passes and pays: a read
joins the read queue of its pseudo-channel, or is served from a write-queue entry with a full mask; a block's write joins the
write queue, or merges into the block's entry; a full queue leaves either at its Hallway stop. Short of tokens, a request
waits at the port, and PORT_ADMIT lets the head pass in the mclk in which the bucket holds enough. An address beyond the
capacity in force faults (the model's stop, log entry 79). Rules: R380, R382, R387, R388, R395. -/
def Obligations.MemPorts : Prop :=
  ∀ (s : State) (port : MemPort) (a : Nat) (d : List (Option Byte)) (p : MemPortState), port.toNat < 24 →
    s.mem.ports[port.toNat]? = some p →
    let b := a / 64
    let n := pcOf b
    let held (r : PortReq) : Mem :=
      { s.mem with ports := lmod s.mem.ports port.toNat (fun p => { p with waiting := p.waiting ++ [r] }) }
    let paid : Mem := { s.mem with ports := lmod s.mem.ports port.toNat (fun p => p.pay 1) }
    let w := List.replicate (a % 64) none ++ d
    let blk := (List.range 64).map (fun i => w.getD i none)
    let old := ((s.mem.entry b).map (·.data)).getD []
    let u := s.portEvent port.toNat 5 1
    let v := s.portEvent port.toNat 6 (ceilDiv w.length 64)
    let busy (write : Bool) : Bool := s.mem.hall.any (fun h => pcOf h.2.block = n && h.2.write.isSome == write)
    (∀ k, p.due k = some 0 ↔ p.enable = false ∨ k ≤ p.size ∧ (p.owed + k) * 256 ≤ p.tokens * 256 + p.frac.toNat) ∧
    (s.mem.trained = false → exec (.memReadRequest port a) s = .next s ∧ exec (.memWriteRequest port a d) s = .next s) ∧
    (s.mem.trained = true → s.mem.blocks ≤ b → exec (.memReadRequest port a) s = .fault .noSuchAddress) ∧
    (s.mem.trained = true → d ≠ [] → s.mem.blocks * 64 < a + d.length →
      exec (.memWriteRequest port a d) s = .fault .noSuchAddress) ∧
    (s.mem.trained = true → b < s.mem.blocks →
      (p.waiting ≠ [] ∨ p.due 1 ≠ some 0 → exec (.memReadRequest port a) s = .next
        { u with mem := held { block := b, write := none, scrub := false } }) ∧
      (p.waiting = [] → p.due 1 = some 0 →
        (busy false = false → fullMask old = true → exec (.memReadRequest port a) s = .next { u with mem := { paid with
          fwdFull := satAdd s.mem.fwdFull 1
          given := s.mem.given ++ [{ port := port.toNat, block := b, at_ := (s.mem.pc n).clk, data := s.mem.read (64 * b) 64,
                                     bad := false }] } }) ∧
        (busy false = false → fullMask old = false → (s.mem.pc n).rq.length < 64 → exec (.memReadRequest port a) s = .next
          { u with mem := paid.modPc n (fun q => { q with rq := q.rq ++
            [{ port := port.toNat, block := b, at_ := (s.mem.pc n).clk, use := .port, data := s.mem.dram.read (64 * b) 64,
               bad := s.mem.poison.contains b, fwd := old, retry := false, fresh := false }] }) }) ∧
        (busy false = true ∨ fullMask old = false ∧ 64 ≤ (s.mem.pc n).rq.length → exec (.memReadRequest port a) s = .next
          { u with mem := { paid with
            hall := s.mem.hall ++ [(port.toNat, { block := b, write := none, scrub := false })] } }))) ∧
    (s.mem.trained = true → d ≠ [] → a + d.length ≤ s.mem.blocks * 64 →
      (p.waiting ≠ [] ∨ p.due (ceilDiv w.length 64) ≠ some 0 → exec (.memWriteRequest port a d) s = .next
        { v with mem := held { block := b, write := some w, scrub := false } }) ∧
      (p.waiting = [] → p.due (ceilDiv w.length 64) = some 0 → exec (.memWriteRequest port a d) s = .next
        { v with mem := s.mem.takeReq port.toNat { block := b, write := some w, scrub := false } }) ∧
      (a % 64 + d.length ≤ 64 →
        (busy true = false → s.mem.entry b = none → (s.mem.pc n).wq.length < 64 →
          s.mem.takeReq port.toNat { block := b, write := some w, scrub := false } =
            (paid.modPc n (fun q => { q with wq := q.wq ++
              [{ block := b, data := blk, reading := false, filled := none }] })).behind b) ∧
        (∀ e, busy true = false → s.mem.entry b = some e →
          s.mem.takeReq port.toNat { block := b, write := some w, scrub := false } =
            (paid.modPc n (fun q => { q with wq := q.wq.map (fun x =>
              if x.block = b then { x with data := mergeMask blk x.data } else x) })).behind b) ∧
        (busy true = true ∨ s.mem.entry b = none ∧ 64 ≤ (s.mem.pc n).wq.length →
          s.mem.takeReq port.toNat { block := b, write := some w, scrub := false } =
            { paid with hall := s.mem.hall ++ [(port.toNat, { block := b, write := some blk, scrub := false })] }))) ∧
    (∀ r rest k, p.waiting = r :: rest → p.due r.cost = some k → p.at_ + k ≤ s.pwr.beatMclk →
      exec (.portAdmit port) s = .next { s with mem :=
        ({ s.mem with ports := lmod s.mem.ports port.toNat (fun p => { p.pass k with waiting := rest }) }).takeReq port.toNat r }) ∧
    (∀ r rest, p.waiting = r :: rest → (∀ k, p.due r.cost = some k → s.pwr.beatMclk < p.at_ + k) →
      exec (.portAdmit port) s = .next s)

/-- PC_COMMAND_ISSUE runs one mclk of a pseudo-channel: its clock advances; the second burst of the last command, or the
first command that R383 offers, is issued, and only a write's column command reaches the DRAM. Whatever it issues, every byte
reads as before, provided that every queued write lies in its own pseudo-channel and no block has two entries. A parity error
holds a command back once; when one comes is free (log entry 110). Requests that waited for room come after it. Rules: R383,
R386, R387, R388, R389. -/
def Obligations.PcCommandsKeepContents : Prop :=
  ∀ (s : State) (k : PcId), s.mem.trained = true → Memory.wf s.mem.dram = true →
    (∀ n p, tget s.mem.pcs n = some p → p.wq.Pairwise (fun x y => x.block ≠ y.block) ∧
      ∀ w ∈ p.wq, pcOf w.block = n ∧ w.data.length = 64) →
    let n := k.toNat
    let p := s.mem.pc n
    (s.mem.base + s.pwr.beatMclk ≤ p.clk → exec (.pcCommandIssue k) s = .next s) ∧
    (p.clk < s.mem.base + s.pwr.beatMclk → Gives (.pcCommandIssue k) s (fun t => ∃ u : Mem, t.mem = u.leaveHall ∧
      u.hall = s.mem.hall ∧ t = { s with mem := t.mem, free := t.free, pwr := t.pwr, ras := t.ras, porch := t.porch } ∧
      (u.pc n).clk = p.clk + 1 ∧ (∀ a, u.byte a = s.mem.byte a) ∧ Memory.wf u.dram = true ∧
      (∀ x, p.burst = some x → u.dram = s.mem.dram ∧ u.poison = s.mem.poison ∧ (u.pc n).rq = p.rq ∧ (u.pc n).wq = p.wq ∧
        (u.pc n).burst = none) ∧
      (p.burst = none → p.choose s.mem = none → u.dram = s.mem.dram ∧ u.poison = s.mem.poison ∧
        u.pc n = { p with clk := p.clk + 1, draining := p.drains s.mem && decide (s.mem.wqLo.toNat < p.wq.length) }) ∧
      (∀ c, p.burst = none → p.choose s.mem = some c →
        (p.retrying = false ∧ Config.parityError s.free = true → u.dram = s.mem.dram ∧ u.poison = s.mem.poison ∧
          (u.pc n).rq = p.rq ∧ (u.pc n).wq = p.wq ∧ (u.pc n).banks = p.banks ∧ (u.pc n).retrying = true ∧
          t.ras.head = s.ras.head + 1) ∧
        (p.retrying = true ∨ Config.parityError s.free = false → (u.pc n).retrying = false ∧
          (c.cmd ≠ .column → u.dram = s.mem.dram ∧ u.poison = s.mem.poison ∧ (u.pc n).wq = p.wq ∧
            (u.pc n).rq.map (·.block) = p.rq.map (·.block)) ∧
          (∀ e, c.cmd = .column → c.read = some e → u.dram = s.mem.dram ∧ u.poison = s.mem.poison ∧
            (u.pc n).rq = p.rq.erase e ∧ (u.pc n).flight = p.flight ++ [e] ∧
            (u.pc n).burst = some { bank := c.bank, last := true, read := true }) ∧
          (c.cmd = .refresh → ((u.pc n).bank c.bank).debt = (p.bank c.bank).debt - 1 ∧
            ((u.pc n).bank c.bank).busyTo = p.clk + tRfc s.pwr.pstate.toNat ∧ (u.pc n).lastRef = some p.clk) ∧
          (c.cmd = .rfm → ((u.pc n).bank c.bank).rfm = false ∧ ((u.pc n).bank c.bank).actCount = 0 ∧
            ((u.pc n).bank c.bank).busyTo = p.clk + tRfc s.pwr.pstate.toNat)))))

/-- MEM_READ_RETURN: a read that the check passes delivers its bytes, corrected and written back when one byte was wrong; an
uncorrectable one is queued again before all others, for an activate of its own, and the second time delivered as poison, its
row queued for repair. PATROL_SCRUB sends out the read of the next block when its turn has come. Rules: R388, R392, R393,
R394. -/
def Obligations.MemReads : Prop :=
  ∀ (s : State) (k : PcId) (errors : List (Nat × Byte)) (e : MemRead) (rest : List MemRead),
    let n := k.toNat
    let d := e.decode s.mem.ecc errors
    let data := e.result errors d
    let page := pageOf s.mem.ecc e.block
    let u := s.modMem (fun m => m.modPc n (fun p => { p with flight := rest }))
    let gave : MemGiven := { port := e.port, block := e.block, at_ := e.at_, data := mergeBytes e.fwd data, bad := false }
    ((s.mem.pc n).flight = e :: rest → (rest = [] → ∀ x, (s.mem.pc n).burst = some x → x.read = false) →
      (d = .clean → e.retry = false → exec (.memReadReturn k errors) s = .next
        { u with mem := u.mem.deliverRead e data false }) ∧
      (∀ p v, d = .fixed p v → e.retry = false → Gives (.memReadReturn k errors) s (fun t =>
        t.mem = ({ u.mem.writeBack e data with ce := satAdd s.mem.ce 1 } : Mem).deliverRead e data false ∧
        t.ras.head = s.ras.head + 1 ∧ t = { s with mem := t.mem, ras := t.ras, porch := t.porch })) ∧
      (d = .clean → e.retry = true → Gives (.memReadReturn k errors) s (fun t =>
        t.mem = (u.mem.latchUe n Code.memUeRetry e.block).deliverRead e data false ∧
        t.ras.head = s.ras.head + 1 ∧ t = { s with mem := t.mem, ras := t.ras, porch := t.porch })) ∧
      (d = .bad → e.retry = false → exec (.memReadReturn k errors) s = .next ((u.memEvent 7 1).modMem (fun m =>
        m.modPc n (fun p => { p with rq := { e with retry := true } :: p.rq })))) ∧
      (d = .bad → e.retry = true → e.use = .port → Gives (.memReadReturn k errors) s (fun t =>
        t.mem.given = s.mem.given ++ [{ gave with bad := true }] ∧ t.mem.ueValid = true ∧
        (s.mem.ueValid = false → t.mem.ueCode = Code.low Code.memUe ∧ t.mem.uePend = BitVec.ofNat 64 (64 * e.block)) ∧
        (n, bankOf page, rowOf page) ∈ t.mem.repairs ∧ e.block ∈ t.mem.poison ∧ t.mem.dram = s.mem.dram ∧
        t.ras.head = s.ras.head + 1 ∧ t = { s with mem := t.mem, ras := t.ras, porch := t.porch })) ∧
      (e.use = .port → u.mem.deliverRead e data false = { u.mem with
        given := s.mem.given ++ [gave]
        fwdPartial := if e.fwd = [] then s.mem.fwdPartial else satAdd s.mem.fwdPartial 1 })) ∧
    (s.mem.trained = true → s.scrubDue = true → Gives (.patrolScrub ()) s (fun t =>
      t = (s.portEvent 23 5 1).modMem (fun m => (m.request 23 { block := m.scrubAt, write := none, scrub := true }).nextScrub) ∧
      t.mem.scrubAt = (s.mem.scrubAt + 1) % s.mem.blocks ∧ t.mem.dram = s.mem.dram ∧ t.mem.poison = s.mem.poison)) ∧
    (s.scrubDue = false → exec (.patrolScrub ()) s = .next s)

/-- The other events of the memory: the forced RFMpb (ACTIVATION_THRESHOLD), the end of a tREFI (REFRESH_INTERVAL), the idle
timer (PAGE_IDLE_TIMEOUT), the temperatures (MEM_TEMP_UPDATE), lane marks (LANE_PARITY_LIMIT), and the two ends of a soft row
repair (SOFT_ROW_REPAIR, ROW_REPAIR_DONE). Rules: R384, R386, R390, R393, R396. -/
def Obligations.MemUpkeep : Prop :=
  ∀ (s : State) (k : PcId) (b : BankId),
    let n := k.toNat
    let q := (s.mem.pc n).bank b.toNat
    let set (f : Bank → Bank) : Mem := s.mem.modPc n (fun p => p.modBank b.toNat f)
    let last := q.refAt.getD s.mem.served
    (s.mem.nr.thresh.toNat ≤ q.actCount.toNat → q.forced = false → exec (.activationThreshold k b) s = .next { s with
      mem := { set (fun q => { q with rfm := true, forced := true }) with nrForced := satAdd s.mem.nrForced 1 } }) ∧
    (s.mem.trained = true → b.toNat < 48 → s.passed last (s.mem.tRefi n) = true → exec (.refreshInterval k b) s = .next
      { s with mem := set (fun q => { q with debt := satAdd q.debt 1, refAt := some (last + BitVec.ofNat 64 (s.mem.tRefi n)) }) }) ∧
    (∀ t, q.idleAt = some t → t ≤ (s.mem.pc n).clk → exec (.pageIdleTimeout k b) s = .next
      { s with mem := set (fun q => { q with row := none, idleAt := none, check := false, dirty := false }) }) ∧
    (∀ v, s.glb.dev ≠ .off → exec (.memTempUpdate v) s = .next { s with mem := { s.mem with temp := v } }) ∧
    (∀ l : BitVec 6, s.mem.trained = true → (spareOf n l.toNat, l.toNat) ∉ s.mem.laneMarks →
      exec (.laneParityLimit k l) s = .next { s with
        mem := { s.mem with laneMarks := s.mem.laneMarks ++ [(spareOf n l.toNat, l.toNat)] } }) ∧
    (∀ row rest, s.mem.repairs = (n, b.toNat, row) :: rest → q.held = none → s.mem.trained = true →
      (tgetD s.mem.rows (64 * n + b.toNat) 0 < Config.spareRows → exec .softRowRepair s = .next { s with
        mem := { s.mem with
          repairs := rest
          pcs := (set (fun q => { q with
            held := some (s.mem.pc n).clk, row := none, idleAt := none, check := false, dirty := false })).pcs } }) ∧
      (Config.spareRows ≤ tgetD s.mem.rows (64 * n + b.toNat) 0 → exec .softRowRepair s = .next
        (({ s with mem := { s.mem with repairs := rest } }).log
          { status := Code.memNoSpare, unit := 4, index := n, addr := row }))) ∧
    (∀ t, q.held = some t → t + tRepair s.pwr.pstate.toNat ≤ (s.mem.pc n).clk → exec (.rowRepairDone k b) s = .next
      (({ s with mem := { set (fun q => { q with held := none }) with
        rows := tup s.mem.rows (64 * n + b.toNat) 0 (· + 1) } }).log
          { status := Code.memRowSpared, unit := 4, index := n, addr := b.toNat }))

/-- PORT_SIGNAL_DETECT, PORT_NO_SIGNAL_TIMEOUT, TRAINING_LOCK, TRAINING_TIMEOUT, LANE_FAILURE (with the spare lane free),
LANE_RETRAIN_DONE, AUTH_COMPLETE, LINK_REKEY, CREDIT_STALL, SLOW_RECOVERY: each event, in the state and after the time that
R426 gives it, moves the port, notes when, and changes nothing else; a spared lane and a slow partner are reported.
AUTH_COMPLETE installs the keys: the port is UP with its sequence numbers and credits anew and a HELLO to send, or,
reauthenticated, goes on where it stood (log entry 41). A fabric code is latched when none is, logged, and changes nothing
else but what its message owes. A port that leaves UP for good: RETRY_EXHAUSTED and LOSS_OF_LOCK take it DOWN, LANE_FAILURE
on a second lane FAILED, AUTH_FAIL and HOSTILE_DETECT QUARANTINED with its keys erased. Its unacknowledged frames, then its
waiting ones, are rerouted: they go in front of what waits on the port that their routes now name; a frame without a route is
dropped with PATH_LOST. Rules: R424, R425, R426, R427, R428, R430, R433, R434, R435, R442. -/
def Obligations.FabricPorts : Prop :=
  (∀ (s : State) (p : PortId) (q : Port), s.glb.dev ≠ .off → s.fab.ports[p.toNat]? = some q →
     let put (q : Port) : State := { s with fab := { s.fab with ports := s.fab.ports.set p.toNat q } }
     let stood (ms : Nat) : Prop := s.passed q.since (ms * 150000) = true
     let stalled (v : Nat) : Prop := q.credits.getD v 0 = 0 ∧ s.passed (q.zeroAt.getD v 0) (s.fab.stallMs.toNat * 150000) = true
     (q.state = .down → exec (.portSignalDetect p) s = .next (put { q with state := .training, since := s.now })) ∧
     (q.state = .down → stood 100 → exec (.portNoSignalTimeout p) s = .next (put { q with since := s.now })) ∧
     (q.state = .training → exec (.trainingLock p) s = .next (put { q with state := .auth, since := s.now })) ∧
     (q.state = .training → stood 50 → exec (.trainingTimeout p) s = .next
       (put { q with state := .down, since := s.now, fails := satAdd q.fails 1, retrain := false })) ∧
     (¬ stood 50 → exec (.trainingTimeout p) s = .next s) ∧
     (q.state ∈ [PortState.training, .auth, .up, .slow] → q.spared = false → exec (.laneFailure p) s = .next
       ((put { q with spared := true, retrain := true }).fabErr p.toNat Code.laneSpared 0)) ∧
     (exec (.laneRetrainDone p) s = .next (put { q with retrain := false })) ∧
     (q.state = .up ∨ q.state = .slow → exec (.linkRekey p) s = .next (put { q with reauth := true })) ∧
     (∀ vc : Vc, q.state = .up → stalled vc.toNat → exec (.creditStall p vc) s = .next
       ((put { q with state := .slow, since := s.now }).fabErr p.toNat Code.routeAlt 0)) ∧
     (q.state = .slow → (∀ v, v < 4 → ¬ stalled v) → s.passed q.backAt 1500000 = true →
       exec (.slowRecovery p) s = .next (put { q with state := .up, since := s.now })) ∧
     (∀ h : Hello, (q.state = .up ∨ q.state = .slow) → q.reauth = true → exec (.authComplete p h) s = .next (put { q with
       partner := h.addr, partnerPort := h.port, partnerSerial := h.serial, partnerTable := h.tableCrc
       keyed := true, reauth := false, txWraps := 0 })) ∧
     (∀ h : Hello, q.state = .auth → Gives (.authComplete p h) s (fun t =>
       (∃ u e, t.fab.ports[p.toNat]? = some u ∧ u.state = .up ∧ u.since = s.now ∧ u.keyed = true ∧ u.reauth = false ∧ u.txSeq = 0 ∧
         u.rxSeq = 0 ∧ u.unacked = [] ∧ u.queue = [e] ∧ e.frame.ftype = 4 ∧ e.frame.vc = 3 ∧ e.frame.dst = h.addr ∧
         e.frame.src = s.fab.addr ∧ e.frame.ctrl = .hello (s.hello p.toNat) ∧ u.credits = [128, 128, 192, 64] ∧
         u.partner = h.addr ∧ u.partnerPort = h.port ∧ u.partnerSerial = h.serial ∧ u.partnerTable = h.tableCrc ∧
         u.fails = q.fails ∧ u.spared = q.spared ∧ u.tagfail = q.tagfail ∧ u.resent = q.resent ∧ u.sent = q.sent) ∧
       (∀ (i : Nat) x, i ≠ p.toNat → s.fab.ports[i]? = some x → ∃ y, t.fab.ports[i]? = some { x with queue := y } ∧
         y.map (·.frame) = x.queue.map (·.frame)) ∧
       t = { s with fab := { s.fab with ports := t.fab.ports } }))) ∧
  (∀ (s : State) (port : Nat) (code : W32) (ctx : Nat),
     let t := s.fabErr port code ctx
     t.fab = (if s.fab.errValid then s.fab
       else { s.fab with errValid := true, errPort := BitVec.ofNat 3 port, errCode := Code.low code }) ∧
     t.ras.head = s.ras.head + 1 ∧ t = { s with fab := t.fab, ras := t.ras, porch := t.porch }) ∧
  ((∀ (s : State) (p : PortId) (q : Port), s.glb.dev ≠ .off → s.fab.ports[p.toNat]? = some q →
     let gone (dest : PortState) (erase : Bool) : State := { s with fab := { s.fab with ports := s.fab.ports.set p.toNat { q with
       state := dest, since := s.now, keyed := q.keyed && !erase, reauth := false, retrain := false, unacked := [], queue := []
       resends := 0 } } }
     let linked := q.state = .up ∨ q.state = .slow
     let lastSecond (l : List W64) : Nat := (l.filter (fun t => decide ((s.now - t).toNat < 150000000))).length
     let takes (c : Instr) (dest : PortState) (erase : Bool) (code : W32) : Prop :=
       exec c s = .next (((gone dest erase).reroute (q.unacked ++ q.queue)).fabErr p.toNat code 0)
     (linked → takes (.lossOfLock p) .down false Code.linkPortDown) ∧
     (linked → 8 ≤ q.resends → q.unacked ≠ [] → takes (.retryExhausted p) .down false Code.linkPortDown) ∧
     (q.spared = true → linked ∨ q.state = .training ∨ q.state = .auth →
       takes (.laneFailure p) .failed true Code.linkPortDown) ∧
     (q.state = .auth ∨ linked ∧ q.reauth = true → takes (.authFail p) .quarantined true Code.partnerQuarantined) ∧
     (linked → q.forged = true → takes (.hostileDetect p .forgedSource) .quarantined true Code.partnerQuarantined) ∧
     (linked → s.fab.tagMax.toNat ≤ lastSecond q.tagTimes →
       takes (.hostileDetect p .tagFailures) .quarantined true Code.partnerQuarantined) ∧
     (linked → 16 ≤ lastSecond q.rsvTimes →
       takes (.hostileDetect p .reservedBits) .quarantined true Code.partnerQuarantined)) ∧
   (∀ (s : State) (fs : List Queued) (r : Nat) (x : Port) (alt : Queued → Bool), s.fab.ports[r]? = some x →
     (∀ e ∈ fs, s.fab.pick (s.fab.route1 e.table e.frame.dst) = some (r, alt e)) →
     let moved (e : Queued) : Queued :=
       { e with frame := { e.frame with fflags := e.frame.fflags &&& 0xFE ||| (if alt e then 1 else 0) } }
     s.reroute fs = { s with fab := { s.fab with ports := s.fab.ports.set r { x with queue := fs.map moved ++ x.queue } } }) ∧
   (∀ (s : State) (e : Queued), s.fab.pick (s.fab.route1 e.table e.frame.dst) = none → e.owes = false →
     s.reroute [e] = ({ s with fab := { s.fab with route := satAdd s.fab.route 1 } }).fabErr 0 Code.pathLost e.frame.dst.toNat))

/-- FRAME_TRANSMIT: the first waiting frame of a VC goes out with the next lseq, the acknowledgement of what has arrived and
the credits owed, and stays in the retry buffer; a DATA frame costs a credit and its energy; one that came by another port
leaves that port's receive buffer. With nothing waiting an IDLE frame goes out. REPLAY_TIMER and NAK_RECEIVE resend the retry
buffer in order, a NAK acknowledging what lies before the frame it names. FRAME_RECEIVE: a frame that FEC cannot correct or
whose tag fails is discarded and answered with a NAK of the expected lseq; a good frame with another lseq is discarded but
for its acknowledgement; an IDLE, ACK or NAK frame brings acknowledgements and credits; a HELLO of the partner is noted, and
a CONTROL frame of another source shows a forged one. DATA with the expected lseq for this device is delivered in tseq order,
held when up to 64 ahead, or counted as a duplicate; for another device it goes on with its ttl lowered, or is dropped at ttl
0. TRANSPORT_GAP_TIMEOUT: a held frame whose gap has not closed in 100 µs ends its triple with PATH_LOST. (In each clause but
the first two the frame has no reserved bit set, and no span's configuration is in progress.) Rules: R428, R429, R430, R431,
R432, R434. -/
def Obligations.FabricFrames : Prop :=
  (∀ (s : State) (p : PortId) (q : Port), s.glb.dev ≠ .off → s.fab.ports[p.toNat]? = some q →
     (q.state = .up ∨ q.state = .slow) → q.keyed = true → q.retrain = false → q.reauth = false →
     q.txWraps * 2 ^ 32 + q.txSeq.toNat < 2 ^ 40 →
     let put (s : State) (q : Port) : State := { s with fab := { s.fab with ports := s.fab.ports.set p.toNat q } }
     (∀ (vc : Vc) (e : Queued) (pre post : List Queued), q.queue = pre ++ e :: post → (∀ x ∈ pre, x.frame.vc.toNat ≠ vc.toNat) →
       e.frame.vc.toNat = vc.toNat → q.unacked.length < 512 → (e.frame.ftype = 1 → q.credits.getD vc.toNat 0 ≠ 0) →
       let n := q.owed.getD vc.toNat 0
       let c := q.credits.getD vc.toNat 0 - 1
       let data := e.frame.ftype = 1
       let f := { e.frame with
         lseq := q.txSeq, ack := BitVec.ofNat 16 (q.rxSeq - 1).toNat, crVc := BitVec.ofNat 8 vc.toNat
         crN := BitVec.ofNat 8 (min 255 n) }
       exec (.frameTransmit p vc) s = .next (s.sendFirst p.toNat vc.toNat e (pre ++ post)) ∧
       (e.owes = true → s.sendFirst p.toNat vc.toNat e (pre ++ post) =
         (s.leaveBuffer e.table vc.toNat).sendFirst p.toNat vc.toNat { e with owes := false } (pre ++ post)) ∧
       (e.owes = false → s.sendFirst p.toNat vc.toNat e (pre ++ post) = put (if data then s.frameEnergy e else s) { q with
         queue := pre ++ post, unacked := q.unacked ++ [{ e with frame := f }], sent := q.sent ++ [f]
         txSeq := q.txSeq + 1, txWraps := if q.txSeq = 0xFFFFFFFF then q.txWraps + 1 else q.txWraps
         owed := lmod q.owed vc.toNat (fun n => n - min 255 n)
         credits := if data then lset q.credits vc.toNat c else q.credits
         zeroAt := if data ∧ c = 0 then lset q.zeroAt vc.toNat s.now else q.zeroAt
         progressAt := if q.unacked = [] then s.now else q.progressAt })) ∧
     (∀ vc : Vc, q.queue = [] → Gives (.frameTransmit p vc) s (fun t => ∃ f, f.ftype = 0 ∧ f.lseq = 0 ∧ f.payload = [] ∧
       f.ack = BitVec.ofNat 16 (q.rxSeq - 1).toNat ∧ t = put s { q with
         sent := q.sent ++ [f], owed := lmod q.owed vc.toNat (fun n => n - min 255 n) })) ∧
     (q.unacked ≠ [] → q.resends < 8 → s.passed q.progressAt 300 = true → exec (.replayTimer p) s = .next (put s { q with
       sent := q.sent ++ q.unacked.map (·.frame), resent := satAdd q.resent q.unacked.length
       resends := q.resends + 1, progressAt := s.now })) ∧
     (∀ (e : Queued) (pre post : List Queued), q.unacked = pre ++ e :: post → (∀ x ∈ pre, x.frame.lseq ≠ e.frame.lseq) →
       (pre = [] → q.resends < 8) → exec (.nakReceive p e.frame.lseq) s = .next (put s { q with
         unacked := e :: post, sent := q.sent ++ (e :: post).map (·.frame)
         resent := satAdd q.resent (post.length + 1), resends := if pre = [] then q.resends + 1 else 1, progressAt := s.now }))) ∧
  (∀ (s : State) (p : PortId) (q : Port) (f : Frame), s.glb.dev ≠ .off → s.fab.ports[p.toNat]? = some q →
     (q.state = .up ∨ q.state = .slow) → q.reauth = false → s.fab.cfg = none →
     let put (q : Port) : State := { s with fab := { s.fab with ports := s.fab.ports.set p.toNat q } }
     let isNak (n : Frame) : Prop := n.ftype = 3 ∧ n.lseq = 0 ∧ n.payload = le32 q.rxSeq ∧
       n.ack = BitVec.ofNat 16 (q.rxSeq - 1).toNat
     let key := 4 * f.src.toNat + f.vc.toNat % 4
     let t0 : Triple := (tget s.fab.rx key).getD { expect := 0, held := [], ended := false }
     let d := (rd32 f.payload 0 - t0.expect).toNat
     let same (t : State) : Prop := t = { s with fab := t.fab, ras := t.ras, porch := t.porch }
     let next := { q.hear f s.fab.stallMs.toNat s.now with rxSeq := q.rxSeq + 1, tagRetry := false }
     let data := { next with rxHeld := lmod q.rxHeld (f.vc.toNat % 4) (· + 1) }
     Gives (.frameReceive p .fecBad f) s (fun t => ∃ n, isNak n ∧ t = put { q with sent := q.sent ++ [n] }) ∧
     Gives (.frameReceive p .tagBad f) s (fun t => ∃ n, isNak n ∧ t = put { q with
       sent := q.sent ++ [n], tagfail := satAdd q.tagfail 1, tagRetry := true
       tagTimes := q.tagTimes.filter (fun t => decide ((s.now - t).toNat < 150000000)) ++
         (if q.tagRetry then [s.now] else []) }) ∧
     (frameReserved f = false →
       (f.ftype ≠ 1 → f.ftype ≠ 4 → exec (.frameReceive p .good f) s = .next (put (q.hear f s.fab.stallMs.toNat s.now))) ∧
       (f.ftype = 1 ∨ f.ftype = 4 → f.lseq ≠ q.rxSeq → exec (.frameReceive p .good f) s = .next
         (put (q.acked (q.ackCount f.ack) s.now))) ∧
       (f.ftype = 4 → f.lseq = q.rxSeq → f.src ≠ q.partner → exec (.frameReceive p .good f) s = .next
         (put { next with forged := true })) ∧
       (∀ h, f.ftype = 4 → f.lseq = q.rxSeq → f.src = q.partner → f.ctrl = .hello h → exec (.frameReceive p .good f) s = .next
         (put { next with partner := h.addr, partnerPort := h.port, partnerSerial := h.serial, partnerTable := h.tableCrc })) ∧
       (f.ftype = 1 → f.lseq = q.rxSeq → s.plan.insts = [] →
         ((s.fab.route1 p.toNat f.dst).getLsbD 15 = true → f.ctrl = .none → (rd8 f.payload 5).getLsbD 0 = false → t0.ended = false →
           Gives (.frameReceive p .good f) s (fun t => same t ∧
             (∃ u, t.fab.ports[p.toNat]? = some u ∧ u.rxSeq = q.rxSeq + 1 ∧ u.tagRetry = false ∧ u.state = q.state) ∧
             (d = 0 → t0.held = [] → t.fab.rx = tset s.fab.rx key { t0 with expect := t0.expect + 1 } ∧ t.fab.dup = s.fab.dup) ∧
             (2 ^ 31 ≤ d → t.fab.dup = satAdd s.fab.dup 1 ∧ t.fab.rx = s.fab.rx) ∧
             (0 < d → d ≤ 64 → (∀ h ∈ t0.held, h.1 ≠ rd32 f.payload 0) → t.fab.dup = s.fab.dup ∧
               t.fab.rx = tset s.fab.rx key { t0 with held := t0.held ++ [(rd32 f.payload 0, s.now, f)] }) ∧
             (64 < d → d < 2 ^ 31 → t.fab.rx = tset s.fab.rx key { t0 with held := [], ended := true } ∧
               t.fab.errValid = true ∧ (s.fab.errValid = false → t.fab.errCode = Code.low Code.pathLost)))) ∧
         ((s.fab.route1 p.toNat f.dst).getLsbD 15 = false → f.ttl = 0 → exec (.frameReceive p .good f) s = .next
           (((put data).leaveBuffer p.toNat (f.vc.toNat % 4)).dropFrame)) ∧
         (∀ r alt, (s.fab.route1 p.toNat f.dst).getLsbD 15 = false → f.ttl ≠ 0 →
           s.fab.pick (s.fab.route1 p.toNat f.dst) = some (r, alt) → exec (.frameReceive p .good f) s = .next
             ((put data).enqueue r { table := p.toNat, owes := true, frame := { f with
               ttl := f.ttl - 1, fflags := if alt then f.fflags ||| 1 else f.fflags } })))) ∧
     (∀ (src : Byte) (vc : Vc) (u : Triple), tget s.fab.rx (4 * src.toNat + vc.toNat) = some u → u.ended = false →
       (∃ h ∈ u.held, s.passed h.2.1 15000 = true) →
       exec (.transportGapTimeout src vc) s = .next (({ s with fab := { s.fab with
         rx := tset s.fab.rx (4 * src.toNat + vc.toNat) { u with held := [], ended := true } } }).fabErr 0 Code.pathLost
           src.toNat)))

/-- FABRIC_JOIN: a packet out of its ranges, with spans configured, or with a partner's address is refused and changes
nothing. A LEAVE disables every port but a FAILED one; a JOIN, once its tables are there, takes the address, the anchor and
the routing tables, and enables and disables ports. The last two clauses are for ports that hold no frames; those of a port
disabled are rerouted. COLLECTIVE_CFG: a span is removed when no open job names it; a new one, checked in order for its
fields, its identifier and its topology, begins its CRC exchange. It is configured once every other member has reported the
same CRC-32C (a report comes with FRAME_RECEIVE), and ends with SPAN_MISMATCH, or with SPAN_TIMEOUT after 100 ms
(SPAN_CONFIG_TIMEOUT). One configuration is in progress at a time. Rules: R426, R433, R434, R436, R437, R443. -/
def Obligations.FabricJoinsAndSpans : Prop :=
  (∀ (s : State) (r : RingId) (o : Op), Offers s r 0x80 o →
     let b := o.bytes
     let leave := rd b 16 1 = 1
     let taken := ∃ q ∈ s.fab.ports, (q.state = .up ∨ q.state = .slow) ∧ q.partner = rd8 b 17
     let off (q : Port) : Port := if q.state = .failed then q else { q with
       state := .disabled, since := s.now, keyed := false, reauth := false, retrain := false, unacked := [], queue := []
       resends := 0 }
     let anchor := if rd b 21 1 = 1 then slice b 64 49 else []
     s.fab.ports.length = 8 →
     (s.joinParamOk b = false → exec (.fabricJoin r) s = .next (s.finish r.toNat o.id Code.fabParam)) ∧
     (s.joinParamOk b = true → s.fab.spans ≠ [] → exec (.fabricJoin r) s = .next (s.finish r.toNat o.id Code.fabBusy)) ∧
     (s.joinParamOk b = true → s.fab.spans = [] → ¬ leave → taken →
       exec (.fabricJoin r) s = .next (s.finish r.toNat o.id Code.fabAddr)) ∧
     (s.joinParamOk b = true → s.fab.spans = [] → leave → exec (.fabricJoin r) s = .next
       (((s.disablePorts (List.range 8)).modFab (fun f => { f with joined := false })).finish r.toNat o.id Code.ok)) ∧
     (∀ d, s.joinParamOk b = true → s.fab.spans = [] → ¬ leave → ¬ taken →
       (rd b 20 1 = 0 → o.payload = .arrived d →
         exec (.fabricJoin r) s = .next (((s.join b d).powerUp []).finish r.toNat o.id Code.ok)) ∧
       (rd b 20 1 = 1 → o.payload = .unread → s.windowPoisoned (rd b 24 8) 4608 = false → s.windowBytes (rd b 24 8) 4608 = d →
         exec (.fabricJoin r) s = .next ((((s.record 3 d).join b d).powerUp []).finish r.toNat o.id Code.ok))) ∧
     ((∀ q ∈ s.fab.ports, q.unacked = [] ∧ q.queue = []) →
       s.disablePorts (List.range 8) = { s with fab := { s.fab with ports := s.fab.ports.map off } } ∧
       ∀ d, ∃ ports, s.join b d = { s with fab := { s.fab with
           joined := true, addr := rd8 b 17, anchor := anchor, tables := parseTables d, ports := ports } } ∧
         ports.length = 8 ∧ ∀ (i : Nat) q, s.fab.ports[i]? = some q → ∃ u, ports[i]? = some u ∧
           ((rd8 b 18).getLsbD i = false → u = off q) ∧
           ((rd8 b 18).getLsbD i = true →
             (q.state = .disabled → u = { q with state := .down, since := s.now }) ∧
             (q.state = .quarantined → u = if (rd8 b 19).getLsbD i then { q with state := .down, since := s.now } else q) ∧
             (q.state = .failed ∨ q.state = .down ∨ q.state = .training ∨ q.state = .auth → u = q) ∧
             (q.state = .up ∨ q.state = .slow → u = { q with reauth := q.reauth || decide (anchor ≠ s.fab.anchor) })))) ∧
  ((∀ (s : State) (r : RingId) (o : Op), Offers s r 0x81 o →
     let b := o.bytes
     let id := rd32 b 16
     let remove := (rd8 b 23).getLsbD 0 = true
     let p := s.spanOfPacket b
     (s.fab.cfg ≠ none → exec (.collectiveCfg r) s = .next s) ∧
     (s.fab.cfg = none →
       (remove → id ≠ 0 → thas s.fab.spans id.toNat = true → s.spanJob id = none → exec (.collectiveCfg r) s = .next
         (({ s with fab := { s.fab with spans := tdel s.fab.spans id.toNat } }).finish r.toNat o.id Code.ok)) ∧
       (remove → id ≠ 0 → thas s.fab.spans id.toNat = false ∨ s.spanJob id ≠ none →
         exec (.collectiveCfg r) s = .next (s.finish r.toNat o.id Code.spanId)) ∧
       (id = 0 ∨ ¬ remove ∧ s.spanParamOk b = false → exec (.collectiveCfg r) s = .next (s.finish r.toNat o.id Code.fabParam)) ∧
       (¬ remove → id ≠ 0 → s.spanParamOk b = true →
         (thas s.fab.spans id.toNat = true ∨ 64 ≤ s.fab.spans.length →
           exec (.collectiveCfg r) s = .next (s.finish r.toNat o.id Code.spanId)) ∧
         (thas s.fab.spans id.toNat = false → s.fab.spans.length < 64 → s.topologyOk p = false →
           exec (.collectiveCfg r) s = .next (s.finish r.toNat o.id Code.spanTopology)) ∧
         (thas s.fab.spans id.toNat = false → s.fab.spans.length < 64 → s.topologyOk p = true →
           exec (.collectiveCfg r) s = .next (s.beginSpan r.toNat o p) ∧
           (s.fab.early = [] → (∃ d ∈ p.members, d ≠ s.fab.addr) →
             (∀ d ∈ p.members, d ≠ s.fab.addr → (s.fab.route1 8 d).getLsbD 15 = false) →
             (s.beginSpan r.toNat o p).fab.spans = s.fab.spans ∧ (s.beginSpan r.toNat o p).fab.cfg = some
               { id := id, span := p, ring := r.toNat, op := o.id, at_ := s.now, reports := [] }))))) ∧
   (∀ (s : State) (port : PortId) (check : FrameCheck) (f : Frame),
     exec (.frameReceive port check f) s = .next (s.receive port.toNat check f).settleSpan) ∧
   (∀ (s : State) (c : SpanCfg), s.fab.cfg = some c →
     let done (spans : Tab Span) (code : W32) : State :=
       ({ s with fab := { s.fab with cfg := none, spans := spans } }).finish c.ring c.op code
     ((∃ r ∈ c.reports, r.2 ≠ c.span.crc) → s.settleSpan = done s.fab.spans Code.spanMismatch) ∧
     ((∀ r ∈ c.reports, r.2 = c.span.crc) →
       ((∀ d ∈ c.span.members, d = s.fab.addr ∨ thas c.reports d.toNat = true) →
         s.settleSpan = done (tset s.fab.spans c.id.toNat c.span) Code.ok) ∧
       ((∃ d ∈ c.span.members, d ≠ s.fab.addr ∧ thas c.reports d.toNat = false) → s.settleSpan = s)) ∧
     (s.passed c.at_ 15000000 = true → exec .spanConfigTimeout s = .next (done s.fab.spans Code.spanTimeout)) ∧
     (s.passed c.at_ 15000000 = false → exec .spanConfigTimeout s = .next s)))

/-- POWER_INTERVAL_END: at the end of an interval the P-state is to step towards slower when a temperature limit or the cap
is passed, towards faster when the prediction is at most 95 % of the cap, and never past PWR_CTL's limits; CAP_FLOOR is
logged once per run of intervals over the cap in P7, and the next interval begins. PSTATE_STEP_BEGIN and PSTATE_STEP_END: a
step begins when none is in progress, and its voltage and P-state are in force at its end, 21 or 1 µs later. MODEL_DEVIATION
is logged beyond 7 %. DROOP_DETECT sets the divider and is counted, until DROOP_END. Rules: R486, R487, R490, R491, R492,
R495. -/
def Obligations.PowerSteps : Prop :=
  ∀ (s : State), s.glb.dev ≠ .off →
    let w := s.pwr
    let p := w.pstate.toNat
    (∀ m, (s.intervalOver = false → exec (.powerIntervalEnd m) s = .next s) ∧
      (s.intervalOver = true →
        let hot := w.throttle.toNat ≤ w.dieMax.toNat ∨ 95 ≤ w.hbmMax.toNat
        let lo := w.fast.toNat
        let clip (q : Nat) : Nat := max lo (min w.slow.toNat q)
        let aim (q : Nat) (t : State) : Prop := t.pwr.next = if clip q = p then w.next
          else some { goal_ := if p < clip q then p + 1 else p - 1, at_ := 0 }
        let floor := w.overCap m = true ∧ p = 7
        Gives (.powerIntervalEnd m) s (fun t =>
          (hot → aim (min 7 (p + 1)) t) ∧
          (¬ hot → w.overCap m = true → p < 7 → aim (p + 1) t) ∧
          (¬ hot → ¬ (w.overCap m = true ∧ p < 7) →
            (lo < p ∧ w.predict m (p - 1) * 100 ≤ w.cap.toNat * 95 → aim (p - 1) t) ∧
            (¬ (lo < p ∧ w.predict m (p - 1) * 100 ≤ w.cap.toNat * 95) → aim p t)) ∧
          (t.pwr.floorRun = true ↔ floor) ∧
          t.ras.head = (if floor ∧ w.floorRun = false then s.ras.head + 1 else s.ras.head) ∧
          t = { s with porch := t.porch, ras := t.ras, pwr := { w with
            next := t.pwr.next, floorRun := t.pwr.floorRun
            modelPower := satNat 16 (powerNum (w.dynamic + w.static) p * 10 / wattDen), measuredPower := satNat 16 m
            counts := [], modeNow := w.repeatable, intBeat := s.plan.beat, intAclk := s.now } }))) ∧
    (∀ st, w.next = some st → w.ramp = none → exec .pstateStepBegin s = .next { s with pwr := { w with
      ramp := some { st with at_ := s.now }, next := none, mv := if st.goal_ < p then s.part.vid.getD st.goal_ 0 else w.mv } }) ∧
    (w.next = none ∨ w.ramp ≠ none → exec .pstateStepBegin s = .next s) ∧
    (∀ st, w.ramp = some st →
      let ticks := if st.goal_ < p then 21 * 150 else 150
      (s.passed st.at_ ticks = true → exec .pstateStepEnd s = .next { s with pwr := { w with
        pstate := BitVec.ofNat 3 st.goal_, mv := s.part.vid.getD st.goal_ 0, ramp := none } }) ∧
      (s.passed st.at_ ticks = false → exec .pstateStepEnd s = .next s)) ∧
    (∀ a b,
      (b * 107 < a * 100 ∨ a * 100 < b * 93 → exec (.modelDeviation a b) s = .next
        (s.log { status := Code.modelDeviation, addr := w.intBeat.toNat })) ∧
      (b * 93 ≤ a * 100 → a * 100 ≤ b * 107 → exec (.modelDeviation a b) s = .next s)) ∧
    (w.droop = false → exec .droopDetect s = .next { s with pwr := { w with droop := true, droops := satAdd w.droops 1 } }) ∧
    (w.droop = true → exec .droopDetect s = .next s) ∧
    (exec .droopEnd s = .next { s with pwr := { w with droop := false } })

/-- THERMAL_SAMPLE: the temperatures are read, an episode at either limit is logged once, and a die at 110 °C stops the
device: HELD, FATAL, with the Room, video and SerDes domains off and THERMTRIP# asserted; THERMTRIP_COMPARATOR asserts the
pin by itself. DOMAIN_OFF_TIMER: a power domain that nothing has needed for 1 ms goes off, with what its Rooms store; not
earlier. DOMAIN_FAIL: the packet that needs a domain which does not come up completes with DOMAIN_FAIL and no other effect.
PLL_LOSS_OF_LOCK and HEARTH_CROSSCHECK_FAIL: the spare PLL and the standby Hearth take over once; a second loss is fatal.
That a domain's registers stay is the model's choice (log entry 44). Rules: R473, R488, R489, R495, R532. -/
def Obligations.HeatAndSpares : Prop :=
  (∀ (s : State) (die : List Byte) (temps : W32), s.glb.dev ≠ .off →
     exec .thermtripComparator s = .next { s with pins := { s.pins with thermtrip := true } } ∧
     Gives (.thermalSample die temps) s (fun t =>
       (∀ b ∈ die, b.toNat ≤ t.pwr.dieMax.toNat) ∧ (die ≠ [] → t.pwr.dieMax ∈ die) ∧
       (∀ b ∈ le32 temps, b.toNat ≤ t.pwr.hbmMax.toNat) ∧ t.pwr.hbmMax ∈ le32 temps ∧
       (t.pwr.thermEp = true ↔ s.pwr.throttle.toNat ≤ t.pwr.dieMax.toNat) ∧
       (t.pwr.hbmEp = true ↔ 95 ≤ t.pwr.hbmMax.toNat) ∧
       ((∀ b ∈ die, b.toNat < 110) →
         t = { s with
           pwr := { s.pwr with
             dieMax := t.pwr.dieMax, hbmMax := t.pwr.hbmMax, thermEp := t.pwr.thermEp, hbmEp := t.pwr.hbmEp }
           ras := t.ras, porch := t.porch } ∧
         t.ras.head = s.ras.head + (if t.pwr.thermEp = true ∧ s.pwr.thermEp = false then 1 else 0) +
           (if t.pwr.hbmEp = true ∧ s.pwr.hbmEp = false then 1 else 0)) ∧
       (∀ b ∈ die, 110 ≤ b.toNat → t.pins = { s.pins with thermtrip := true } ∧ t.pwr.pstate = s.pwr.pstate ∧
         (∀ i, i < 41 → t.pwr.domains.getLsbD i = (s.pwr.domains.getLsbD i && (decide (16 ≤ i ∧ i < 24) || decide (38 ≤ i)))) ∧
         (s.glb.dev = .serving ∨ s.glb.dev = .maintenance ∨ s.glb.dev = .draining →
           t.glb.dev = .held ∧ t.glb.reason = .fatal ∧ t.glb.stopped = true ∧ t.glb.cause = Code.low Code.thermTrip)))) ∧
  (∀ (s : State),
     (∀ d, d < 41 → s.pwr.domains.getLsbD d = true → s.domainNeeded d = false →
       (∀ t0, tget s.pwr.idle d = some t0 →
         (s.passed t0 150000 = false → exec (.domainOffTimer d) s = .next s) ∧
         (s.passed t0 150000 = true → Gives (.domainOffTimer d) s (fun t =>
           (∀ i, t.pwr.domains.getLsbD i = (s.pwr.domains.getLsbD i && decide (i ≠ d))) ∧
           (∀ k, tget t.rooms k = (tget s.rooms k).map (fun x => if d < 16 ∧ groupOf s.part.e k = d
             then { x with store := [], lines := [], acc0 := [], acc1 := [], half := false } else x)) ∧
           t = { s with pwr := { s.pwr with domains := t.pwr.domains, idle := tdel s.pwr.idle d }, rooms := t.rooms }))) ∧
       (tget s.pwr.idle d = none → exec (.domainOffTimer d) s = .next s)) ∧
     (∀ d, s.pwr.domains.getLsbD d = false ∨ s.domainNeeded d = true → exec (.domainOffTimer d) s = .next s) ∧
     (∀ d n o before after ctx, s.working = true → d < 41 → s.pwr.domains.getLsbD d = false →
       s.ring.ctx = before ++ (n, ctx) :: after → (∀ x ∈ before, s.wouldPower x.1 d = none) → s.wouldPower n d = some o →
       exec (.domainFail d) s = .next (s.finish n o.id Code.domainFail)) ∧
     (s.glb.dev ≠ .off →
       let ends (code : W32) (unit : Nat) (c : Instr) : Prop :=
         (s.glb.dev = .serving ∨ s.glb.dev = .maintenance ∨ s.glb.dev = .draining →
           Gives c s (fun t => t.glb.dev = .held ∧ t.glb.reason = .fatal ∧ t.glb.stopped = true ∧
             t.glb.cause = Code.low code ∧ t.ras.head = s.ras.head + 1 ∧ t.mem = s.mem ∧ t.plan = s.plan)) ∧
         (s.glb.dev = .starting ∨ s.glb.dev = .held →
           exec c s = .next (s.log { status := code, unit := unit, action := 5 }))
       (s.ras.spPll = 1 → exec .pllLossOfLock s = .next (({ s with
         ras := { s.ras with spPll := 0 }, pwr := { s.pwr with spareActive := !s.pwr.spareActive } }).log
           { status := Code.pllFailover, unit := 7, action := 4 })) ∧
       (s.hearth.standby = true → exec .hearthCrosscheckFail s = .next (({ s with
         hearth := { s.hearth with standby := false } }).log { status := Code.hearthFailover, unit := 6, action := 4 })) ∧
       (s.ras.spPll = 0 → ends Code.clockLost 7 .pllLossOfLock) ∧
       (s.hearth.standby = false → ends Code.hearthLost 6 .hearthCrosscheckFail)))

/-- RECORD_START: a recording begins on a serving device without objects, with its STATE entry; RECORD_STOP ends it with END
and its count. REPLAY: a replay begins in MAINTENANCE when the recording's STATE entry agrees. REPLAY_PACKET: it dispatches
each recorded packet not before its beat, compares each result, and ends with success at END and with REPLAY_MISMATCH,
logged, where the results differ or the recording has no further entry. Rules: R477, R478, R479, R480. -/
def Obligations.RecordAndReplay : Prop :=
  ∀ (s : State) (r : RingId) (o : Op),
    let b := o.bytes
    let good := rd b 16 8 % 4096 = 0 ∧ rd b 24 8 % 4096 = 0 ∧ 2 ^ 20 ≤ rd b 24 8 ∧ rd b 24 8 ≤ 2 ^ 40
    let bare := s.plan.jobs = [] ∧ s.larder.pools = [] ∧ s.video.streams = [] ∧ s.video.views = [] ∧ s.fab.spans = []
    (Offers s r 0xF0 o →
      (¬ good → exec (.recordStart r) s = .next (s.finish r.toNat o.id Code.recParam)) ∧
      (good → ¬ (s.glb.dev = .serving ∧ bare ∧ s.ras.recording = none) →
        exec (.recordStart r) s = .next (s.finish r.toNat o.id Code.recState)) ∧
      (good → s.glb.dev = .serving → bare → s.ras.recording = none →
        let e := recEntry 1 s.plan.beat s.recState
        exec (.recordStart r) s = .next (({ s.dataWrite (rd64 b 16).toNat e with ras := { s.ras with
          recMib := 0, recording := some {
            addr := rd64 b 16, size := rd b 24 8, used := e.length, entries := 1, full := false } } }).finish
              r.toNat o.id Code.ok))) ∧
    (Offers s r 0xF1 o →
      let stopped (t : State) (code : W32) : State :=
        ({ t with ras := { s.ras with recording := none } }).finish r.toNat o.id code
      (s.ras.recording = none → exec (.recordStop r) s = .next (s.finish r.toNat o.id Code.recState)) ∧
      (∀ x, s.ras.recording = some x →
        (x.full = false → exec (.recordStop r) s = .next (stopped (s.dataWrite (x.addr.toNat + x.used)
          (recEntry 5 s.plan.beat (leBytes 4 (x.entries + 1)))) Code.ok)) ∧
        (x.full = true → exec (.recordStop r) s = .next (stopped s Code.recFull)))) ∧
    (Offers s r 0xF2 o →
      (¬ good → exec (.replay r) s = .next (s.finish r.toNat o.id Code.recParam)) ∧
      (good → ¬ (s.glb.dev = .maintenance ∧ s.plan.jobs = [] ∧ s.ras.replay = none) →
        exec (.replay r) s = .next (s.finish r.toNat o.id Code.recState)) ∧
      (good → s.glb.dev = .maintenance → s.plan.jobs = [] → s.ras.replay = none →
        (o.payload = .unread → exec (.replay r) s = .next ((s.modOp r.toNat o.id (fun o => { o with
          payload := .waiting })).hostRead (.payload r.toNat o.id) (rd64 b 16) (rd b 24 8))) ∧
        (∀ d, o.payload = .arrived d →
          let same := rd d 0 1 = 1 ∧ slice d 16 16 = le64 (s.dkey s.video.conceal) ++ le64 s.mem.nrSeed
          (¬ same → exec (.replay r) s = .next (s.finish r.toNat o.id Code.replayState)) ∧
          (same → exec (.replay r) s = .next { s.beginOp r.toNat o.id with ras := { s.ras with
            recMib := 0, replay := some {
              ring := r.toNat, op := o.id, bytes := d, pos := rd d 4 4, base := none, running := [], results := [] } } })))) ∧
    (∀ p, s.ras.replay = some p →
      let n := rd p.bytes (p.pos + 4) 4
      let kind := rd p.bytes p.pos 1
      let fails : Prop := exec .replayPacket s = .next ((({ s with ras := { s.ras with replay := none } }).log {
        status := Code.replayMismatch, unit := 11, addr := p.pos }).finish p.ring p.op Code.replayMismatch)
      let kept (q : Replay) : Ras := { s.ras with replay := some q, recMib := satNat 30 (q.pos / 1048576) }
      (n = 0 ∨ p.bytes.length ≤ p.pos → fails) ∧
      (p.pos < p.bytes.length → n ≠ 0 →
        (kind = 2 →
          let beat := rd64 p.bytes (p.pos + 8)
          let base := p.base.getD (s.plan.beat, beat)
          let ring := rd p.bytes (p.pos + 16) 4
          let packet := slice p.bytes (p.pos + 20) (n - 20)
          ((s.plan.beat - base.1).toNat < (beat - base.2).toNat → exec .replayPacket s = .next s) ∧
          ((beat - base.2).toNat ≤ (s.plan.beat - base.1).toNat → ring < 2 ^ 20 → s.activeRing ring .command = true →
            (packetFault s.glb.compat (ring = 0) packet = none → Gives .replayPacket s (fun t =>
              t.ras = kept { p with pos := p.pos + n, base := some base } ∧
              (∃ x, t.opsOf ring = s.opsOf ring ++ [x] ∧ x.bytes = packet ∧ x.fin = none ∧ x.id = s.ring.nextOp) ∧
              t = { s with ring := t.ring, ras := t.ras })) ∧
            (∀ code, packetFault s.glb.compat (ring = 0) packet = some code → (∀ x ∈ s.opsOf ring, x.id ≠ s.ring.nextOp) →
              Gives .replayPacket s (fun t =>
                t.ras = kept { p with pos := p.pos + n, base := some base } ∧ t.statusOf ring s.ring.nextOp = some code)))) ∧
        (kind = 4 →
          (p.results = [] → exec .replayPacket s = .next s) ∧
          (∀ got rest, p.results = got :: rest →
            (got.2.2 = rd32 p.bytes (p.pos + 24) → exec .replayPacket s = .next { s with
              ras := kept { p with pos := p.pos + n, results := rest } }) ∧
            (got.2.2 ≠ rd32 p.bytes (p.pos + 24) → fails))) ∧
        (kind = 5 → exec .replayPacket s = .next (({ s with ras := { s.ras with
          replay := none } }).finish p.ring p.op Code.ok)) ∧
        (kind ≠ 2 → kind ≠ 4 → kind ≠ 5 → exec .replayPacket s = .next { s with ras := kept { p with pos := p.pos + n } })))

/-- PERST_DEASSERT, LINK_DOWN, RESTART_WARM, RESTART_COLD: a start begins: STARTING, of the kind R499 gives, with no job,
ring, pool, stream, view, span or dictionary, the registers at their reset values and next_cold used up; positions without a
Room stay OFFLINE; the contents of the HBM and the spares stay. PERST_ASSERT stops the device at the beginning of a start
that waits. PG_IN_DEASSERT: the supplies going down take it to OFF, where only the always-on values stay; PG_IN_ASSERT:
coming up starts nothing by itself. SUPPLY_FAULT: a rail out of tolerance is fatal. The steps of a start. COLD_START: a cold
start maps the spares, authenticates a slot, checks its compatibility, trains and zero-fills the HBM, remapping a lane that
fails; WARM_START checks what it kept and scrubs. START_COMPLETE: all steps passed, the device is HELD, UNCONFIGURED.
START_STEP_FAIL: a failed step's code leads to another cold start, to START_GIVEUP after three, or to HELD. Rules: R426,
R498, R499, R500, R501, R504, R505, R524, R525, R526, R532, R534. -/
def Obligations.Starts : Prop :=
  (let begun (s t : State) (cold : Bool) : Prop :=
     t.glb.dev = .starting ∧ t.hearth.start = some (!cold, .begin) ∧ t.hearth.warm = !cold ∧ t.hearth.nextCold = false ∧
     t.hearth.fails = s.hearth.fails ∧ t.hearth.aonValid = s.hearth.aonValid ∧ t.hearth.preserve = s.hearth.preserve ∧
     t.plan = Plan.reset ∧ t.larder = Larder.reset ∧ t.seqs = Seqs.reset ∧ t.capt = Capt.reset ∧
     t.track = Track.reset ∧ t.ring = { Rings.reset with nextOp := s.ring.nextOp } ∧ t.video.streams = [] ∧ t.video.views = [] ∧
     t.fab.spans = [] ∧ t.fab.joined = false ∧ t.ras.log = [] ∧ t.ras.retired = s.ras.retired ∧ t.pwr.aclk = s.pwr.aclk ∧
     t.pwr.pstate = 0 ∧ t.mem.dram = s.mem.dram ∧ t.glb.stopped = false ∧ t.glb.layout = none ∧ t.out = s.out ∧
     (∀ k, tget t.rooms k = if k ∈ s.glb.grid.lost then some { Room.reset with state := .offline } else none) ∧
     (∀ (i : Nat) q, s.fab.ports[i]? = some q → ∃ u, t.fab.ports[i]? = some u ∧
       u.state = if cold = false ∧ q.state = .failed then .failed else .disabled)
   let kind (s : State) (asked : Bool) : Bool := asked || s.hearth.nextCold || !s.hearth.aonValid || decide (s.hearth.fails ≠ 0)
   ∀ (s : State),
     (s.glb.dev = .off → s.pins.perst = true → s.pins.pgIn = true →
       Gives .perstDeassert s (fun t => begun s t true ∧ t.pins = { s.pins with perst := false })) ∧
     (s.glb.dev = .off → s.pins.pgIn = false →
       exec .perstDeassert s = .next { s with pins := { s.pins with perst := false } }) ∧
     (s.glb.dev = .starting → s.pins.perst = true → s.hearth.start = none →
       Gives .perstDeassert s (fun t => begun s t (kind s false) ∧ t.pins = { s.pins with perst := false })) ∧
     (s.glb.dev ≠ .off → s.porch.up = true → Gives .linkDown s (fun t => begun s t (kind s false) ∧ t.porch.up = false)) ∧
     (s.glb.dev = .off ∨ s.porch.up = false → exec .linkDown s = .next s) ∧
     (s.glb.dev ≠ .off → s.porch.up = true → s.porch.cfg.mse = true → s.glb.armed.getLsbD 14 = true → s.hearth.mbox = none →
       s.porch.low = none →
       Gives .restartWarm s (fun t => begun s t (kind s false) ∧ t.porch.cfg = s.porch.cfg ∧ t.porch.msix = s.porch.msix) ∧
       Gives .restartCold s (fun t => begun s t true ∧ t.porch.cfg = s.porch.cfg ∧ t.porch.msix = s.porch.msix))) ∧
  (∀ (s : State),
     exec .pgInAssert s = .next { s with pins := { s.pins with pgIn := true } } ∧
     Gives .pgInDeassert s (fun t => t.glb.dev = .off ∧
       t.pins = { s.pins with pgIn := false, thermtrip := false, tap := Tap.reset } ∧
       t.hearth.start = none ∧ t.hearth.images = [] ∧ t.mem.dram = [] ∧ t.plan = Plan.reset ∧
       t.larder = Larder.reset ∧ t.pwr.domains = 0 ∧ t.porch = Porch.reset ∧ t.ras.log = [] ∧ t.glb.override = false ∧
       t.hearth.fails = s.hearth.fails ∧ t.hearth.lastFail = s.hearth.lastFail ∧ t.hearth.preserve = s.hearth.preserve ∧
       t.hearth.nextCold = s.hearth.nextCold ∧ t.hearth.aonValid = s.hearth.aonValid) ∧
     (s.glb.dev = .off → exec .perstAssert s = .next { s with pins := { s.pins with perst := true } }) ∧
     (s.glb.dev ≠ .off → Gives .perstAssert s (fun t => t.glb.dev = .starting ∧ t.hearth.start = none ∧ t.porch.up = false ∧
       t.porch.cfg = ConfigSpace.reset s.porch.cfg.barLog2 ∧ t.porch.msix = [] ∧ t.hearth.funcReset = true ∧
       t.hearth.fails = s.hearth.fails ∧ t.hearth.nextCold = s.hearth.nextCold ∧ t.plan = Plan.reset ∧
       t.mem.dram = s.mem.dram ∧ t.pins = { s.pins with perst := true })) ∧
     (s.glb.dev = .serving ∨ s.glb.dev = .maintenance ∨ s.glb.dev = .draining → Gives .supplyFault s (fun t =>
       t.glb.dev = .held ∧ t.glb.reason = .fatal ∧ t.glb.cause = Code.low Code.supplyFault ∧ t.glb.stopped = true ∧
       t.ras.head = s.ras.head + 1 ∧ t.mem = s.mem ∧ t.plan = s.plan ∧ t.pins = s.pins)) ∧
     (s.glb.dev = .starting ∨ s.glb.dev = .held →
       exec .supplyFault s = .next (s.log { status := Code.supplyFault, action := 5 })) ∧
     (s.glb.dev = .off → exec .supplyFault s = .next s)) ∧
  (∀ (s : State),
     (∀ w, s.hearth.start = some (w, .passed) → exec .startComplete s = .next { s with
       hearth := { s.hearth with start := none, fails := 0, aonValid := s.hearth.aonValid || !w }
       glb := { s.glb with dev := .held, reason := .unconfigured, cause := 0 } }) ∧
     ((∀ w, s.hearth.start ≠ some (w, .passed)) → exec .startComplete s = .next s) ∧
     (∀ w c, s.hearth.start = some (w, .failed c) → Gives (.startStepFail (Code.low c)) s (fun t =>
       t.hearth.lastFail = Code.low c ∧
       (c = Code.fwCompat → t.glb.dev = .held ∧ t.glb.reason = .fwMismatch ∧ t.hearth.fails = s.hearth.fails) ∧
       (c ≠ Code.fwCompat → t.hearth.fails = satAdd s.hearth.fails 1 ∧
         (Code.cls c = 4 → t.glb.dev = .held ∧ t.glb.reason = .fatal ∧ t.glb.cause = Code.low c) ∧
         (Code.cls c ≠ 4 → s.hearth.fails.toNat < 2 → t.glb.dev = .starting ∧ t.hearth.start = some (false, .begin)) ∧
         (Code.cls c ≠ 4 → 2 ≤ s.hearth.fails.toNat → t.glb.dev = .held ∧ t.glb.reason = .giveup ∧
           t.ras.head = s.ras.head + 2)))) ∧
     (∀ x : ColdStartResult, s.hearth.start = some (false, .begin) →
       let good := s.part.goodRooms &&& x.rooms
       let first := if slotRank x.slotA < slotRank x.slotB then x.slotB else x.slotA
       let second := if slotRank x.slotA < slotRank x.slotB then x.slotA else x.slotB
       let fails (c : W32) (t : State) : Prop := t.hearth.start = some (false, .failed c) ∧ t.mem = s.mem
       (gridOk s.part.e good = false ∨ x.sram = false → Gives (.coldStart x) s (fails Code.startSram)) ∧
       (gridOk s.part.e good = true → x.sram = true →
         (slotOk first = false → slotOk second = false → Gives (.coldStart x) s (fails Code.fwAuth)) ∧
         (slotOk first = true ∨ slotOk second = true →
           let images := (if slotOk first then first else second).map FlashImage.kept
           let logged : W32 := if slotOk first then 0 else 1
           let bad := mismatches images
           let marks := s.mem.laneMarks ++ x.lanes.map (fun l => (spareOf l.1.toNat l.2.toNat, l.2.toNat))
           let passed (t : State) (logged : W32) (lanes : Tab Nat) : Prop :=
             t.hearth.start = some (false, .passed) ∧ t.hearth.images = images ∧ t.mem.dram = [] ∧ t.mem.poison = [] ∧
             t.mem.trained = true ∧ t.mem.ecc = s.mem.eccNext ∧ t.mem.lanes = lanes ∧ t.hearth.startMs = 1800 ∧
             t.glb.grid = fuseGrid s.part.e good ∧ t.glb.maint = s.pins.strapMaint ∧ t.glb.compat = s.pins.strapCompat ∧
             t.rooms = [] ∧ t.ras.retired = 0 ∧ t.ras.rows = [] ∧ t.ras.head = s.ras.head + logged
           (bad ≠ [] → Gives (.coldStart x) s (fun t =>
             fails Code.fwCompat t ∧ t.hearth.mismatch = bad ∧ t.ras.head = s.ras.head + logged)) ∧
           (bad = [] →
             (x.train = false → Gives (.coldStart x) s (fails Code.memTrain)) ∧
             (x.train = true → x.memSpare = false → Gives (.coldStart x) s (fun t =>
               t.hearth.start = some (false, .failed Code.memNoSpare) ∧ t.mem.dram = s.mem.dram)) ∧
             (x.train = true → x.memSpare = true →
               (marks = [] → Gives (.coldStart x) s (fun t => passed t (logged + 4) s.mem.lanes)) ∧
               (∀ k lane, marks = [(k, lane)] →
                 (tget s.mem.lanes k = none → Gives (.coldStart x) s (fun t =>
                   passed t (logged + 5) (tset s.mem.lanes k lane))) ∧
                 (tget s.mem.lanes k = some lane → Gives (.coldStart x) s (fun t => passed t (logged + 4) s.mem.lanes)) ∧
                 (∀ other, tget s.mem.lanes k = some other → other ≠ lane →
                   Gives (.coldStart x) s (fails Code.memNoSpare)))))))) ∧
     (∀ x : WarmStartResult, s.hearth.start = some (true, .begin) →
       let fails (c : W32) (t : State) : Prop := t.hearth.start = some (true, .failed c) ∧ t.mem = s.mem
       (x.train = false → Gives (.warmStart x) s (fails Code.memTrainStale)) ∧
       (x.train = true → x.quick = false → Gives (.warmStart x) s (fails Code.startQuick)) ∧
       (x.train = true → x.quick = true → x.hashes = false → Gives (.warmStart x) s (fails Code.fwHash)) ∧
       (∀ l, x.train = true → x.quick = true → x.hashes = true → s.mem.laneMarks = [] → s.hearth.lastLayout = some l →
         Gives (.warmStart x) s (fun t => t.hearth.start = some (true, .passed) ∧ t.hearth.preserve = false ∧
           t.glb.maint = s.pins.strapMaint ∧
           (∀ a, t.mem.dram.byte a =
             if (if s.hearth.preserve then (l.win + l.strong) * 2 ^ 20 else l.win * 2 ^ 20) ≤ a ∧
               a < (l.win + l.strong + l.save + 1344) * 2 ^ 20 then 0 else s.mem.dram.byte a)))))

/-- The actions of HEARTH_ACTION (DRAIN, RESUME, MAINT_ENTER, MAINT_EXIT, OVERRIDE, and the restarts), which needs the HEARTH
block armed and disarms it: each takes effect in the states that R498 gives it, and sets ACTION_STATE, MAINT_STRAP or
FW_LOCKED, and nothing else, in the others; while a mailbox packet is served the action waits. DRAIN_COMPLETE: a drain ends
HELD, DRAINED. Rules: R498, R502, R506, R510, R511, R514. -/
def Obligations.Actions : Prop :=
  (∀ (s : State), s.glb.dev ≠ .off → s.porch.up = true → s.porch.cfg.mse = true → s.porch.low = none →
    ∀ x ∈ [(Instr.restartWarm, 1#8), (.restartCold, 2), (.drain, 3), (.resume, 4), (.maintEnter, 5), (.maintExit, 6), (.override, 7)],
      (s.glb.armed.getLsbD 14 = false → exec x.1 s = .next s) ∧
      (s.glb.armed.getLsbD 14 = true → s.hearth.mbox ≠ none → exec x.1 s = .next { s with
        glb := { s.glb with armed := clearBit s.glb.armed 14 }
        hearth := { s.hearth with action := x.2, actionWaits := some x.2 } })) ∧
  (∀ (s : State), s.glb.dev ≠ .off → s.porch.up = true → s.porch.cfg.mse = true → s.glb.armed.getLsbD 14 = true →
    s.hearth.mbox = none → s.porch.low = none →
    let took (a : Byte) (code : W32) : State := { s with
      glb := { s.glb with armed := clearBit s.glb.armed 14 }
      hearth := { s.hearth with action := a, result := Code.low code } }
    let goes (t : State) (d : DevState) : State := { t with glb := { t.glb with dev := d, reason := .none } }
    let drained := s.glb.dev = .held ∧ s.glb.reason = .drained
    let fresh := s.glb.dev = .held ∧ s.glb.reason = .unconfigured
    let stuck := s.glb.dev = .held ∧ s.glb.reason = .fwMismatch
    (s.glb.dev = .serving ∨ s.glb.dev = .maintenance → exec .drain s = .next
      (goes { took 3 Code.ok with
        glb := { (took 3 Code.ok).glb with drainFrom := s.glb.dev }
        video := { s.video with views := s.video.views.map (fun v => (v.1, { v.2 with closing := true })) } } .draining)) ∧
    (¬ (s.glb.dev = .serving ∨ s.glb.dev = .maintenance) → exec .drain s = .next (took 3 Code.actionState)) ∧
    (drained → exec .resume s = .next (goes (took 4 Code.ok) s.glb.drainFrom)) ∧
    (¬ drained → exec .resume s = .next (took 4 Code.actionState)) ∧
    (drained ∨ fresh → s.glb.layout ≠ none → exec .maintEnter s = .next (goes (took 5 Code.ok) .maintenance)) ∧
    (fresh → s.glb.layout = none → s.hearth.preserved = none → exec .maintEnter s = .next
      (goes { took 5 Code.ok with
        glb := { (took 5 Code.ok).glb with layout := some s.defaultLayout }
        hearth := { (took 5 Code.ok).hearth with lastLayout := some s.defaultLayout, blob := [] } } .maintenance)) ∧
    (¬ drained → ¬ fresh → exec .maintEnter s = .next (took 5 Code.actionState)) ∧
    (s.glb.dev = .maintenance → s.glb.maint = false → exec .maintExit s = .next (goes (took 6 Code.ok) .serving)) ∧
    (s.glb.dev = .maintenance → s.glb.maint = true → exec .maintExit s = .next (took 6 Code.maintStrap)) ∧
    (s.glb.dev ≠ .maintenance → exec .maintExit s = .next (took 6 Code.actionState)) ∧
    (stuck → s.part.debug = true → exec .override s = .next { took 7 Code.ok with
      glb := { (took 7 Code.ok).glb with dev := .starting, reason := .none, cause := 0, override := true }
      hearth := { (took 7 Code.ok).hearth with start := some (false, .overridden) } }) ∧
    (stuck → s.part.debug = false → exec .override s = .next (took 7 Code.fwLocked)) ∧
    (¬ stuck → exec .override s = .next (took 7 Code.actionState)) ∧
    (s.glb.dev = .draining → s.quiet = true → exec .drainComplete s = .next { s with
      glb := { s.glb with dev := .held, reason := .drained, cause := 0 } }) ∧
    (s.glb.dev ≠ .draining ∨ s.quiet = false → exec .drainComplete s = .next s))

/-- A device that is OFF with its supplies down holds no work and stays so whatever step is taken: no command but
PG_IN_ASSERT, and no passing of time, brings it up. Rules: R498, R526. -/
def Obligations.OffStaysOff : Prop :=
  ∀ s t : State, s.Dark → step s = .next t → t.Dark

/-- After reset the device is OFF with its supplies down and holds no work, and the platform going down brings it there from
any state that has no PG_IN_ASSERT waiting. Rules: R498, R525. -/
def Obligations.ResetIsOff : Prop :=
  State.reset.Dark ∧ State.reset.pending = [] ∧
  ∀ s : State, Instr.pgInAssert ∉ s.pending → Gives .pgInDeassert s State.Dark

/-- A step with a command at the front of the queue is that command on the state with the queue's rest. Rules:
95_what_each_step_holds.md. -/
def Obligations.StepRunsFrontCommand : Prop :=
  ∀ (c : Instr) (rest : List Instr) (s : State),
    step { s with pending := c :: rest } = exec c { s with pending := rest }
end

