-- ==== Sys2Proof/Laws/Memory.lean ====
section
/-!
SUPPORT. Sparse memory: every operation keeps the canonical form; a byte after a write.
-/
namespace Sys2Proof.Machine

/-- The addresses listed by a memory lie above a bound, and its form is canonical. -/
theorem Memory.wf_cons (k : Nat) (b : Byte) (r : Memory) :
    Memory.wf ((k, b) :: r) = true ↔ b ≠ 0 ∧ (∀ c ∈ r.head?, k < c.1) ∧ Memory.wf r = true := by
  cases r with
  | nil => simp [Memory.wf]
  | cons c r => obtain ⟨j, v⟩ := c; simp [Memory.wf, and_assoc]

theorem Memory.wf_tail {c : Host.Cell} {r : Memory} (h : Memory.wf (c :: r) = true) : Memory.wf r = true :=
  ((Memory.wf_cons c.1 c.2 r).mp h).2.2

/-- In a canonical memory every later address is higher. -/
theorem Memory.wf_lt {k : Nat} {b : Byte} {r : Memory} (h : Memory.wf ((k, b) :: r) = true) :
    ∀ c ∈ r, k < c.1 := by
  induction r generalizing k b with
  | nil => simp
  | cons d r ih =>
    obtain ⟨j, v⟩ := d
    have h' := (Memory.wf_cons k b ((j, v) :: r)).mp h
    intro c hc
    have hk : k < j := h'.2.1 (j, v) rfl
    rcases List.mem_cons.mp hc with rfl | hc
    · exact hk
    · exact Nat.lt_trans hk (ih h'.2.2 c hc)

theorem Memory.byte_of_below {m : Memory} {a : Nat} (h : ∀ c ∈ m, a < c.1) : m.byte a = 0 := by
  induction m with
  | nil => rfl
  | cons c r ih =>
    obtain ⟨k, b⟩ := c
    have : k ≠ a := Nat.ne_of_gt (h (k, b) (List.mem_cons_self ..))
    simp only [Memory.byte, if_neg this]
    exact ih (fun c hc => h c (List.mem_cons_of_mem _ hc))

/-- The first address of a memory after a write is the written one or the first one before. -/
theorem Memory.head_put {m : Memory} {a : Nat} {v : Byte} {c : Host.Cell} (h : c ∈ (m.put a v).head?)
    (hm : Memory.wf m = true) : c.1 = a ∨ ∃ d ∈ m, c.1 = d.1 := by
  cases m with
  | nil =>
    simp only [Memory.put] at h
    split at h
    · simp at h
    · simp only [List.head?_cons, Option.mem_def, Option.some.injEq] at h
      exact .inl (h ▸ rfl)
  | cons e r =>
    obtain ⟨k, b⟩ := e
    simp only [Memory.put] at h
    split at h
    · split at h
      · simp only [List.head?_cons, Option.mem_def, Option.some.injEq] at h
        exact .inr ⟨(k, b), List.mem_cons_self .., h ▸ rfl⟩
      · simp only [List.head?_cons, Option.mem_def, Option.some.injEq] at h
        exact .inl (h ▸ rfl)
    · split at h
      · split at h
        · cases r with
          | nil => simp at h
          | cons d r =>
            simp only [List.head?_cons, Option.mem_def, Option.some.injEq] at h
            exact .inr ⟨d, by simp, h ▸ rfl⟩
        · simp only [List.head?_cons, Option.mem_def, Option.some.injEq] at h
          exact .inl (h ▸ rfl)
      · simp only [List.head?_cons, Option.mem_def, Option.some.injEq] at h
        exact .inr ⟨(k, b), List.mem_cons_self .., h ▸ rfl⟩

/-- Writing a byte keeps the canonical form. -/
theorem Memory.put_wf {m : Memory} (a : Nat) (v : Byte) (h : Memory.wf m = true) : Memory.wf (m.put a v) = true := by
  induction m with
  | nil =>
    simp only [Memory.put]
    split
    · rfl
    · rename_i hv; exact (Memory.wf_cons a v []).mpr ⟨hv, by simp, rfl⟩
  | cons e r ih =>
    obtain ⟨k, b⟩ := e
    have hh := (Memory.wf_cons k b r).mp h
    simp only [Memory.put]
    split
    · split
      · exact h
      · rename_i hlt hv
        exact (Memory.wf_cons a v _).mpr ⟨hv, by simpa using hlt, h⟩
    · split
      · rename_i heq
        split
        · exact hh.2.2
        · rename_i hv
          exact (Memory.wf_cons a v r).mpr ⟨hv, heq ▸ hh.2.1, hh.2.2⟩
      · rename_i hlt hne
        refine (Memory.wf_cons k b _).mpr ⟨hh.1, ?_, ih hh.2.2⟩
        intro c hc
        rcases Memory.head_put hc hh.2.2 with e | ⟨d, hd, e⟩
        · omega
        · rw [e]; exact Memory.wf_lt h d hd

/-- The byte just written. -/
theorem Memory.byte_put_self {m : Memory} (a : Nat) (v : Byte) (h : Memory.wf m = true) : (m.put a v).byte a = v := by
  induction m with
  | nil =>
    simp only [Memory.put]
    split
    · rename_i hv; simp only [Memory.byte, hv]
    · simp [Memory.byte]
  | cons e r ih =>
    obtain ⟨k, b⟩ := e
    have hb := Memory.wf_lt h
    simp only [Memory.put]
    split
    · rename_i hlt
      split
      · rename_i hv
        rw [hv]
        exact Memory.byte_of_below (fun c hc => by
          rcases List.mem_cons.mp hc with rfl | hc
          · exact hlt
          · exact Nat.lt_trans hlt (hb c hc))
      · simp [Memory.byte]
    · split
      · rename_i heq
        split
        · rename_i hv
          rw [hv]
          exact Memory.byte_of_below (fun c hc => heq ▸ hb c hc)
        · simp [Memory.byte]
      · rename_i hne
        simp only [Memory.byte, if_neg (fun e : k = a => hne e.symm)]
        exact ih (Memory.wf_tail h)

/-- Every other byte is as before. -/
theorem Memory.byte_put_ne (m : Memory) {a n : Nat} (v : Byte) (hn : n ≠ a) :
    (m.put a v).byte n = m.byte n := by
  induction m with
  | nil =>
    simp only [Memory.put]
    split
    · rfl
    · simp [Memory.byte, hn.symm]
  | cons e r ih =>
    obtain ⟨k, b⟩ := e
    simp only [Memory.put]
    split
    · split
      · rfl
      · simp [Memory.byte, hn.symm]
    · split
      · rename_i heq
        subst heq
        split <;> simp [Memory.byte, hn.symm]
      · simp only [Memory.byte, ih]

theorem Memory.writeMasked_wf {m : Memory} (a : Nat) (bs : List (Option Byte)) (h : Memory.wf m = true) :
    Memory.wf (m.writeMasked a bs) = true := by
  induction bs generalizing m a with
  | nil => exact h
  | cons b r ih =>
    cases b with
    | none => exact ih (a + 1) h
    | some v => exact ih (a + 1) (Memory.put_wf a v h)

theorem Memory.write_wf {m : Memory} (a : Nat) (bs : List Byte) (h : Memory.wf m = true) :
    Memory.wf (m.write a bs) = true := by
  induction bs generalizing m a with
  | nil => exact h
  | cons b r ih => exact ih (a + 1) (Memory.put_wf a b h)

/-- A byte below a write is as before. -/
theorem Memory.byte_writeMasked_below (m : Memory) {a n : Nat} (bs : List (Option Byte)) (h : n < a) :
    (m.writeMasked a bs).byte n = m.byte n := by
  induction bs generalizing m a with
  | nil => rfl
  | cons b r ih =>
    cases b with
    | none => exact ih m (by omega)
    | some v =>
      have e : (Memory.writeMasked m a (some v :: r)) = (m.put a v).writeMasked (a + 1) r := rfl
      rw [e, ih _ (by omega), Memory.byte_put_ne _ _ (by omega)]

/-- A byte after a masked write: the new one where the mask has one, else as before. -/
theorem Memory.byte_writeMasked {m : Memory} (a n : Nat) (bs : List (Option Byte)) (h : Memory.wf m = true) :
    (m.writeMasked a bs).byte n = if n < a then m.byte n else (bs.getD (n - a) none).getD (m.byte n) := by
  induction bs generalizing m a with
  | nil => simp [Memory.writeMasked]
  | cons b r ih =>
    by_cases hn : n < a
    · simp [hn, Memory.byte_writeMasked_below]
    · rw [if_neg hn]
      by_cases he : n = a
      · subst he
        cases b with
        | none =>
          have e : (Memory.writeMasked m n (none :: r)) = m.writeMasked (n + 1) r := rfl
          rw [e, Memory.byte_writeMasked_below _ _ (by omega)]
          simp
        | some v =>
          have e : (Memory.writeMasked m n (some v :: r)) = (m.put n v).writeMasked (n + 1) r := rfl
          rw [e, Memory.byte_writeMasked_below _ _ (by omega), Memory.byte_put_self _ _ h]
          simp
      · have hs : n - a = (n - (a + 1)) + 1 := by omega
        rw [hs, List.getD_cons_succ]
        cases b with
        | none =>
          have e : (Memory.writeMasked m a (none :: r)) = m.writeMasked (a + 1) r := rfl
          rw [e, ih _ h, if_neg (by omega)]
        | some v =>
          have e : (Memory.writeMasked m a (some v :: r)) = (m.put a v).writeMasked (a + 1) r := rfl
          rw [e, ih _ (Memory.put_wf a v h), if_neg (by omega), Memory.byte_put_ne _ _ he]

/-- A scrub leaves every byte outside its range. -/
theorem Memory.byte_zero (m : Memory) {lo hi a : Nat} (h : a < lo ∨ hi ≤ a) : (m.zero lo hi).byte a = m.byte a := by
  induction m with
  | nil => rfl
  | cons e r ih =>
    obtain ⟨k, b⟩ := e
    by_cases hp : k < lo ∨ hi ≤ k
    · have e : Memory.zero ((k, b) :: r) lo hi = (k, b) :: Memory.zero r lo hi := by
        rcases hp with hp | hp <;> simp [Memory.zero, hp]
      rw [e]
      show (if k = a then b else (Memory.zero r lo hi).byte a) = if k = a then b else Memory.byte r a
      rw [ih]
    · have e : Memory.zero ((k, b) :: r) lo hi = Memory.zero r lo hi := by
        have : ¬ k < lo ∧ ¬ hi ≤ k := not_or.mp hp
        simp [Memory.zero, this.1, this.2]
      rw [e, ih]
      show _ = if k = a then b else Memory.byte r a
      rw [if_neg (by omega)]

/-- A scrub keeps the canonical form. -/
theorem Memory.zero_wf {m : Memory} (lo hi : Nat) (h : Memory.wf m = true) : Memory.wf (m.zero lo hi) = true := by
  induction m with
  | nil => rfl
  | cons e r ih =>
    obtain ⟨k, b⟩ := e
    have hh := (Memory.wf_cons k b r).mp h
    have ihr := ih hh.2.2
    by_cases hp : k < lo ∨ hi ≤ k
    · have e : Memory.zero ((k, b) :: r) lo hi = (k, b) :: Memory.zero r lo hi := by
        rcases hp with hp | hp <;> simp [Memory.zero, hp]
      rw [e]
      refine (Memory.wf_cons k b _).mpr ⟨hh.1, ?_, ihr⟩
      intro c hc
      have : c ∈ Memory.zero r lo hi := List.mem_of_mem_head? hc
      exact Memory.wf_lt h c (List.mem_filter.mp this).1
    · have e : Memory.zero ((k, b) :: r) lo hi = Memory.zero r lo hi := by
        have : ¬ k < lo ∧ ¬ hi ≤ k := not_or.mp hp
        simp [Memory.zero, this.1, this.2]
      rw [e]; exact ihr

end Sys2Proof.Machine
end

