-- ==== Sys2Proof/Laws/Table.lean ====
section
/-!
SUPPORT. Reading a table after each of its updates.
-/
namespace Sys2Proof.Machine

variable {α : Type}

@[simp] theorem tget_nil (k : Nat) : tget ([] : Tab α) k = none := rfl

@[simp] theorem tget_tset_self (t : Tab α) (k : Nat) (a : α) : tget (tset t k a) k = some a := by
  induction t with
  | nil => simp [tset, tget]
  | cons p r ih =>
    obtain ⟨j, b⟩ := p
    unfold tset
    split
    · simp [tget]
    · split
      · simp [tget]
      · rename_i h
        simp only [tget, if_neg (fun e : j = k => h e.symm)]
        exact ih

theorem tget_tset_ne (t : Tab α) {k n : Nat} (a : α) (h : n ≠ k) : tget (tset t k a) n = tget t n := by
  induction t with
  | nil => simp [tset, tget, h.symm]
  | cons p r ih =>
    obtain ⟨j, b⟩ := p
    unfold tset
    split
    · simp [tget, h.symm]
    · split
      · rename_i e; subst e; simp [tget, h.symm]
      · simp only [tget, ih]

@[simp] theorem tget_tdel_self (t : Tab α) (k : Nat) : tget (tdel t k) k = none := by
  induction t with
  | nil => rfl
  | cons p r ih =>
    obtain ⟨j, b⟩ := p
    by_cases e : j = k
    · simpa [tdel, e] using ih
    · simp only [tdel, List.filter, bne_iff_ne.mpr e, tget, if_neg e]
      exact ih

theorem tget_tdel_ne (t : Tab α) {k n : Nat} (h : n ≠ k) : tget (tdel t k) n = tget t n := by
  induction t with
  | nil => rfl
  | cons p r ih =>
    obtain ⟨j, b⟩ := p
    by_cases e : j = k
    · subst e
      simp only [tget, if_neg h.symm]
      simpa [tdel] using ih
    · simp only [tdel, List.filter, bne_iff_ne.mpr e, tget]
      split
      · rfl
      · exact ih

theorem tget_tmod (t : Tab α) (k n : Nat) (f : α → α) :
    tget (tmod t k f) n = if n = k then (tget t n).map f else tget t n := by
  induction t with
  | nil => simp [tmod]
  | cons p r ih =>
    obtain ⟨j, b⟩ := p
    have e : tmod ((j, b) :: r) k f = (if j = k then (k, f b) else (j, b)) :: tmod r k f := rfl
    rw [e]
    by_cases hj : j = k
    · subst hj
      by_cases hn : n = j
      · subst hn; simp [tget]
      · simp [tget, hn, Ne.symm hn, ih]
    · by_cases hn : n = j
      · subst hn; simp [tget, hj]
      · simp [tget, hj, Ne.symm hn, ih]

@[simp] theorem tget_tmod_self (t : Tab α) (k : Nat) (f : α → α) : tget (tmod t k f) k = (tget t k).map f := by
  simp [tget_tmod]

theorem tget_tmod_ne (t : Tab α) {k n : Nat} (f : α → α) (h : n ≠ k) : tget (tmod t k f) n = tget t n := by
  simp [tget_tmod, h]

@[simp] theorem tget_tup_self (t : Tab α) (k : Nat) (d : α) (f : α → α) :
    tget (tup t k d f) k = some (f (tgetD t k d)) := tget_tset_self t k _

theorem tget_tup_ne (t : Tab α) {k n : Nat} (d : α) (f : α → α) (h : n ≠ k) : tget (tup t k d f) n = tget t n :=
  tget_tset_ne t _ h

@[simp] theorem tgetD_tup_self (t : Tab α) (k : Nat) (d e : α) (f : α → α) :
    tgetD (tup t k d f) k e = f (tgetD t k d) := by simp [tgetD]

theorem tgetD_tup_ne (t : Tab α) {k n : Nat} (d e : α) (f : α → α) (h : n ≠ k) :
    tgetD (tup t k d f) n e = tgetD t n e := by simp [tgetD, tget_tup_ne t d f h]

@[simp] theorem tgetD_tset_self (t : Tab α) (k : Nat) (a d : α) : tgetD (tset t k a) k d = a := by simp [tgetD]

@[simp] theorem thas_tset_self (t : Tab α) (k : Nat) (a : α) : thas (tset t k a) k = true := by simp [thas]

@[simp] theorem thas_tdel_self (t : Tab α) (k : Nat) : thas (tdel t k) k = false := by simp [thas]

theorem tget_map (l : Tab α) (g : α → α) (n : Nat) : tget (l.map (fun t => (t.1, g t.2))) n = (tget l n).map g := by
  induction l with
  | nil => rfl
  | cons a l ih =>
    simp only [List.map_cons, tget]
    split
    · rfl
    · exact ih

end Sys2Proof.Machine
end

