-- ==== Sys2Proof/Laws/Controllers.lean ====
section
/-!
SUPPORT. The memory controllers: no command changes what a reader sees; what a request can change.
-/
namespace Sys2Proof.Machine

/-- A pseudo-channel after an update of it. -/
theorem pc_modPc (m : Mem) (n : Nat) (f : Pc → Pc) : (m.modPc n f).pc n = f (m.pc n) := by
  unfold Mem.pc Mem.modPc tup tgetD
  simp

/-- What readers see of a write-queue entry. -/
def MemWrite.key (w : MemWrite) : Nat × List (Option Byte) := (w.block, w.data)

/-- Two memories that every reader sees alike, with the same DRAM contents. -/
def Mem.Same (m m' : Mem) : Prop :=
  m'.dram = m.dram ∧ m'.poison = m.poison ∧ m'.hall = m.hall ∧ ∀ b, (m'.entry b).map (·.data) = (m.entry b).map (·.data)

theorem find_key {l l' : List MemWrite} (h : l'.map MemWrite.key = l.map MemWrite.key) (b : Nat) :
    (l'.find? (fun w => w.block == b)).map (·.data) = (l.find? (fun w => w.block == b)).map (·.data) := by
  have e (l : List MemWrite) : (l.find? (fun w => w.block == b)).map (·.data) = ((l.map MemWrite.key).find? (fun q => q.1 == b)).map (·.2) := by
    rw [List.find?_map]
    simp [MemWrite.key, Function.comp_def]
  rw [e, e, h]

theorem entry_pc (m : Mem) (b : Nat) : m.entry b = (m.pc (pcOf b)).wq.find? (fun w => w.block == b) := by
  unfold Mem.entry Mem.pc tgetD
  cases tget m.pcs (pcOf b) <;> rfl

theorem pc_modPc_ne (m : Mem) {n k : Nat} (f : Pc → Pc) (h : k ≠ n) : (m.modPc n f).pc k = m.pc k := by
  unfold Mem.pc Mem.modPc tup tgetD
  rw [tget_tset_ne _ _ h]

theorem same_modPc (m : Mem) (n : Nat) (f : Pc → Pc) (h : (f (m.pc n)).wq.map MemWrite.key = (m.pc n).wq.map MemWrite.key) :
    Mem.Same m (m.modPc n f) := by
  refine ⟨rfl, rfl, rfl, fun b => ?_⟩
  rw [entry_pc, entry_pc]
  by_cases hb : pcOf b = n
  · rw [hb, pc_modPc]; exact find_key h b
  · rw [pc_modPc_ne _ _ hb]

theorem Mem.Same.trans {m m' m'' : Mem} (h : Mem.Same m m') (h' : Mem.Same m' m'') : Mem.Same m m'' :=
  ⟨h'.1.trans h.1, h'.2.1.trans h.2.1, h'.2.2.1.trans h.2.2.1, fun b => (h'.2.2.2 b).trans (h.2.2.2 b)⟩

theorem Mem.Same.byte {m m' : Mem} (h : Mem.Same m m') (a : Nat) : m'.byte a = m.byte a := by
  have e (m : Mem) : m.byte a = (((m.entry (a / 64)).map (·.data)).bind (fun d => d.getD (a % 64) none)).getD (m.dram.byte a) := by
    unfold Mem.byte
    cases h : m.entry (a / 64) with
    | none => rfl
    | some w =>
      simp only [Option.bind_some, Option.map_some]
      cases w.data.getD (a % 64) none <;> rfl
  rw [e, e, h.2.2.2, h.1]

theorem burstOn_clk (p : Pc) (m : Mem) (b : Nat) (x y : Bool) : (p.burstOn m b x y).clk = p.clk ∧ (p.burstOn m b x y).rq = p.rq ∧
    (p.burstOn m b x y).wq = p.wq ∧ (p.burstOn m b x y).retrying = p.retrying := ⟨rfl, rfl, rfl, rfl⟩

theorem bank_modBank (p : Pc) (b : Nat) (f : Bank → Bank) : (p.modBank b f).bank b = f (p.bank b) := by
  unfold Pc.bank Pc.modBank tup tgetD
  simp

theorem orElse_some {α : Type} {a : Option α} {f : Unit → Option α} {c : α} (h : a.orElse f = some c) : a = some c ∨ f () = some c := by
  cases a with
  | none => exact .inr h
  | some x => exact .inl h

/-- A command for a queued write is for an entry of the queue. -/
theorem choose_write {p : Pc} {m : Mem} {c : PcChoice} (h : p.choose m = some c) {w : MemWrite} (hw : c.write = some w) : w ∈ p.wq := by
  have hr (b : Nat) (x : Bool) {c : PcChoice} (h : p.refreshChoice b x = some c) : c.write = none := by
    unfold Pc.refreshChoice at h
    split_ifs at h
    · obtain ⟨_, _, rfl⟩ := Option.map_eq_some_iff.mp h; rfl
    · obtain ⟨_, _, rfl⟩ := Option.map_eq_some_iff.mp h; rfl
  have he (e : MemRead) {c : PcChoice} (h : p.readChoice m e = some c) : c.write = none := by
    unfold Pc.readChoice at h
    obtain ⟨_, _, rfl⟩ := Option.map_eq_some_iff.mp h; rfl
  unfold Pc.choose at h
  dsimp only at h
  rcases orElse_some h with h | h
  · rcases orElse_some h with h | h
    · rcases orElse_some h with h | h
      · rcases orElse_some h with h | h
        · rcases orElse_some h with h | h
          · obtain ⟨_, a, b, h1, h2, h3⟩ := List.findSome?_eq_some_iff.mp h
            split_ifs at h2
            · rw [hr _ _ h2] at hw; cases hw
            · rw [hr _ _ h2] at hw; cases hw
          · obtain ⟨e, _, h2⟩ := Option.bind_eq_some_iff.mp h
            split_ifs at h2
            rw [he _ h2] at hw; cases hw
        · split_ifs at h
          obtain ⟨l1, a, l2, h1, h2, h3⟩ := List.findSome?_eq_some_iff.mp h
          unfold Pc.writeChoice at h2
          split_ifs at h2
          obtain ⟨_, _, rfl⟩ := Option.map_eq_some_iff.mp h2
          cases hw
          rw [h1]; simp
      · obtain ⟨l1, a, l2, h1, h2, h3⟩ := List.findSome?_eq_some_iff.mp h
        obtain ⟨e, h4, h5⟩ := Option.bind_eq_some_iff.mp h2
        split_ifs at h5
        cases h5
        rw [he _ h4] at hw; cases hw
    · obtain ⟨e, _, h2⟩ := Option.bind_eq_some_iff.mp h
      rw [he _ h2] at hw; cases hw
  · obtain ⟨l1, a, l2, h1, h2, h3⟩ := List.findSome?_eq_some_iff.mp h
    split_ifs at h2
    · rw [hr _ _ h2] at hw; cases hw
    · rw [hr _ _ h2] at hw; cases hw

theorem patchQueue_block (a : Nat) (bs : List (Option Byte)) (w : MemWrite) : (patchQueue a bs w).block = w.block := by
  unfold patchQueue; split <;> rfl

/-- A drained entry goes to the DRAM: every byte reads as before. -/
theorem drainTo_keeps {m : Mem} {n b : Nat} {w : MemWrite} (hd : Memory.wf m.dram = true) (hn : pcOf w.block = n)
    (hp : (m.pc n).wq.Pairwise (fun x y => x.block ≠ y.block)) (hw : w ∈ (m.pc n).wq) (hl : w.data.length = 64) :
    (∀ a, (m.drainTo n b w).byte a = m.byte a) ∧ Memory.wf (m.drainTo n b w).dram = true ∧ (m.drainTo n b w).hall = m.hall ∧
      ((m.drainTo n b w).pc n).clk = (m.pc n).clk ∧ ((m.drainTo n b w).pc n).retrying = (m.pc n).retrying := by
  have hmap (l : Tab Pc) (f : Pc → Pc) (k : Nat) : tget (l.map (fun p => (p.1, f p.2))) k = (tget l k).map f := tget_map l f k
  obtain ⟨m1, hm1⟩ : ∃ m1, m1 = m.modPc n (fun p => { p.modBank b (fun k => { k with dirty := m.ecc }) with wq := p.wq.filter (fun x => x.block != w.block) }) := ⟨_, rfl⟩
  have h1 : (m1.pc n).clk = (m.pc n).clk ∧ (m1.pc n).retrying = (m.pc n).retrying ∧ (m1.pc n).wq = (m.pc n).wq.filter (fun x => x.block != w.block) := by
    rw [hm1, pc_modPc]; exact ⟨rfl, rfl, rfl⟩
  have h2 : ∀ k, k ≠ n → m1.pc k = m.pc k := by intro k hk; rw [hm1, pc_modPc_ne _ _ hk]
  have h3 : m1.dram = m.dram ∧ m1.hall = m.hall := by rw [hm1]; exact ⟨rfl, rfl⟩
  have hpc (k : Nat) : ((m.drainTo n b w).pc k).wq = (m1.pc k).wq.map (patchQueue (64 * w.block) w.data) ∧
      ((m.drainTo n b w).pc k).clk = (m1.pc k).clk ∧ ((m.drainTo n b w).pc k).retrying = (m1.pc k).retrying := by
    unfold Mem.drainTo
    rw [← hm1]
    dsimp only
    unfold Mem.writeMasked Mem.pc tgetD
    dsimp only
    rw [hmap m1.pcs (fun p => { p with wq := p.wq.map (patchQueue (64 * w.block) w.data) }) k]
    cases tget m1.pcs k <;> exact ⟨rfl, rfl, rfl⟩
  have hdr : (m.drainTo n b w).dram = m.dram.writeMasked (64 * w.block) w.data := by
    unfold Mem.drainTo; rw [← hm1, ← h3.1]; rfl
  refine ⟨?_, ?_, ?_, ?_, ?_⟩
  · intro a
    unfold Mem.byte
    rw [entry_pc, entry_pc, (hpc _).1, hdr, Memory.byte_writeMasked _ _ _ hd]
    by_cases hb : a / 64 = w.block
    · have e1 : (m.pc (pcOf (a / 64))).wq.find? (fun x => x.block == a / 64) = some w := by
        rw [hb, hn]
        clear hpc hdr h1 h2 h3 hm1
        generalize (m.pc n).wq = l at hp hw
        induction l with
        | nil => cases hw
        | cons y l ih =>
          by_cases hy : y.block = w.block
          · rcases List.mem_cons.mp hw with rfl | hm
            · simp
            · exact absurd hy ((List.pairwise_cons.mp hp).1 w hm)
          · rcases List.mem_cons.mp hw with rfl | hm
            · exact absurd rfl hy
            · rw [List.find?_cons_of_neg (by simpa using hy)]
              exact ih (List.pairwise_cons.mp hp).2 hm
      have e2 : ((m1.pc (pcOf (a / 64))).wq.map (patchQueue (64 * w.block) w.data)).find? (fun x => x.block == a / 64) = none := by
        rw [hb, hn, h1.2.2, List.find?_eq_none]
        intro x hx
        obtain ⟨y, hy, rfl⟩ := List.mem_map.mp hx
        rw [patchQueue_block]
        simpa using (List.mem_filter.mp hy).2
      rw [e1, e2, if_neg (by omega), show a - 64 * w.block = a % 64 by omega]
      simp only [Option.bind_none, Option.bind_some]
      cases w.data.getD (a % 64) none <;> rfl
    · have e3 : ((m1.pc (pcOf (a / 64))).wq.map (patchQueue (64 * w.block) w.data)).find? (fun x => x.block == a / 64) =
          (m.pc (pcOf (a / 64))).wq.find? (fun x => x.block == a / 64) := by
        rw [List.find?_map]
        have e4 : (fun x : MemWrite => x.block == a / 64) ∘ patchQueue (64 * w.block) w.data = fun x => x.block == a / 64 := by
          funext x; simp [patchQueue_block]
        rw [e4]
        have e5 : (m1.pc (pcOf (a / 64))).wq.find? (fun x => x.block == a / 64) = (m.pc (pcOf (a / 64))).wq.find? (fun x => x.block == a / 64) := by
          by_cases hk : pcOf (a / 64) = n
          · rw [hk, h1.2.2, List.find?_filter]
            congr 1
            funext x
            by_cases hx : x.block = a / 64
            · simp [hx, hb]
            · simp [hx]
          · rw [h2 _ hk]
        rw [e5]
        cases hf : (m.pc (pcOf (a / 64))).wq.find? (fun x => x.block == a / 64) with
        | none => rfl
        | some x =>
          have hx : x.block = a / 64 := by simpa using List.find?_some hf
          simp only [Option.map_some]
          unfold patchQueue
          rw [if_pos]
          simp only [hl, Bool.or_eq_true, decide_eq_true_eq]
          omega
      rw [e3]
      have e6 : (if a < 64 * w.block then m.dram.byte a else (w.data.getD (a - 64 * w.block) none).getD (m.dram.byte a)) = m.dram.byte a := by
        split
        · rfl
        · rw [List.getD_eq_default _ _ (by omega)]; rfl
      rw [e6]
  · rw [hdr]; exact Memory.writeMasked_wf _ _ hd
  · unfold Mem.drainTo; rw [← hm1, ← h3.2]; rfl
  · rw [(hpc n).2.1, h1.1]
  · rw [(hpc n).2.2, h1.2.1]

/-- A command other than a column command leaves the contents, the queues and the clock. -/
theorem issue_plain (m : Mem) (n ps : Nat) (c : PcChoice) (h : c.cmd ≠ .column) : Mem.Same m (m.issue n ps c) ∧
    ((m.issue n ps c).pc n).clk = (m.pc n).clk ∧ ((m.issue n ps c).pc n).retrying = (m.pc n).retrying ∧
    ((m.issue n ps c).pc n).wq = (m.pc n).wq ∧ ((m.issue n ps c).pc n).rq.map (·.block) = (m.pc n).rq.map (·.block) := by
  have key (f : Pc → Pc) (h1 : (f (m.pc n)).wq = (m.pc n).wq) (h2 : (f (m.pc n)).clk = (m.pc n).clk) (h3 : (f (m.pc n)).retrying = (m.pc n).retrying)
      (h4 : (f (m.pc n)).rq.map (·.block) = (m.pc n).rq.map (·.block)) : Mem.Same m (m.modPc n f) ∧
      ((m.modPc n f).pc n).clk = (m.pc n).clk ∧ ((m.modPc n f).pc n).retrying = (m.pc n).retrying ∧
      ((m.modPc n f).pc n).wq = (m.pc n).wq ∧ ((m.modPc n f).pc n).rq.map (·.block) = (m.pc n).rq.map (·.block) := by
    refine ⟨same_modPc m n f (by rw [h1]), ?_, ?_, ?_, ?_⟩ <;> rw [pc_modPc] <;> assumption
  unfold Mem.issue
  cases hc : c.cmd with
  | column => exact absurd hc h
  | precharge | checkRead | checkWrite | refresh | rfm => dsimp only; apply key <;> rfl
  | activate row =>
    dsimp only
    unfold Mem.activate
    dsimp only
    have h4 (l : List MemRead) : (l.map (fun e => if some e = c.read then { e with fresh := e.retry } else e)).map (·.block) = l.map (·.block) := by
      rw [List.map_map]
      refine List.map_congr_left (fun e _ => ?_)
      simp only [Function.comp_apply]
      split <;> rfl
    split
    · refine ⟨?_, ?_, ?_, ?_, ?_⟩
      · refine Mem.Same.trans (m' := { m with nrDrawn := satAdd m.nrDrawn 1 }) ⟨rfl, rfl, rfl, fun _ => rfl⟩ (same_modPc _ n _ ?_)
        rfl
      all_goals rw [pc_modPc]
      all_goals first | exact rfl | exact h4 (m.pc n).rq
    · apply key
      all_goals first | exact rfl | exact h4 (m.pc n).rq

/-- No command changes what a reader sees. -/
theorem issue_keeps {m : Mem} {n : Nat} (ps : Nat) {c : PcChoice} (hd : Memory.wf m.dram = true)
    (hp : (m.pc n).wq.Pairwise (fun x y => x.block ≠ y.block)) (hq : ∀ w ∈ (m.pc n).wq, pcOf w.block = n ∧ w.data.length = 64)
    (hc : ∀ w, c.write = some w → w ∈ (m.pc n).wq) :
    (∀ a, (m.issue n ps c).byte a = m.byte a) ∧ Memory.wf (m.issue n ps c).dram = true ∧ (m.issue n ps c).hall = m.hall ∧
      ((m.issue n ps c).pc n).clk = (m.pc n).clk ∧ ((m.issue n ps c).pc n).retrying = (m.pc n).retrying := by
  by_cases h : c.cmd = .column
  · have e : m.issue n ps c = m.column n c.bank c := by unfold Mem.issue; rw [h]
    rw [e]
    unfold Mem.column
    cases hr : c.read with
    | some r =>
      dsimp only
      have h1 := same_modPc m n (fun p => { p.burstOn m c.bank true true with rq := p.rq.erase r, flight := p.flight ++ [r] }) rfl
      refine ⟨fun a => h1.byte a, by rw [h1.1]; exact hd, h1.2.2.1, ?_, ?_⟩ <;> rw [pc_modPc] <;> rfl
    | none =>
      cases hw : c.write with
      | none => exact ⟨fun _ => rfl, hd, rfl, rfl, rfl⟩
      | some w =>
        dsimp only
        obtain ⟨fill, hf⟩ : ∃ x, x = (m.ecc && !fullMask w.data && w.filled.isNone) := ⟨_, rfl⟩
        rw [← hf]
        obtain ⟨m1, h1⟩ : ∃ m1, m1 = m.modPc n (fun p => p.burstOn m c.bank true fill) := ⟨_, rfl⟩
        rw [← h1]
        have h2 : Mem.Same m m1 := by rw [h1]; exact same_modPc m n _ rfl
        have h3 : m1.pc n = (m.pc n).burstOn m c.bank true fill := by rw [h1, pc_modPc]
        split
        · unfold Mem.beginFill
          have h4 := same_modPc m1 n (fun p => { p with wq := p.wq.map (fun x => if x.block = w.block then { x with reading := true } else x), flight := p.flight ++ [{ port := 23, block := w.block, at_ := p.clk, use := .drain, data := m1.dram.read (64 * w.block) 64, bad := m1.poison.contains w.block, fwd := [], retry := false, fresh := false }] }) (by
              dsimp only
              rw [List.map_map]
              refine List.map_congr_left (fun x _ => ?_)
              simp only [Function.comp_apply]
              split <;> rfl)
          have h5 := h2.trans h4
          refine ⟨fun a => h5.byte a, by rw [h5.1]; exact hd, h5.2.2.1, ?_, ?_⟩ <;> rw [pc_modPc, h3] <;> rfl
        · have hm := hc w hw
          obtain ⟨a1, a2, a3, a4, a5⟩ := drainTo_keeps (m := m1) (n := n) (b := c.bank) (w := w) (by rw [h2.1]; exact hd) (hq w hm).1
            (by rw [h3]; exact hp) (by rw [h3]; exact hm) (hq w hm).2
          refine ⟨fun a => (a1 a).trans (h2.byte a), a2, a3.trans h2.2.2.1, ?_, ?_⟩
          · rw [a4, h3]; rfl
          · rw [a5, h3]; rfl
  · obtain ⟨h1, h2, h3, -, -⟩ := issue_plain m n ps c h
    exact ⟨fun a => h1.byte a, by rw [h1.1]; exact hd, h1.2.2.1, h2, h3⟩

/-- All that the acceptance of a request can change. -/
theorem memAccept_form {m m' : Mem} {port : Nat} {r : PortReq} (h : m.accept port r = some m') :
    ∃ p g f, m' = { m with pcs := p, given := g, fwdFull := f } := by
  have hb (m : Mem) (b : Nat) : ∃ p g f, m.behind b = { m with pcs := p, given := g, fwdFull := f } := by
    unfold Mem.behind
    split
    · exact ⟨_, _, _, rfl⟩
    · dsimp only
      split <;> exact ⟨_, _, _, rfl⟩
  unfold Mem.accept at h
  split at h
  · unfold Mem.acceptRead at h
    dsimp only at h
    split_ifs at h <;> cases h <;> exact ⟨_, _, _, rfl⟩
  · unfold Mem.acceptWrite at h
    split at h
    · cases h
      obtain ⟨p, g, f, e⟩ := hb (m.modPc (pcOf r.block) (fun p => { p with wq := p.wq.map (fun w => if w.block = r.block then { w with data := mergeMask (by assumption) w.data } else w) })) r.block
      exact ⟨p, g, f, e⟩
    · split_ifs at h
      cases h
      obtain ⟨p, g, f, e⟩ := hb (m.modPc (pcOf r.block) (fun p => { p with wq := p.wq ++ [{ block := r.block, data := (by assumption), reading := false, filled := none }] })) r.block
      exact ⟨p, g, f, e⟩

theorem hallEnter_form (m : Mem) (port : Nat) (r : PortReq) : ∃ p h g f, m.enter port r = { m with pcs := p, hall := h, given := g, fwdFull := f } := by
  unfold Mem.enter
  split
  · rename_i m' h
    split_ifs at h
    obtain ⟨p, g, f, rfl⟩ := memAccept_form h
    exact ⟨_, _, _, _, rfl⟩
  · exact ⟨_, _, _, _, rfl⟩

theorem hall_fold {α : Type} (port : α → Nat) (req : α → PortReq) (l : List α) : ∀ m : Mem,
    ∃ p h g f, l.foldl (fun m x => m.enter (port x) (req x)) m = { m with pcs := p, hall := h, given := g, fwdFull := f } := by
  induction l with
  | nil => intro m; exact ⟨_, _, _, _, rfl⟩
  | cons x l ih =>
    intro m
    obtain ⟨p, h, g, f, e⟩ := hallEnter_form m (port x) (req x)
    obtain ⟨p', h', g', f', e'⟩ := ih (m.enter (port x) (req x))
    refine ⟨p', h', g', f', ?_⟩
    rw [List.foldl_cons, e', e]

/-- All that a request at a port can change. -/
theorem memRequest_form (m : Mem) (port : Nat) (r : PortReq) : ∃ p q h g f,
    m.request port r = { m with pcs := p, ports := q, hall := h, given := g, fwdFull := f } := by
  unfold Mem.request
  split
  · exact ⟨_, _, _, _, _, rfl⟩
  · split
    · unfold Mem.takeReq
      obtain ⟨p, h, g, f, e⟩ := hall_fold (fun _ => port) id r.blocks { m with ports := lmod m.ports port (·.pay r.cost) }
      exact ⟨p, _, h, g, f, e⟩
    · exact ⟨_, _, _, _, _, rfl⟩

/-- When a request passes its port at once. -/
theorem due_zero (p : MemPortState) (k : Nat) :
    p.due k = some 0 ↔ p.enable = false ∨ k ≤ p.size ∧ (p.owed + k) * 256 ≤ p.tokens * 256 + p.frac.toNat := by
  unfold MemPortState.due MemPortState.have256
  cases p.enable
  · simp
  · simp only [Bool.not_true, Bool.false_eq_true, if_false]
    split
    · simp; omega
    · split
      · simp; omega
      · split
        · simp; omega
        · rename_i h1 h2 h3
          have : ceilDiv ((p.owed + k) * 256 - (p.tokens * 256 + p.frac.toNat)) p.gain ≠ 0 := by
            unfold ceilDiv
            have : 0 < ((p.owed + k) * 256 - (p.tokens * 256 + p.frac.toNat) + (p.gain - 1)) / p.gain :=
              Nat.div_pos (by omega) (by omega)
            exact Nat.pos_iff_ne_zero.mp this
          simp only [Option.some.injEq, this, false_iff]
          simp; omega

end Sys2Proof.Machine
end

