-- ==== Sys2Proof/Laws/State.lean ====
section
/-!
SUPPORT. What each update of one part of the state gives in every field of the state: all true by rfl.
-/
namespace Sys2Proof.Machine

variable (s : State)

/-! ## modCapt -/

@[simp] theorem State.modCapt_pending (f : Capt → Capt) : (s.modCapt f).pending = s.pending := rfl
@[simp] theorem State.modCapt_free (f : Capt → Capt) : (s.modCapt f).free = s.free := rfl
@[simp] theorem State.modCapt_part (f : Capt → Capt) : (s.modCapt f).part = s.part := rfl
@[simp] theorem State.modCapt_pins (f : Capt → Capt) : (s.modCapt f).pins = s.pins := rfl
@[simp] theorem State.modCapt_glb (f : Capt → Capt) : (s.modCapt f).glb = s.glb := rfl
@[simp] theorem State.modCapt_ring (f : Capt → Capt) : (s.modCapt f).ring = s.ring := rfl
@[simp] theorem State.modCapt_porch (f : Capt → Capt) : (s.modCapt f).porch = s.porch := rfl
@[simp] theorem State.modCapt_out (f : Capt → Capt) : (s.modCapt f).out = s.out := rfl
@[simp] theorem State.modCapt_hearth (f : Capt → Capt) : (s.modCapt f).hearth = s.hearth := rfl
@[simp] theorem State.modCapt_plan (f : Capt → Capt) : (s.modCapt f).plan = s.plan := rfl
@[simp] theorem State.modCapt_rooms (f : Capt → Capt) : (s.modCapt f).rooms = s.rooms := rfl
@[simp] theorem State.modCapt_larder (f : Capt → Capt) : (s.modCapt f).larder = s.larder := rfl
@[simp] theorem State.modCapt_seqs (f : Capt → Capt) : (s.modCapt f).seqs = s.seqs := rfl
@[simp] theorem State.modCapt_video (f : Capt → Capt) : (s.modCapt f).video = s.video := rfl
@[simp] theorem State.modCapt_capt (f : Capt → Capt) : (s.modCapt f).capt = f s.capt := rfl
@[simp] theorem State.modCapt_track (f : Capt → Capt) : (s.modCapt f).track = s.track := rfl
@[simp] theorem State.modCapt_mem (f : Capt → Capt) : (s.modCapt f).mem = s.mem := rfl
@[simp] theorem State.modCapt_fab (f : Capt → Capt) : (s.modCapt f).fab = s.fab := rfl
@[simp] theorem State.modCapt_pwr (f : Capt → Capt) : (s.modCapt f).pwr = s.pwr := rfl
@[simp] theorem State.modCapt_ras (f : Capt → Capt) : (s.modCapt f).ras = s.ras := rfl

/-! ## modFab -/

@[simp] theorem State.modFab_pending (f : Fab → Fab) : (s.modFab f).pending = s.pending := rfl
@[simp] theorem State.modFab_free (f : Fab → Fab) : (s.modFab f).free = s.free := rfl
@[simp] theorem State.modFab_part (f : Fab → Fab) : (s.modFab f).part = s.part := rfl
@[simp] theorem State.modFab_pins (f : Fab → Fab) : (s.modFab f).pins = s.pins := rfl
@[simp] theorem State.modFab_glb (f : Fab → Fab) : (s.modFab f).glb = s.glb := rfl
@[simp] theorem State.modFab_ring (f : Fab → Fab) : (s.modFab f).ring = s.ring := rfl
@[simp] theorem State.modFab_porch (f : Fab → Fab) : (s.modFab f).porch = s.porch := rfl
@[simp] theorem State.modFab_out (f : Fab → Fab) : (s.modFab f).out = s.out := rfl
@[simp] theorem State.modFab_hearth (f : Fab → Fab) : (s.modFab f).hearth = s.hearth := rfl
@[simp] theorem State.modFab_plan (f : Fab → Fab) : (s.modFab f).plan = s.plan := rfl
@[simp] theorem State.modFab_rooms (f : Fab → Fab) : (s.modFab f).rooms = s.rooms := rfl
@[simp] theorem State.modFab_larder (f : Fab → Fab) : (s.modFab f).larder = s.larder := rfl
@[simp] theorem State.modFab_seqs (f : Fab → Fab) : (s.modFab f).seqs = s.seqs := rfl
@[simp] theorem State.modFab_video (f : Fab → Fab) : (s.modFab f).video = s.video := rfl
@[simp] theorem State.modFab_capt (f : Fab → Fab) : (s.modFab f).capt = s.capt := rfl
@[simp] theorem State.modFab_track (f : Fab → Fab) : (s.modFab f).track = s.track := rfl
@[simp] theorem State.modFab_mem (f : Fab → Fab) : (s.modFab f).mem = s.mem := rfl
@[simp] theorem State.modFab_fab (f : Fab → Fab) : (s.modFab f).fab = f s.fab := rfl
@[simp] theorem State.modFab_pwr (f : Fab → Fab) : (s.modFab f).pwr = s.pwr := rfl
@[simp] theorem State.modFab_ras (f : Fab → Fab) : (s.modFab f).ras = s.ras := rfl

/-! ## modLarder -/

@[simp] theorem State.modLarder_pending (f : Larder → Larder) : (s.modLarder f).pending = s.pending := rfl
@[simp] theorem State.modLarder_free (f : Larder → Larder) : (s.modLarder f).free = s.free := rfl
@[simp] theorem State.modLarder_part (f : Larder → Larder) : (s.modLarder f).part = s.part := rfl
@[simp] theorem State.modLarder_pins (f : Larder → Larder) : (s.modLarder f).pins = s.pins := rfl
@[simp] theorem State.modLarder_glb (f : Larder → Larder) : (s.modLarder f).glb = s.glb := rfl
@[simp] theorem State.modLarder_ring (f : Larder → Larder) : (s.modLarder f).ring = s.ring := rfl
@[simp] theorem State.modLarder_porch (f : Larder → Larder) : (s.modLarder f).porch = s.porch := rfl
@[simp] theorem State.modLarder_out (f : Larder → Larder) : (s.modLarder f).out = s.out := rfl
@[simp] theorem State.modLarder_hearth (f : Larder → Larder) : (s.modLarder f).hearth = s.hearth := rfl
@[simp] theorem State.modLarder_plan (f : Larder → Larder) : (s.modLarder f).plan = s.plan := rfl
@[simp] theorem State.modLarder_rooms (f : Larder → Larder) : (s.modLarder f).rooms = s.rooms := rfl
@[simp] theorem State.modLarder_larder (f : Larder → Larder) : (s.modLarder f).larder = f s.larder := rfl
@[simp] theorem State.modLarder_seqs (f : Larder → Larder) : (s.modLarder f).seqs = s.seqs := rfl
@[simp] theorem State.modLarder_video (f : Larder → Larder) : (s.modLarder f).video = s.video := rfl
@[simp] theorem State.modLarder_capt (f : Larder → Larder) : (s.modLarder f).capt = s.capt := rfl
@[simp] theorem State.modLarder_track (f : Larder → Larder) : (s.modLarder f).track = s.track := rfl
@[simp] theorem State.modLarder_mem (f : Larder → Larder) : (s.modLarder f).mem = s.mem := rfl
@[simp] theorem State.modLarder_fab (f : Larder → Larder) : (s.modLarder f).fab = s.fab := rfl
@[simp] theorem State.modLarder_pwr (f : Larder → Larder) : (s.modLarder f).pwr = s.pwr := rfl
@[simp] theorem State.modLarder_ras (f : Larder → Larder) : (s.modLarder f).ras = s.ras := rfl

/-! ## modMem -/

@[simp] theorem State.modMem_pending (f : Mem → Mem) : (s.modMem f).pending = s.pending := rfl
@[simp] theorem State.modMem_free (f : Mem → Mem) : (s.modMem f).free = s.free := rfl
@[simp] theorem State.modMem_part (f : Mem → Mem) : (s.modMem f).part = s.part := rfl
@[simp] theorem State.modMem_pins (f : Mem → Mem) : (s.modMem f).pins = s.pins := rfl
@[simp] theorem State.modMem_glb (f : Mem → Mem) : (s.modMem f).glb = s.glb := rfl
@[simp] theorem State.modMem_ring (f : Mem → Mem) : (s.modMem f).ring = s.ring := rfl
@[simp] theorem State.modMem_porch (f : Mem → Mem) : (s.modMem f).porch = s.porch := rfl
@[simp] theorem State.modMem_out (f : Mem → Mem) : (s.modMem f).out = s.out := rfl
@[simp] theorem State.modMem_hearth (f : Mem → Mem) : (s.modMem f).hearth = s.hearth := rfl
@[simp] theorem State.modMem_plan (f : Mem → Mem) : (s.modMem f).plan = s.plan := rfl
@[simp] theorem State.modMem_rooms (f : Mem → Mem) : (s.modMem f).rooms = s.rooms := rfl
@[simp] theorem State.modMem_larder (f : Mem → Mem) : (s.modMem f).larder = s.larder := rfl
@[simp] theorem State.modMem_seqs (f : Mem → Mem) : (s.modMem f).seqs = s.seqs := rfl
@[simp] theorem State.modMem_video (f : Mem → Mem) : (s.modMem f).video = s.video := rfl
@[simp] theorem State.modMem_capt (f : Mem → Mem) : (s.modMem f).capt = s.capt := rfl
@[simp] theorem State.modMem_track (f : Mem → Mem) : (s.modMem f).track = s.track := rfl
@[simp] theorem State.modMem_mem (f : Mem → Mem) : (s.modMem f).mem = f s.mem := rfl
@[simp] theorem State.modMem_fab (f : Mem → Mem) : (s.modMem f).fab = s.fab := rfl
@[simp] theorem State.modMem_pwr (f : Mem → Mem) : (s.modMem f).pwr = s.pwr := rfl
@[simp] theorem State.modMem_ras (f : Mem → Mem) : (s.modMem f).ras = s.ras := rfl

/-! ## modRing -/

@[simp] theorem State.modRing_pending (r : Nat) (f : RingCtx → RingCtx) : (s.modRing r f).pending = s.pending := rfl
@[simp] theorem State.modRing_free (r : Nat) (f : RingCtx → RingCtx) : (s.modRing r f).free = s.free := rfl
@[simp] theorem State.modRing_part (r : Nat) (f : RingCtx → RingCtx) : (s.modRing r f).part = s.part := rfl
@[simp] theorem State.modRing_pins (r : Nat) (f : RingCtx → RingCtx) : (s.modRing r f).pins = s.pins := rfl
@[simp] theorem State.modRing_glb (r : Nat) (f : RingCtx → RingCtx) : (s.modRing r f).glb = s.glb := rfl
@[simp] theorem State.modRing_ring (r : Nat) (f : RingCtx → RingCtx) :
    (s.modRing r f).ring = { s.ring with ctx := tmod s.ring.ctx r f } := rfl
@[simp] theorem State.modRing_porch (r : Nat) (f : RingCtx → RingCtx) : (s.modRing r f).porch = s.porch := rfl
@[simp] theorem State.modRing_out (r : Nat) (f : RingCtx → RingCtx) : (s.modRing r f).out = s.out := rfl
@[simp] theorem State.modRing_hearth (r : Nat) (f : RingCtx → RingCtx) : (s.modRing r f).hearth = s.hearth := rfl
@[simp] theorem State.modRing_plan (r : Nat) (f : RingCtx → RingCtx) : (s.modRing r f).plan = s.plan := rfl
@[simp] theorem State.modRing_rooms (r : Nat) (f : RingCtx → RingCtx) : (s.modRing r f).rooms = s.rooms := rfl
@[simp] theorem State.modRing_larder (r : Nat) (f : RingCtx → RingCtx) : (s.modRing r f).larder = s.larder := rfl
@[simp] theorem State.modRing_seqs (r : Nat) (f : RingCtx → RingCtx) : (s.modRing r f).seqs = s.seqs := rfl
@[simp] theorem State.modRing_video (r : Nat) (f : RingCtx → RingCtx) : (s.modRing r f).video = s.video := rfl
@[simp] theorem State.modRing_capt (r : Nat) (f : RingCtx → RingCtx) : (s.modRing r f).capt = s.capt := rfl
@[simp] theorem State.modRing_track (r : Nat) (f : RingCtx → RingCtx) : (s.modRing r f).track = s.track := rfl
@[simp] theorem State.modRing_mem (r : Nat) (f : RingCtx → RingCtx) : (s.modRing r f).mem = s.mem := rfl
@[simp] theorem State.modRing_fab (r : Nat) (f : RingCtx → RingCtx) : (s.modRing r f).fab = s.fab := rfl
@[simp] theorem State.modRing_pwr (r : Nat) (f : RingCtx → RingCtx) : (s.modRing r f).pwr = s.pwr := rfl
@[simp] theorem State.modRing_ras (r : Nat) (f : RingCtx → RingCtx) : (s.modRing r f).ras = s.ras := rfl

/-! ## modPlan -/

@[simp] theorem State.modPlan_pending (f : Plan → Plan) : (s.modPlan f).pending = s.pending := rfl
@[simp] theorem State.modPlan_free (f : Plan → Plan) : (s.modPlan f).free = s.free := rfl
@[simp] theorem State.modPlan_part (f : Plan → Plan) : (s.modPlan f).part = s.part := rfl
@[simp] theorem State.modPlan_pins (f : Plan → Plan) : (s.modPlan f).pins = s.pins := rfl
@[simp] theorem State.modPlan_glb (f : Plan → Plan) : (s.modPlan f).glb = s.glb := rfl
@[simp] theorem State.modPlan_ring (f : Plan → Plan) : (s.modPlan f).ring = s.ring := rfl
@[simp] theorem State.modPlan_porch (f : Plan → Plan) : (s.modPlan f).porch = s.porch := rfl
@[simp] theorem State.modPlan_out (f : Plan → Plan) : (s.modPlan f).out = s.out := rfl
@[simp] theorem State.modPlan_hearth (f : Plan → Plan) : (s.modPlan f).hearth = s.hearth := rfl
@[simp] theorem State.modPlan_plan (f : Plan → Plan) : (s.modPlan f).plan = f s.plan := rfl
@[simp] theorem State.modPlan_rooms (f : Plan → Plan) : (s.modPlan f).rooms = s.rooms := rfl
@[simp] theorem State.modPlan_larder (f : Plan → Plan) : (s.modPlan f).larder = s.larder := rfl
@[simp] theorem State.modPlan_seqs (f : Plan → Plan) : (s.modPlan f).seqs = s.seqs := rfl
@[simp] theorem State.modPlan_video (f : Plan → Plan) : (s.modPlan f).video = s.video := rfl
@[simp] theorem State.modPlan_capt (f : Plan → Plan) : (s.modPlan f).capt = s.capt := rfl
@[simp] theorem State.modPlan_track (f : Plan → Plan) : (s.modPlan f).track = s.track := rfl
@[simp] theorem State.modPlan_mem (f : Plan → Plan) : (s.modPlan f).mem = s.mem := rfl
@[simp] theorem State.modPlan_fab (f : Plan → Plan) : (s.modPlan f).fab = s.fab := rfl
@[simp] theorem State.modPlan_pwr (f : Plan → Plan) : (s.modPlan f).pwr = s.pwr := rfl
@[simp] theorem State.modPlan_ras (f : Plan → Plan) : (s.modPlan f).ras = s.ras := rfl

/-! ## modPorch -/

@[simp] theorem State.modPorch_pending (f : Porch → Porch) : (s.modPorch f).pending = s.pending := rfl
@[simp] theorem State.modPorch_free (f : Porch → Porch) : (s.modPorch f).free = s.free := rfl
@[simp] theorem State.modPorch_part (f : Porch → Porch) : (s.modPorch f).part = s.part := rfl
@[simp] theorem State.modPorch_pins (f : Porch → Porch) : (s.modPorch f).pins = s.pins := rfl
@[simp] theorem State.modPorch_glb (f : Porch → Porch) : (s.modPorch f).glb = s.glb := rfl
@[simp] theorem State.modPorch_ring (f : Porch → Porch) : (s.modPorch f).ring = s.ring := rfl
@[simp] theorem State.modPorch_porch (f : Porch → Porch) : (s.modPorch f).porch = f s.porch := rfl
@[simp] theorem State.modPorch_out (f : Porch → Porch) : (s.modPorch f).out = s.out := rfl
@[simp] theorem State.modPorch_hearth (f : Porch → Porch) : (s.modPorch f).hearth = s.hearth := rfl
@[simp] theorem State.modPorch_plan (f : Porch → Porch) : (s.modPorch f).plan = s.plan := rfl
@[simp] theorem State.modPorch_rooms (f : Porch → Porch) : (s.modPorch f).rooms = s.rooms := rfl
@[simp] theorem State.modPorch_larder (f : Porch → Porch) : (s.modPorch f).larder = s.larder := rfl
@[simp] theorem State.modPorch_seqs (f : Porch → Porch) : (s.modPorch f).seqs = s.seqs := rfl
@[simp] theorem State.modPorch_video (f : Porch → Porch) : (s.modPorch f).video = s.video := rfl
@[simp] theorem State.modPorch_capt (f : Porch → Porch) : (s.modPorch f).capt = s.capt := rfl
@[simp] theorem State.modPorch_track (f : Porch → Porch) : (s.modPorch f).track = s.track := rfl
@[simp] theorem State.modPorch_mem (f : Porch → Porch) : (s.modPorch f).mem = s.mem := rfl
@[simp] theorem State.modPorch_fab (f : Porch → Porch) : (s.modPorch f).fab = s.fab := rfl
@[simp] theorem State.modPorch_pwr (f : Porch → Porch) : (s.modPorch f).pwr = s.pwr := rfl
@[simp] theorem State.modPorch_ras (f : Porch → Porch) : (s.modPorch f).ras = s.ras := rfl

/-! ## modPwr -/

@[simp] theorem State.modPwr_pending (f : Pwr → Pwr) : (s.modPwr f).pending = s.pending := rfl
@[simp] theorem State.modPwr_free (f : Pwr → Pwr) : (s.modPwr f).free = s.free := rfl
@[simp] theorem State.modPwr_part (f : Pwr → Pwr) : (s.modPwr f).part = s.part := rfl
@[simp] theorem State.modPwr_pins (f : Pwr → Pwr) : (s.modPwr f).pins = s.pins := rfl
@[simp] theorem State.modPwr_glb (f : Pwr → Pwr) : (s.modPwr f).glb = s.glb := rfl
@[simp] theorem State.modPwr_ring (f : Pwr → Pwr) : (s.modPwr f).ring = s.ring := rfl
@[simp] theorem State.modPwr_porch (f : Pwr → Pwr) : (s.modPwr f).porch = s.porch := rfl
@[simp] theorem State.modPwr_out (f : Pwr → Pwr) : (s.modPwr f).out = s.out := rfl
@[simp] theorem State.modPwr_hearth (f : Pwr → Pwr) : (s.modPwr f).hearth = s.hearth := rfl
@[simp] theorem State.modPwr_plan (f : Pwr → Pwr) : (s.modPwr f).plan = s.plan := rfl
@[simp] theorem State.modPwr_rooms (f : Pwr → Pwr) : (s.modPwr f).rooms = s.rooms := rfl
@[simp] theorem State.modPwr_larder (f : Pwr → Pwr) : (s.modPwr f).larder = s.larder := rfl
@[simp] theorem State.modPwr_seqs (f : Pwr → Pwr) : (s.modPwr f).seqs = s.seqs := rfl
@[simp] theorem State.modPwr_video (f : Pwr → Pwr) : (s.modPwr f).video = s.video := rfl
@[simp] theorem State.modPwr_capt (f : Pwr → Pwr) : (s.modPwr f).capt = s.capt := rfl
@[simp] theorem State.modPwr_track (f : Pwr → Pwr) : (s.modPwr f).track = s.track := rfl
@[simp] theorem State.modPwr_mem (f : Pwr → Pwr) : (s.modPwr f).mem = s.mem := rfl
@[simp] theorem State.modPwr_fab (f : Pwr → Pwr) : (s.modPwr f).fab = s.fab := rfl
@[simp] theorem State.modPwr_pwr (f : Pwr → Pwr) : (s.modPwr f).pwr = f s.pwr := rfl
@[simp] theorem State.modPwr_ras (f : Pwr → Pwr) : (s.modPwr f).ras = s.ras := rfl

/-! ## modRas -/

@[simp] theorem State.modRas_pending (f : Ras → Ras) : (s.modRas f).pending = s.pending := rfl
@[simp] theorem State.modRas_free (f : Ras → Ras) : (s.modRas f).free = s.free := rfl
@[simp] theorem State.modRas_part (f : Ras → Ras) : (s.modRas f).part = s.part := rfl
@[simp] theorem State.modRas_pins (f : Ras → Ras) : (s.modRas f).pins = s.pins := rfl
@[simp] theorem State.modRas_glb (f : Ras → Ras) : (s.modRas f).glb = s.glb := rfl
@[simp] theorem State.modRas_ring (f : Ras → Ras) : (s.modRas f).ring = s.ring := rfl
@[simp] theorem State.modRas_porch (f : Ras → Ras) : (s.modRas f).porch = s.porch := rfl
@[simp] theorem State.modRas_out (f : Ras → Ras) : (s.modRas f).out = s.out := rfl
@[simp] theorem State.modRas_hearth (f : Ras → Ras) : (s.modRas f).hearth = s.hearth := rfl
@[simp] theorem State.modRas_plan (f : Ras → Ras) : (s.modRas f).plan = s.plan := rfl
@[simp] theorem State.modRas_rooms (f : Ras → Ras) : (s.modRas f).rooms = s.rooms := rfl
@[simp] theorem State.modRas_larder (f : Ras → Ras) : (s.modRas f).larder = s.larder := rfl
@[simp] theorem State.modRas_seqs (f : Ras → Ras) : (s.modRas f).seqs = s.seqs := rfl
@[simp] theorem State.modRas_video (f : Ras → Ras) : (s.modRas f).video = s.video := rfl
@[simp] theorem State.modRas_capt (f : Ras → Ras) : (s.modRas f).capt = s.capt := rfl
@[simp] theorem State.modRas_track (f : Ras → Ras) : (s.modRas f).track = s.track := rfl
@[simp] theorem State.modRas_mem (f : Ras → Ras) : (s.modRas f).mem = s.mem := rfl
@[simp] theorem State.modRas_fab (f : Ras → Ras) : (s.modRas f).fab = s.fab := rfl
@[simp] theorem State.modRas_pwr (f : Ras → Ras) : (s.modRas f).pwr = s.pwr := rfl
@[simp] theorem State.modRas_ras (f : Ras → Ras) : (s.modRas f).ras = f s.ras := rfl

/-! ## modSeqs -/

@[simp] theorem State.modSeqs_pending (f : Seqs → Seqs) : (s.modSeqs f).pending = s.pending := rfl
@[simp] theorem State.modSeqs_free (f : Seqs → Seqs) : (s.modSeqs f).free = s.free := rfl
@[simp] theorem State.modSeqs_part (f : Seqs → Seqs) : (s.modSeqs f).part = s.part := rfl
@[simp] theorem State.modSeqs_pins (f : Seqs → Seqs) : (s.modSeqs f).pins = s.pins := rfl
@[simp] theorem State.modSeqs_glb (f : Seqs → Seqs) : (s.modSeqs f).glb = s.glb := rfl
@[simp] theorem State.modSeqs_ring (f : Seqs → Seqs) : (s.modSeqs f).ring = s.ring := rfl
@[simp] theorem State.modSeqs_porch (f : Seqs → Seqs) : (s.modSeqs f).porch = s.porch := rfl
@[simp] theorem State.modSeqs_out (f : Seqs → Seqs) : (s.modSeqs f).out = s.out := rfl
@[simp] theorem State.modSeqs_hearth (f : Seqs → Seqs) : (s.modSeqs f).hearth = s.hearth := rfl
@[simp] theorem State.modSeqs_plan (f : Seqs → Seqs) : (s.modSeqs f).plan = s.plan := rfl
@[simp] theorem State.modSeqs_rooms (f : Seqs → Seqs) : (s.modSeqs f).rooms = s.rooms := rfl
@[simp] theorem State.modSeqs_larder (f : Seqs → Seqs) : (s.modSeqs f).larder = s.larder := rfl
@[simp] theorem State.modSeqs_seqs (f : Seqs → Seqs) : (s.modSeqs f).seqs = f s.seqs := rfl
@[simp] theorem State.modSeqs_video (f : Seqs → Seqs) : (s.modSeqs f).video = s.video := rfl
@[simp] theorem State.modSeqs_capt (f : Seqs → Seqs) : (s.modSeqs f).capt = s.capt := rfl
@[simp] theorem State.modSeqs_track (f : Seqs → Seqs) : (s.modSeqs f).track = s.track := rfl
@[simp] theorem State.modSeqs_mem (f : Seqs → Seqs) : (s.modSeqs f).mem = s.mem := rfl
@[simp] theorem State.modSeqs_fab (f : Seqs → Seqs) : (s.modSeqs f).fab = s.fab := rfl
@[simp] theorem State.modSeqs_pwr (f : Seqs → Seqs) : (s.modSeqs f).pwr = s.pwr := rfl
@[simp] theorem State.modSeqs_ras (f : Seqs → Seqs) : (s.modSeqs f).ras = s.ras := rfl

/-! ## modHearth -/

@[simp] theorem State.modHearth_pending (f : Hearth → Hearth) : (s.modHearth f).pending = s.pending := rfl
@[simp] theorem State.modHearth_free (f : Hearth → Hearth) : (s.modHearth f).free = s.free := rfl
@[simp] theorem State.modHearth_part (f : Hearth → Hearth) : (s.modHearth f).part = s.part := rfl
@[simp] theorem State.modHearth_pins (f : Hearth → Hearth) : (s.modHearth f).pins = s.pins := rfl
@[simp] theorem State.modHearth_glb (f : Hearth → Hearth) : (s.modHearth f).glb = s.glb := rfl
@[simp] theorem State.modHearth_ring (f : Hearth → Hearth) : (s.modHearth f).ring = s.ring := rfl
@[simp] theorem State.modHearth_porch (f : Hearth → Hearth) : (s.modHearth f).porch = s.porch := rfl
@[simp] theorem State.modHearth_out (f : Hearth → Hearth) : (s.modHearth f).out = s.out := rfl
@[simp] theorem State.modHearth_hearth (f : Hearth → Hearth) : (s.modHearth f).hearth = f s.hearth := rfl
@[simp] theorem State.modHearth_plan (f : Hearth → Hearth) : (s.modHearth f).plan = s.plan := rfl
@[simp] theorem State.modHearth_rooms (f : Hearth → Hearth) : (s.modHearth f).rooms = s.rooms := rfl
@[simp] theorem State.modHearth_larder (f : Hearth → Hearth) : (s.modHearth f).larder = s.larder := rfl
@[simp] theorem State.modHearth_seqs (f : Hearth → Hearth) : (s.modHearth f).seqs = s.seqs := rfl
@[simp] theorem State.modHearth_video (f : Hearth → Hearth) : (s.modHearth f).video = s.video := rfl
@[simp] theorem State.modHearth_capt (f : Hearth → Hearth) : (s.modHearth f).capt = s.capt := rfl
@[simp] theorem State.modHearth_track (f : Hearth → Hearth) : (s.modHearth f).track = s.track := rfl
@[simp] theorem State.modHearth_mem (f : Hearth → Hearth) : (s.modHearth f).mem = s.mem := rfl
@[simp] theorem State.modHearth_fab (f : Hearth → Hearth) : (s.modHearth f).fab = s.fab := rfl
@[simp] theorem State.modHearth_pwr (f : Hearth → Hearth) : (s.modHearth f).pwr = s.pwr := rfl
@[simp] theorem State.modHearth_ras (f : Hearth → Hearth) : (s.modHearth f).ras = s.ras := rfl

/-! ## modGlobal -/

@[simp] theorem State.modGlobal_pending (f : Global → Global) : (s.modGlobal f).pending = s.pending := rfl
@[simp] theorem State.modGlobal_free (f : Global → Global) : (s.modGlobal f).free = s.free := rfl
@[simp] theorem State.modGlobal_part (f : Global → Global) : (s.modGlobal f).part = s.part := rfl
@[simp] theorem State.modGlobal_pins (f : Global → Global) : (s.modGlobal f).pins = s.pins := rfl
@[simp] theorem State.modGlobal_glb (f : Global → Global) : (s.modGlobal f).glb = f s.glb := rfl
@[simp] theorem State.modGlobal_ring (f : Global → Global) : (s.modGlobal f).ring = s.ring := rfl
@[simp] theorem State.modGlobal_porch (f : Global → Global) : (s.modGlobal f).porch = s.porch := rfl
@[simp] theorem State.modGlobal_out (f : Global → Global) : (s.modGlobal f).out = s.out := rfl
@[simp] theorem State.modGlobal_hearth (f : Global → Global) : (s.modGlobal f).hearth = s.hearth := rfl
@[simp] theorem State.modGlobal_plan (f : Global → Global) : (s.modGlobal f).plan = s.plan := rfl
@[simp] theorem State.modGlobal_rooms (f : Global → Global) : (s.modGlobal f).rooms = s.rooms := rfl
@[simp] theorem State.modGlobal_larder (f : Global → Global) : (s.modGlobal f).larder = s.larder := rfl
@[simp] theorem State.modGlobal_seqs (f : Global → Global) : (s.modGlobal f).seqs = s.seqs := rfl
@[simp] theorem State.modGlobal_video (f : Global → Global) : (s.modGlobal f).video = s.video := rfl
@[simp] theorem State.modGlobal_capt (f : Global → Global) : (s.modGlobal f).capt = s.capt := rfl
@[simp] theorem State.modGlobal_track (f : Global → Global) : (s.modGlobal f).track = s.track := rfl
@[simp] theorem State.modGlobal_mem (f : Global → Global) : (s.modGlobal f).mem = s.mem := rfl
@[simp] theorem State.modGlobal_fab (f : Global → Global) : (s.modGlobal f).fab = s.fab := rfl
@[simp] theorem State.modGlobal_pwr (f : Global → Global) : (s.modGlobal f).pwr = s.pwr := rfl
@[simp] theorem State.modGlobal_ras (f : Global → Global) : (s.modGlobal f).ras = s.ras := rfl

/-! ## modTrack -/

@[simp] theorem State.modTrack_pending (f : Track → Track) : (s.modTrack f).pending = s.pending := rfl
@[simp] theorem State.modTrack_free (f : Track → Track) : (s.modTrack f).free = s.free := rfl
@[simp] theorem State.modTrack_part (f : Track → Track) : (s.modTrack f).part = s.part := rfl
@[simp] theorem State.modTrack_pins (f : Track → Track) : (s.modTrack f).pins = s.pins := rfl
@[simp] theorem State.modTrack_glb (f : Track → Track) : (s.modTrack f).glb = s.glb := rfl
@[simp] theorem State.modTrack_ring (f : Track → Track) : (s.modTrack f).ring = s.ring := rfl
@[simp] theorem State.modTrack_porch (f : Track → Track) : (s.modTrack f).porch = s.porch := rfl
@[simp] theorem State.modTrack_out (f : Track → Track) : (s.modTrack f).out = s.out := rfl
@[simp] theorem State.modTrack_hearth (f : Track → Track) : (s.modTrack f).hearth = s.hearth := rfl
@[simp] theorem State.modTrack_plan (f : Track → Track) : (s.modTrack f).plan = s.plan := rfl
@[simp] theorem State.modTrack_rooms (f : Track → Track) : (s.modTrack f).rooms = s.rooms := rfl
@[simp] theorem State.modTrack_larder (f : Track → Track) : (s.modTrack f).larder = s.larder := rfl
@[simp] theorem State.modTrack_seqs (f : Track → Track) : (s.modTrack f).seqs = s.seqs := rfl
@[simp] theorem State.modTrack_video (f : Track → Track) : (s.modTrack f).video = s.video := rfl
@[simp] theorem State.modTrack_capt (f : Track → Track) : (s.modTrack f).capt = s.capt := rfl
@[simp] theorem State.modTrack_track (f : Track → Track) : (s.modTrack f).track = f s.track := rfl
@[simp] theorem State.modTrack_mem (f : Track → Track) : (s.modTrack f).mem = s.mem := rfl
@[simp] theorem State.modTrack_fab (f : Track → Track) : (s.modTrack f).fab = s.fab := rfl
@[simp] theorem State.modTrack_pwr (f : Track → Track) : (s.modTrack f).pwr = s.pwr := rfl
@[simp] theorem State.modTrack_ras (f : Track → Track) : (s.modTrack f).ras = s.ras := rfl

/-! ## modVideo -/

@[simp] theorem State.modVideo_pending (f : Video → Video) : (s.modVideo f).pending = s.pending := rfl
@[simp] theorem State.modVideo_free (f : Video → Video) : (s.modVideo f).free = s.free := rfl
@[simp] theorem State.modVideo_part (f : Video → Video) : (s.modVideo f).part = s.part := rfl
@[simp] theorem State.modVideo_pins (f : Video → Video) : (s.modVideo f).pins = s.pins := rfl
@[simp] theorem State.modVideo_glb (f : Video → Video) : (s.modVideo f).glb = s.glb := rfl
@[simp] theorem State.modVideo_ring (f : Video → Video) : (s.modVideo f).ring = s.ring := rfl
@[simp] theorem State.modVideo_porch (f : Video → Video) : (s.modVideo f).porch = s.porch := rfl
@[simp] theorem State.modVideo_out (f : Video → Video) : (s.modVideo f).out = s.out := rfl
@[simp] theorem State.modVideo_hearth (f : Video → Video) : (s.modVideo f).hearth = s.hearth := rfl
@[simp] theorem State.modVideo_plan (f : Video → Video) : (s.modVideo f).plan = s.plan := rfl
@[simp] theorem State.modVideo_rooms (f : Video → Video) : (s.modVideo f).rooms = s.rooms := rfl
@[simp] theorem State.modVideo_larder (f : Video → Video) : (s.modVideo f).larder = s.larder := rfl
@[simp] theorem State.modVideo_seqs (f : Video → Video) : (s.modVideo f).seqs = s.seqs := rfl
@[simp] theorem State.modVideo_video (f : Video → Video) : (s.modVideo f).video = f s.video := rfl
@[simp] theorem State.modVideo_capt (f : Video → Video) : (s.modVideo f).capt = s.capt := rfl
@[simp] theorem State.modVideo_track (f : Video → Video) : (s.modVideo f).track = s.track := rfl
@[simp] theorem State.modVideo_mem (f : Video → Video) : (s.modVideo f).mem = s.mem := rfl
@[simp] theorem State.modVideo_fab (f : Video → Video) : (s.modVideo f).fab = s.fab := rfl
@[simp] theorem State.modVideo_pwr (f : Video → Video) : (s.modVideo f).pwr = s.pwr := rfl
@[simp] theorem State.modVideo_ras (f : Video → Video) : (s.modVideo f).ras = s.ras := rfl

/-! ## modRoom -/

@[simp] theorem State.modRoom_pending (n : Nat) (f : Room → Room) : (s.modRoom n f).pending = s.pending := rfl
@[simp] theorem State.modRoom_free (n : Nat) (f : Room → Room) : (s.modRoom n f).free = s.free := rfl
@[simp] theorem State.modRoom_part (n : Nat) (f : Room → Room) : (s.modRoom n f).part = s.part := rfl
@[simp] theorem State.modRoom_pins (n : Nat) (f : Room → Room) : (s.modRoom n f).pins = s.pins := rfl
@[simp] theorem State.modRoom_glb (n : Nat) (f : Room → Room) : (s.modRoom n f).glb = s.glb := rfl
@[simp] theorem State.modRoom_ring (n : Nat) (f : Room → Room) : (s.modRoom n f).ring = s.ring := rfl
@[simp] theorem State.modRoom_porch (n : Nat) (f : Room → Room) : (s.modRoom n f).porch = s.porch := rfl
@[simp] theorem State.modRoom_out (n : Nat) (f : Room → Room) : (s.modRoom n f).out = s.out := rfl
@[simp] theorem State.modRoom_hearth (n : Nat) (f : Room → Room) : (s.modRoom n f).hearth = s.hearth := rfl
@[simp] theorem State.modRoom_plan (n : Nat) (f : Room → Room) : (s.modRoom n f).plan = s.plan := rfl
@[simp] theorem State.modRoom_rooms (n : Nat) (f : Room → Room) : (s.modRoom n f).rooms = tup s.rooms n Room.reset f := rfl
@[simp] theorem State.modRoom_larder (n : Nat) (f : Room → Room) : (s.modRoom n f).larder = s.larder := rfl
@[simp] theorem State.modRoom_seqs (n : Nat) (f : Room → Room) : (s.modRoom n f).seqs = s.seqs := rfl
@[simp] theorem State.modRoom_video (n : Nat) (f : Room → Room) : (s.modRoom n f).video = s.video := rfl
@[simp] theorem State.modRoom_capt (n : Nat) (f : Room → Room) : (s.modRoom n f).capt = s.capt := rfl
@[simp] theorem State.modRoom_track (n : Nat) (f : Room → Room) : (s.modRoom n f).track = s.track := rfl
@[simp] theorem State.modRoom_mem (n : Nat) (f : Room → Room) : (s.modRoom n f).mem = s.mem := rfl
@[simp] theorem State.modRoom_fab (n : Nat) (f : Room → Room) : (s.modRoom n f).fab = s.fab := rfl
@[simp] theorem State.modRoom_pwr (n : Nat) (f : Room → Room) : (s.modRoom n f).pwr = s.pwr := rfl
@[simp] theorem State.modRoom_ras (n : Nat) (f : Room → Room) : (s.modRoom n f).ras = s.ras := rfl

end Sys2Proof.Machine
end

