-- ==== Sys2Proof/Laws/Ops.lean ====
section
/-!
SUPPORT. The shared operations: which parts of the state each leaves alone, and what finishing a packet does.
-/
namespace Sys2Proof.Machine

variable (s : State)

/-! ## modOp -/

@[simp] theorem State.modOp_pending (r id : Nat) (f : Op → Op) : (s.modOp r id f).pending = s.pending := by
  simp only [State.modOp, State.modRing]; repeat' split
  all_goals rfl
@[simp] theorem State.modOp_free (r id : Nat) (f : Op → Op) : (s.modOp r id f).free = s.free := by
  simp only [State.modOp, State.modRing]; repeat' split
  all_goals rfl
@[simp] theorem State.modOp_part (r id : Nat) (f : Op → Op) : (s.modOp r id f).part = s.part := by
  simp only [State.modOp, State.modRing]; repeat' split
  all_goals rfl
@[simp] theorem State.modOp_pins (r id : Nat) (f : Op → Op) : (s.modOp r id f).pins = s.pins := by
  simp only [State.modOp, State.modRing]; repeat' split
  all_goals rfl
@[simp] theorem State.modOp_glb (r id : Nat) (f : Op → Op) : (s.modOp r id f).glb = s.glb := by
  simp only [State.modOp, State.modRing]; repeat' split
  all_goals rfl
@[simp] theorem State.modOp_porch (r id : Nat) (f : Op → Op) : (s.modOp r id f).porch = s.porch := by
  simp only [State.modOp, State.modRing]; repeat' split
  all_goals rfl
@[simp] theorem State.modOp_out (r id : Nat) (f : Op → Op) : (s.modOp r id f).out = s.out := by
  simp only [State.modOp, State.modRing]; repeat' split
  all_goals rfl
@[simp] theorem State.modOp_plan (r id : Nat) (f : Op → Op) : (s.modOp r id f).plan = s.plan := by
  simp only [State.modOp, State.modRing]; repeat' split
  all_goals rfl
@[simp] theorem State.modOp_rooms (r id : Nat) (f : Op → Op) : (s.modOp r id f).rooms = s.rooms := by
  simp only [State.modOp, State.modRing]; repeat' split
  all_goals rfl
@[simp] theorem State.modOp_larder (r id : Nat) (f : Op → Op) : (s.modOp r id f).larder = s.larder := by
  simp only [State.modOp, State.modRing]; repeat' split
  all_goals rfl
@[simp] theorem State.modOp_seqs (r id : Nat) (f : Op → Op) : (s.modOp r id f).seqs = s.seqs := by
  simp only [State.modOp, State.modRing]; repeat' split
  all_goals rfl
@[simp] theorem State.modOp_video (r id : Nat) (f : Op → Op) : (s.modOp r id f).video = s.video := by
  simp only [State.modOp, State.modRing]; repeat' split
  all_goals rfl
@[simp] theorem State.modOp_capt (r id : Nat) (f : Op → Op) : (s.modOp r id f).capt = s.capt := by
  simp only [State.modOp, State.modRing]; repeat' split
  all_goals rfl
@[simp] theorem State.modOp_track (r id : Nat) (f : Op → Op) : (s.modOp r id f).track = s.track := by
  simp only [State.modOp, State.modRing]; repeat' split
  all_goals rfl
@[simp] theorem State.modOp_mem (r id : Nat) (f : Op → Op) : (s.modOp r id f).mem = s.mem := by
  simp only [State.modOp, State.modRing]; repeat' split
  all_goals rfl
@[simp] theorem State.modOp_fab (r id : Nat) (f : Op → Op) : (s.modOp r id f).fab = s.fab := by
  simp only [State.modOp, State.modRing]; repeat' split
  all_goals rfl
@[simp] theorem State.modOp_pwr (r id : Nat) (f : Op → Op) : (s.modOp r id f).pwr = s.pwr := by
  simp only [State.modOp, State.modRing]; repeat' split
  all_goals rfl
@[simp] theorem State.modOp_ras (r id : Nat) (f : Op → Op) : (s.modOp r id f).ras = s.ras := by
  simp only [State.modOp, State.modRing]; repeat' split
  all_goals rfl

/-! ## finishOp -/

@[simp] theorem State.finishOp_pending (r id : Nat) (c : W32) (n : W16) (e : Nat) (h : Bool) :
    (s.finishOp r id c n e h).pending = s.pending := by
  simp only [State.finishOp, State.noteReady, State.modOp, State.modRing]; repeat' split
  all_goals rfl
@[simp] theorem State.finishOp_free (r id : Nat) (c : W32) (n : W16) (e : Nat) (h : Bool) :
    (s.finishOp r id c n e h).free = s.free := by
  simp only [State.finishOp, State.noteReady, State.modOp, State.modRing]; repeat' split
  all_goals rfl
@[simp] theorem State.finishOp_part (r id : Nat) (c : W32) (n : W16) (e : Nat) (h : Bool) :
    (s.finishOp r id c n e h).part = s.part := by
  simp only [State.finishOp, State.noteReady, State.modOp, State.modRing]; repeat' split
  all_goals rfl
@[simp] theorem State.finishOp_pins (r id : Nat) (c : W32) (n : W16) (e : Nat) (h : Bool) :
    (s.finishOp r id c n e h).pins = s.pins := by
  simp only [State.finishOp, State.noteReady, State.modOp, State.modRing]; repeat' split
  all_goals rfl
@[simp] theorem State.finishOp_glb (r id : Nat) (c : W32) (n : W16) (e : Nat) (h : Bool) :
    (s.finishOp r id c n e h).glb = s.glb := by
  simp only [State.finishOp, State.noteReady, State.modOp, State.modRing]; repeat' split
  all_goals rfl
@[simp] theorem State.finishOp_porch (r id : Nat) (c : W32) (n : W16) (e : Nat) (h : Bool) :
    (s.finishOp r id c n e h).porch = s.porch := by
  simp only [State.finishOp, State.noteReady, State.modOp, State.modRing]; repeat' split
  all_goals rfl
@[simp] theorem State.finishOp_out (r id : Nat) (c : W32) (n : W16) (e : Nat) (h : Bool) :
    (s.finishOp r id c n e h).out = s.out := by
  simp only [State.finishOp, State.noteReady, State.modOp, State.modRing]; repeat' split
  all_goals rfl
@[simp] theorem State.finishOp_plan (r id : Nat) (c : W32) (n : W16) (e : Nat) (h : Bool) :
    (s.finishOp r id c n e h).plan = s.plan := by
  simp only [State.finishOp, State.noteReady, State.modOp, State.modRing]; repeat' split
  all_goals rfl
@[simp] theorem State.finishOp_rooms (r id : Nat) (c : W32) (n : W16) (e : Nat) (h : Bool) :
    (s.finishOp r id c n e h).rooms = s.rooms := by
  simp only [State.finishOp, State.noteReady, State.modOp, State.modRing]; repeat' split
  all_goals rfl
@[simp] theorem State.finishOp_larder (r id : Nat) (c : W32) (n : W16) (e : Nat) (h : Bool) :
    (s.finishOp r id c n e h).larder = s.larder := by
  simp only [State.finishOp, State.noteReady, State.modOp, State.modRing]; repeat' split
  all_goals rfl
@[simp] theorem State.finishOp_seqs (r id : Nat) (c : W32) (n : W16) (e : Nat) (h : Bool) :
    (s.finishOp r id c n e h).seqs = s.seqs := by
  simp only [State.finishOp, State.noteReady, State.modOp, State.modRing]; repeat' split
  all_goals rfl
@[simp] theorem State.finishOp_video (r id : Nat) (c : W32) (n : W16) (e : Nat) (h : Bool) :
    (s.finishOp r id c n e h).video = s.video := by
  simp only [State.finishOp, State.noteReady, State.modOp, State.modRing]; repeat' split
  all_goals rfl
@[simp] theorem State.finishOp_capt (r id : Nat) (c : W32) (n : W16) (e : Nat) (h : Bool) :
    (s.finishOp r id c n e h).capt = s.capt := by
  simp only [State.finishOp, State.noteReady, State.modOp, State.modRing]; repeat' split
  all_goals rfl
@[simp] theorem State.finishOp_track (r id : Nat) (c : W32) (n : W16) (e : Nat) (h : Bool) :
    (s.finishOp r id c n e h).track = s.track := by
  simp only [State.finishOp, State.noteReady, State.modOp, State.modRing]; repeat' split
  all_goals rfl
@[simp] theorem State.finishOp_mem (r id : Nat) (c : W32) (n : W16) (e : Nat) (h : Bool) :
    (s.finishOp r id c n e h).mem = s.mem := by
  simp only [State.finishOp, State.noteReady, State.modOp, State.modRing]; repeat' split
  all_goals rfl
@[simp] theorem State.finishOp_fab (r id : Nat) (c : W32) (n : W16) (e : Nat) (h : Bool) :
    (s.finishOp r id c n e h).fab = s.fab := by
  simp only [State.finishOp, State.noteReady, State.modOp, State.modRing]; repeat' split
  all_goals rfl
@[simp] theorem State.finishOp_pwr (r id : Nat) (c : W32) (n : W16) (e : Nat) (h : Bool) :
    (s.finishOp r id c n e h).pwr = s.pwr := by
  simp only [State.finishOp, State.noteReady, State.modOp, State.modRing]; repeat' split
  all_goals rfl
@[simp] theorem State.finishOp_ras (r id : Nat) (c : W32) (n : W16) (e : Nat) (h : Bool) :
    (s.finishOp r id c n e h).ras = s.ras := by
  simp only [State.finishOp, State.noteReady, State.modOp, State.modRing]; repeat' split
  all_goals rfl

/-! ## finish -/

@[simp] theorem State.finish_pending (r id : Nat) (c : W32) : (s.finish r id c).pending = s.pending :=
  State.finishOp_pending s r id c 0 0 false
@[simp] theorem State.finish_free (r id : Nat) (c : W32) : (s.finish r id c).free = s.free :=
  State.finishOp_free s r id c 0 0 false
@[simp] theorem State.finish_part (r id : Nat) (c : W32) : (s.finish r id c).part = s.part :=
  State.finishOp_part s r id c 0 0 false
@[simp] theorem State.finish_pins (r id : Nat) (c : W32) : (s.finish r id c).pins = s.pins :=
  State.finishOp_pins s r id c 0 0 false
@[simp] theorem State.finish_glb (r id : Nat) (c : W32) : (s.finish r id c).glb = s.glb :=
  State.finishOp_glb s r id c 0 0 false
@[simp] theorem State.finish_porch (r id : Nat) (c : W32) : (s.finish r id c).porch = s.porch :=
  State.finishOp_porch s r id c 0 0 false
@[simp] theorem State.finish_out (r id : Nat) (c : W32) : (s.finish r id c).out = s.out :=
  State.finishOp_out s r id c 0 0 false
@[simp] theorem State.finish_plan (r id : Nat) (c : W32) : (s.finish r id c).plan = s.plan :=
  State.finishOp_plan s r id c 0 0 false
@[simp] theorem State.finish_rooms (r id : Nat) (c : W32) : (s.finish r id c).rooms = s.rooms :=
  State.finishOp_rooms s r id c 0 0 false
@[simp] theorem State.finish_larder (r id : Nat) (c : W32) : (s.finish r id c).larder = s.larder :=
  State.finishOp_larder s r id c 0 0 false
@[simp] theorem State.finish_seqs (r id : Nat) (c : W32) : (s.finish r id c).seqs = s.seqs :=
  State.finishOp_seqs s r id c 0 0 false
@[simp] theorem State.finish_video (r id : Nat) (c : W32) : (s.finish r id c).video = s.video :=
  State.finishOp_video s r id c 0 0 false
@[simp] theorem State.finish_capt (r id : Nat) (c : W32) : (s.finish r id c).capt = s.capt :=
  State.finishOp_capt s r id c 0 0 false
@[simp] theorem State.finish_track (r id : Nat) (c : W32) : (s.finish r id c).track = s.track :=
  State.finishOp_track s r id c 0 0 false
@[simp] theorem State.finish_mem (r id : Nat) (c : W32) : (s.finish r id c).mem = s.mem :=
  State.finishOp_mem s r id c 0 0 false
@[simp] theorem State.finish_fab (r id : Nat) (c : W32) : (s.finish r id c).fab = s.fab :=
  State.finishOp_fab s r id c 0 0 false
@[simp] theorem State.finish_pwr (r id : Nat) (c : W32) : (s.finish r id c).pwr = s.pwr :=
  State.finishOp_pwr s r id c 0 0 false
@[simp] theorem State.finish_ras (r id : Nat) (c : W32) : (s.finish r id c).ras = s.ras :=
  State.finishOp_ras s r id c 0 0 false

/-! ## beginOp -/

@[simp] theorem State.beginOp_pending (r id : Nat) : (s.beginOp r id).pending = s.pending :=
  State.modOp_pending s r id _
@[simp] theorem State.beginOp_free (r id : Nat) : (s.beginOp r id).free = s.free :=
  State.modOp_free s r id _
@[simp] theorem State.beginOp_part (r id : Nat) : (s.beginOp r id).part = s.part :=
  State.modOp_part s r id _
@[simp] theorem State.beginOp_pins (r id : Nat) : (s.beginOp r id).pins = s.pins :=
  State.modOp_pins s r id _
@[simp] theorem State.beginOp_glb (r id : Nat) : (s.beginOp r id).glb = s.glb :=
  State.modOp_glb s r id _
@[simp] theorem State.beginOp_porch (r id : Nat) : (s.beginOp r id).porch = s.porch :=
  State.modOp_porch s r id _
@[simp] theorem State.beginOp_out (r id : Nat) : (s.beginOp r id).out = s.out :=
  State.modOp_out s r id _
@[simp] theorem State.beginOp_plan (r id : Nat) : (s.beginOp r id).plan = s.plan :=
  State.modOp_plan s r id _
@[simp] theorem State.beginOp_rooms (r id : Nat) : (s.beginOp r id).rooms = s.rooms :=
  State.modOp_rooms s r id _
@[simp] theorem State.beginOp_larder (r id : Nat) : (s.beginOp r id).larder = s.larder :=
  State.modOp_larder s r id _
@[simp] theorem State.beginOp_seqs (r id : Nat) : (s.beginOp r id).seqs = s.seqs :=
  State.modOp_seqs s r id _
@[simp] theorem State.beginOp_video (r id : Nat) : (s.beginOp r id).video = s.video :=
  State.modOp_video s r id _
@[simp] theorem State.beginOp_capt (r id : Nat) : (s.beginOp r id).capt = s.capt :=
  State.modOp_capt s r id _
@[simp] theorem State.beginOp_track (r id : Nat) : (s.beginOp r id).track = s.track :=
  State.modOp_track s r id _
@[simp] theorem State.beginOp_mem (r id : Nat) : (s.beginOp r id).mem = s.mem :=
  State.modOp_mem s r id _
@[simp] theorem State.beginOp_fab (r id : Nat) : (s.beginOp r id).fab = s.fab :=
  State.modOp_fab s r id _
@[simp] theorem State.beginOp_pwr (r id : Nat) : (s.beginOp r id).pwr = s.pwr :=
  State.modOp_pwr s r id _
@[simp] theorem State.beginOp_ras (r id : Nat) : (s.beginOp r id).ras = s.ras :=
  State.modOp_ras s r id _

/-! ## bindRing -/

@[simp] theorem State.bindRing_pending (r : Nat) (b : Bool) : (s.bindRing r b).pending = s.pending := rfl
@[simp] theorem State.bindRing_free (r : Nat) (b : Bool) : (s.bindRing r b).free = s.free := rfl
@[simp] theorem State.bindRing_part (r : Nat) (b : Bool) : (s.bindRing r b).part = s.part := rfl
@[simp] theorem State.bindRing_pins (r : Nat) (b : Bool) : (s.bindRing r b).pins = s.pins := rfl
@[simp] theorem State.bindRing_glb (r : Nat) (b : Bool) : (s.bindRing r b).glb = s.glb := rfl
@[simp] theorem State.bindRing_porch (r : Nat) (b : Bool) : (s.bindRing r b).porch = s.porch := rfl
@[simp] theorem State.bindRing_out (r : Nat) (b : Bool) : (s.bindRing r b).out = s.out := rfl
@[simp] theorem State.bindRing_hearth (r : Nat) (b : Bool) : (s.bindRing r b).hearth = s.hearth := rfl
@[simp] theorem State.bindRing_plan (r : Nat) (b : Bool) : (s.bindRing r b).plan = s.plan := rfl
@[simp] theorem State.bindRing_rooms (r : Nat) (b : Bool) : (s.bindRing r b).rooms = s.rooms := rfl
@[simp] theorem State.bindRing_larder (r : Nat) (b : Bool) : (s.bindRing r b).larder = s.larder := rfl
@[simp] theorem State.bindRing_seqs (r : Nat) (b : Bool) : (s.bindRing r b).seqs = s.seqs := rfl
@[simp] theorem State.bindRing_video (r : Nat) (b : Bool) : (s.bindRing r b).video = s.video := rfl
@[simp] theorem State.bindRing_capt (r : Nat) (b : Bool) : (s.bindRing r b).capt = s.capt := rfl
@[simp] theorem State.bindRing_track (r : Nat) (b : Bool) : (s.bindRing r b).track = s.track := rfl
@[simp] theorem State.bindRing_mem (r : Nat) (b : Bool) : (s.bindRing r b).mem = s.mem := rfl
@[simp] theorem State.bindRing_fab (r : Nat) (b : Bool) : (s.bindRing r b).fab = s.fab := rfl
@[simp] theorem State.bindRing_pwr (r : Nat) (b : Bool) : (s.bindRing r b).pwr = s.pwr := rfl
@[simp] theorem State.bindRing_ras (r : Nat) (b : Bool) : (s.bindRing r b).ras = s.ras := rfl

/-! ## postMeta -/

@[simp] theorem State.postMeta_pending (r : Nat) (b : List Byte) (i : Bool) :
    (s.postMeta r b i).pending = s.pending := by
  simp only [State.postMeta, State.modRing]; repeat' split
  all_goals rfl
@[simp] theorem State.postMeta_free (r : Nat) (b : List Byte) (i : Bool) : (s.postMeta r b i).free = s.free := by
  simp only [State.postMeta, State.modRing]; repeat' split
  all_goals rfl
@[simp] theorem State.postMeta_part (r : Nat) (b : List Byte) (i : Bool) : (s.postMeta r b i).part = s.part := by
  simp only [State.postMeta, State.modRing]; repeat' split
  all_goals rfl
@[simp] theorem State.postMeta_pins (r : Nat) (b : List Byte) (i : Bool) : (s.postMeta r b i).pins = s.pins := by
  simp only [State.postMeta, State.modRing]; repeat' split
  all_goals rfl
@[simp] theorem State.postMeta_glb (r : Nat) (b : List Byte) (i : Bool) : (s.postMeta r b i).glb = s.glb := by
  simp only [State.postMeta, State.modRing]; repeat' split
  all_goals rfl
@[simp] theorem State.postMeta_porch (r : Nat) (b : List Byte) (i : Bool) : (s.postMeta r b i).porch = s.porch := by
  simp only [State.postMeta, State.modRing]; repeat' split
  all_goals rfl
@[simp] theorem State.postMeta_out (r : Nat) (b : List Byte) (i : Bool) : (s.postMeta r b i).out = s.out := by
  simp only [State.postMeta, State.modRing]; repeat' split
  all_goals rfl
@[simp] theorem State.postMeta_hearth (r : Nat) (b : List Byte) (i : Bool) :
    (s.postMeta r b i).hearth = s.hearth := by
  simp only [State.postMeta, State.modRing]; repeat' split
  all_goals rfl
@[simp] theorem State.postMeta_plan (r : Nat) (b : List Byte) (i : Bool) : (s.postMeta r b i).plan = s.plan := by
  simp only [State.postMeta, State.modRing]; repeat' split
  all_goals rfl
@[simp] theorem State.postMeta_rooms (r : Nat) (b : List Byte) (i : Bool) : (s.postMeta r b i).rooms = s.rooms := by
  simp only [State.postMeta, State.modRing]; repeat' split
  all_goals rfl
@[simp] theorem State.postMeta_larder (r : Nat) (b : List Byte) (i : Bool) :
    (s.postMeta r b i).larder = s.larder := by
  simp only [State.postMeta, State.modRing]; repeat' split
  all_goals rfl
@[simp] theorem State.postMeta_seqs (r : Nat) (b : List Byte) (i : Bool) : (s.postMeta r b i).seqs = s.seqs := by
  simp only [State.postMeta, State.modRing]; repeat' split
  all_goals rfl
@[simp] theorem State.postMeta_video (r : Nat) (b : List Byte) (i : Bool) : (s.postMeta r b i).video = s.video := by
  simp only [State.postMeta, State.modRing]; repeat' split
  all_goals rfl
@[simp] theorem State.postMeta_capt (r : Nat) (b : List Byte) (i : Bool) : (s.postMeta r b i).capt = s.capt := by
  simp only [State.postMeta, State.modRing]; repeat' split
  all_goals rfl
@[simp] theorem State.postMeta_track (r : Nat) (b : List Byte) (i : Bool) : (s.postMeta r b i).track = s.track := by
  simp only [State.postMeta, State.modRing]; repeat' split
  all_goals rfl
@[simp] theorem State.postMeta_mem (r : Nat) (b : List Byte) (i : Bool) : (s.postMeta r b i).mem = s.mem := by
  simp only [State.postMeta, State.modRing]; repeat' split
  all_goals rfl
@[simp] theorem State.postMeta_fab (r : Nat) (b : List Byte) (i : Bool) : (s.postMeta r b i).fab = s.fab := by
  simp only [State.postMeta, State.modRing]; repeat' split
  all_goals rfl
@[simp] theorem State.postMeta_pwr (r : Nat) (b : List Byte) (i : Bool) : (s.postMeta r b i).pwr = s.pwr := by
  simp only [State.postMeta, State.modRing]; repeat' split
  all_goals rfl
@[simp] theorem State.postMeta_ras (r : Nat) (b : List Byte) (i : Bool) : (s.postMeta r b i).ras = s.ras := by
  simp only [State.postMeta, State.modRing]; repeat' split
  all_goals rfl

/-! ## oweMsi -/

@[simp] theorem State.oweMsi_pending (v : Nat) : (s.oweMsi v).pending = s.pending := by
  simp only [State.oweMsi]; repeat' split
  all_goals rfl
@[simp] theorem State.oweMsi_free (v : Nat) : (s.oweMsi v).free = s.free := by
  simp only [State.oweMsi]; repeat' split
  all_goals rfl
@[simp] theorem State.oweMsi_part (v : Nat) : (s.oweMsi v).part = s.part := by
  simp only [State.oweMsi]; repeat' split
  all_goals rfl
@[simp] theorem State.oweMsi_pins (v : Nat) : (s.oweMsi v).pins = s.pins := by
  simp only [State.oweMsi]; repeat' split
  all_goals rfl
@[simp] theorem State.oweMsi_glb (v : Nat) : (s.oweMsi v).glb = s.glb := by
  simp only [State.oweMsi]; repeat' split
  all_goals rfl
@[simp] theorem State.oweMsi_ring (v : Nat) : (s.oweMsi v).ring = s.ring := by
  simp only [State.oweMsi]; repeat' split
  all_goals rfl
@[simp] theorem State.oweMsi_out (v : Nat) : (s.oweMsi v).out = s.out := by
  simp only [State.oweMsi]; repeat' split
  all_goals rfl
@[simp] theorem State.oweMsi_hearth (v : Nat) : (s.oweMsi v).hearth = s.hearth := by
  simp only [State.oweMsi]; repeat' split
  all_goals rfl
@[simp] theorem State.oweMsi_plan (v : Nat) : (s.oweMsi v).plan = s.plan := by
  simp only [State.oweMsi]; repeat' split
  all_goals rfl
@[simp] theorem State.oweMsi_rooms (v : Nat) : (s.oweMsi v).rooms = s.rooms := by
  simp only [State.oweMsi]; repeat' split
  all_goals rfl
@[simp] theorem State.oweMsi_larder (v : Nat) : (s.oweMsi v).larder = s.larder := by
  simp only [State.oweMsi]; repeat' split
  all_goals rfl
@[simp] theorem State.oweMsi_seqs (v : Nat) : (s.oweMsi v).seqs = s.seqs := by
  simp only [State.oweMsi]; repeat' split
  all_goals rfl
@[simp] theorem State.oweMsi_video (v : Nat) : (s.oweMsi v).video = s.video := by
  simp only [State.oweMsi]; repeat' split
  all_goals rfl
@[simp] theorem State.oweMsi_capt (v : Nat) : (s.oweMsi v).capt = s.capt := by
  simp only [State.oweMsi]; repeat' split
  all_goals rfl
@[simp] theorem State.oweMsi_track (v : Nat) : (s.oweMsi v).track = s.track := by
  simp only [State.oweMsi]; repeat' split
  all_goals rfl
@[simp] theorem State.oweMsi_mem (v : Nat) : (s.oweMsi v).mem = s.mem := by
  simp only [State.oweMsi]; repeat' split
  all_goals rfl
@[simp] theorem State.oweMsi_fab (v : Nat) : (s.oweMsi v).fab = s.fab := by
  simp only [State.oweMsi]; repeat' split
  all_goals rfl
@[simp] theorem State.oweMsi_pwr (v : Nat) : (s.oweMsi v).pwr = s.pwr := by
  simp only [State.oweMsi]; repeat' split
  all_goals rfl
@[simp] theorem State.oweMsi_ras (v : Nat) : (s.oweMsi v).ras = s.ras := by
  simp only [State.oweMsi]; repeat' split
  all_goals rfl

/-! ## log -/

@[simp] theorem State.log_pending (e : LogEntry) : (s.log e).pending = s.pending := by
  simp only [State.log, State.oweMsi]; repeat' split
  all_goals rfl
@[simp] theorem State.log_free (e : LogEntry) : (s.log e).free = s.free := by
  simp only [State.log, State.oweMsi]; repeat' split
  all_goals rfl
@[simp] theorem State.log_part (e : LogEntry) : (s.log e).part = s.part := by
  simp only [State.log, State.oweMsi]; repeat' split
  all_goals rfl
@[simp] theorem State.log_pins (e : LogEntry) : (s.log e).pins = s.pins := by
  simp only [State.log, State.oweMsi]; repeat' split
  all_goals rfl
@[simp] theorem State.log_glb (e : LogEntry) : (s.log e).glb = s.glb := by
  simp only [State.log, State.oweMsi]; repeat' split
  all_goals rfl
@[simp] theorem State.log_ring (e : LogEntry) : (s.log e).ring = s.ring := by
  simp only [State.log, State.oweMsi]; repeat' split
  all_goals rfl
@[simp] theorem State.log_out (e : LogEntry) : (s.log e).out = s.out := by
  simp only [State.log, State.oweMsi]; repeat' split
  all_goals rfl
@[simp] theorem State.log_hearth (e : LogEntry) : (s.log e).hearth = s.hearth := by
  simp only [State.log, State.oweMsi]; repeat' split
  all_goals rfl
@[simp] theorem State.log_plan (e : LogEntry) : (s.log e).plan = s.plan := by
  simp only [State.log, State.oweMsi]; repeat' split
  all_goals rfl
@[simp] theorem State.log_rooms (e : LogEntry) : (s.log e).rooms = s.rooms := by
  simp only [State.log, State.oweMsi]; repeat' split
  all_goals rfl
@[simp] theorem State.log_larder (e : LogEntry) : (s.log e).larder = s.larder := by
  simp only [State.log, State.oweMsi]; repeat' split
  all_goals rfl
@[simp] theorem State.log_seqs (e : LogEntry) : (s.log e).seqs = s.seqs := by
  simp only [State.log, State.oweMsi]; repeat' split
  all_goals rfl
@[simp] theorem State.log_video (e : LogEntry) : (s.log e).video = s.video := by
  simp only [State.log, State.oweMsi]; repeat' split
  all_goals rfl
@[simp] theorem State.log_capt (e : LogEntry) : (s.log e).capt = s.capt := by
  simp only [State.log, State.oweMsi]; repeat' split
  all_goals rfl
@[simp] theorem State.log_track (e : LogEntry) : (s.log e).track = s.track := by
  simp only [State.log, State.oweMsi]; repeat' split
  all_goals rfl
@[simp] theorem State.log_mem (e : LogEntry) : (s.log e).mem = s.mem := by
  simp only [State.log, State.oweMsi]; repeat' split
  all_goals rfl
@[simp] theorem State.log_fab (e : LogEntry) : (s.log e).fab = s.fab := by
  simp only [State.log, State.oweMsi]; repeat' split
  all_goals rfl
@[simp] theorem State.log_pwr (e : LogEntry) : (s.log e).pwr = s.pwr := by
  simp only [State.log, State.oweMsi]; repeat' split
  all_goals rfl

/-! ## porchErr -/

@[simp] theorem State.porchErr_pending (c : W32) (r : Option Nat) : (s.porchErr c r).pending = s.pending := by
  simp only [State.porchErr, State.log_pending, State.porchLatch]; split <;> rfl
@[simp] theorem State.porchErr_free (c : W32) (r : Option Nat) : (s.porchErr c r).free = s.free := by
  simp only [State.porchErr, State.log_free, State.porchLatch]; split <;> rfl
@[simp] theorem State.porchErr_part (c : W32) (r : Option Nat) : (s.porchErr c r).part = s.part := by
  simp only [State.porchErr, State.log_part, State.porchLatch]; split <;> rfl
@[simp] theorem State.porchErr_pins (c : W32) (r : Option Nat) : (s.porchErr c r).pins = s.pins := by
  simp only [State.porchErr, State.log_pins, State.porchLatch]; split <;> rfl
@[simp] theorem State.porchErr_glb (c : W32) (r : Option Nat) : (s.porchErr c r).glb = s.glb := by
  simp only [State.porchErr, State.log_glb, State.porchLatch]; split <;> rfl
@[simp] theorem State.porchErr_ring (c : W32) (r : Option Nat) : (s.porchErr c r).ring = s.ring := by
  simp only [State.porchErr, State.log_ring, State.porchLatch]; split <;> rfl
@[simp] theorem State.porchErr_out (c : W32) (r : Option Nat) : (s.porchErr c r).out = s.out := by
  simp only [State.porchErr, State.log_out, State.porchLatch]; split <;> rfl
@[simp] theorem State.porchErr_hearth (c : W32) (r : Option Nat) : (s.porchErr c r).hearth = s.hearth := by
  simp only [State.porchErr, State.log_hearth, State.porchLatch]; split <;> rfl
@[simp] theorem State.porchErr_plan (c : W32) (r : Option Nat) : (s.porchErr c r).plan = s.plan := by
  simp only [State.porchErr, State.log_plan, State.porchLatch]; split <;> rfl
@[simp] theorem State.porchErr_rooms (c : W32) (r : Option Nat) : (s.porchErr c r).rooms = s.rooms := by
  simp only [State.porchErr, State.log_rooms, State.porchLatch]; split <;> rfl
@[simp] theorem State.porchErr_larder (c : W32) (r : Option Nat) : (s.porchErr c r).larder = s.larder := by
  simp only [State.porchErr, State.log_larder, State.porchLatch]; split <;> rfl
@[simp] theorem State.porchErr_seqs (c : W32) (r : Option Nat) : (s.porchErr c r).seqs = s.seqs := by
  simp only [State.porchErr, State.log_seqs, State.porchLatch]; split <;> rfl
@[simp] theorem State.porchErr_video (c : W32) (r : Option Nat) : (s.porchErr c r).video = s.video := by
  simp only [State.porchErr, State.log_video, State.porchLatch]; split <;> rfl
@[simp] theorem State.porchErr_capt (c : W32) (r : Option Nat) : (s.porchErr c r).capt = s.capt := by
  simp only [State.porchErr, State.log_capt, State.porchLatch]; split <;> rfl
@[simp] theorem State.porchErr_track (c : W32) (r : Option Nat) : (s.porchErr c r).track = s.track := by
  simp only [State.porchErr, State.log_track, State.porchLatch]; split <;> rfl
@[simp] theorem State.porchErr_mem (c : W32) (r : Option Nat) : (s.porchErr c r).mem = s.mem := by
  simp only [State.porchErr, State.log_mem, State.porchLatch]; split <;> rfl
@[simp] theorem State.porchErr_fab (c : W32) (r : Option Nat) : (s.porchErr c r).fab = s.fab := by
  simp only [State.porchErr, State.log_fab, State.porchLatch]; split <;> rfl
@[simp] theorem State.porchErr_pwr (c : W32) (r : Option Nat) : (s.porchErr c r).pwr = s.pwr := by
  simp only [State.porchErr, State.log_pwr, State.porchLatch]; split <;> rfl

/-! ## hostWrite -/

@[simp] theorem State.hostWrite_pending (a : Nat) (b : List Byte) (x : Bool) :
    (s.hostWrite a b x).pending = s.pending := by
  simp only [State.hostWrite]; repeat' split
  all_goals rfl
@[simp] theorem State.hostWrite_free (a : Nat) (b : List Byte) (x : Bool) : (s.hostWrite a b x).free = s.free := by
  simp only [State.hostWrite]; repeat' split
  all_goals rfl
@[simp] theorem State.hostWrite_part (a : Nat) (b : List Byte) (x : Bool) : (s.hostWrite a b x).part = s.part := by
  simp only [State.hostWrite]; repeat' split
  all_goals rfl
@[simp] theorem State.hostWrite_pins (a : Nat) (b : List Byte) (x : Bool) : (s.hostWrite a b x).pins = s.pins := by
  simp only [State.hostWrite]; repeat' split
  all_goals rfl
@[simp] theorem State.hostWrite_glb (a : Nat) (b : List Byte) (x : Bool) : (s.hostWrite a b x).glb = s.glb := by
  simp only [State.hostWrite]; repeat' split
  all_goals rfl
@[simp] theorem State.hostWrite_ring (a : Nat) (b : List Byte) (x : Bool) : (s.hostWrite a b x).ring = s.ring := by
  simp only [State.hostWrite]; repeat' split
  all_goals rfl
@[simp] theorem State.hostWrite_hearth (a : Nat) (b : List Byte) (x : Bool) :
    (s.hostWrite a b x).hearth = s.hearth := by
  simp only [State.hostWrite]; repeat' split
  all_goals rfl
@[simp] theorem State.hostWrite_plan (a : Nat) (b : List Byte) (x : Bool) : (s.hostWrite a b x).plan = s.plan := by
  simp only [State.hostWrite]; repeat' split
  all_goals rfl
@[simp] theorem State.hostWrite_rooms (a : Nat) (b : List Byte) (x : Bool) : (s.hostWrite a b x).rooms = s.rooms := by
  simp only [State.hostWrite]; repeat' split
  all_goals rfl
@[simp] theorem State.hostWrite_larder (a : Nat) (b : List Byte) (x : Bool) :
    (s.hostWrite a b x).larder = s.larder := by
  simp only [State.hostWrite]; repeat' split
  all_goals rfl
@[simp] theorem State.hostWrite_seqs (a : Nat) (b : List Byte) (x : Bool) : (s.hostWrite a b x).seqs = s.seqs := by
  simp only [State.hostWrite]; repeat' split
  all_goals rfl
@[simp] theorem State.hostWrite_video (a : Nat) (b : List Byte) (x : Bool) : (s.hostWrite a b x).video = s.video := by
  simp only [State.hostWrite]; repeat' split
  all_goals rfl
@[simp] theorem State.hostWrite_capt (a : Nat) (b : List Byte) (x : Bool) : (s.hostWrite a b x).capt = s.capt := by
  simp only [State.hostWrite]; repeat' split
  all_goals rfl
@[simp] theorem State.hostWrite_track (a : Nat) (b : List Byte) (x : Bool) : (s.hostWrite a b x).track = s.track := by
  simp only [State.hostWrite]; repeat' split
  all_goals rfl
@[simp] theorem State.hostWrite_mem (a : Nat) (b : List Byte) (x : Bool) : (s.hostWrite a b x).mem = s.mem := by
  simp only [State.hostWrite]; repeat' split
  all_goals rfl
@[simp] theorem State.hostWrite_fab (a : Nat) (b : List Byte) (x : Bool) : (s.hostWrite a b x).fab = s.fab := by
  simp only [State.hostWrite]; repeat' split
  all_goals rfl
@[simp] theorem State.hostWrite_pwr (a : Nat) (b : List Byte) (x : Bool) : (s.hostWrite a b x).pwr = s.pwr := by
  simp only [State.hostWrite]; repeat' split
  all_goals rfl
@[simp] theorem State.hostWrite_ras (a : Nat) (b : List Byte) (x : Bool) : (s.hostWrite a b x).ras = s.ras := by
  simp only [State.hostWrite]; repeat' split
  all_goals rfl

/-! ## dataWrite -/

@[simp] theorem State.dataWrite_pending (a : Nat) (b : List Byte) : (s.dataWrite a b).pending = s.pending :=
  State.hostWrite_pending s a b _
@[simp] theorem State.dataWrite_free (a : Nat) (b : List Byte) : (s.dataWrite a b).free = s.free :=
  State.hostWrite_free s a b _
@[simp] theorem State.dataWrite_part (a : Nat) (b : List Byte) : (s.dataWrite a b).part = s.part :=
  State.hostWrite_part s a b _
@[simp] theorem State.dataWrite_pins (a : Nat) (b : List Byte) : (s.dataWrite a b).pins = s.pins :=
  State.hostWrite_pins s a b _
@[simp] theorem State.dataWrite_glb (a : Nat) (b : List Byte) : (s.dataWrite a b).glb = s.glb :=
  State.hostWrite_glb s a b _
@[simp] theorem State.dataWrite_ring (a : Nat) (b : List Byte) : (s.dataWrite a b).ring = s.ring :=
  State.hostWrite_ring s a b _
@[simp] theorem State.dataWrite_hearth (a : Nat) (b : List Byte) : (s.dataWrite a b).hearth = s.hearth :=
  State.hostWrite_hearth s a b _
@[simp] theorem State.dataWrite_plan (a : Nat) (b : List Byte) : (s.dataWrite a b).plan = s.plan :=
  State.hostWrite_plan s a b _
@[simp] theorem State.dataWrite_rooms (a : Nat) (b : List Byte) : (s.dataWrite a b).rooms = s.rooms :=
  State.hostWrite_rooms s a b _
@[simp] theorem State.dataWrite_larder (a : Nat) (b : List Byte) : (s.dataWrite a b).larder = s.larder :=
  State.hostWrite_larder s a b _
@[simp] theorem State.dataWrite_seqs (a : Nat) (b : List Byte) : (s.dataWrite a b).seqs = s.seqs :=
  State.hostWrite_seqs s a b _
@[simp] theorem State.dataWrite_video (a : Nat) (b : List Byte) : (s.dataWrite a b).video = s.video :=
  State.hostWrite_video s a b _
@[simp] theorem State.dataWrite_capt (a : Nat) (b : List Byte) : (s.dataWrite a b).capt = s.capt :=
  State.hostWrite_capt s a b _
@[simp] theorem State.dataWrite_track (a : Nat) (b : List Byte) : (s.dataWrite a b).track = s.track :=
  State.hostWrite_track s a b _
@[simp] theorem State.dataWrite_mem (a : Nat) (b : List Byte) : (s.dataWrite a b).mem = s.mem :=
  State.hostWrite_mem s a b _
@[simp] theorem State.dataWrite_fab (a : Nat) (b : List Byte) : (s.dataWrite a b).fab = s.fab :=
  State.hostWrite_fab s a b _
@[simp] theorem State.dataWrite_pwr (a : Nat) (b : List Byte) : (s.dataWrite a b).pwr = s.pwr :=
  State.hostWrite_pwr s a b _
@[simp] theorem State.dataWrite_ras (a : Nat) (b : List Byte) : (s.dataWrite a b).ras = s.ras :=
  State.hostWrite_ras s a b _

/-! ## readPiece -/

@[simp] theorem State.readPiece_pending (w : ReadFor) (a : W64) (n o : Nat) (b : Bool) :
    (s.readPiece w a n o b).pending = s.pending := by
  simp only [State.readPiece, State.issueRead]; repeat' split
  all_goals rfl
@[simp] theorem State.readPiece_free (w : ReadFor) (a : W64) (n o : Nat) (b : Bool) :
    (s.readPiece w a n o b).free = s.free := by
  simp only [State.readPiece, State.issueRead]; repeat' split
  all_goals rfl
@[simp] theorem State.readPiece_part (w : ReadFor) (a : W64) (n o : Nat) (b : Bool) :
    (s.readPiece w a n o b).part = s.part := by
  simp only [State.readPiece, State.issueRead]; repeat' split
  all_goals rfl
@[simp] theorem State.readPiece_pins (w : ReadFor) (a : W64) (n o : Nat) (b : Bool) :
    (s.readPiece w a n o b).pins = s.pins := by
  simp only [State.readPiece, State.issueRead]; repeat' split
  all_goals rfl
@[simp] theorem State.readPiece_glb (w : ReadFor) (a : W64) (n o : Nat) (b : Bool) :
    (s.readPiece w a n o b).glb = s.glb := by
  simp only [State.readPiece, State.issueRead]; repeat' split
  all_goals rfl
@[simp] theorem State.readPiece_ring (w : ReadFor) (a : W64) (n o : Nat) (b : Bool) :
    (s.readPiece w a n o b).ring = s.ring := by
  simp only [State.readPiece, State.issueRead]; repeat' split
  all_goals rfl
@[simp] theorem State.readPiece_hearth (w : ReadFor) (a : W64) (n o : Nat) (b : Bool) :
    (s.readPiece w a n o b).hearth = s.hearth := by
  simp only [State.readPiece, State.issueRead]; repeat' split
  all_goals rfl
@[simp] theorem State.readPiece_plan (w : ReadFor) (a : W64) (n o : Nat) (b : Bool) :
    (s.readPiece w a n o b).plan = s.plan := by
  simp only [State.readPiece, State.issueRead]; repeat' split
  all_goals rfl
@[simp] theorem State.readPiece_rooms (w : ReadFor) (a : W64) (n o : Nat) (b : Bool) :
    (s.readPiece w a n o b).rooms = s.rooms := by
  simp only [State.readPiece, State.issueRead]; repeat' split
  all_goals rfl
@[simp] theorem State.readPiece_larder (w : ReadFor) (a : W64) (n o : Nat) (b : Bool) :
    (s.readPiece w a n o b).larder = s.larder := by
  simp only [State.readPiece, State.issueRead]; repeat' split
  all_goals rfl
@[simp] theorem State.readPiece_seqs (w : ReadFor) (a : W64) (n o : Nat) (b : Bool) :
    (s.readPiece w a n o b).seqs = s.seqs := by
  simp only [State.readPiece, State.issueRead]; repeat' split
  all_goals rfl
@[simp] theorem State.readPiece_video (w : ReadFor) (a : W64) (n o : Nat) (b : Bool) :
    (s.readPiece w a n o b).video = s.video := by
  simp only [State.readPiece, State.issueRead]; repeat' split
  all_goals rfl
@[simp] theorem State.readPiece_capt (w : ReadFor) (a : W64) (n o : Nat) (b : Bool) :
    (s.readPiece w a n o b).capt = s.capt := by
  simp only [State.readPiece, State.issueRead]; repeat' split
  all_goals rfl
@[simp] theorem State.readPiece_track (w : ReadFor) (a : W64) (n o : Nat) (b : Bool) :
    (s.readPiece w a n o b).track = s.track := by
  simp only [State.readPiece, State.issueRead]; repeat' split
  all_goals rfl
@[simp] theorem State.readPiece_mem (w : ReadFor) (a : W64) (n o : Nat) (b : Bool) :
    (s.readPiece w a n o b).mem = s.mem := by
  simp only [State.readPiece, State.issueRead]; repeat' split
  all_goals rfl
@[simp] theorem State.readPiece_fab (w : ReadFor) (a : W64) (n o : Nat) (b : Bool) :
    (s.readPiece w a n o b).fab = s.fab := by
  simp only [State.readPiece, State.issueRead]; repeat' split
  all_goals rfl
@[simp] theorem State.readPiece_pwr (w : ReadFor) (a : W64) (n o : Nat) (b : Bool) :
    (s.readPiece w a n o b).pwr = s.pwr := by
  simp only [State.readPiece, State.issueRead]; repeat' split
  all_goals rfl
@[simp] theorem State.readPiece_ras (w : ReadFor) (a : W64) (n o : Nat) (b : Bool) :
    (s.readPiece w a n o b).ras = s.ras := by
  simp only [State.readPiece, State.issueRead]; repeat' split
  all_goals rfl

/-! ## hostRead -/

/-- What every step of a fold keeps, the fold keeps. -/
theorem foldl_keeps {α β γ : Type} {g : β → γ} {f : β → α → β} (h : ∀ b a, g (f b a) = g b) (l : List α) (b : β) :
    g (l.foldl f b) = g b := by
  induction l generalizing b with
  | nil => rfl
  | cons a l ih => rw [List.foldl_cons, ih, h]

@[simp] theorem State.hostRead_pending (w : ReadFor) (a : W64) (n : Nat) : (s.hostRead w a n).pending = s.pending :=
  foldl_keeps (g := State.pending) (fun _ _ => State.readPiece_pending ..) _ _
@[simp] theorem State.hostRead_free (w : ReadFor) (a : W64) (n : Nat) : (s.hostRead w a n).free = s.free :=
  foldl_keeps (g := State.free) (fun _ _ => State.readPiece_free ..) _ _
@[simp] theorem State.hostRead_part (w : ReadFor) (a : W64) (n : Nat) : (s.hostRead w a n).part = s.part :=
  foldl_keeps (g := State.part) (fun _ _ => State.readPiece_part ..) _ _
@[simp] theorem State.hostRead_pins (w : ReadFor) (a : W64) (n : Nat) : (s.hostRead w a n).pins = s.pins :=
  foldl_keeps (g := State.pins) (fun _ _ => State.readPiece_pins ..) _ _
@[simp] theorem State.hostRead_glb (w : ReadFor) (a : W64) (n : Nat) : (s.hostRead w a n).glb = s.glb :=
  foldl_keeps (g := State.glb) (fun _ _ => State.readPiece_glb ..) _ _
@[simp] theorem State.hostRead_ring (w : ReadFor) (a : W64) (n : Nat) : (s.hostRead w a n).ring = s.ring :=
  foldl_keeps (g := State.ring) (fun _ _ => State.readPiece_ring ..) _ _
@[simp] theorem State.hostRead_hearth (w : ReadFor) (a : W64) (n : Nat) : (s.hostRead w a n).hearth = s.hearth :=
  foldl_keeps (g := State.hearth) (fun _ _ => State.readPiece_hearth ..) _ _
@[simp] theorem State.hostRead_plan (w : ReadFor) (a : W64) (n : Nat) : (s.hostRead w a n).plan = s.plan :=
  foldl_keeps (g := State.plan) (fun _ _ => State.readPiece_plan ..) _ _
@[simp] theorem State.hostRead_rooms (w : ReadFor) (a : W64) (n : Nat) : (s.hostRead w a n).rooms = s.rooms :=
  foldl_keeps (g := State.rooms) (fun _ _ => State.readPiece_rooms ..) _ _
@[simp] theorem State.hostRead_larder (w : ReadFor) (a : W64) (n : Nat) : (s.hostRead w a n).larder = s.larder :=
  foldl_keeps (g := State.larder) (fun _ _ => State.readPiece_larder ..) _ _
@[simp] theorem State.hostRead_seqs (w : ReadFor) (a : W64) (n : Nat) : (s.hostRead w a n).seqs = s.seqs :=
  foldl_keeps (g := State.seqs) (fun _ _ => State.readPiece_seqs ..) _ _
@[simp] theorem State.hostRead_video (w : ReadFor) (a : W64) (n : Nat) : (s.hostRead w a n).video = s.video :=
  foldl_keeps (g := State.video) (fun _ _ => State.readPiece_video ..) _ _
@[simp] theorem State.hostRead_capt (w : ReadFor) (a : W64) (n : Nat) : (s.hostRead w a n).capt = s.capt :=
  foldl_keeps (g := State.capt) (fun _ _ => State.readPiece_capt ..) _ _
@[simp] theorem State.hostRead_track (w : ReadFor) (a : W64) (n : Nat) : (s.hostRead w a n).track = s.track :=
  foldl_keeps (g := State.track) (fun _ _ => State.readPiece_track ..) _ _
@[simp] theorem State.hostRead_mem (w : ReadFor) (a : W64) (n : Nat) : (s.hostRead w a n).mem = s.mem :=
  foldl_keeps (g := State.mem) (fun _ _ => State.readPiece_mem ..) _ _
@[simp] theorem State.hostRead_fab (w : ReadFor) (a : W64) (n : Nat) : (s.hostRead w a n).fab = s.fab :=
  foldl_keeps (g := State.fab) (fun _ _ => State.readPiece_fab ..) _ _
@[simp] theorem State.hostRead_pwr (w : ReadFor) (a : W64) (n : Nat) : (s.hostRead w a n).pwr = s.pwr :=
  foldl_keeps (g := State.pwr) (fun _ _ => State.readPiece_pwr ..) _ _
@[simp] theorem State.hostRead_ras (w : ReadFor) (a : W64) (n : Nat) : (s.hostRead w a n).ras = s.ras :=
  foldl_keeps (g := State.ras) (fun _ _ => State.readPiece_ras ..) _ _

/-! ## reply -/

@[simp] theorem State.reply_pending (n v : Nat) : (s.reply n v).pending = s.pending := by
  simp only [State.reply]; repeat' split
  all_goals rfl
@[simp] theorem State.reply_free (n v : Nat) : (s.reply n v).free = s.free := by
  simp only [State.reply]; repeat' split
  all_goals rfl
@[simp] theorem State.reply_part (n v : Nat) : (s.reply n v).part = s.part := by
  simp only [State.reply]; repeat' split
  all_goals rfl
@[simp] theorem State.reply_pins (n v : Nat) : (s.reply n v).pins = s.pins := by
  simp only [State.reply]; repeat' split
  all_goals rfl
@[simp] theorem State.reply_glb (n v : Nat) : (s.reply n v).glb = s.glb := by
  simp only [State.reply]; repeat' split
  all_goals rfl
@[simp] theorem State.reply_ring (n v : Nat) : (s.reply n v).ring = s.ring := by
  simp only [State.reply]; repeat' split
  all_goals rfl
@[simp] theorem State.reply_porch (n v : Nat) : (s.reply n v).porch = s.porch := by
  simp only [State.reply]; repeat' split
  all_goals rfl
@[simp] theorem State.reply_hearth (n v : Nat) : (s.reply n v).hearth = s.hearth := by
  simp only [State.reply]; repeat' split
  all_goals rfl
@[simp] theorem State.reply_plan (n v : Nat) : (s.reply n v).plan = s.plan := by
  simp only [State.reply]; repeat' split
  all_goals rfl
@[simp] theorem State.reply_rooms (n v : Nat) : (s.reply n v).rooms = s.rooms := by
  simp only [State.reply]; repeat' split
  all_goals rfl
@[simp] theorem State.reply_larder (n v : Nat) : (s.reply n v).larder = s.larder := by
  simp only [State.reply]; repeat' split
  all_goals rfl
@[simp] theorem State.reply_seqs (n v : Nat) : (s.reply n v).seqs = s.seqs := by
  simp only [State.reply]; repeat' split
  all_goals rfl
@[simp] theorem State.reply_video (n v : Nat) : (s.reply n v).video = s.video := by
  simp only [State.reply]; repeat' split
  all_goals rfl
@[simp] theorem State.reply_capt (n v : Nat) : (s.reply n v).capt = s.capt := by
  simp only [State.reply]; repeat' split
  all_goals rfl
@[simp] theorem State.reply_track (n v : Nat) : (s.reply n v).track = s.track := by
  simp only [State.reply]; repeat' split
  all_goals rfl
@[simp] theorem State.reply_mem (n v : Nat) : (s.reply n v).mem = s.mem := by
  simp only [State.reply]; repeat' split
  all_goals rfl
@[simp] theorem State.reply_fab (n v : Nat) : (s.reply n v).fab = s.fab := by
  simp only [State.reply]; repeat' split
  all_goals rfl
@[simp] theorem State.reply_pwr (n v : Nat) : (s.reply n v).pwr = s.pwr := by
  simp only [State.reply]; repeat' split
  all_goals rfl
@[simp] theorem State.reply_ras (n v : Nat) : (s.reply n v).ras = s.ras := by
  simp only [State.reply]; repeat' split
  all_goals rfl

/-! ## powerUp -/

@[simp] theorem State.powerUp_pending (l : List Nat) : (s.powerUp l).pending = s.pending := rfl
@[simp] theorem State.powerUp_free (l : List Nat) : (s.powerUp l).free = s.free := rfl
@[simp] theorem State.powerUp_part (l : List Nat) : (s.powerUp l).part = s.part := rfl
@[simp] theorem State.powerUp_pins (l : List Nat) : (s.powerUp l).pins = s.pins := rfl
@[simp] theorem State.powerUp_glb (l : List Nat) : (s.powerUp l).glb = s.glb := rfl
@[simp] theorem State.powerUp_ring (l : List Nat) : (s.powerUp l).ring = s.ring := rfl
@[simp] theorem State.powerUp_porch (l : List Nat) : (s.powerUp l).porch = s.porch := rfl
@[simp] theorem State.powerUp_out (l : List Nat) : (s.powerUp l).out = s.out := rfl
@[simp] theorem State.powerUp_hearth (l : List Nat) : (s.powerUp l).hearth = s.hearth := rfl
@[simp] theorem State.powerUp_plan (l : List Nat) : (s.powerUp l).plan = s.plan := rfl
@[simp] theorem State.powerUp_rooms (l : List Nat) : (s.powerUp l).rooms = s.rooms := rfl
@[simp] theorem State.powerUp_larder (l : List Nat) : (s.powerUp l).larder = s.larder := rfl
@[simp] theorem State.powerUp_seqs (l : List Nat) : (s.powerUp l).seqs = s.seqs := rfl
@[simp] theorem State.powerUp_video (l : List Nat) : (s.powerUp l).video = s.video := rfl
@[simp] theorem State.powerUp_capt (l : List Nat) : (s.powerUp l).capt = s.capt := rfl
@[simp] theorem State.powerUp_track (l : List Nat) : (s.powerUp l).track = s.track := rfl
@[simp] theorem State.powerUp_mem (l : List Nat) : (s.powerUp l).mem = s.mem := rfl
@[simp] theorem State.powerUp_fab (l : List Nat) : (s.powerUp l).fab = s.fab := rfl
@[simp] theorem State.powerUp_ras (l : List Nat) : (s.powerUp l).ras = s.ras := rfl

/-! ## hbmWriteMasked -/

@[simp] theorem State.hbmWriteMasked_pending (a : Nat) (b : List (Option Byte)) :
    (s.hbmWriteMasked a b).pending = s.pending := rfl
@[simp] theorem State.hbmWriteMasked_free (a : Nat) (b : List (Option Byte)) :
    (s.hbmWriteMasked a b).free = s.free := rfl
@[simp] theorem State.hbmWriteMasked_part (a : Nat) (b : List (Option Byte)) :
    (s.hbmWriteMasked a b).part = s.part := rfl
@[simp] theorem State.hbmWriteMasked_pins (a : Nat) (b : List (Option Byte)) :
    (s.hbmWriteMasked a b).pins = s.pins := rfl
@[simp] theorem State.hbmWriteMasked_glb (a : Nat) (b : List (Option Byte)) :
    (s.hbmWriteMasked a b).glb = s.glb := rfl
@[simp] theorem State.hbmWriteMasked_ring (a : Nat) (b : List (Option Byte)) :
    (s.hbmWriteMasked a b).ring = s.ring := rfl
@[simp] theorem State.hbmWriteMasked_porch (a : Nat) (b : List (Option Byte)) :
    (s.hbmWriteMasked a b).porch = s.porch := rfl
@[simp] theorem State.hbmWriteMasked_out (a : Nat) (b : List (Option Byte)) :
    (s.hbmWriteMasked a b).out = s.out := rfl
@[simp] theorem State.hbmWriteMasked_hearth (a : Nat) (b : List (Option Byte)) :
    (s.hbmWriteMasked a b).hearth = s.hearth := rfl
@[simp] theorem State.hbmWriteMasked_plan (a : Nat) (b : List (Option Byte)) :
    (s.hbmWriteMasked a b).plan = s.plan := rfl
@[simp] theorem State.hbmWriteMasked_rooms (a : Nat) (b : List (Option Byte)) :
    (s.hbmWriteMasked a b).rooms = s.rooms := rfl
@[simp] theorem State.hbmWriteMasked_larder (a : Nat) (b : List (Option Byte)) :
    (s.hbmWriteMasked a b).larder = s.larder := rfl
@[simp] theorem State.hbmWriteMasked_seqs (a : Nat) (b : List (Option Byte)) :
    (s.hbmWriteMasked a b).seqs = s.seqs := rfl
@[simp] theorem State.hbmWriteMasked_video (a : Nat) (b : List (Option Byte)) :
    (s.hbmWriteMasked a b).video = s.video := rfl
@[simp] theorem State.hbmWriteMasked_capt (a : Nat) (b : List (Option Byte)) :
    (s.hbmWriteMasked a b).capt = s.capt := rfl
@[simp] theorem State.hbmWriteMasked_track (a : Nat) (b : List (Option Byte)) :
    (s.hbmWriteMasked a b).track = s.track := rfl
@[simp] theorem State.hbmWriteMasked_fab (a : Nat) (b : List (Option Byte)) :
    (s.hbmWriteMasked a b).fab = s.fab := rfl
@[simp] theorem State.hbmWriteMasked_pwr (a : Nat) (b : List (Option Byte)) :
    (s.hbmWriteMasked a b).pwr = s.pwr := rfl
@[simp] theorem State.hbmWriteMasked_ras (a : Nat) (b : List (Option Byte)) :
    (s.hbmWriteMasked a b).ras = s.ras := rfl

/-! ## The course of a packet -/

/-- The packets of a ring depend on the ring block alone. -/
theorem State.opsOf_congr {s t : State} {r : Nat} (h : t.ring = s.ring) (hr : r ≠ mboxRing) : t.opsOf r = s.opsOf r := by
  simp only [State.opsOf, if_neg hr, State.ringCtx, h]

theorem ringId_ne_mbox (r : RingId) : r.toNat ≠ mboxRing := by
  have := r.isLt; simp only [mboxRing]; omega

/-- The packet offered is one of the ring's packets. -/
theorem Offers.mem {s : State} {r : RingId} {op : Nat} {o : Op} (h : Offers s r op o) : o ∈ s.opsOf r.toNat :=
  List.mem_of_find?_eq_some h.1

/-- The meaning of a packet command runs its body on the packet offered. -/
theorem Offers.withOp {s : State} {r : RingId} {op : Nat} {o : Op} (h : Offers s r op o) (f : Op → State → State) :
    s.withOp (.ring r) op f = f o s := by
  simp [State.withOp, h.1, h.2.1, State.takes, h.2.2]

/-- The packets of a ring after one of them changes. -/
theorem State.opsOf_modOp (s : State) {r : Nat} (id : Nat) (f : Op → Op) (hr : r ≠ mboxRing) :
    (s.modOp r id f).opsOf r = (s.opsOf r).map (fun o => if o.id = id then f o else o) := by
  simp only [State.opsOf, State.modOp, if_neg hr, State.modRing, State.ringCtx, tget_tmod_self]
  cases tget s.ring.ctx r <;> rfl

/-- Changing the packets of one number changes the one found by it. -/
theorem find_map_id {l : List Op} {id : Nat} {f : Op → Op} (hf : ∀ o, (f o).id = o.id) :
    (l.map (fun o => if o.id = id then f o else o)).find? (fun o => o.id == id)
      = (l.find? (fun o => o.id == id)).map f := by
  induction l with
  | nil => rfl
  | cons a l ih =>
    by_cases h : a.id = id
    · simp [h, hf a]
    · simp only [List.map_cons, if_neg h]
      rw [List.find?_cons_of_neg (by simpa using h), List.find?_cons_of_neg (by simpa using h)]
      exact ih

theorem State.findOp_modOp (s : State) {r id : Nat} {f : Op → Op} (hf : ∀ o, (f o).id = o.id) (hr : r ≠ mboxRing) :
    (s.modOp r id f).findOp r id = (s.findOp r id).map f := by
  simp only [State.findOp, State.opsOf_modOp s id f hr]
  exact find_map_id hf

/-- That a ring's oldest packet is noted as finished leaves every packet as it is. -/
@[simp] theorem State.opsOf_noteReady (r q : Nat) : (s.noteReady r).opsOf q = s.opsOf q := by
  simp only [State.noteReady]; split <;> rfl
@[simp] theorem State.findOp_noteReady (r q id : Nat) : (s.noteReady r).findOp q id = s.findOp q id := by
  simp only [State.findOp, State.opsOf_noteReady]

theorem State.findOp_of_mem {s : State} {r : Nat} {o : Op} (h : o ∈ s.opsOf r) : ∃ p, s.findOp r o.id = some p := by
  have : (s.findOp r o.id).isSome = true := by
    rw [State.findOp, List.find?_isSome]
    exact ⟨o, h, by simp⟩
  exact Option.isSome_iff_exists.mp this

/-- A packet that finishes has the status it finishes with. -/
theorem State.statusOf_finishOp {s : State} {r : Nat} {o : Op} (h : o ∈ s.opsOf r) (hr : r ≠ mboxRing)
    (c : W32) (n : W16) (e : Nat) (x : Bool) : (s.finishOp r o.id c n e x).statusOf r o.id = some c := by
  obtain ⟨p, hp⟩ := State.findOp_of_mem h
  simp only [State.finishOp, hp, if_neg hr, State.statusOf]
  rw [State.findOp_noteReady, State.findOp_modOp s ?_ hr, hp]
  · rfl
  · exact fun _ => rfl

/-- The same for a packet that nothing but its ring's packets concern. -/
theorem State.statusOf_finish {s : State} {r : Nat} {o : Op} (h : o ∈ s.opsOf r) (hr : r ≠ mboxRing) (c : W32) :
    (s.finish r o.id c).statusOf r o.id = some c := State.statusOf_finishOp h hr c 0 0 false

/-- A state with the same ring block finishes the packet that was offered. -/
theorem Offers.finish {s t : State} {r : RingId} {op : Nat} {o : Op} (h : Offers s r op o) (ht : t.ring = s.ring)
    (c : W32) : (t.finish r.toNat o.id c).statusOf r.toNat o.id = some c := by
  apply State.statusOf_finish _ (ringId_ne_mbox r)
  rw [State.opsOf_congr ht (ringId_ne_mbox r)]
  exact h.mem

/-- A packet that its unit takes up goes on, whatever its earlier state was. -/
theorem State.goesOn_beginOp {s : State} {r : Nat} {o : Op} (h : o ∈ s.opsOf r) (hr : r ≠ mboxRing)
    (hf : ∀ p ∈ s.opsOf r, p.id = o.id → p.fin = none) : (s.beginOp r o.id).goesOn r o.id := by
  obtain ⟨p, hp⟩ := State.findOp_of_mem h
  have hp' : (s.opsOf r).find? (fun q => q.id == o.id) = some p := hp
  refine ⟨{ p with started := true, waits := true }, ?_, rfl, ?_⟩
  · rw [State.beginOp, State.findOp_modOp s ?_ hr, hp]
    · rfl
    · exact fun _ => rfl
  · exact hf p (List.mem_of_find?_eq_some hp') (by simpa using List.find?_some hp')

/-- Checks that all hold let the effect through. -/
theorem State.checked_ok {s : State} {r : Nat} {o : Op} {cs : List (Bool × W32)} {act : State → State}
    (h : ∀ c ∈ cs, c.1 = true) : s.checked r o cs act = (act s).finish r o.id Code.ok := by
  have : cs.find? (fun c => !c.1) = none := by
    rw [List.find?_eq_none]; intro c hc; simp [h c hc]
  simp only [State.checked, this]

/-- The first check that fails gives the status, and nothing else happens. -/
theorem State.checked_fail {s : State} {r : Nat} {o : Op} {cs : List (Bool × W32)} {act : State → State} {c : Bool × W32}
    (h : cs.find? (fun c => !c.1) = some c) : s.checked r o cs act = s.finish r o.id c.2 := by
  simp only [State.checked, h]


end Sys2Proof.Machine
end

