-- ==== Sys2Proof/Laws/Fabric.lean ====
section
/-!
SUPPORT. What the operations of the fabric can change: the fabric itself, the log, and what a log entry owes.
-/
namespace Sys2Proof.Machine

/-- A state that differs from another in the fabric, the Porch and the recovery unit at most. -/
def FabOnly (s t : State) : Prop := ∃ f p r, t = { s with fab := f, porch := p, ras := r }

theorem ite_ind {α : Type} {c : Prop} [Decidable c] {a b : α} (P : α → Prop) (h : c → P a) (g : ¬ c → P b) :
    P (if c then a else b) := by
  by_cases k : c
  · rw [if_pos k]; exact h k
  · rw [if_neg k]; exact g k

theorem FabOnly.refl (s : State) : FabOnly s s := ⟨s.fab, s.porch, s.ras, rfl⟩

theorem FabOnly.trans {s t u : State} (a : FabOnly s t) (b : FabOnly t u) : FabOnly s u := by
  obtain ⟨f, p, r, rfl⟩ := a
  obtain ⟨g, q, w, rfl⟩ := b
  exact ⟨g, q, w, rfl⟩

theorem FabOnly.modFab (s : State) (f : Fab → Fab) : FabOnly s (s.modFab f) := ⟨_, s.porch, s.ras, rfl⟩

theorem FabOnly.setFab (s : State) (f : Fab) : FabOnly s { s with fab := f } := ⟨_, s.porch, s.ras, rfl⟩

theorem FabOnly.log (s : State) (e : LogEntry) : FabOnly s (s.log e) := by
  unfold State.log State.oweMsi
  simp only []
  split_ifs <;> exact ⟨_, _, _, rfl⟩

theorem FabOnly.fabErr (s : State) (port : Nat) (code : W32) (ctx : Nat) : FabOnly s (s.fabErr port code ctx) := by
  unfold State.fabErr
  simp only []
  split_ifs
  · exact FabOnly.log _ _
  · exact (FabOnly.modFab _ _).trans (FabOnly.log _ _)

theorem FabOnly.dropFrame (s : State) : FabOnly s s.dropFrame := FabOnly.modFab _ _

theorem FabOnly.leaveBuffer (s : State) (t v : Nat) : FabOnly s (s.leaveBuffer t v) := ⟨_, s.porch, s.ras, rfl⟩

theorem FabOnly.enqueue (s : State) (p : Nat) (q : Queued) : FabOnly s (s.enqueue p q) := ⟨_, s.porch, s.ras, rfl⟩

theorem FabOnly.spanReport (s : State) (a : Byte) (x y : W32) : FabOnly s (s.spanReport a x y) := by
  unfold State.spanReport
  split
  · split_ifs <;> exact FabOnly.modFab _ _
  · exact FabOnly.modFab _ _

theorem FabOnly.accept (s : State) (f : Frame) : FabOnly s (s.accept f) := by
  unfold State.accept
  refine ite_ind _ (fun _ => ?_) (fun _ => ?_)
  · refine ite_ind _ (fun _ => ?_) (fun _ => ?_)
    · exact (FabOnly.dropFrame s).trans (FabOnly.fabErr _ _ _ _)
    · exact FabOnly.refl s
  · cases f.ctrl <;> first
      | exact FabOnly.refl s
      | exact FabOnly.spanReport _ _ _ _
      | exact FabOnly.modFab _ _

theorem FabOnly.drainHeld (n : Nat) : ∀ (s : State) (k : Nat), FabOnly s (State.drainHeld n s k) := by
  induction n with
  | zero =>
    intro s k
    have e : State.drainHeld 0 s k = s := by unfold State.drainHeld; rfl
    rw [e]
    exact FabOnly.refl s
  | succ n ih =>
    intro s k
    unfold State.drainHeld
    split
    · exact FabOnly.refl s
    · split
      · exact FabOnly.refl s
      · exact ((FabOnly.modFab _ _).trans (FabOnly.accept _ _)).trans (ih _ _)

theorem FabOnly.endTriple (s : State) (k : Nat) : FabOnly s (s.endTriple k) :=
  (FabOnly.modFab _ _).trans (FabOnly.fabErr _ _ _ _)

theorem FabOnly.transport (s : State) (f : Frame) : FabOnly s (s.transport f) := by
  unfold State.transport
  simp only []
  split_ifs
  · exact FabOnly.refl s
  · exact ((FabOnly.modFab _ _).trans (FabOnly.accept _ _)).trans (FabOnly.drainHeld _ _ _)
  · exact FabOnly.modFab _ _
  · exact FabOnly.modFab _ _
  · exact FabOnly.modFab _ _
  · exact FabOnly.endTriple _ _

theorem FabOnly.deliver (s : State) (f : Frame) : FabOnly s (s.deliver f) := by
  unfold State.deliver
  split_ifs
  · exact FabOnly.transport _ _
  · exact FabOnly.accept _ _

theorem FabOnly.routeFrame (s : State) (t : Nat) (o : Bool) (f : Frame) : FabOnly s (s.routeFrame t o f) := by
  unfold State.routeFrame
  have hl : FabOnly s (if o = true then s.leaveBuffer t (f.vc.toNat % 4) else s) := by
    split_ifs
    · exact FabOnly.leaveBuffer _ _ _
    · exact FabOnly.refl s
  simp only []
  split
  · exact hl.trans (FabOnly.deliver _ _)
  · split
    · exact (hl.trans (FabOnly.dropFrame _)).trans (FabOnly.fabErr _ _ _ _)
    · exact FabOnly.enqueue _ _ _

theorem FabOnly.sendData (s : State) (vc : Nat) (d : Byte) (op : Nat) (x : Bool) (c : Ctrl) (b : List Byte) :
    FabOnly s (s.sendData vc d op x c b) := (FabOnly.modFab _ _).trans (FabOnly.routeFrame _ _ _ _)

theorem FabOnly.sendCtrl (s : State) (d : Byte) (c : Ctrl) : FabOnly s (s.sendCtrl d c) := FabOnly.sendData _ _ _ _ _ _ _

theorem FabOnly.foldl {α : Type} (f : State → α → State) (h : ∀ s a, FabOnly s (f s a)) (l : List α) :
    ∀ s, FabOnly s (l.foldl f s) := by
  induction l with
  | nil => intro s; exact FabOnly.refl s
  | cons a l ih => intro s; exact (h s a).trans (ih _)

theorem FabOnly.tellOthers (s : State) (j : Job) (c : Ctrl) : FabOnly s (s.tellOthers j c) :=
  FabOnly.foldl _ (fun s d => FabOnly.sendCtrl s d c) _ _

theorem FabOnly.routeAll (l : List Queued) : ∀ s : State, FabOnly s (l.foldl (fun s q => s.routeFrame 8 false q.frame) s) := by
  induction l with
  | nil => exact FabOnly.refl
  | cons q l ih => exact fun s => (FabOnly.routeFrame s 8 false q.frame).trans (ih _)

end Sys2Proof.Machine
end

