-- ==== Sys2Proof/Laws/Host.lean ====
section
/-!
SUPPORT. Host accesses, the link and the Porch: what each shared operation does.
-/
namespace Sys2Proof.Machine

theorem reply_eq {s : State} (h : s.regsUp = true) (n v : Nat) : s.reply n v = s.answers n v := by
  simp only [State.regsUp, Bool.and_eq_true, bne_iff_ne, ne_eq] at h
  simp [State.reply, State.answers, h.1]

theorem getElem?_lmod {α} (l : List α) (i k : Nat) (f : α → α) :
   (lmod l i f)[k]? = if k = i then (l[k]?).map f else l[k]? := by
  induction l generalizing i k with
  | nil => simp [lmod]
  | cons a l ih => cases i <;> cases k <;> simp [lmod, ih]

theorem field_zero (x w : Nat) : field x 0 w = x % 2 ^ w := by simp [field]

theorem flushLow_none {s : State} (h : s.porch.low = none) : s.flushLow = s := by simp [State.flushLow, h]

theorem hostWriteReg_low {s : State} (h : s.regsUp = true) (hl : s.porch.low = none) (f) : s.hostWriteReg f = f s := by
  simp [State.hostWriteReg, h, flushLow_none hl]

theorem hostWriteReg_up {s : State} (h : s.regsUp = true) (f) : s.hostWriteReg f = f s.flushLow := by
  simp [State.hostWriteReg, h]

theorem getLsbD_setBit {w} (v : BitVec w) (i k : Nat) :
    (setBit v i).getLsbD k = (v.getLsbD k || (decide (k = i) && decide (i < w))) := by
  by_cases h : k = i
  · subst h; by_cases hk : k < w <;> simp [setBit, hk]
  · simp only [setBit, BitVec.getLsbD_or, BitVec.getLsbD_shiftLeft, h, decide_false, Bool.false_and]
    congr 1
    by_cases h1 : k < i
    · simp [h1]
    · have : k - i ≠ 0 := by omega
      simp [h1, this]

theorem getLsbD_clearBit {w} (v : BitVec w) (i k : Nat) :
    (clearBit v i).getLsbD k = (v.getLsbD k && !decide (k = i)) := by
  by_cases hk : k < w
  · by_cases h : k = i
    · subst h; simp [clearBit, hk]
    · have h1 : k < i ∨ k - i ≠ 0 := by omega
      have : (1#w <<< i).getLsbD k = false := by
        rw [BitVec.getLsbD_shiftLeft]
        rcases h1 with h1 | h1 <;> simp [h1]
      simp only [clearBit, BitVec.getLsbD_and, BitVec.getLsbD_not, hk, this, h]
      simp
  · simp [BitVec.getLsbD_of_ge _ _ (Nat.le_of_not_lt hk)]

theorem blockNo_lt (b : BlockId) : blockNo b < 15 := by cases b <;> decide

theorem write4_low {s : State} (h : s.regsUp = true) (hl : s.porch.low = none) (o v) (ha : o % 4 = 0) (hd : o < 0xF00000)
   (h1 : o ≠ offCmdBase) (h2 : o ≠ offCplBase) (h3 : o ≠ offCmdBase + 4) (h4 : o ≠ offCplBase + 4) :
   exec (.registerWrite o (.w32 v)) s = .next (s.writeWord o v) := by
  have : ¬ o / 1048576 = 15 := by omega
  simp [exec, execRegisterWrite, h, ha, this, State.write4, flushLow_none hl, h1, h2, h3, h4]

theorem write_video_ctl {s : State} (h : s.regsUp = true) (hl : s.porch.low = none) (v) :
    exec (.registerWrite 0x700010 (.w32 v)) s =
      .next (s.lockedWrite blockVideo (fun s => s.modVideo (fun x => { x with conceal := v.getLsbD 0 }))) := by
  rw [write4_low h hl _ _ (by decide) (by decide) (by decide) (by decide) (by decide) (by decide)]; rfl

theorem write_hearth_ctl {s : State} (h : s.regsUp = true) (hl : s.porch.low = none) (v) :
    exec (.registerWrite 0xE00010 (.w32 v)) s = .next (s.lockedWrite blockHearth (fun s => s.modHearth (fun h =>
      { h with preserve := v.getLsbD 12, nextCold := v.getLsbD 11 }))) := by
  rw [write4_low h hl _ _ (by decide) (by decide) (by decide) (by decide) (by decide) (by decide)]; rfl

theorem splitWrite_one (m n a : Nat) (bs : List Byte) (hb : bs ≠ []) (h : bs.length ≤ min m (4096 - a % 4096)) :
    splitWrite m (n + 1) a bs = [(a, bs)] := by
  have e : bs.isEmpty = false := by cases bs with | nil => exact absurd rfl hb | cons => rfl
  simp only [splitWrite, e, Bool.false_eq_true, if_false, List.take_of_length_le h, List.drop_of_length_le h]
  cases n <;> simp [splitWrite]

theorem mps_ge (s : State) : 128 ≤ s.mps := by
  have : 1 ≤ 2 ^ field s.porch.cfg.devCtl.toNat 5 3 := Nat.one_le_two_pow
  simp only [State.mps]; omega

theorem hostWrite_le32 {s : State} (hs : s.silent = false) (hb : s.porch.cfg.bme = true) (a : W64) (ha : a.toNat % 4 = 0)
    (v : W32) (ro : Bool) : s.hostWrite a.toNat (le32 v) ro = { s with out := s.out ++ [.write a (le32 v) ro] } := by
  have hl : (le32 v).length = 4 := rfl
  have := mps_ge s
  have e : splitWrite s.mps 4 a.toNat (le32 v) = [(a.toNat, le32 v)] :=
    splitWrite_one _ _ _ _ (by intro h; rw [h] at hl; cases hl) (by rw [hl]; omega)
  have e2 : (le32 v).isEmpty = false := rfl
  simp only [State.hostWrite, hs, e2, hb, hl, e, Bool.or_self, Bool.false_eq_true, if_false, if_true, List.map_cons, List.map_nil,
    BitVec.ofNat_toNat, BitVec.setWidth_eq]

theorem postMsi_sends {t : State} {v : Nat} (hi : t.intxMode = false) (hf : t.porch.cfg.funcMask = false)
    (hm : (t.porch.entry v).masked = false) (hb : t.porch.cfg.bme = true) (hs : t.silent = false)
    (ha : (t.porch.entry v).addr.toNat % 4 = 0) :
    t.postMsi v = { t with out := t.out ++ [.write (t.porch.entry v).addr (le32 (t.porch.entry v).data) false] } := by
  simp only [State.postMsi, hi, hf, hm, hb, State.sendMsi, Bool.or_self, Bool.false_eq_true, if_false, Bool.not_true]
  exact hostWrite_le32 hs hb _ ha _ _

theorem releaseMsi_sends {t : State} {v : Nat} (hp : t.porch.pba.getLsbD v = true) (hf : t.porch.cfg.funcMask = false)
    (hm : (t.porch.entry v).masked = false) (he : t.porch.cfg.msixEnable = true) (hc : t.glb.compat = false)
    (hb : t.porch.cfg.bme = true) (hs : t.silent = false) (ha : (t.porch.entry v).addr.toNat % 4 = 0) :
    t.releaseMsi v = { t with
      out := t.out ++ [.write (t.porch.entry v).addr (le32 (t.porch.entry v).data) false],
      porch := { t.porch with pba := clearBit t.porch.pba v } } := by
  simp only [State.releaseMsi, hp, hf, hm, he, hs, Bool.not_false, Bool.and_self, if_true]
  have := postMsi_sends (t := t.modPorch (fun p => { p with pba := clearBit p.pba v })) (v := v)
    (by simp [State.intxMode, State.modPorch, he, hc]) hf hm hb hs ha
  rw [this]; rfl

theorem append_head (r : Ras) (b : List Byte) : (r.append b).head = r.head + 1 := by
  unfold Ras.append; dsimp only; split
  · rfl
  · split <;> rfl

/-- An error changes only the error bits of configuration space. -/
theorem aerUnc_form (p : Porch) (i : Nat) : ∃ u d x, p.aerUnc i =
    { p with cfg := { p.cfg with aerUnc := u, devStatus := d, status := x } } := ⟨_, _, _, rfl⟩
theorem aerCor_form (p : Porch) (i : Nat) : ∃ k d, p.aerCor i =
    { p with cfg := { p.cfg with aerCor := k, devStatus := d } } := ⟨_, _, rfl⟩

/-- A log entry joins the log, and changes else only what its message owes and the error bits of configuration space. -/
theorem log_form (s : State) (e : LogEntry) : ∃ ow u k dv sx b, s.log e = { s with
    porch := { s.porch with owed := ow, cfg := { s.porch.cfg with aerUnc := u, aerCor := k, devStatus := dv, status := sx } },
    ras := s.ras.append b } := by
  obtain ⟨u, d, x, hu⟩ := aerUnc_form s.porch aerUncInternal
  obtain ⟨k, d', hk⟩ := aerCor_form s.porch aerCorInternal
  unfold State.log State.oweMsi
  dsimp only
  rw [hu, hk]
  split <;> split <;> (try split) <;> (try split) <;> exact ⟨_, _, _, _, _, _, rfl⟩

theorem porchErr_form (s : State) (c : W32) (r : Option Nat) : ∃ ow u k dv sx p b, s.porchErr c r = { s with
    porch := { s.porch with
      errValid := true, errCode := if s.porch.errValid then s.porch.errCode else Code.low c, errPend := p, owed := ow,
      cfg := { s.porch.cfg with aerUnc := u, aerCor := k, devStatus := dv, status := sx } }, ras := s.ras.append b } := by
  unfold State.porchErr
  dsimp only
  generalize hE : ({ status := c, unit := 9, ctx := _ } : LogEntry) = e
  obtain ⟨ow, u, k, dv, sx, b, h⟩ := log_form (s.porchLatch c r) e
  rw [h]
  unfold State.porchLatch
  cases hv : s.porch.errValid
  · exact ⟨ow, u, k, dv, sx, r, b, by rw [if_neg Bool.false_ne_true, if_neg Bool.false_ne_true]⟩
  · exact ⟨ow, u, k, dv, sx, s.porch.errPend, b, by rw [if_pos rfl, if_pos rfl, ← hv]⟩

/-- An uncorrectable internal error is the only error bit that a log entry sets among the uncorrectable ones. -/
theorem log_unc (s : State) (e : LogEntry) : (s.log e).porch.cfg.aerUnc =
    if Code.cls e.status = 4 then setBit s.porch.cfg.aerUnc aerUncInternal else s.porch.cfg.aerUnc := by
  unfold State.log State.oweMsi
  dsimp only
  split <;> split <;> (try split) <;> (try split) <;> rfl

theorem porchErr_unc (s : State) (c : W32) (r : Option Nat) (i : Nat) (h : s.porch.cfg.aerUnc.getLsbD i = true) :
    (s.porchErr c r).porch.cfg.aerUnc.getLsbD i = true := by
  have e : (s.porchLatch c r).porch.cfg = s.porch.cfg := by unfold State.porchLatch; split <;> rfl
  unfold State.porchErr
  rw [log_unc, e]
  dsimp only
  by_cases hc : Code.cls c = 4
  · rw [if_pos hc, getLsbD_setBit, h, Bool.true_or]
  · rw [if_neg hc]; exact h

theorem dev_off {s : State} (h : s.glb.dev ≠ .off) : (s.glb.dev == .off) = false := by simpa using h

theorem setBit_ne_zero {w} (v : BitVec w) (i : Nat) (h : i < w) : setBit v i ≠ 0 := by
  intro e
  have := congrArg (fun x => BitVec.getLsbD x i) e
  simp [setBit, h] at this

theorem leBytes_zero (n : Nat) : leBytes n 0 = List.replicate n 0 := by
  induction n with
  | zero => rfl
  | succ n ih => simp only [leBytes, List.replicate]; rw [show 0 / 256 = 0 from rfl]; exact congrArg _ ih

/-- A held request goes out: Bus Master Enable stays, and nothing is held. -/
theorem issueHeld_form (s : State) (h : Held) (hb : s.porch.cfg.bme = true) :
    ∃ p o, s.issueHeld h = { s with porch := p, out := o } ∧ p.cfg = s.porch.cfg ∧ p.queue = s.porch.queue ∧ p.held = s.porch.held := by
  cases h with
  | write a d ro =>
    simp only [State.issueHeld, State.hostWrite, hb]
    split <;> exact ⟨_, _, rfl, rfl, rfl, rfl⟩
  | read w a n off again =>
    simp only [State.issueHeld, State.issueRead]
    split <;> exact ⟨_, _, rfl, rfl, rfl, rfl⟩
  | msi v =>
    simp only [State.issueHeld, State.postMsi, State.sendMsi, State.hostWrite, State.modPorch, hb]
    simp only [Bool.not_true, Bool.not_false, Bool.or_self, Bool.or_true, Bool.true_or, Bool.or_false, Bool.false_or,
      Bool.and_true, Bool.true_and, Bool.and_false, Bool.false_and, Bool.and_self, Bool.false_eq_true, decide_false, decide_true,
      if_true, if_false, reduceCtorEq]
    repeat' split
    all_goals exact ⟨_, _, rfl, rfl, rfl, rfl⟩

theorem issueHeld_fold (q : List Held) : ∀ (s : State), s.porch.cfg.bme = true →
    ∃ p o, q.foldl State.issueHeld s = { s with porch := p, out := o } ∧ p.cfg = s.porch.cfg ∧ p.queue = s.porch.queue ∧ p.held = s.porch.held := by
  induction q with
  | nil => intro s _; exact ⟨_, _, rfl, rfl, rfl, rfl⟩
  | cons h q ih =>
    intro s hb
    obtain ⟨p, o, e, e1, e2, e3⟩ := issueHeld_form s h hb
    obtain ⟨p', o', f, f1, f2, f3⟩ := ih { s with porch := p, out := o } (by simp [e1, hb])
    refine ⟨p', o', ?_, f1.trans e1, f2.trans e2, f3.trans e3⟩
    rw [List.foldl_cons, e, f]

theorem beginHold_form (p : Porch) : ∃ h m k, p.beginHold = { p with held := h, holdMs := m, holdTicks := k } := by
  unfold Porch.beginHold; split <;> exact ⟨_, _, _, rfl⟩

theorem leNat_leBytes (n v : Nat) : leNat (leBytes n v) = v % 256 ^ n := by
  induction n generalizing v with
  | zero => simp [leBytes, leNat, Nat.mod_one]
  | succ n ih =>
    simp only [leBytes, leNat, ih, BitVec.toNat_ofNat]
    rw [Nat.pow_succ 256 n, Nat.mul_comm (256 ^ n) 256, Nat.mod_mul]

theorem leBytes_length (n v : Nat) : (leBytes n v).length = n := by
  induction n generalizing v with
  | zero => rfl
  | succ n ih => simp [leBytes, ih]

theorem getD_leBytes (n v i : Nat) (h : i < n) : (leBytes n v).getD i 0 = (leBytes n v)[i]'(by simpa [leBytes_length] using h) := by
  simp [List.getD, leBytes_length, h]

theorem overlay_same (reg n cur value : Nat) (h : 0 < n) : overlay reg n cur reg n value = some (value % 256 ^ n) := by
  have h1 : ¬ (reg + n ≤ reg) := by omega
  simp only [overlay, h1, decide_false, Bool.or_self, Bool.false_eq_true, if_false]
  rw [← leNat_leBytes]
  congr 2
  apply List.ext_getElem
  · simp [leBytes_length]
  · intro i h1 h2
    simp only [List.getElem_map, List.getElem_range]
    have : i < n := by simpa using h1
    rw [if_pos (by omega), show reg + i - reg = i by omega, getD_leBytes _ _ _ this]

theorem cfgReg_out (s : State) (o k v reg n cur : Nat) (f) (h : o + k ≤ reg ∨ reg + n ≤ o) : s.cfgReg (o, k, v) reg n cur f = s := by
  have : (decide (o + k ≤ reg) || decide (reg + n ≤ o)) = true := by simpa using h
  simp only [State.cfgReg, overlay, this, if_true]

theorem cfgReg_same (s : State) (v reg n cur : Nat) (f) (h : 0 < n) : s.cfgReg (reg, n, v) reg n cur f = f (v % 256 ^ n) s := by
  simp only [State.cfgReg, overlay_same _ _ _ _ h]

theorem field_bit (v : W32) (i : Nat) (hi : i < 16) : decide (field (v.toNat % 256 ^ 2) i 1 = 1) = v.getLsbD i := by
  have e : v.toNat % 256 ^ 2 = v.toNat % 2 ^ 16 := rfl
  have h := Nat.testBit_mod_two_pow v.toNat 16 i
  rw [BitVec.getLsbD, ← show ((decide (i < 16)) && v.toNat.testBit i) = v.toNat.testBit i by simp [hi], ← h, e, Nat.testBit_eq_decide_div_mod_eq]
  simp [field]

theorem fatal_form {s : State} (h : s.glb.dev = .serving) (e : LogEntry) : ∃ ow u k dv sx b v, s.fatal e = { s with
    porch := { s.porch with owed := ow, cfg := { s.porch.cfg with aerUnc := u, aerCor := k, devStatus := dv, status := sx } }, ras := s.ras.append b,
    video := { s.video with views := v },
    glb := { s.glb with dev := .held, reason := .fatal, cause := Code.low e.status, stopped := true } } := by
  obtain ⟨ow, u, k, dv, sx, b, f⟩ := log_form s { e with action := 5 }
  refine ⟨ow, u, k, dv, sx, b, s.video.views.map (fun v => (v.1, { v.2 with closing := true })), ?_⟩
  unfold State.fatal State.closeViews
  dsimp only
  rw [f]
  simp only [h]
  rfl

/-- A read request is issued under a new tag while fewer than 512 are outstanding, and waits else. -/
theorem issueRead_form (s : State) (w : ReadFor) (a : W64) (n o : Nat) (g : Bool) (h : s.porch.reads.length < 512) :
    ∃ t : Nat, s.issueRead w a n o g = { s with
      porch := { s.porch with
        reads := s.porch.reads ++ [{ tag := s.porch.nextTag, what := w, addr := a, len := n, off := o, again := g, stale := false, issued := s.now, timer := t }],
        nextTag := s.porch.nextTag + 1 },
      out := s.out ++ [.read s.porch.nextTag a n] } := by
  have : ¬ maxReads ≤ s.porch.reads.length := by simp only [maxReads]; omega
  exact ⟨_, by rw [State.issueRead, if_neg this]⟩

theorem mrrs_ge (s : State) : 128 ≤ s.mrrs := by
  have : 1 ≤ 2 ^ field s.porch.cfg.devCtl.toNat 12 3 := Nat.one_le_two_pow
  simp only [State.mrrs]; omega

/-- A short read takes one request. -/
theorem hostRead_one (s : State) (w : ReadFor) (a : W64) {n : Nat} (h0 : 0 < n) (h : n ≤ 128) :
    s.hostRead w a n = s.readPiece w a n 0 false := by
  have hm := mrrs_ge s
  have e : (n + s.mrrs - 1) / s.mrrs = 1 := by
    have h1 : n + s.mrrs - 1 = s.mrrs + (n - 1) := by omega
    rw [h1, Nat.add_div_left _ (by omega), Nat.div_eq_of_lt (by omega)]
  have e2 : min s.mrrs n = n := by omega
  simp only [State.hostRead, readCuts, e, List.range_one, List.map_cons, List.map_nil, List.foldl_cons, List.foldl_nil,
    Nat.zero_mul, Nat.sub_zero, e2]
  congr 1
  simp

theorem afterMbox_none {s : State} (h : s.hearth.actionWaits = none) : s.afterMbox = s := by
  unfold State.afterMbox; rw [h]; split <;> simp_all

theorem modOp_actionWaits (s : State) (r id : Nat) (f) : (s.modOp r id f).hearth.actionWaits = s.hearth.actionWaits := by
  unfold State.modOp; split <;> rfl

theorem retryRead_form {s : State} {r : DevRead} (h1 : s.glb.stopped = false) (h2 : s.porch.lost = false) (h3 : s.porch.cfg.bme = true)
    (hn : (s.porch.reads.filter (fun q => q.tag != r.tag)).length < 512) :
    ∃ t ow u k dv sx c v p b, s.retryRead r = { s with
      porch := { s.porch with
        reads := s.porch.reads.filter (fun q => q.tag != r.tag) ++ [{ tag := s.porch.nextTag, what := r.what, addr := r.addr, len := r.len, off := r.off, again := true, stale := false, issued := s.now, timer := t }],
        nextTag := s.porch.nextTag + 1, abandoned := s.porch.abandoned ++ [(r.tag, r.what.ring)],
        owed := ow, cfg := { s.porch.cfg with aerUnc := u, aerCor := k, devStatus := dv, status := sx }, errValid := v, errCode := c, errPend := p },
      out := s.out ++ [.read s.porch.nextTag r.addr r.len], ras := s.ras.append b } := by
  obtain ⟨ow, u, k, dv, sx, p, b, e⟩ := porchErr_form (s.modPorch (·.abandon r)) Code.readRetry r.what.ring
  unfold State.retryRead
  rw [e]
  simp only [State.readPiece, State.modPorch, Porch.abandon, Porch.dropRead, h1, h2, h3, Bool.or_self, Bool.false_eq_true, if_false,
    if_true, State.issueRead, maxReads, Nat.not_le.mpr hn]
  exact ⟨_, _, _, _, _, _, _, _, _, _, rfl⟩

/-- A poisoned TLP changes only the error bits of configuration space. -/
theorem rxPoison_form (p : Porch) (c : Bool) : ∃ u d x, p.rxPoison c =
    { p with cfg := { p.cfg with aerUnc := u, devStatus := d, status := x } } := by
  unfold Porch.rxPoison
  dsimp only
  split <;> exact ⟨_, _, _, rfl⟩

theorem pumpReads_none {s : State} (h : s.porch.backlog = []) : s.pumpReads = s := by
  have e : s.modPorch (fun p => { p with backlog := p.backlog.drop (maxReads - s.porch.reads.length) }) = s := by
    have d : s.porch.backlog.drop (maxReads - s.porch.reads.length) = s.porch.backlog := by rw [h, List.drop_nil]
    unfold State.modPorch
    dsimp only
    rw [d]
  unfold State.pumpReads
  split
  · rfl
  · have g : s.porch.backlog.take (maxReads - s.porch.reads.length) = [] := by rw [h, List.take_nil]
    dsimp only
    rw [g]
    exact e

/-- A read that has a tag leaves fewer requests outstanding once its tag is given up. -/
theorem drop_tag_lt {l : List DevRead} {tag : Nat} {r : DevRead} (h : l.find? (fun r => r.tag == tag) = some r) (n : Nat)
    (hn : l.length ≤ n) : (l.filter (fun q => q.tag != tag)).length < n := by
  have h1 : (l.filter (fun q => q.tag != tag)).length < l.length :=
    List.length_filter_lt_length_iff_exists.mpr ⟨r, List.mem_of_find?_eq_some h, by simpa using List.find?_some h⟩
  omega

theorem find_tag {l : List DevRead} {tag : Nat} {r : DevRead} (h : l.find? (fun r => r.tag == tag) = some r) : r.tag = tag := by
  simpa using List.find?_some h

end Sys2Proof.Machine
end

