-- ==== Sys2Proof/Laws/Rings.lean ====
section
/-!
SUPPORT. Rings and packets: what finishing, fetching and writing records does.
-/
namespace Sys2Proof.Machine

theorem ringCtx_modRing (s : State) (r n : Nat) (f) : (s.modRing r f).ringCtx n = if n = r then (s.ringCtx n).map f else s.ringCtx n := by
  simp [State.ringCtx, State.modRing, tget_tmod]

theorem log_ring (s : State) (e) : (s.log e).ring = s.ring := by simp

theorem ringCtx_setRing (s : State) (r n : Nat) (c) : (s.setRing r c).ringCtx n = if n = r then some c else s.ringCtx n := by
  by_cases h : n = r
  · subst h; simp [State.ringCtx, State.setRing]
  · rw [if_neg h]; exact tget_tset_ne _ _ h

/-- That a ring's oldest packet is noted as finished changes only the order of the rings whose records wait. -/
theorem noteReady_form (s : State) (r : Nat) : ∃ y, s.noteReady r = { s with ring := { s.ring with ready := y } } := by
  unfold State.noteReady; split <;> exact ⟨_, rfl⟩

/-- A change of a ring's packets changes nothing else. -/
theorem modOp_form (s : State) {r : Nat} (hr : r ≠ mboxRing) (id : Nat) (f : Op → Op) : ∃ x,
    s.modOp r id f = { s with ring := { s.ring with ctx := x } } ∧ (∀ n, n ≠ r → tget x n = s.ringCtx n) ∧
    ∀ k, s.ringCtx r = some k → tget x r = some { k with ops := k.ops.map (fun o => if o.id = id then f o else o) } := by
  unfold State.modOp
  rw [if_neg hr]
  refine ⟨_, rfl, fun n hn => tget_tmod_ne _ _ hn, fun k hk => ?_⟩
  rw [tget_tmod_self, show tget s.ring.ctx r = some k from hk]
  rfl

/-- What finishing a packet of a ring does to the rings. -/
theorem finish_form (s : State) {r : Nat} (hr : r ≠ mboxRing) (id : Nat) (c : W32) : ∃ x y,
    s.finish r id c = { s with ring := { s.ring with ctx := x, ready := y } } ∧ (∀ n, n ≠ r → tget x n = s.ringCtx n) ∧
    ∀ k, s.ringCtx r = some k → ∃ l, tget x r = some { k with ops := l } := by
  have key (f : Op → Op) : ∃ x y, (s.modOp r id f).noteReady r = { s with ring := { s.ring with ctx := x, ready := y } } ∧
      (∀ n, n ≠ r → tget x n = s.ringCtx n) ∧ ∀ k, s.ringCtx r = some k → ∃ l, tget x r = some { k with ops := l } := by
    obtain ⟨x, e, h1, h2⟩ := modOp_form s hr id f
    obtain ⟨y, e'⟩ := noteReady_form (s.modOp r id f) r
    exact ⟨x, y, by rw [e', e], h1, fun k hk => ⟨_, h2 k hk⟩⟩
  unfold State.finish State.finishOp
  split
  · exact ⟨s.ring.ctx, s.ring.ready, rfl, fun _ _ => rfl, fun k hk => ⟨k.ops, hk⟩⟩
  · dsimp only
    rw [if_neg hr]
    exact key _

theorem finish_mbox {s : State} {o : Op} (h : s.hearth.mbox = some o) (c : W32) : ∃ b, b.take 4 = le32 c ∧
    s.finish mboxRing o.id c = { s with hearth := { s.hearth with mboxCpl := b, done := true, mbox := none } } := by
  have hf : s.findOp mboxRing o.id = some o := by simp [State.findOp, State.opsOf, h]
  unfold State.finish State.finishOp
  rw [hf]
  simp only [if_true]
  exact ⟨_, rfl, rfl⟩

theorem withOp_mbox {s : State} {o : Op} (h : s.hearth.mbox = some o) (h1 : o.started = false) (h2 : o.fin = none) {op : Nat}
    (h3 : o.opcode = op) (f) : s.withOp .mailbox op f = f o s := by
  have : s.nextOp .mailbox = some o := by simp [State.nextOp, srcRing, State.opsOf, h, h1, h2]
  simp [State.withOp, this, h3, State.takes, srcRing]

theorem finish_actionWaits (s : State) (r id : Nat) (c : W32) : (s.finish r id c).hearth.actionWaits = s.hearth.actionWaits := by
  by_cases h : r = mboxRing
  · unfold State.finish State.finishOp
    split
    · rfl
    · rw [if_pos h]
  · obtain ⟨x, y, e, -⟩ := finish_form s h id c
    rw [e]

/-- A packet that no references wait for drops none. -/
theorem dropDue_free {s : State} {f : Nat × Nat → Bool} (h : ∀ d ∈ s.plan.refsDue, f (d.1, d.2.1) = false) : s.dropDue f = s := by
  have h1 : s.plan.refsDue.filter (fun d => f (d.1, d.2.1)) = [] := by
    rw [List.filter_eq_nil_iff]; intro d hd; simp [h d hd]
  have h2 : s.plan.refsDue.filter (fun d => !f (d.1, d.2.1)) = s.plan.refsDue := by
    rw [List.filter_eq_self]; intro d hd; simp [h d hd]
  simp only [State.dropDue, State.modPlan, h1, h2]
  rfl

theorem dropDue_none {s : State} (h : s.plan.refsDue = []) (f) : s.dropDue f = s := dropDue_free (by simp [h])

theorem deliver_form {c : RingCtx} (b : List Byte) (x : Bool) (n : Nat) (t : W64) (h : c.pendFault = 0) : ∃ f l, c.deliver b x n t =
    { c with bells := l, cidx := c.cidx + BitVec.ofNat 32 n, seqNext := c.seqNext + 1, reading := false, head := [], fetched := c.fetched ++ [f] } ∧
    f.idx = c.cidx ∧ f.bytes = (if x then fromCompat b else b) ∧ f.fault = 0 := by
  unfold RingCtx.deliver
  simp only [h, if_true]
  exact ⟨_, _, rfl, rfl, rfl, rfl⟩

theorem hostWrite_one {s : State} (hs : s.silent = false) (hb : s.porch.cfg.bme = true) (a n : Nat) (bs : List Byte) (hn : bs.length = n)
    (h0 : 0 < n) (h1 : n ≤ 128) (h2 : n ∣ 4096) (h3 : n ∣ a) (ro : Bool) :
    s.hostWrite a bs ro = { s with out := s.out ++ [.write (BitVec.ofNat 64 a) bs ro] } := by
  have := mps_ge s
  have h4 : n ≤ 4096 - a % 4096 := by
    obtain ⟨k, hk⟩ := h2
    obtain ⟨m, hm⟩ := h3
    have : a % 4096 = n * (m % k) := by rw [hk, hm, Nat.mul_mod_mul_left]
    have hk0 : 0 < k := by rcases Nat.eq_zero_or_pos k with h | h; · subst h; omega
                           · exact h
    have h5 : m % k + 1 ≤ k := Nat.mod_lt _ hk0
    have h6 : n * (m % k + 1) ≤ n * k := Nat.mul_le_mul_left _ h5
    rw [Nat.mul_add, Nat.mul_one] at h6
    omega
  obtain ⟨j, rfl⟩ : ∃ j, n = j + 1 := ⟨n - 1, by omega⟩
  have hne : bs ≠ [] := by intro h; rw [h] at hn; cases hn
  have e : splitWrite s.mps (j + 1) a bs = [(a, bs)] := splitWrite_one _ _ _ _ hne (by rw [hn]; omega)
  have e2 : bs.isEmpty = false := by cases bs with | nil => exact absurd rfl hne | cons => rfl
  simp only [State.hostWrite, hs, e2, hb, hn, e, Bool.or_self, Bool.false_eq_true, if_false, if_true, List.map_cons, List.map_nil]

theorem record_bytes (o : Op) (f : Fin) (p : Nat) : (o.record f).take 30 ++ leBytes 2 (rd (o.record f) 30 2 + p) =
    le32 f.status ++ le32 o.seq ++ le64 o.tag ++ le64 f.timestamp ++ le32 f.energy ++ le16 f.slips ++
      leBytes 2 (p + 2 * bit f.held + 4 * bit (o.flags.getLsbD 0)) := by
  have h1 : (o.record f).take 30 = le32 f.status ++ le32 o.seq ++ le64 o.tag ++ le64 f.timestamp ++ le32 f.energy ++ le16 f.slips := rfl
  have h2 : rd (o.record f) 30 2 = 2 * bit f.held + 4 * bit (o.flags.getLsbD 0) := by
    show leNat (leBytes 2 (2 * bit f.held + 4 * bit (o.flags.getLsbD 0))) = _
    cases f.held <;> cases o.flags.getLsbD 0 <;> rfl
  rw [h1, h2, show 2 * bit f.held + 4 * bit (o.flags.getLsbD 0) + p = p + 2 * bit f.held + 4 * bit (o.flags.getLsbD 0) by omega]

theorem noteResult_none {s : State} (h1 : s.ras.recording = none) (h2 : s.ras.replay = none) (r : Nat) (i c : W32) : s.noteResult r i c = s := by
  simp [State.noteResult, State.record, h1, h2]

/-- A packet that leaves its ring: the packets behind it move up, and both rings get their reservation back. -/
theorem retire_ctx (s : State) {r q : Nat} (w : Bool) (c k : RingCtx) (h1 : s.ringCtx r = some c) (h2 : s.ringCtx q = some k)
    (h : q ≠ r) :
    (s.retireOp r q w).ringCtx r = some { c with
      ops := (c.ops.drop 1).map (fun o => if w then o.behind else o), outstanding := c.outstanding - 1 } ∧
    (s.retireOp r q w).ringCtx q = some { k with outstanding := k.outstanding - 1 } ∧
    (∀ n, n ≠ r → n ≠ q → (s.retireOp r q w).ringCtx n = s.ringCtx n) ∧
    ∃ x y, s.retireOp r q w = { s with ring := { s.ring with ctx := x, ready := y } } := by
  unfold State.retireOp
  obtain ⟨y, e⟩ := noteReady_form _ r
  rw [e]
  refine ⟨?_, ?_, ?_, ⟨_, _, rfl⟩⟩
  · simp [State.ringCtx, State.modRing, tget_tmod, show tget s.ring.ctx r = some c from h1, Ne.symm h]
  · simp [State.ringCtx, State.modRing, tget_tmod, show tget s.ring.ctx q = some k from h2, h]
  · intro n h3 h4; simp [State.ringCtx, State.modRing, tget_tmod, h3, h4]

theorem silent_parts {s : State} (h : s.silent = false) : s.ras.replay = none ∧ s.glb.stopped = false ∧ s.porch.lost = false := by
  simp [State.silent] at h
  exact ⟨h.1.1.2, h.1.1.1.1, h.1.1.1.2⟩

theorem le32_length (v : W32) : (le32 v).length = 4 := rfl

end Sys2Proof.Machine
end

