-- ==== Sys2Proof/Laws/Larder.lean ====
section
/-!
SUPPORT. The Larder: pools, buffers and references.
-/
namespace Sys2Proof.Machine

theorem dataWrite_form (s : State) (a : Nat) (b : List Byte) : ∃ p x, s.dataWrite a b = { s with porch := p, out := x } := by
  unfold State.dataWrite State.hostWrite
  dsimp only
  split
  · exact ⟨_, _, rfl⟩
  · split <;> exact ⟨_, _, rfl⟩

theorem dataWrite_out {s t : State} (h1 : t.glb = s.glb) (h2 : t.porch = s.porch) (h3 : t.ras = s.ras) (h4 : t.out = s.out) (a : Nat) (b : List Byte) :
    (t.dataWrite a b).out = (s.dataWrite a b).out := by
  have e1 : t.silent = s.silent := by simp only [State.silent, h1, h2, h3]
  have e2 : t.mps = s.mps := by simp only [State.mps, h2]
  simp only [State.dataWrite, State.hostWrite, e1, e2, h2]
  split
  · exact h4
  · split
    · simp only [h4]
    · exact h4

/-- A POOL_CREATE whose checks all hold has its effect and succeeds. -/
theorem poolChecked_ok {s : State} {r : Nat} {o : Op} {cs : List (Bool × W32)} {act : State → State}
    (h : ∀ c ∈ cs, c.1 = true) : s.poolChecked r o cs act = ((act s).served 0 Code.ok 0).finish r o.id Code.ok := by
  have : cs.find? (fun c => !c.1) = none := by
    rw [List.find?_eq_none]; intro c hc; simp [h c hc]
  simp only [State.poolChecked, this]

theorem pools_modPool (s : State) (n : Nat) (f) : (s.modPool n f).larder.pools = tmod s.larder.pools n f := rfl

theorem rebuildPool_none {s : State} {n : Nat} {p : Pool} (h : tget s.larder.pools n = some p) (h1 : p.rebuild = false) : s.rebuildPool n = s := by
  simp [State.rebuildPool, h, h1]

theorem entry_setRec (s : State) (i k : Nat) (r : BufRec) : (s.setRec i r).larder.entry k = if k = i then r else s.larder.entry k := by
  by_cases h : k = i
  · subst h; simp [State.setRec, State.modLarder, Larder.entry]
  · rw [if_neg h]
    simp only [State.setRec, State.modLarder, Larder.entry, tgetD]
    rw [tget_tset_ne _ _ h]

/-- A pool's state after it gives its next buffer: the head's successor heads the free list, or the never-used index moves on. -/
def popped (s : State) (p : Pool) (i : Nat) : Pool :=
  if p.head.isSome then { p with head := s.linkOf p i, listed := p.listed - 1 } else { p with fresh := p.fresh + 1 }

theorem popBuf_form {s : State} {n i : Nat} {p : Pool} (hr : p.rebuild = false)
    (h : p.head = some i ∨ p.head = none ∧ i = p.fresh ∧ p.fresh < p.first + p.count)
    (hl : s.poisoned (s.bufAddr p i) 8 = false) : ∃ f, s.popBuf n p = some (s.modPool n f, i) ∧ f p = popped s p i := by
  rcases h with h | ⟨h, h2, h3⟩
  · refine ⟨fun q => { q with head := s.linkOf p i, listed := q.listed - 1, rebuild := false }, ?_, ?_⟩
    · unfold State.popBuf; rw [h]; simp only [hl, Bool.false_eq_true, if_false]
    · simp [popped, h, ← hr]
  · subst h2
    refine ⟨fun p => { p with fresh := p.fresh + 1 }, ?_, ?_⟩
    · unfold State.popBuf; rw [h]; simp only [h3, if_true]
    · simp [popped, h]

theorem handlesAt_one (b : List Byte) (o : Nat) : handlesAt b o 1 = [rd64 b o] := rfl

theorem thread_form (p : Pool) (l : List Nat) : ∀ s : State, ∃ m, s.thread p l = { s with mem := m } := by
  induction l with
  | nil => intro s; exact ⟨_, rfl⟩
  | cons i l ih =>
    intro s
    obtain ⟨m, e⟩ := ih (s.writeLink p i l.head?)
    exact ⟨m, by rw [State.thread, e]; rfl⟩

/-- A state that differs from another in the Larder, the HBM, the Porch and the recovery unit at most. -/
def BufOnly (s t : State) : Prop := ∃ l m p r, t = { s with larder := l, mem := m, porch := p, ras := r }

theorem BufOnly.refl (s : State) : BufOnly s s := ⟨s.larder, s.mem, s.porch, s.ras, rfl⟩

theorem BufOnly.trans {s t u : State} (a : BufOnly s t) (b : BufOnly t u) : BufOnly s u := by
  obtain ⟨l, m, p, r, rfl⟩ := a
  obtain ⟨l', m', p', r', rfl⟩ := b
  exact ⟨l', m', p', r', rfl⟩

theorem BufOnly.log (s : State) (e : LogEntry) : BufOnly s (s.log e) := by
  unfold State.log State.oweMsi
  simp only []
  split_ifs <;> exact ⟨_, _, _, _, rfl⟩

theorem BufOnly.modLarder (s : State) (f : Larder → Larder) : BufOnly s (s.modLarder f) := ⟨_, s.mem, s.porch, s.ras, rfl⟩

theorem BufOnly.modPool (s : State) (n : Nat) (f : Pool → Pool) : BufOnly s (s.modPool n f) := ⟨_, s.mem, s.porch, s.ras, rfl⟩

theorem BufOnly.setRec (s : State) (i : Nat) (r : BufRec) : BufOnly s (s.setRec i r) := ⟨_, s.mem, s.porch, s.ras, rfl⟩

theorem BufOnly.writeLink (s : State) (p : Pool) (i : Nat) (n : Option Nat) : BufOnly s (s.writeLink p i n) :=
  ⟨s.larder, _, s.porch, s.ras, rfl⟩

theorem BufOnly.larderFail (s : State) (port pos : Nat) (c : W32) (h : W64) : BufOnly s (s.larderFail port pos c h) := by
  unfold State.larderFail
  simp only []
  split
  · exact ⟨_, s.mem, s.porch, s.ras, rfl⟩
  · refine BufOnly.trans ?_ (BufOnly.log _ _)
    exact ⟨_, s.mem, s.porch, s.ras, rfl⟩

theorem BufOnly.served (s : State) (port : Nat) (c : W32) (h : W64) : BufOnly s (s.served port c h) := by
  unfold State.served; exact BufOnly.modLarder _ _

theorem BufOnly.answered (s : State) (port : Nat) (c : W32) (h : W64) : BufOnly s (s.answered port c h) := by
  unfold State.answered
  dsimp only
  split
  · exact BufOnly.served _ _ _ _
  · exact (BufOnly.served _ _ _ _).trans (BufOnly.larderFail _ _ _ _ _)

theorem BufOnly.logRec (s : State) (i : Nat) : BufOnly s (s.logRec i) := BufOnly.log _ _

theorem BufOnly.thread (p : Pool) (l : List Nat) : ∀ s : State, BufOnly s (s.thread p l) := by
  induction l with
  | nil => intro s; exact BufOnly.refl s
  | cons a l ih => intro s; exact (BufOnly.writeLink s p a l.head?).trans (ih _)

theorem BufOnly.rebuildPool (s : State) (n : Nat) : BufOnly s (s.rebuildPool n) := by
  unfold State.rebuildPool
  split
  · exact BufOnly.refl s
  · simp only []
    split
    · exact BufOnly.refl s
    · exact (BufOnly.thread _ _ _).trans (BufOnly.modPool _ _ _)

theorem BufOnly.retireBuf (s : State) (i : Nat) : BufOnly s (s.retireBuf i) := BufOnly.setRec _ _ _

theorem BufOnly.decBuf (s : State) (h : W64) : BufOnly s (s.decBuf h).1 := by
  unfold State.decBuf
  simp only []
  split
  · exact BufOnly.refl s
  · split
    · exact BufOnly.refl s
    · split
      · exact (BufOnly.retireBuf _ _).trans (BufOnly.logRec _ _)
      · split
        · exact BufOnly.refl s
        · split
          · exact ⟨_, s.mem, s.porch, s.ras, rfl⟩
          · split
            · split
              · exact BufOnly.rebuildPool _ _
              · exact (((BufOnly.rebuildPool _ _).trans (BufOnly.writeLink _ _ _ _)).trans (BufOnly.setRec _ _ _)).trans
                  (BufOnly.modPool _ _ _)
            · exact BufOnly.setRec _ _ _

theorem BufOnly.incBuf (s : State) (h : W64) (d : Nat) : BufOnly s (s.incBuf h d).1 := by
  unfold State.incBuf
  simp only []
  split
  · exact BufOnly.refl s
  · split
    · exact BufOnly.refl s
    · split
      · exact (BufOnly.retireBuf _ _).trans (BufOnly.logRec _ _)
      · split
        · exact BufOnly.refl s
        · split
          · exact BufOnly.refl s
          · split
            · exact BufOnly.refl s
            · exact BufOnly.setRec _ _ _

theorem BufOnly.dropRef (s : State) (port : Nat) (h : W64) : BufOnly s (s.dropRef port h) := by
  unfold State.dropRef
  split
  · exact BufOnly.refl s
  · exact (BufOnly.decBuf s h).trans (BufOnly.answered _ _ _ _)

theorem BufOnly.takeRef (s : State) (port : Nat) (h : W64) : BufOnly s (s.takeRef port h).1 := by
  unfold State.takeRef
  split
  · exact BufOnly.refl s
  · exact (BufOnly.incBuf s h 1).trans (BufOnly.answered _ _ _ _)

theorem BufOnly.dropRefs (port : Nat) (l : List W64) : ∀ s : State, BufOnly s (s.dropRefs port l) := by
  induction l with
  | nil => intro s; exact BufOnly.refl s
  | cons a l ih => intro s; exact (BufOnly.dropRef s port a).trans (ih _)

theorem BufOnly.plan {s t : State} (h : BufOnly s t) : t.plan = s.plan := by obtain ⟨l, m, p, r, rfl⟩ := h; rfl
theorem BufOnly.ring {s t : State} (h : BufOnly s t) : t.ring = s.ring := by obtain ⟨l, m, p, r, rfl⟩ := h; rfl
theorem BufOnly.video {s t : State} (h : BufOnly s t) : t.video = s.video := by obtain ⟨l, m, p, r, rfl⟩ := h; rfl

end Sys2Proof.Machine
end

