-- ==== Sys2Proof/Laws/Planner.lean ====
section
/-!
SUPPORT. Jobs, instances and Rooms: what the Planner's operations do to them.
-/
namespace Sys2Proof.Machine

theorem job_modJob (s : State) (n k : Nat) (f) : (s.modJob n f).job k = if k = n then (s.job k).map f else s.job k := tget_tmod _ _ _ _

theorem find_none {cs : List (Bool × W32)} (h : ∀ c ∈ cs, c.1 = true) : cs.find? (fun c => !c.1) = none := by
  rw [List.find?_eq_none]; intro c hc; simp [h c hc]

theorem beginOp_ring (s : State) (r : RingId) (id : Nat) : ∃ g, s.beginOp r.toNat id = { s with ring := g } := by
  simp only [State.beginOp, State.modOp, if_neg (ringId_ne_mbox r)]
  exact ⟨_, rfl⟩

theorem status_find {s t : State} {g id : Nat} {p : Op} (h : s.findOp g id = some p) (hg : g ≠ mboxRing) (ht : t.ring = s.ring)
    (c : W32) : (t.finish g id c).statusOf g id = some c := by
  have h1 : p ∈ t.opsOf g := by
    rw [State.opsOf_congr ht hg]
    exact List.mem_of_find?_eq_some h
  have h2 : p.id = id := by simpa using List.find?_some h
  rw [← h2]
  exact State.statusOf_finish h1 hg c

/-- A log entry changes the log and what the link reports. -/
theorem log_form' (s : State) (e : LogEntry) : ∃ p r, s.log e = { s with porch := p, ras := r } := by
  unfold State.log State.oweMsi
  simp only []
  split_ifs <;> exact ⟨_, _, rfl⟩

theorem takeRoom_rooms (s : State) (j r : Nat) : ∃ x, s.takeRoom j r = { s with rooms := x } := ⟨_, rfl⟩

theorem foldl_rooms {α : Type} (f : State → α → State) (h : ∀ s a, ∃ x, f s a = { s with rooms := x }) (l : List α) :
    ∀ s : State, ∃ x, l.foldl f s = { s with rooms := x } := by
  induction l with
  | nil => intro s; exact ⟨s.rooms, rfl⟩
  | cons a l ih =>
    intro s
    obtain ⟨x, e⟩ := h s a
    obtain ⟨y, e2⟩ := ih { s with rooms := x }
    exact ⟨y, by rw [List.foldl_cons, e, e2]⟩

theorem finish_ring (s : State) (r : RingId) (id : Nat) (c : W32) : ∃ x, s.finish r.toNat id c = { s with ring := x } := by
  obtain ⟨x, y, e, -⟩ := finish_form s (ringId_ne_mbox r) id c
  exact ⟨_, e⟩

theorem openJob_form (s0 : State) (n : Nat) (b : List Byte) (q : Rect) (u : Nat) :
    ∃ (j : Job) (x : Tab Room) (w : Pwr), s0.openJob n b q u
        = { s0 with plan := { s0.plan with jobs := tset s0.plan.jobs n j }, rooms := x, pwr := w } ∧
      j.onDemand = decide (rd b 17 1 = 1) ∧ j.prio = rd b 18 1 ∧ j.rect = q ∧ j.atticAt = u ∧ j.attic = rd b 24 2 ∧
      j.span = rd32 b 28 ∧ j.holds = false ∧ j.suspended = false ∧ j.closing = none ∧ j.saved = [] ∧ j.runs = 0 ∧
      j.ctrs = [] ∧ j.atticMem = [] := by
  refine ⟨s0.newJob b q u, ?_⟩
  unfold State.openJob
  dsimp only
  split
  · exact ⟨_, _, rfl, rfl, rfl, rfl, rfl, rfl, rfl, rfl, rfl, rfl, rfl, rfl, rfl, rfl⟩
  · obtain ⟨x, e⟩ := foldl_rooms (fun s r => if (s0.holders q).any (fun p => p.2.holdsRoom r) = true then s else s.takeRoom n r)
        (fun s a => by
          split
          · exact ⟨s.rooms, rfl⟩
          · exact takeRoom_rooms _ _ _) (s0.newJob b q u).roomList
      (((s0.modPlan fun p => { p with jobs := tset p.jobs n (s0.newJob b q u) }).powerUp []).modPwr fun w => { w with eJob := tdel w.eJob n })
    exact ⟨x, _, e, rfl, rfl, rfl, rfl, rfl, rfl, rfl, rfl, rfl, rfl, rfl, rfl, rfl⟩

theorem restore_one (n q : Nat) (s : State) (j : Job) (hj : s.job n = some j) : ∃ (x : Tab Room) (js : Tab Job), s.restoreRoom n q
      = { s with rooms := x, plan := { s.plan with jobs := js } } ∧ (∃ v, tget js n = some { j with saved := v }) ∧
      ∀ k, k ≠ n → tget js k = s.job k := by
  have h : ∃ v, tget (tmod s.plan.jobs n (fun j => { j with saved := tdel j.saved q })) n = some { j with saved := v } := by
    rw [tget_tmod_self, show tget s.plan.jobs n = some j from hj]
    exact ⟨_, rfl⟩
  unfold State.restoreRoom
  split
  · exact ⟨s.rooms, _, rfl, h, fun k hk => tget_tmod_ne _ _ hk⟩
  · split
    · exact ⟨_, s.plan.jobs, rfl, ⟨j.saved, hj⟩, fun _ _ => rfl⟩
    · exact ⟨_, _, rfl, h, fun k hk => tget_tmod_ne _ _ hk⟩

theorem restore_fold (n : Nat) (l : List Nat) : ∀ (s : State) (j : Job), s.job n = some j → ∃ (x : Tab Room) (js : Tab Job),
    l.foldl (fun s q => s.restoreRoom n q) s = { s with rooms := x, plan := { s.plan with jobs := js } } ∧
      (∃ v, tget js n = some { j with saved := v }) ∧ ∀ k, k ≠ n → tget js k = s.job k := by
  induction l with
  | nil => intro s j h; exact ⟨s.rooms, s.plan.jobs, rfl, ⟨j.saved, h⟩, fun _ _ => rfl⟩
  | cons a l ih =>
    intro s j h
    obtain ⟨x, js, e, ⟨v, hv⟩, hk⟩ := restore_one n a s j h
    obtain ⟨y, ks, e2, ⟨w, hw⟩, hl⟩ := ih { s with rooms := x, plan := { s.plan with jobs := js } } { j with saved := v } hv
    exact ⟨y, ks, by rw [List.foldl_cons, e, e2], ⟨w, hw⟩, fun k h => (hl k h).trans (hk k h)⟩

end Sys2Proof.Machine
end

