-- ==== Sys2Proof/Laws/Ports.lean ====
section
/-!
SUPPORT. Ports of the fabric: one port changed, frames rerouted, the retry buffer searched.
-/
namespace Sys2Proof.Machine

theorem lmod_set {α : Type} {l : List α} {i : Nat} {a : α} (h : l[i]? = some a) (f : α → α) : lmod l i f = l.set i (f a) := by
  induction l generalizing i with
  | nil => simp at h
  | cons x r ih =>
    cases i with
    | zero => simp only [List.getElem?_cons_zero, Option.some.injEq] at h; subst h; rfl
    | succ i => simp only [List.getElem?_cons_succ] at h; simp only [lmod, List.set_cons_succ, ih h]

theorem port_eq {s : State} {p : Nat} {q : Port} (h : s.fab.ports[p]? = some q) : s.port p = q := by
  simp [State.port, Fab.port, List.getD, h]

theorem modPort_eq {s : State} {p : Nat} {q : Port} (h : s.fab.ports[p]? = some q) (f : Port → Port) :
    s.modPort p f = { s with fab := { s.fab with ports := s.fab.ports.set p (f q) } } := by
  simp only [State.modPort, State.modFab, lmod_set h]

theorem stepPort_eq {s : State} {p : PortId} {q : Port} (hd : s.glb.dev ≠ .off) (h : s.fab.ports[p.toNat]? = some q) {a b : PortState}
    (ha : q.state = a) (f : Port → Port) : s.stepPort p a b f =
      { s with fab := { s.fab with ports := s.fab.ports.set p.toNat { f q with state := b, since := s.now } } } := by
  unfold State.stepPort
  have e : (s.glb.dev == .off) = false := by simpa using hd
  rw [port_eq h, e]
  simp only [ha, bne_self_eq_false, Bool.or_self, Bool.false_eq_true, if_false]
  rw [modPort_eq h]

theorem linked_of {q : Port} (h : q.state = .up ∨ q.state = .slow) : q.linked = true := by
  unfold Port.linked; rcases h with h | h <;> simp [h]

theorem reroute_one (fs : List Queued) : ∀ (s : State) (r : Nat) (x : Port) (alt : Queued → Bool), s.fab.ports[r]? = some x →
    (∀ e ∈ fs, s.fab.pick (s.fab.route1 e.table e.frame.dst) = some (r, alt e)) →
    s.reroute fs = { s with fab := { s.fab with ports := s.fab.ports.set r { x with queue := fs.map (fun e => { e with frame := { e.frame with fflags := e.frame.fflags &&& 0xFE ||| (if alt e then 1 else 0) } }) ++ x.queue } } } := by
  induction fs with
  | nil =>
    intro s r x alt hx _
    obtain ⟨hl, hg⟩ := List.getElem?_eq_some_iff.mp hx
    simp only [State.reroute, List.map_nil, List.nil_append]
    have : s.fab.ports.set r x = s.fab.ports := by rw [← hg, List.set_getElem_self]
    rw [this]
  | cons e es ih =>
    intro s r x alt hx h
    have h1 := ih s r x alt hx (fun a ha => h a (List.mem_cons_of_mem _ ha))
    have h0 := h e (List.mem_cons_self)
    have hlen : r < s.fab.ports.length := (List.getElem?_eq_some_iff.mp hx).1
    unfold State.reroute
    rw [h1]
    have hp : ∀ (y : List Queued) w, ({ s.fab with ports := s.fab.ports.set r { x with queue := y } } : Fab).pick w = s.fab.pick w := by
      intro y w
      unfold Fab.pick
      have : ∀ k, (({ s.fab with ports := s.fab.ports.set r { x with queue := y } } : Fab).port k).state = (s.fab.port k).state := by
        intro k
        simp only [Fab.port, List.getD]
        by_cases hk : r = k
        · subst hk; rw [List.getElem?_set_self hlen, hx]; rfl
        · rw [List.getElem?_set_ne hk]
      simp only [this]
    simp only []
    have hr : ∀ (y : List Queued), ({ s.fab with ports := s.fab.ports.set r { x with queue := y } } : Fab).route1 e.table e.frame.dst = s.fab.route1 e.table e.frame.dst := fun _ => rfl
    rw [hr, hp, h0]
    simp only []
    rw [modPort_eq (q := { x with queue := es.map (fun e => { e with frame := { e.frame with fflags := e.frame.fflags &&& 0xFE ||| (if alt e then 1 else 0) } }) ++ x.queue })]
    · simp only [List.set_set, List.map_cons, List.cons_append]
    · show (List.set _ _ _)[r]? = _
      rw [List.getElem?_set_self hlen]

theorem keep_set {α : Type} {l : List α} {i : Nat} {a : α} (h : l[i]? = some a) : l.set i a = l := by
  obtain ⟨hl, hg⟩ := List.getElem?_eq_some_iff.mp h
  rw [← hg, List.set_getElem_self]

theorem open_of {q : Port} (h : q.state = .up ∨ q.state = .slow) (h1 : q.keyed = true) (h2 : q.retrain = false) (h3 : q.reauth = false)
    (h4 : q.txWraps * 2 ^ 32 + q.txSeq.toNat < 2 ^ 40) : q.open_ = true := by
  unfold Port.open_ Port.index
  simp only [linked_of h, h1, h2, h3, h4, decide_true, Bool.not_false, Bool.and_self]

theorem takeVc_at (vc : Nat) (e : Queued) (post : List Queued) (he : e.frame.vc.toNat = vc) : ∀ pre : List Queued,
    (∀ x ∈ pre, x.frame.vc.toNat ≠ vc) → takeVc vc (pre ++ e :: post) = some (e, pre ++ post) := by
  intro pre
  induction pre with
  | nil => intro _; simp [takeVc, he]
  | cons x r ih =>
    intro h
    have h1 := ih (fun y hy => h y (List.mem_cons_of_mem _ hy))
    have h2 : ¬ x.frame.vc.toNat = vc := h x (List.mem_cons_self)
    simp only [List.cons_append, takeVc, if_neg h2, h1, Option.map_some]

theorem findNat_hit {p : Nat → Bool} (fuel : Nat) : ∀ lo z, p z = true → lo ≤ z → z < lo + fuel → (∀ q, lo ≤ q → q < z → p q = false) →
    findNat p fuel lo = some z := by
  induction fuel with
  | zero => intro lo z _ h1 h2; omega
  | succ n ih =>
    intro lo z h h1 h2 h3
    unfold findNat
    by_cases hz : lo = z
    · subst hz; simp [h]
    · rw [h3 lo (le_refl _) (by omega)]
      exact ih (lo + 1) z h (by omega) (by omega) (fun q a b => h3 q (by omega) b)

theorem place_at (q : Port) (e : Queued) (pre post : List Queued) (h : q.unacked = pre ++ e :: post)
    (hp : ∀ x ∈ pre, x.frame.lseq ≠ e.frame.lseq) : q.place e.frame.lseq = some pre.length := by
  unfold Port.place
  apply findNat_hit
  · simp [h]
  · omega
  · simp [h]
  · intro k _ hk
    have : q.unacked[k]? = some pre[k] := by rw [h, List.getElem?_append_left hk]; simp
    rw [this]
    simpa using hp _ (List.getElem_mem hk)

theorem settle_none {s : State} (h : s.fab.cfg = none) : s.settleSpan = s := by
  unfold State.settleSpan; rw [h]

theorem modPort_modPort {s : State} {p : Nat} {q : Port} (h : s.fab.ports[p]? = some q) (f g : Port → Port) :
    (s.modPort p f).modPort p g = s.modPort p (fun x => g (f x)) := by
  have hl := (List.getElem?_eq_some_iff.mp h).1
  rw [modPort_eq h, modPort_eq h, modPort_eq (q := f q)]
  · simp only [List.set_set]
  · show (List.set _ _ _)[p]? = _
    rw [List.getElem?_set_self hl]

theorem moreFaces_none {s : State} (h : s.plan.insts = []) : s.moreFaces = s := by
  unfold State.moreFaces; rw [h]; rfl

theorem takeDown_eq {s : State} {p : Nat} {q : Port} (hq : s.fab.ports[p]? = some q) (dest : PortState) (erase : Bool) :
    s.takeDown p dest erase = State.reroute { s with fab := { s.fab with ports := s.fab.ports.set p { q with state := dest, since := s.now, keyed := q.keyed && !erase, reauth := false, retrain := false, unacked := [], queue := [], resends := 0 } } } (q.unacked ++ q.queue) := by
  unfold State.takeDown
  simp only [port_eq hq]
  rw [modPort_eq hq]
theorem pick_set {f : Fab} {r : Nat} {x y : Port} (hx : f.ports[r]? = some x) (h : y.state = x.state) (w : W16) :
    ({ f with ports := f.ports.set r y } : Fab).pick w = f.pick w := by
  have hlen : r < f.ports.length := (List.getElem?_eq_some_iff.mp hx).1
  unfold Fab.pick
  have : ∀ k, (({ f with ports := f.ports.set r y } : Fab).port k).state = (f.port k).state := by
    intro k
    simp only [Fab.port, List.getD]
    by_cases hk : r = k
    · subst hk; rw [List.getElem?_set_self hlen, hx]; exact h
    · rw [List.getElem?_set_ne hk]
  simp only [this]
theorem hear_keeps (q : Port) (f : Frame) (n : Nat) (w : W64) : (q.hear f n w).rxSeq = q.rxSeq ∧ (q.hear f n w).rxHeld = q.rxHeld ∧
    (q.hear f n w).state = q.state ∧ (q.hear f n w).partner = q.partner := by
  unfold Port.hear Port.credit Port.acked
  split <;> exact ⟨rfl, rfl, rfl, rfl⟩

end Sys2Proof.Machine
end

