-- ==== Sys2Proof/Laws/Preempt.lean ====
section
/-!
SUPPORT. Rooms that change hands, pre-emption and its freezes.
-/
namespace Sys2Proof.Machine

theorem room_modRoom (s : State) (n k : Nat) (f : Room → Room) : (s.modRoom n f).room k = if k = n then f (s.room n) else s.room k := by
  unfold State.modRoom State.room
  by_cases h : k = n
  · rw [if_pos h, h]; exact tgetD_tup_self _ _ _ _ _
  · rw [if_neg h]; exact tgetD_tup_ne _ _ _ _ h

theorem fold_room (f : Room → Room) (hf : ∀ r, f (f r) = f r) (l : List Nat) : ∀ s : State,
    ∃ x, l.foldl (fun s q => s.modRoom q f) s = { s with rooms := x } ∧
      ∀ q, tgetD x q Room.reset = if q ∈ l then f (s.room q) else s.room q := by
  induction l with
  | nil => intro s; exact ⟨s.rooms, rfl, fun _ => rfl⟩
  | cons a l ih =>
    intro s
    obtain ⟨x, e, h⟩ := ih (s.modRoom a f)
    refine ⟨x, by rw [List.foldl_cons, e]; rfl, fun q => ?_⟩
    rw [h q, room_modRoom]
    by_cases h1 : q = a
    · subst h1
      by_cases h2 : q ∈ l <;> simp [h2, hf]
    · by_cases h2 : q ∈ l <;> simp [h1, h2]

theorem ask_one (v b : Nat) (s : State) :
    (∃ js f q w, s.askFreeze v b = { s with plan := { s.plan with jobs := js }, fab := f, porch := q, ras := w }) ∧
    (∀ k, k ≠ v → (s.askFreeze v b).job k = s.job k) ∧
    (∀ k w, s.job k = some w → ∃ u, (s.askFreeze v b).job k = some u ∧ (∀ p ∈ w.pre, p ∈ u.pre) ∧ (k = v → ∃ p ∈ u.pre, p.by_ = b)) := by
  unfold State.askFreeze
  cases hv : s.job v with
  | none =>
    refine ⟨⟨s.plan.jobs, s.fab, s.porch, s.ras, rfl⟩, fun _ _ => rfl, fun k w hw => ⟨w, hw, fun _ h => h, fun hk => ?_⟩⟩
    rw [hk, hv] at hw; cases hw
  | some j =>
    by_cases hp : (j.pre.any fun p => decide (p.by_ = b)) = true
    · simp only [hp, ↓reduceIte]
      refine ⟨⟨s.plan.jobs, s.fab, s.porch, s.ras, rfl⟩, fun _ _ => trivial, fun k w hw => ⟨w, hw, fun _ h => h, fun hk => ?_⟩⟩
      rw [hk, hv] at hw
      cases hw
      simpa using hp
    · simp only [hp, ↓reduceIte]
      obtain ⟨f, q, w, e⟩ := FabOnly.tellOthers (s.modJob v (fun j => { j with pre := j.pre ++ [{ by_ := b, phase := .requested, at_ := s.beat, rooms := [] }] })) j (.freeze j.span)
      rw [e]
      refine ⟨⟨_, _, _, _, rfl⟩, fun k hk => ?_, fun k u hu => ?_⟩
      · show State.job (s.modJob _ _) _ = _
        rw [job_modJob, if_neg hk]
      · by_cases hk : k = v
        · subst hk
          rw [hv] at hu; cases hu
          refine ⟨{ j with pre := j.pre ++ [{ by_ := b, phase := .requested, at_ := s.beat, rooms := [] }] }, ?_, ?_, ?_⟩
          · show State.job (s.modJob _ _) _ = _
            rw [job_modJob, if_pos rfl, hv]; rfl
          · intro p hp; exact List.mem_append_left _ hp
          · intro _; exact ⟨_, List.mem_append_right _ (List.mem_singleton.mpr rfl), rfl⟩
        · refine ⟨u, ?_, fun _ h => h, fun h => absurd h hk⟩
          show State.job (s.modJob _ _) _ = _
          rw [job_modJob, if_neg hk, hu]

theorem ask_fold (b : Nat) (l : List (Nat × Job)) : ∀ s : State,
    (∃ js f q w, l.foldl (fun s v => s.askFreeze v.1 b) s = { s with plan := { s.plan with jobs := js }, fab := f, porch := q, ras := w }) ∧
    (∀ k, (∀ v ∈ l, v.1 ≠ k) → (l.foldl (fun s v => s.askFreeze v.1 b) s).job k = s.job k) ∧
    (∀ k w, s.job k = some w → ∃ u, (l.foldl (fun s v => s.askFreeze v.1 b) s).job k = some u ∧ (∀ p ∈ w.pre, p ∈ u.pre) ∧
      ((∃ v ∈ l, v.1 = k) → ∃ p ∈ u.pre, p.by_ = b)) := by
  induction l with
  | nil => intro s; exact ⟨⟨s.plan.jobs, s.fab, s.porch, s.ras, rfl⟩, fun _ _ => rfl, fun k w h => ⟨w, h, fun _ h => h, fun ⟨_, h, _⟩ => by cases h⟩⟩
  | cons a l ih =>
    intro s
    obtain ⟨⟨js, f, q, w, e⟩, h1, h2⟩ := ask_one a.1 b s
    obtain ⟨⟨ks, f', q', w', e'⟩, h1', h2'⟩ := ih (s.askFreeze a.1 b)
    refine ⟨⟨ks, f', q', w', ?_⟩, fun k hk => ?_, fun k u hu => ?_⟩
    · rw [List.foldl_cons, e', e]
    · rw [List.foldl_cons, h1' k (fun v hv => hk v (List.mem_cons_of_mem _ hv)), h1 k (fun h => hk a (List.mem_cons_self ..) h.symm)]
    · obtain ⟨x, hx, hx1, hx2⟩ := h2 k u hu
      obtain ⟨y, hy, hy1, hy2⟩ := h2' k x hx
      refine ⟨y, hy, fun p hp => hy1 p (hx1 p hp), fun ⟨v, hv, hvk⟩ => ?_⟩
      rcases List.mem_cons.mp hv with rfl | hv
      · obtain ⟨p, hp, hb⟩ := hx2 hvk.symm
        exact ⟨p, hy1 p hp, hb⟩
      · exact hy2 ⟨v, hv, hvk⟩

theorem tget_of_mem {α : Type} {t : Tab α} {p : Nat × α} (h : p ∈ t) : ∃ a, tget t p.1 = some a := by
  induction t with
  | nil => cases h
  | cons q r ih =>
    unfold tget
    by_cases k : q.1 = p.1
    · rw [if_pos k]; exact ⟨_, rfl⟩
    · rw [if_neg k]
      rcases List.mem_cons.mp h with rfl | h
      · exact absurd rfl k
      · exact ih h

theorem roomsTo_form (st : RoomState) (l : List Nat) (s : State) : ∃ x, s.roomsTo l st = { s with rooms := x } ∧
    ∀ q, tgetD x q Room.reset = if q ∈ l then { s.room q with state := st } else s.room q :=
  fold_room (fun r => { r with state := st }) (fun _ => rfl) l s

theorem save_fold (n : Nat) (l : List Nat) : ∀ (s : State) (j : Job), s.job n = some j → ∃ js,
    l.foldl (fun s q => s.saveRoom n q) s = { s with plan := { s.plan with jobs := js } } ∧
    (∃ k, tget js n = some k ∧ k.pre = j.pre ∧ (∀ q ∈ l, ∃ v, tget k.saved q = some v ∧ v.store = (s.room q).store ∧
      v.acc0 = (s.room q).acc0 ∧ v.acc1 = (s.room q).acc1 ∧ v.lines = (s.room q).lines) ∧
      ∀ q, q ∉ l → tget k.saved q = tget j.saved q) ∧ ∀ k, k ≠ n → tget js k = s.job k := by
  induction l with
  | nil => intro s j h; exact ⟨s.plan.jobs, rfl, ⟨j, h, rfl, fun q h => (List.not_mem_nil h).elim, fun _ _ => rfl⟩, fun _ _ => rfl⟩
  | cons a l ih =>
    intro s j h
    obtain ⟨v, hv⟩ : ∃ v : SavedRoom, v = { store := (s.room a).store, acc0 := (s.room a).acc0, acc1 := (s.room a).acc1, half := (s.room a).half, lines := (s.room a).lines, live := (s.room a).live, sealed := (s.room a).sealed } := ⟨_, rfl⟩
    have hj : (s.saveRoom n a).job n = some { j with saved := tset j.saved a v } := by
      unfold State.saveRoom
      rw [job_modJob, if_pos rfl, h, hv]; rfl
    obtain ⟨js, e, ⟨k, hk, hp, h1, h2⟩, h3⟩ := ih (s.saveRoom n a) _ hj
    refine ⟨js, by rw [List.foldl_cons, e]; rfl, ⟨k, hk, hp, ?_, ?_⟩, fun k hk => ?_⟩
    · intro q hq
      by_cases hl : q ∈ l
      · exact h1 q hl
      · rcases List.mem_cons.mp hq with rfl | hq
        · refine ⟨v, ?_, ?_⟩
          · rw [h2 _ hl]; exact tget_tset_self _ _ _
          · rw [hv]; exact ⟨rfl, rfl, rfl, rfl⟩
        · exact absurd hq hl
    · intro q hq
      rw [h2 q (fun h => hq (List.mem_cons_of_mem _ h))]
      exact tget_tset_ne _ _ (fun h => hq (h ▸ List.mem_cons_self ..))
    · rw [h3 k hk]
      unfold State.saveRoom
      rw [job_modJob, if_neg hk]

theorem restore_rooms (n : Nat) (l : List Nat) : ∀ (s : State) (j : Job), s.job n = some j → ∃ x js,
    l.foldl (fun s q => s.restoreRoom n q) s = { s with rooms := x, plan := { s.plan with jobs := js } } ∧
      (∃ v, tget js n = some { j with saved := v }) ∧ (∀ k, k ≠ n → tget js k = s.job k) ∧
      (∀ q, q ∉ l → tgetD x q Room.reset = s.room q) ∧
      ∀ q ∈ l, q ∉ s.glb.grid.lost → (tgetD x q Room.reset).state = .idle ∧ (tgetD x q Room.reset).job = BitVec.ofNat 6 n := by
  induction l with
  | nil => intro s j h; exact ⟨s.rooms, s.plan.jobs, rfl, ⟨j.saved, h⟩, fun _ _ => rfl, fun _ _ => rfl, fun q h => (List.not_mem_nil h).elim⟩
  | cons a l ih =>
    intro s j h
    obtain ⟨x, js, e, ⟨v, hv⟩, hk⟩ := restore_one n a s j h
    have hr : (∀ q, q ≠ a → tgetD x q Room.reset = s.room q) ∧
        (a ∉ s.glb.grid.lost → (tgetD x a Room.reset).state = .idle ∧ (tgetD x a Room.reset).job = BitVec.ofNat 6 n) := by
      have hx : x = (s.restoreRoom n a).rooms := by rw [e]
      have hc : ∃ f : Room → Room, (a ∉ s.glb.grid.lost → ∀ r, (f r).state = .idle ∧ (f r).job = BitVec.ofNat 6 n) ∧
          ∀ q, tgetD (s.restoreRoom n a).rooms q Room.reset = if q = a then f (s.room a) else s.room q := by
        unfold State.restoreRoom
        split
        · rename_i h1
          refine ⟨id, fun h2 => absurd (by simpa using h1) h2, fun q => ?_⟩
          split
          · rename_i h3; rw [h3]; rfl
          · rfl
        · split
          · exact ⟨fun r => { r with state := .idle, job := BitVec.ofNat 6 n, live := 0 }, fun _ _ => ⟨rfl, rfl⟩,
              fun q => room_modRoom s a q (fun r => { r with state := .idle, job := BitVec.ofNat 6 n, live := 0 })⟩
          · rename_i v _
            exact ⟨fun r => { r with state := .idle, job := BitVec.ofNat 6 n, store := v.store, acc0 := v.acc0, acc1 := v.acc1, half := v.half, lines := v.lines, live := v.live, sealed := v.sealed, peak := if r.peak.toNat < v.live.toNat then v.live else r.peak },
              fun _ _ => ⟨rfl, rfl⟩, fun q => room_modRoom s a q (fun r => { r with state := .idle, job := BitVec.ofNat 6 n, store := v.store, acc0 := v.acc0, acc1 := v.acc1, half := v.half, lines := v.lines, live := v.live, sealed := v.sealed, peak := if r.peak.toNat < v.live.toNat then v.live else r.peak })⟩
      obtain ⟨f, hf, hc⟩ := hc
      rw [hx]
      refine ⟨fun q hq => by rw [hc, if_neg hq], fun hl => ?_⟩
      rw [hc, if_pos rfl]
      exact hf hl _
    obtain ⟨y, ks, e2, ⟨w, hw⟩, hl, h1, h2⟩ := ih { s with rooms := x, plan := { s.plan with jobs := js } } { j with saved := v } hv
    refine ⟨y, ks, by rw [List.foldl_cons, e, e2], ⟨w, hw⟩, fun k h => (hl k h).trans (hk k h), fun q hq => ?_, fun q hq hn => ?_⟩
    · rw [h1 q (fun h => hq (List.mem_cons_of_mem _ h))]
      exact hr.1 q (fun h => hq (h ▸ List.mem_cons_self ..))
    · by_cases hq' : q ∈ l
      · exact h2 q hq' hn
      · rcases List.mem_cons.mp hq with rfl | hq
        · rw [h1 q hq']; exact hr.2 hn
        · exact absurd hq hq'

/-- A job's withdrawn frames go out: the fabric and what it reports change, and the job keeps none. -/
theorem sendWithdrawn_form (s : State) (n : Nat) (j : Job) : ∃ f q w, s.sendWithdrawn n j =
    { s with plan := { s.plan with jobs := tmod s.plan.jobs n (fun j => { j with withdrawn := [] }) }, fab := f, porch := q, ras := w } := by
  have key : ∀ t, FabOnly s t → ∃ f q w, t.modJob n (fun j => { j with withdrawn := [] }) =
      { s with plan := { s.plan with jobs := tmod s.plan.jobs n (fun j => { j with withdrawn := [] }) }, fab := f, porch := q, ras := w } := by
    rintro _ ⟨f, q, w, rfl⟩
    exact ⟨f, q, w, rfl⟩
  exact key _ (FabOnly.routeAll j.withdrawn s)

/-- A thaw of a job that runs on: only its cut and its withdrawn frames change, beside the fabric and what it reports. -/
theorem thaw_form (s : State) (n : Nat) : ∃ js f q w, s.thaw n = { s with plan := { s.plan with jobs := js }, fab := f, porch := q, ras := w } ∧
    (∀ k, k ≠ n → tget js k = s.job k) ∧ ∀ j, s.job n = some j → ∃ c x, tget js n = some { j with cut := c, withdrawn := x } := by
  unfold State.thaw
  cases h : s.job n with
  | none => exact ⟨s.plan.jobs, s.fab, s.porch, s.ras, rfl, fun _ _ => rfl, fun j h => by cases h⟩
  | some j =>
    by_cases hp : (j.suspended || j.pre.any (fun p => p.by_ != bySpan)) = true
    · simp only [hp, ↓reduceIte]
      exact ⟨s.plan.jobs, s.fab, s.porch, s.ras, rfl, fun _ _ => rfl, fun i hi => by cases hi; exact ⟨j.cut, j.withdrawn, h⟩⟩
    · simp only [hp, Bool.false_eq_true, if_false]
      obtain ⟨f0, q0, w0, e0⟩ := sendWithdrawn_form s n j
      rw [e0]
      obtain ⟨f, q, w, e⟩ := FabOnly.tellOthers (({ s with
        plan := { s.plan with jobs := tmod s.plan.jobs n (fun j => { j with withdrawn := [] }) }, fab := f0, porch := q0, ras := w0 } : State).modJob n
          (fun j => { j with cut := none })) j (.thaw j.span)
      rw [e]
      refine ⟨_, f, q, w, rfl, fun k hk => ?_, fun i hi => ⟨none, [], ?_⟩⟩
      · show tget (tmod (tmod s.plan.jobs n (fun j => { j with withdrawn := [] })) n (fun j => { j with cut := none })) k = _
        rw [tget_tmod_ne _ _ hk, tget_tmod_ne _ _ hk]
        rfl
      · cases hi
        show tget (tmod (tmod s.plan.jobs n (fun j => { j with withdrawn := [] })) n (fun j => { j with cut := none })) n = _
        rw [tget_tmod_self, tget_tmod_self, show tget s.plan.jobs n = some j from h]
        rfl

theorem modPre_job (s : State) (n b k : Nat) (f : Preempt → Preempt) : (s.modPre n b f).job k =
    if k = n then (s.job k).map (fun j => { j with pre := j.pre.map (fun p => if p.by_ = b then f p else p) }) else s.job k :=
  job_modJob _ _ _ _

theorem dropPre_job (s : State) (n b k : Nat) : (s.dropPre n b).job k = if k = n then (s.job k).map (fun j => { j with pre := j.pre.filter (fun p => p.by_ != b) }) else s.job k :=
  job_modJob _ _ _ _

theorem mem_tmod {α : Type} {t : Tab α} {k : Nat} {f : α → α} {v : Nat × α} (h : v ∈ tmod t k f) :
    ∃ y ∈ t, v = y ∨ v = (y.1, f y.2) := by
  obtain ⟨y, hy, e⟩ := List.mem_map.mp h
  refine ⟨y, hy, ?_⟩
  by_cases hk : y.1 = k
  · rw [if_pos hk] at e; exact Or.inr (by rw [← e, hk])
  · rw [if_neg hk] at e; exact Or.inl e.symm

theorem mem_modJob {s : State} {n : Nat} {f : Job → Job} {v : Nat × Job} (h : v ∈ (s.modJob n f).plan.jobs) :
    ∃ y ∈ s.plan.jobs, v = y ∨ v = (y.1, f y.2) := mem_tmod h

theorem countSwitch_form (q : Plan) (a b : Nat) : ∃ c : Bool × BitVec 6 × W16 × W32, q.countSwitch a b = { q with preValid := c.1, preJob := c.2.1, preCount := c.2.2.1, switchBeats := c.2.2.2 } := by
  unfold Plan.countSwitch
  cases h : q.preValid
  · exact ⟨(_, _, _, _), rfl⟩
  · exact ⟨(true, q.preJob, satAdd q.preCount 1, BitVec.ofNat 32 (min b 0xFFFF)), by simp [h]⟩

/-- A switch that begins: the Rooms are SAVING, the switch is counted, and it ends after S beats. -/
theorem beginSwitch_form (s : State) (o : Nat) (l : List Nat) (v : Tab (BitVec 11)) : ∃ (x : Tab Room) (c : Bool × BitVec 6 × W16 × W32),
    (s.beginSwitch o l v).1 = { s with rooms := x, plan := { s.plan with
      preValid := c.1, preJob := c.2.1, preCount := c.2.2.1, switchBeats := c.2.2.2 } } ∧
    (s.beginSwitch o l v).2 = s.beat + switchBeats (l.map (s.liveOf v)) ∧
    ∀ q, tgetD x q Room.reset = if q ∈ l then { s.room q with state := .saving } else s.room q := by
  obtain ⟨x, e, h⟩ := roomsTo_form .saving l s
  obtain ⟨c, hc⟩ := countSwitch_form s.plan o (switchBeats (l.map (s.liveOf v)))
  refine ⟨x, c, ?_, rfl, h⟩
  unfold State.beginSwitch
  rw [e]
  show ({ s with rooms := x, plan := s.plan.countSwitch _ _ } : State) = _
  rw [hc]

theorem beginReturn_form (s : State) (n : Nat) (j : Job) (o b : Nat) (l : List Nat) :
    ∃ (x : Tab Room) (c : Bool × BitVec 6 × W16 × W32), s.beginReturn n j o b l = { s with rooms := x, plan := { s.plan with
      preValid := c.1, preJob := c.2.1, preCount := c.2.2.1, switchBeats := c.2.2.2
      jobs := tmod s.plan.jobs n (fun j' => { j' with pre := j'.pre.map (fun p =>
        if p.by_ = b then { p with phase := .restoring (s.beat + switchBeats (l.map (s.liveOf j.savedLives))) } else p) }) } } := by
  obtain ⟨x, c, e1, e2, -⟩ := beginSwitch_form s o l j.savedLives
  refine ⟨x, c, ?_⟩
  unfold State.beginReturn
  simp only [e1, e2]
  rfl

/-- Another job than the one whose Rooms return is as it was. -/
theorem beginReturn_job (s : State) (n : Nat) (j : Job) (o b : Nat) (l : List Nat) {k : Nat} (h : k ≠ n) :
    (s.beginReturn n j o b l).job k = s.job k := by
  obtain ⟨x, c, e⟩ := beginReturn_form s n j o b l
  have key : ∀ f : Job → Job, tget (tmod s.plan.jobs n f) k = tget s.plan.jobs k := fun f => tget_tmod_ne _ _ h
  rw [e]
  exact key (fun j' => { j' with pre := j'.pre.map (fun p =>
        if p.by_ = b then { p with phase := .restoring (s.beat + switchBeats (l.map (s.liveOf j.savedLives))) } else p) })

theorem ret_one (n : Nat) (u : State) (a : Nat × Job) :
    (∃ (x : Tab Room) (q : Bool × BitVec 6 × W16 × W32) (js : Tab Job) (f : Fab) (po : Porch) (w : Ras), u.returnVictim n a = { u with rooms := x, plan := { u.plan with jobs := js, preValid := q.1, preJob := q.2.1, preCount := q.2.2.1, switchBeats := q.2.2.2 }, fab := f, porch := po, ras := w }) ∧
    ∀ k, (a.1 = k → ∀ q ∈ a.2.pre, q.by_ ≠ n) → (u.returnVictim n a).job k = u.job k := by
  unfold State.returnVictim
  cases h : a.2.pre.find? (fun p => decide (p.by_ = n)) with
  | none => exact ⟨⟨u.rooms, (u.plan.preValid, u.plan.preJob, u.plan.preCount, u.plan.switchBeats), u.plan.jobs, u.fab, u.porch, u.ras, rfl⟩, fun _ _ => rfl⟩
  | some p =>
    have hp : p ∈ a.2.pre ∧ p.by_ = n := ⟨List.mem_of_find?_eq_some h, by simpa using List.find?_some h⟩
    have hne : ∀ k, (a.1 = k → ∀ q ∈ a.2.pre, q.by_ ≠ n) → k ≠ a.1 := fun k hk e => hk e.symm p hp.1 hp.2
    have hd : (∃ (x : Tab Room) (q : Bool × BitVec 6 × W16 × W32) (js : Tab Job) (f : Fab) (po : Porch) (w : Ras), (u.dropPre a.1 n).thaw a.1 = { u with rooms := x, plan := { u.plan with jobs := js, preValid := q.1, preJob := q.2.1, preCount := q.2.2.1, switchBeats := q.2.2.2 }, fab := f, porch := po, ras := w }) ∧
        ∀ k, (a.1 = k → ∀ q ∈ a.2.pre, q.by_ ≠ n) → ((u.dropPre a.1 n).thaw a.1).job k = u.job k := by
      obtain ⟨ks, f, q, w, e2, h2, h3⟩ := thaw_form (u.dropPre a.1 n) a.1
      rw [e2]
      refine ⟨⟨u.rooms, (u.plan.preValid, u.plan.preJob, u.plan.preCount, u.plan.switchBeats), ks, f, q, w, rfl⟩, fun k hk => ?_⟩
      show tget ks k = _
      rw [h2 k (hne k hk), dropPre_job, if_neg (hne k hk)]
    have hs : (∃ (x : Tab Room) (q : Bool × BitVec 6 × W16 × W32) (js : Tab Job) (f : Fab) (po : Porch) (w : Ras), u = { u with rooms := x, plan := { u.plan with jobs := js, preValid := q.1, preJob := q.2.1, preCount := q.2.2.1, switchBeats := q.2.2.2 }, fab := f, porch := po, ras := w }) :=
      ⟨u.rooms, (u.plan.preValid, u.plan.preJob, u.plan.preCount, u.plan.switchBeats), u.plan.jobs, u.fab, u.porch, u.ras, rfl⟩
    dsimp only
    split
    · split
      · refine ⟨⟨u.rooms, (u.plan.preValid, u.plan.preJob, u.plan.preCount, u.plan.switchBeats), _, u.fab, u.porch, u.ras, rfl⟩, fun k hk => ?_⟩
        rw [dropPre_job, if_neg (hne k hk)]
      · obtain ⟨x, c, e⟩ := beginReturn_form u a.1 a.2 n n (p.rooms.filter (fun q => !u.glb.grid.lost.contains q))
        exact ⟨⟨x, c, _, u.fab, u.porch, u.ras, e⟩, fun k hk => beginReturn_job _ _ _ _ _ _ (hne k hk)⟩
    · exact hd
    · exact hd
    · exact ⟨hs, fun _ _ => rfl⟩

/-- A job without instances has none to cancel. -/
theorem cancelAll_none {s : State} {n : Nat} (h : ∀ q ∈ s.plan.insts, q.2.job ≠ n) : s.cancelAll n = s := by
  have hm : s.plan.insts.filter (fun p => p.2.job = n) = [] := by
    rw [List.filter_eq_nil_iff]; intro q hq; simpa using h q hq
  unfold State.cancelAll
  simp only [hm]
  rfl

/-- What a job's removal does last: the job, its graphs and its shifts are gone. -/
theorem removeJob_last (s : State) (n : Nat) (j : Job) : ∃ v : State, s.removeJob n j = v.modPlan (fun p =>
    { p.orphan n with jobs := tdel (p.orphan n).jobs n, graphs := p.graphs.filter (fun g => g.2.job != n), lastShift := tdel p.lastShift n }) :=
  ⟨_, rfl⟩

/-- The removal of a job that holds no Rooms as an ON_DEMAND job and feeds no QUALITY ring. -/
theorem removeJob_plain (s : State) (n : Nat) (j : Job) (h1 : j.onDemand = false) (h2 : j.qring = 0) : ∃ x, s.removeJob n j =
    { s with rooms := x, plan := { s.plan.orphan n with
      jobs := tdel (s.plan.orphan n).jobs n, graphs := s.plan.graphs.filter (fun g => g.2.job != n), lastShift := tdel s.plan.lastShift n } } := by
  unfold State.removeJob
  simp only [h1, h2, Bool.false_eq_true, if_false, if_true]
  generalize j.pre.flatMap _ = busy
  generalize hF : (fun (s : State) (q : Nat) => if (s.room q).state == .offline then s
    else if busy.contains q then s.modRoom q (fun r => { r with state := .idle, job := 0, live := 0 })
    else if (s.room q).job.toNat = n then s.modRoom q (fun r => { r with job := 0, live := 0 }) else s) = F
  have hf : ∀ (s : State) (a : Nat), ∃ x, F s a = { s with rooms := x } := by
    subst hF; intro s a; dsimp only; split
    · exact ⟨s.rooms, rfl⟩
    · split
      · exact ⟨_, rfl⟩
      · split
        · exact ⟨_, rfl⟩
        · exact ⟨s.rooms, rfl⟩
  obtain ⟨x, e⟩ := foldl_rooms F hf j.roomList s
  rw [e]
  exact ⟨x, rfl⟩

/-- The pre-emptions of a closed job keep all but their name. -/
theorem orphan_jobs (p : Plan) (n k : Nat) : tget (p.orphan n).jobs k = (tget p.jobs k).map (fun v =>
    { v with pre := v.pre.map (fun q => if q.by_ = n then { q with by_ := (v.pre.map (·.by_)).foldl max byGone + 1 } else q) }) := by
  unfold Plan.orphan
  dsimp only
  induction p.jobs with
  | nil => rfl
  | cons a l ih =>
    simp only [List.map_cons, tget]
    by_cases h : a.1 = k
    · simp only [h, ↓reduceIte, Option.map_some]
    · simp only [h, ↓reduceIte]; exact ih

/-- A save without a second parity fault: the draw, and what a repeated transfer reports. -/
theorem saveFault_form (s : State) (n : Nat) (l : List Nat)
    (h : ((Config.freeWord s.free).getLsbD 0 && (Config.freeWord s.free).getLsbD 1) = false) :
    ∃ p r, s.saveFault n l = { s with free := s.free + 1, porch := p, ras := r } := by
  have hd : s.draw = ({ s with free := s.free + 1 }, Config.freeWord s.free) := rfl
  generalize Config.freeWord s.free = v at h hd
  unfold State.saveFault
  rw [hd]
  dsimp only
  by_cases h1 : (l.isEmpty || !v.getLsbD 0) = true
  · rw [if_pos h1]; exact ⟨s.porch, s.ras, rfl⟩
  · have h2 : (!v.getLsbD 1) = true := by
      cases h3 : v.getLsbD 0
      · rw [h3] at h1; exact absurd (Bool.or_true _) h1
      · rw [h3] at h; simpa using h
    rw [if_neg h1, if_pos h2]
    exact log_form' _ _

/-- What SWITCH_START withdraws. -/
theorem withdraw_form (s : State) (n : Nat) (j : Job) : s.withdraw n j = { s with
    fab := { s.fab with ports := s.fab.ports.map (fun p => { p with queue := p.queue.filter (fun q => !q.bulkOf j.span) }) }
    plan := { s.plan with jobs := tmod s.plan.jobs n (fun i =>
      { i with withdrawn := i.withdrawn ++ s.fab.ports.flatMap (fun p => p.queue.filter (fun q => q.bulkOf j.span)) }) } } := rfl

theorem withdraw_jobs (s : State) (n : Nat) (j : Job) : (s.withdraw n j).plan.jobs = tmod s.plan.jobs n (fun i =>
    { i with withdrawn := i.withdrawn ++ s.fab.ports.flatMap (fun p => p.queue.filter (fun q => q.bulkOf j.span)) }) := rfl

end Sys2Proof.Machine
end

