-- ==== Sys2Proof/Laws/Tasks.lean ====
section
/-!
SUPPORT. Instances and tasks: admission, the start, the body's end, the commit.
-/
namespace Sys2Proof.Machine

theorem frameEnded_plan (s : State) (a b : Nat) (c : W32) (h : Bool) : (s.frameEnded a b c h).plan = s.plan := (BufOnly.dropRefs _ _ _).plan

theorem finishOp_plan (s : State) (r id : Nat) (c : W32) (a : W16) (b : Nat) (h : Bool) : (s.finishOp r id c a b h).plan = s.plan := by
  have key (f : Op → Op) : ((s.modOp r id f).noteReady r).plan = s.plan := by
    obtain ⟨y, e⟩ := noteReady_form (s.modOp r id f) r
    rw [e]
    unfold State.modOp
    split <;> rfl
  unfold State.finishOp
  split
  · rfl
  · dsimp only
    split
    · rfl
    · exact key _

theorem endInst_form (s : State) (n : Nat) (c : W32) (i : Inst) (h : s.inst n = some i) : ∃ js,
    (s.endInst n c).plan.jobs = js ∧ (s.endInst n c).plan.insts = tdel s.plan.insts n ∧
    (s.endInst n c).plan.refValid = s.plan.refValid ∧ (s.endInst n c).plan.refJob = s.plan.refJob ∧
    (s.endInst n c).plan.refDim = s.plan.refDim ∧ (s.endInst n c).plan.refPend = s.plan.refPend := by
  refine ⟨_, rfl, ?_⟩
  unfold State.endInst
  rw [h]
  simp only []
  split
  · rw [finishOp_plan]; exact ⟨rfl, rfl, rfl, rfl, rfl⟩
  · rw [frameEnded_plan, (BufOnly.dropRefs _ _ _).plan]; exact ⟨rfl, rfl, rfl, rfl, rfl⟩
  · unfold State.modJob State.modPlan
    simp only [(BufOnly.dropRefs _ _ _).plan]
    exact ⟨rfl, rfl, rfl, rfl, rfl⟩

theorem endInst_packet (s : State) (n : Nat) (c : W32) (i : Inst) (h : s.inst n = some i) {r id : Nat} (hw : i.who = .packet r id) : ∃ p : Plan,
    s.endInst n c = ({ s with plan := p }).finishOp r id c i.slips i.energy i.heldRec ∧ p.refsDue = s.plan.refsDue ++ [(r, id, i.handles)] := by
  unfold State.endInst
  rw [h]
  simp only [hw]
  exact ⟨_, rfl, rfl⟩

theorem finishOp_form (s : State) {r : Nat} (hr : r ≠ mboxRing) (id : Nat) (c : W32) (a : W16) (b : Nat) (h : Bool) : ∃ g,
    s.finishOp r id c a b h = { s with ring := g } := by
  have key (f : Op → Op) : ∃ g, (s.modOp r id f).noteReady r = { s with ring := g } := by
    obtain ⟨x, e, -, -⟩ := modOp_form s hr id f
    obtain ⟨y, e'⟩ := noteReady_form (s.modOp r id f) r
    exact ⟨_, by rw [e', e]⟩
  unfold State.finishOp
  split
  · exact ⟨s.ring, rfl⟩
  · dsimp only
    rw [if_neg hr]
    exact key _

theorem status_findOp {s t : State} {g id : Nat} {p : Op} (h : s.findOp g id = some p) (hg : g ≠ mboxRing) (ht : t.ring = s.ring)
    (c : W32) (a : W16) (b : Nat) (x : Bool) : (t.finishOp g id c a b x).statusOf g id = some c := by
  have h1 : p ∈ t.opsOf g := by
    rw [State.opsOf_congr ht hg]
    exact List.mem_of_find?_eq_some h
  have h2 : p.id = id := by simpa using List.find?_some h
  rw [← h2]
  exact State.statusOf_finishOp h1 hg c a b x

theorem taskCtx_some {s : State} {n k : Nat} {c : TaskCtx} (h : s.taskCtx n k = some c) :
    c.n = n ∧ c.k = k ∧ s.inst n = some c.i ∧ s.job c.i.job = some c.j ∧ s.graph c.i.graph = some c.g ∧
    c.g.tasks[k]? = some c.t ∧ c.i.tasks[k]? = some c.r := by
  unfold State.taskCtx at h
  obtain ⟨i, hi, h⟩ := Option.bind_eq_some_iff.mp h
  obtain ⟨j, hj, h⟩ := Option.bind_eq_some_iff.mp h
  obtain ⟨g, hg, h⟩ := Option.bind_eq_some_iff.mp h
  obtain ⟨t, ht, h⟩ := Option.bind_eq_some_iff.mp h
  obtain ⟨r, hr, h⟩ := Option.map_eq_some_iff.mp h
  subst h
  exact ⟨rfl, rfl, hi, hj, hg, ht, hr⟩

theorem withTask_some {s : State} {n k : Nat} {c : TaskCtx} (h : s.taskCtx n k = some c) (f) : s.withTask n k f = f c := by
  unfold State.withTask
  rw [h]

theorem inst_modInst (s : State) (n m : Nat) (f : Inst → Inst) : (s.modInst n f).inst m
    = if m = n then (s.inst m).map f else s.inst m := tget_tmod _ _ _ _

theorem inst_modTask (s : State) (n k m : Nat) (f : TaskRun → TaskRun) : (s.modTask n k f).inst m
    = if m = n then (s.inst m).map (fun i => { i with tasks := lmod i.tasks k f }) else s.inst m := by
  unfold State.modTask
  exact inst_modInst _ _ _ _

theorem hasRun_modTask {s : State} {n k : Nat} {r : TaskRun} (h : s.hasRun n k r) (f : TaskRun → TaskRun) : (s.modTask n k f).hasRun n k (f r) := by
  obtain ⟨i, hi, hr⟩ := h
  refine ⟨{ i with tasks := lmod i.tasks k f }, ?_, ?_⟩
  · rw [inst_modTask, if_pos rfl, hi]; rfl
  · show (lmod i.tasks k f)[k]? = _
    rw [getElem?_lmod]
    simp [hr]

theorem modTask_run {s : State} {n k : Nat} {f : TaskRun → TaskRun} {r : TaskRun} (h : (s.modTask n k f).hasRun n k r) :
    ∃ q, s.hasRun n k q ∧ r = f q := by
  obtain ⟨i, hi, hr⟩ := h
  have hi' : (s.inst n).map (fun i => { i with tasks := lmod i.tasks k f }) = some i := by
    rw [← hi]; exact (tget_tmod_self _ _ _).symm
  obtain ⟨j, hj, e⟩ := Option.map_eq_some_iff.mp hi'
  subst e
  have hr' : (lmod j.tasks k f)[k]? = some r := hr
  rw [getElem?_lmod] at hr'
  simp at hr'
  obtain ⟨q, hq, e⟩ := hr'
  exact ⟨q, ⟨j, hj, hq⟩, e.symm⟩

theorem fetch_fold (n k : Nat) (c : TaskCtx) (hn : c.n = n) (hk : c.k = k) (s : State) (l : List (Nat × Nat)) : ∀ (u : State) (r : TaskRun), (∃ p x z, u = { s with plan := p, rooms := x, mem := { s.mem with ports := z } }) →
    u.hasRun n k r → (∃ x y z, l.foldl (fun s q => s.fetchInto c q.1 q.2) u =
        { u with rooms := x, plan := { u.plan with insts := y }, mem := { u.mem with ports := z } }) ∧
      ∃ q, (l.foldl (fun s q => s.fetchInto c q.1 q.2) u).hasRun n k q ∧ q.state = r.state ∧
        q.fetched = r.fetched ++ l.map (fun q => (q.1, s.fetchFar c q.1)) := by
  induction l with
  | nil => intro u r _ h; exact ⟨⟨u.rooms, u.plan.insts, u.mem.ports, rfl⟩, r, h, rfl, by simp⟩
  | cons a l ih =>
    intro u r hu h
    subst hn; subst hk
    have hff : u.fetchFar c a.1 = s.fetchFar c a.1 := by
      obtain ⟨p, x, z, rfl⟩ := hu; rfl
    have h1 : ((u.useRoom c a.2).drawRow a.2 ((List.range 3).map (({ c with r := { c.r with fetched := [(a.1, u.fetchFar c a.1)] } } : TaskCtx).blocksRead a.1)).sum).hasRun c.n c.k r := h
    have h2 := hasRun_modTask h1 (fun r =>
      { r with fetched := r.fetched ++ [(a.1, u.fetchFar c a.1)], bad := r.bad ++ (u.landAll c a.1 (u.fetchFar c a.1) (u.room a.2).store).bad.map (fun b => (a.1, b.1, b.2)),
               faults := r.faults ++ (match (u.landAll c a.1 (u.fetchFar c a.1) (u.room a.2).store).fault with
               | some f => [c.overflow a.1 f.1 0 f.2.1 0 noIdx f.2.2]
               | none => []) })
    obtain ⟨⟨x, y, z, e⟩, q, hq, hs, hf⟩ := ih (u.fetchInto c a.1 a.2) _ (by obtain ⟨p, x, z, rfl⟩ := hu; exact ⟨_, _, _, rfl⟩) h2
    refine ⟨⟨x, y, z, ?_⟩, q, hq, hs, ?_⟩
    · rw [List.foldl_cons, e]; rfl
    · rw [hf, List.map_cons, List.append_assoc, ← hff]; rfl

theorem getElem_lmod_self {α : Type} (l : List α) (k : Nat) (f : α → α) : (lmod l k f)[k]? = (l[k]?).map f := by
  rw [getElem?_lmod, if_pos rfl]

/-- Rooms that a task has entered. -/
def entered (c : TaskCtx) (r : Room) : Prop :=
  r.state = .run ∧ r.job = BitVec.ofNat 6 c.i.job ∧ r.index = BitVec.ofNat 16 c.k ∧ r.cycle = 0
theorem room_useRoom (s : State) (c : TaskCtx) (a q : Nat) (h : q ≠ a) : (s.useRoom c a).room q = s.room q := by
  unfold State.useRoom
  rw [room_modRoom, if_neg h]

theorem landed_form (s : State) (c : TaskCtx) (p a : Nat) : (∃ x y, s.landed c p a = { s with rooms := x, plan := { s.plan with insts := y } }) ∧
    (∀ q, q ≠ a → (s.landed c p a).room q = s.room q) ∧
    (∀ m i, s.inst m = some i → ∃ ts, (s.landed c p a).inst m = some { i with tasks := ts }) ∧
    ∀ r, s.hasRun c.n c.k r → ∃ q, (s.landed c p a).hasRun c.n c.k q ∧ q.state = r.state ∧ q.faults = r.faults := by
  unfold State.landed
  split
  · exact ⟨⟨s.rooms, s.plan.insts, rfl⟩, fun _ _ => rfl, fun m i h => ⟨i.tasks, h⟩, fun r h => ⟨r, h, rfl, rfl⟩⟩
  · rename_i q0 _
    refine ⟨⟨_, _, rfl⟩, fun q hq => ?_, fun m i h => ?_, fun r h => ?_⟩
    · have key (f : Room → Room) (g : TaskRun → TaskRun) : ((s.modRoom a f).modTask c.n c.k g).room q = s.room q := by
        show (s.modRoom a f).room q = _
        rw [room_modRoom, if_neg hq]
      exact key _ _
    · rw [inst_modTask]
      by_cases hm : m = c.n
      · rw [if_pos hm]
        show ∃ ts, Option.map _ (s.inst m) = _
        rw [h]; exact ⟨_, rfl⟩
      · rw [if_neg hm]; exact ⟨i.tasks, h⟩
    · refine ⟨_, hasRun_modTask ?_ _, rfl, rfl⟩
      exact h

/-- What the start of a task does to one of its Rooms. -/
def enter (c : TaskCtx) (s : State) (q : Nat × Nat) : State :=
  ((s.useRoom c q.2).landed c q.1 q.2).modRoom q.2 (fun r =>
      { r with state := .run, job := BitVec.ofNat 6 c.i.job, graph := BitVec.ofNat 12 c.i.graph,
               index := BitVec.ofNat 16 c.k, cycle := 0, half := false })
theorem enter_fold (c : TaskCtx) (l : List (Nat × Nat)) : ∀ s : State, (∃ x y, l.foldl (enter c) s = { s with rooms := x, plan := { s.plan with insts := y } }) ∧
    (∀ q, (entered c (s.room q) ∨ ∃ a ∈ l, a.2 = q) → entered c ((l.foldl (enter c) s).room q)) ∧
    (∀ m i, s.inst m = some i → ∃ ts, (l.foldl (enter c) s).inst m = some { i with tasks := ts }) ∧
    ∀ r, s.hasRun c.n c.k r → ∃ q, (l.foldl (enter c) s).hasRun c.n c.k q ∧ q.state = r.state ∧ q.faults = r.faults := by
  induction l with
  | nil =>
    intro s
    refine ⟨⟨s.rooms, s.plan.insts, rfl⟩, fun q h => ?_, fun m i h => ⟨i.tasks, h⟩, fun r h => ⟨r, h, rfl, rfl⟩⟩
    rcases h with h | ⟨a, h, _⟩
    · exact h
    · cases h
  | cons a l ih =>
    intro s
    obtain ⟨⟨x, y, e⟩, l1, l2, l3⟩ := landed_form (s.useRoom c a.2) c a.1 a.2
    have hroom : ∀ q, (enter c s a).room q = if q = a.2 then { ((s.useRoom c a.2).landed c a.1 a.2).room a.2 with state := .run, job := BitVec.ofNat 6 c.i.job, graph := BitVec.ofNat 12 c.i.graph, index := BitVec.ofNat 16 c.k, cycle := 0, half := false }
        else ((s.useRoom c a.2).landed c a.1 a.2).room q := fun q => room_modRoom _ _ _ _
    obtain ⟨⟨x', y', e'⟩, h1, h2, h3⟩ := ih (enter c s a)
    refine ⟨⟨x', y', ?_⟩, fun q h => ?_, fun m i h => ?_, fun r h => ?_⟩
    · rw [List.foldl_cons, e']
      unfold enter
      rw [e]; rfl
    · rw [List.foldl_cons]
      by_cases hq : q = a.2
      · apply h1; left; rw [hroom, if_pos hq]; exact ⟨rfl, rfl, rfl, rfl⟩
      · apply h1
        rcases h with h | ⟨b, hb, hbq⟩
        · left; rw [hroom, if_neg hq, l1 q hq, room_useRoom s c a.2 q hq]; exact h
        · rcases List.mem_cons.mp hb with rfl | hb
          · exact absurd hbq.symm hq
          · right; exact ⟨b, hb, hbq⟩
    · rw [List.foldl_cons]
      obtain ⟨ts, ht⟩ := l2 m i h
      obtain ⟨ts', ht'⟩ := h2 m _ ht
      exact ⟨ts', ht'⟩
    · rw [List.foldl_cons]
      obtain ⟨q, hq, hs, hf⟩ := l3 r h
      obtain ⟨q', hq', hs', hf'⟩ := h3 q hq
      exact ⟨q', hq', hs'.trans hs, hf'.trans hf⟩

theorem sendFaces_plain (s : State) (n k : Nat) (i : Inst) (g : Graph) (t : Task) (hi : s.inst n = some i) (hg : s.graph i.graph = some g)
    (ht : g.tasks[k]? = some t) (hh : t.halo = false) : s.sendFaces n k = s := by
  unfold State.sendFaces State.withTask
  split
  · rename_i c hc
    obtain ⟨-, -, h1, -, h2, h3, -⟩ := taskCtx_some hc
    rw [hi] at h1
    cases h1
    rw [hg] at h2
    cases h2
    rw [ht] at h3
    cases h3
    have : s.owedFaces c = [] := by unfold State.owedFaces; rw [hh]; rfl
    simp only [this]
    rfl
  · rfl

theorem postMeta_form (s : State) (r : Nat) (b : List Byte) (q : Bool) : ∃ g, s.postMeta r b q = { s with ring := g } := by
  unfold State.postMeta
  split
  · split
    · exact ⟨s.ring, rfl⟩
    · split
      · exact ⟨_, rfl⟩
      · split
        · exact ⟨_, rfl⟩
        · exact ⟨s.ring, rfl⟩
  · exact ⟨s.ring, rfl⟩

theorem commitRoom_form (s : State) (c : TaskCtx) (a : Nat) : ∃ x g tr, s.commitRoom c a = { s with rooms := x, ring := g, track := tr } ∧
    (tgetD x a Room.reset).state = .idle ∧ ∀ q, q ≠ a → tgetD x q Room.reset = s.room q := by
  unfold State.commitRoom
  simp only []
  generalize Room.judge (s.room a) c.i.graph c.k _ _ = J
  obtain ⟨r, share⟩ := J
  have h1 : (tgetD (s.modRoom a (fun _ => { r with state := .idle, cycle := satNat 32 c.r.c })).rooms a Room.reset).state = .idle := by
    have := room_modRoom s a a (fun _ => { r with state := .idle, cycle := satNat 32 c.r.c })
    rw [if_pos rfl] at this
    show (State.room _ _).state = _
    rw [this]
  have h2 : ∀ q, q ≠ a → tgetD (s.modRoom a (fun _ => { r with state := .idle, cycle := satNat 32 c.r.c })).rooms q Room.reset = s.room q := by
    intro q hq
    have := room_modRoom s a q (fun _ => { r with state := .idle, cycle := satNat 32 c.r.c })
    rw [if_neg hq] at this
    exact this
  cases share with
  | none => exact ⟨_, s.ring, s.track, rfl, h1, h2⟩
  | some w =>
    simp only []
    split
    · exact ⟨_, s.ring, _, rfl, h1, h2⟩
    · obtain ⟨g, e⟩ := postMeta_form (s.modRoom a (fun _ => { r with state := .idle, cycle := satNat 32 c.r.c })) c.j.qring
        (metaRec kindQuality c.i.heldRec true false c.i.job 0 0 (qualityBody c.i.graph c.k a w (c.r.counts.filter (fun q => q.1 = a) |>.map (·.2.clip)).sum (c.r.counts.filter (fun q => q.1 = a) |>.map (·.2.conv)).sum)) true
      rw [e]
      exact ⟨_, g, s.track, rfl, h1, h2⟩

theorem commit_fold (c : TaskCtx) (l : List (Nat × Nat)) : ∀ s : State, ∃ x g tr, l.foldl (fun s q => s.commitRoom c q.2) s = { s with rooms := x, ring := g, track := tr } ∧
    ∀ q, ((s.room q).state = .idle ∨ ∃ a ∈ l, a.2 = q) → (tgetD x q Room.reset).state = .idle := by
  induction l with
  | nil =>
    intro s
    refine ⟨s.rooms, s.ring, s.track, rfl, fun q h => ?_⟩
    rcases h with h | ⟨a, h, _⟩
    · exact h
    · cases h
  | cons a l ih =>
    intro s
    obtain ⟨x, g, tr, e, h1, h2⟩ := commitRoom_form s c a.2
    obtain ⟨x', g', tr', e', h'⟩ := ih (s.commitRoom c a.2)
    refine ⟨x', g', tr', ?_, fun q h => h' q ?_⟩
    · rw [List.foldl_cons, e', e]
    · rw [e]
      by_cases hq : q = a.2
      · left; rw [hq]; exact h1
      · rcases h with h | ⟨b, hb, hbq⟩
        · left
          show (tgetD x q Room.reset).state = _
          rw [h2 q hq]; exact h
        · rcases List.mem_cons.mp hb with rfl | hb
          · exact absurd hbq.symm hq
          · right; exact ⟨b, hb, hbq⟩

theorem count_fold (l : List (Nat × Nat)) : ∀ s : State, ∃ w, l.foldl (fun s e => s.count e.1 e.2) s = { s with pwr := w } := by
  induction l with
  | nil => intro s; exact ⟨s.pwr, rfl⟩
  | cons a l ih =>
    intro s
    obtain ⟨w, e⟩ := ih (s.count a.1 a.2)
    exact ⟨w, by rw [List.foldl_cons, e]; rfl⟩

theorem taskEnergy_form (s : State) (c : TaskCtx) (t : Tally) (n : Nat) (d : Bool) : ∃ w y, s.taskEnergy c t n d = { s with pwr := w, plan := { s.plan with insts := y } } := by
  unfold State.taskEnergy
  simp only []
  obtain ⟨w, e⟩ := count_fold [(0, t.mac), (1, t.fed), (2, t.gated), (3, t.fnShort), (4, t.fnFp32), (5, (s.hbmBlocks c).1), (6, if d then (s.hbmBlocks c).2 else 0)] s
  rw [e]
  exact ⟨_, _, rfl⟩

theorem ladderOutcome_form (s : State) (c : TaskCtx) : ∃ y p r, s.ladderOutcome c = { s with plan := { s.plan with insts := y }, porch := p, ras := r } := by
  have hd : ∀ (e : LogEntry) (f : Inst → Inst), ∃ y p r, (s.log e).modInst c.n f = { s with plan := { s.plan with insts := y }, porch := p, ras := r } := by
    intro e f
    obtain ⟨p, r, h⟩ := log_form' s e
    rw [h]; exact ⟨_, _, _, rfl⟩
  have hc : ∀ (l : List Nat) (u : State), ∃ r, l.foldl (fun s q => s.countRoom (s.physOf q)) u = { u with ras := r } := by
    intro l
    induction l with
    | nil => intro u; exact ⟨u.ras, rfl⟩
    | cons a l ih =>
      intro u
      obtain ⟨r, h⟩ := ih (u.countRoom (u.physOf a))
      exact ⟨r, by rw [List.foldl_cons, h]; rfl⟩
  have key : ∀ u : State, (∃ y p r, u = { s with plan := { s.plan with insts := y }, porch := p, ras := r }) →
      ∃ y p r, c.r.once.foldl (fun s q => s.countRoom (s.physOf q)) u = { s with plan := { s.plan with insts := y }, porch := p, ras := r } := by
    rintro u ⟨y, p, r, rfl⟩
    obtain ⟨r', h⟩ := hc c.r.once { s with plan := { s.plan with insts := y }, porch := p, ras := r }
    exact ⟨y, p, r', h⟩
  unfold State.ladderOutcome
  simp only []
  split
  · exact hd _ _
  · split
    · exact key _ (hd _ _)
    · split
      · exact hd _ _
      · split
        · exact hd _ _
        · exact ⟨s.plan.insts, s.porch, s.ras, rfl⟩

theorem applyBack_form (s : State) (job : Nat) (sealed : Bool) (w : WriteBack) : ∃ m x js, s.applyBack job sealed w = { s with mem := m, rooms := x, plan := { s.plan with jobs := js } } := by
  unfold State.applyBack
  split
  · exact ⟨_, s.rooms, s.plan.jobs, rfl⟩
  · exact ⟨s.mem, s.rooms, _, rfl⟩
  · exact ⟨s.mem, _, s.plan.jobs, rfl⟩

theorem apply_fold (job : Nat) (sealed : Bool) (l : List WriteBack) : ∀ s : State, ∃ m x js, l.foldl (fun s w => s.applyBack job sealed w) s = { s with mem := m, rooms := x, plan := { s.plan with jobs := js } } := by
  induction l with
  | nil => intro s; exact ⟨s.mem, s.rooms, s.plan.jobs, rfl⟩
  | cons a l ih =>
    intro s
    obtain ⟨m, x, js, e⟩ := applyBack_form s job sealed a
    obtain ⟨m', x', js', e'⟩ := ih (s.applyBack job sealed a)
    exact ⟨m', x', js', by rw [List.foldl_cons, e', e]⟩

end Sys2Proof.Machine
end

