-- ==== Sys2Proof/Laws/Recover.lean ====
section
/-!
SUPPORT. Faults of tasks, recoveries, sequences.
-/
namespace Sys2Proof.Machine

theorem log_head (s : State) (e : LogEntry) : (s.log e).ras.head = s.ras.head + 1 := by
  have h : (s.ras.append (e.bytes s.ras.head s.now)).head = s.ras.head + 1 := by
    unfold Ras.append
    simp only []
    split
    · rfl
    · split <;> rfl
  unfold State.log State.oweMsi
  simp only []
  split_ifs <;> exact h

theorem hasRun_congr {s t : State} {n k : Nat} {r : TaskRun} (h : s.hasRun n k r) (e : t.plan.insts = s.plan.insts) : t.hasRun n k r := by
  obtain ⟨i, hi, hr⟩ := h
  exact ⟨i, by unfold State.inst at *; rw [e]; exact hi, hr⟩

theorem noteFault_form (s : State) (n k room : Nat) (c : TaskCtx) (f : TaskFault) (hc : s.taskCtx n k = some c) (hr : s.roomOf c f.pos = some room) :
      (s.noteFault c f).hasRun n k { c.r with state := .faulted, faults := c.r.faults ++ [f], fbeat := if c.r.faults = [] then s.beat else c.r.fbeat } ∧
      ((s.noteFault c f).room room).state = .fault ∧ ((s.noteFault c f).room room).frec = f.rec_.bytes ∧
      ((s.noteFault c f).room room).fault = f.rec_.status ∧ (∀ q, q ≠ room → (s.noteFault c f).room q = s.room q) ∧
      (f.ladder = true → s.noteFault c f = { s with
        rooms := (s.noteFault c f).rooms, plan := { s.plan with insts := (s.noteFault c f).plan.insts } }) ∧
      (f.ladder = false → (s.noteFault c f).ras.head = s.ras.head + 1) := by
  obtain ⟨hn, hk, hi, -, -, -, hrr⟩ := taskCtx_some hc
  obtain ⟨u, hu⟩ : ∃ u, u = s.modTask c.n c.k (fun r =>
    { r with state := .faulted, faults := r.faults ++ [f], fbeat := if r.faults.isEmpty then s.beat else r.fbeat }) := ⟨_, rfl⟩
  have hrun : u.hasRun n k { c.r with state := .faulted, faults := c.r.faults ++ [f], fbeat := if c.r.faults = [] then s.beat else c.r.fbeat } := by
    have h := hasRun_modTask (⟨c.i, hi, hrr⟩ : s.hasRun n k c.r) (fun r =>
      { r with state := .faulted, faults := r.faults ++ [f], fbeat := if r.faults.isEmpty then s.beat else r.fbeat })
    rw [hu, hn, hk]
    have e : (if c.r.faults.isEmpty = true then s.beat else c.r.fbeat) = if c.r.faults = [] then s.beat else c.r.fbeat := by
      cases c.r.faults <;> rfl
    simp only [e] at h
    exact h
  have hE : s.noteFault c f = if f.ladder then u.faultRoom room f.rec_ else (u.faultRoom room f.rec_).log (c.entry f.rec_.status 1 (u.physOf room) 0 0 0 f.rec_.addr f.rec_.bytes) := by
    unfold State.noteFault
    simp only [← hu]
    have : u.roomOf c f.pos = s.roomOf c f.pos := by rw [hu]; rfl
    rw [this, hr]
    rfl
  have hroom : ∀ q, (u.faultRoom room f.rec_).room q = if q = room then { u.room room with state := .fault, fault := f.rec_.status, frec := f.rec_.bytes, cycle := satNat 32 f.rec_.rclk } else u.room q :=
    fun q => room_modRoom _ _ _ _
  have hur : ∀ q, u.room q = s.room q := by intro q; rw [hu]; rfl
  cases hl : f.ladder with
  | true =>
    rw [hl, if_pos rfl] at hE
    rw [hE]
    refine ⟨hasRun_congr hrun rfl, ?_, ?_, ?_, ?_, ?_, ?_⟩
    · rw [hroom, if_pos rfl]
    · rw [hroom, if_pos rfl]
    · rw [hroom, if_pos rfl]
    · intro q hq; rw [hroom, if_neg hq, hur]
    · intro _; rw [hu]; rfl
    · intro h; cases h
  | false =>
    rw [hl, if_neg Bool.false_ne_true] at hE
    obtain ⟨p, r, e⟩ := log_form' (u.faultRoom room f.rec_) (c.entry f.rec_.status 1 (u.physOf room) 0 0 0 f.rec_.addr f.rec_.bytes)
    rw [e] at hE
    rw [hE]
    refine ⟨hasRun_congr hrun rfl, ?_, ?_, ?_, ?_, ?_, ?_⟩
    · show ((u.faultRoom room f.rec_).room room).state = _
      rw [hroom, if_pos rfl]
    · show ((u.faultRoom room f.rec_).room room).frec = _
      rw [hroom, if_pos rfl]
    · show ((u.faultRoom room f.rec_).room room).fault = _
      rw [hroom, if_pos rfl]
    · intro q hq
      show (u.faultRoom room f.rec_).room q = _
      rw [hroom, if_neg hq, hur]
    · intro h; cases h
    · intro _
      have h := log_head (u.faultRoom room f.rec_) (c.entry f.rec_.status 1 (u.physOf room) 0 0 0 f.rec_.addr f.rec_.bytes)
      rw [e] at h
      have h2 : (u.faultRoom room f.rec_).ras.head = s.ras.head := by rw [hu]; rfl
      rw [← h2]; exact h

theorem append_cntAttic (r : Ras) (b : List Byte) : (r.append b).cntAttic = r.cntAttic ∧ (r.append b).rows = r.rows := by
  unfold Ras.append
  simp only []
  split
  · exact ⟨rfl, rfl⟩
  · split <;> exact ⟨rfl, rfl⟩

theorem log_cntAttic (s : State) (e : LogEntry) : (s.log e).ras.cntAttic = s.ras.cntAttic := by
  unfold State.log State.oweMsi
  simp only []
  split_ifs <;> exact (append_cntAttic _ _).1

theorem log_rows (s : State) (e : LogEntry) : (s.log e).ras.rows = s.ras.rows := by
  unfold State.log State.oweMsi
  simp only []
  split_ifs <;> exact (append_cntAttic _ _).2

theorem runs_modInst {s : State} {n k : Nat} {r : TaskRun} {f : Inst → Inst} (hf : ∀ i, (f i).tasks = i.tasks) (h : (s.modInst n f).hasRun n k r) : s.hasRun n k r := by
  obtain ⟨i, hi, hr⟩ := h
  rw [inst_modInst, if_pos rfl] at hi
  obtain ⟨j, hj, e⟩ := Option.map_eq_some_iff.mp hi
  subst e
  exact ⟨j, hj, by rw [← hf j]; exact hr⟩

theorem setRooms_form (s : State) (c : TaskCtx) (st : RoomState) (b : Bool) : ∃ x, s.setRooms c st b = { s with rooms := x } := by
  unfold State.setRooms
  exact foldl_rooms _ (fun s a => ⟨_, rfl⟩) _ _

theorem tget_map_if {α : Type} (t : Tab α) (k : Nat) (c : α → Bool) (g : α → α) :
    tget (t.map (fun p => if c p.2 then (p.1, g p.2) else p)) k = (tget t k).map (fun v => if c v then g v else v) := by
  induction t with
  | nil => rfl
  | cons p r ih =>
    rw [List.map_cons]
    by_cases hc : c p.2 = true
    · rw [if_pos hc]
      unfold tget
      by_cases hk : p.1 = k
      · rw [if_pos hk, if_pos hk, Option.map_some, if_pos hc]
      · rw [if_neg hk, if_neg hk]; exact ih
    · rw [if_neg hc]
      unfold tget
      by_cases hk : p.1 = k
      · rw [if_pos hk, if_pos hk, Option.map_some, if_neg hc]
      · rw [if_neg hk, if_neg hk]; exact ih

theorem recoveryShift_run {s : State} {job m n k : Nat} {q : TaskRun} (h : (s.recoveryShift job m).hasRun n k q) :
    ∃ q0, s.hasRun n k q0 ∧ q.d = q0.d := by
  obtain ⟨more, hm⟩ : ∃ more : Nat, (s.recoveryShift job m).plan.insts = s.plan.insts.map (fun q =>
      if decide (q.2.job = job) && q.2.state != .queued && q.2.state != .waiting then
        (q.1, { q.2 with tasks := q.2.tasks.map (fun r => if r.unstarted then { r with s := r.s + more, e := r.e + more } else r) }) else q) := ⟨_, rfl⟩
  obtain ⟨i, hi, hr⟩ := h
  unfold State.inst at hi
  rw [hm] at hi
  obtain ⟨j, hj, e⟩ := Option.map_eq_some_iff.mp ((tget_map_if s.plan.insts n (fun i => decide (i.job = job) && i.state != .queued && i.state != .waiting)
    (fun i => { i with tasks := i.tasks.map (fun r => if r.unstarted then { r with s := r.s + more, e := r.e + more } else r) })).symm.trans hi)
  subst e
  by_cases hc : (decide (j.job = job) && j.state != .queued && j.state != .waiting) = true
  · rw [if_pos hc] at hr
    simp only [List.getElem?_map, Option.map_eq_some_iff] at hr
    obtain ⟨q0, h0, e⟩ := hr
    refine ⟨q0, ⟨j, hj, h0⟩, ?_⟩
    rw [← e]
    split <;> rfl
  · rw [if_neg hc] at hr
    exact ⟨q, ⟨j, hj, hr⟩, rfl⟩

theorem redispatch_form (s : State) (c : TaskCtx) (sub : Nat) (f : TaskRun → TaskRun) : ∃ x y w z, s.redispatch c sub f
    = ({ s with rooms := x, plan := y, ras := w, fab := z }) ∧ w.head = s.ras.head ∧
    ∀ r, (s.redispatch c sub f).hasRun c.n c.k r → ∃ q : TaskRun, (∃ q0, s.hasRun c.n c.k q0 ∧ q.d = q0.d) ∧ r = f { q with
      s := s.beat + sub + c.r.l + s.plan.guard.toNat, e := s.beat + sub + c.r.l + s.plan.guard.toNat + q.d, state := .planned, faults := [],
      bad := [], fetched := [], counts := [], stage := [], sent := [],
      recovery := q.recovery + (s.beat + sub + c.r.l + s.plan.guard.toNat - c.r.s) } := by
  have hrs : ∃ y w, s.recoveryShift c.i.job (s.beat + sub + c.r.l + s.plan.guard.toNat - c.r.s) = { s with plan := y, ras := w } ∧ w.head = s.ras.head := ⟨_, _, rfl, rfl⟩
  obtain ⟨y, w, e, hw⟩ := hrs
  obtain ⟨x, e2⟩ := setRooms_form { s with plan := y, ras := w } c .idle true
  refine ⟨x, (s.redispatch c sub f).plan, w, (s.redispatch c sub f).fab, ?_, hw, ?_⟩
  · unfold State.redispatch
    simp only [e, e2]
    rfl
  · intro r hr
    unfold State.redispatch at hr
    dsimp only at hr
    have h1 := runs_modInst (f := fun i => { i with heldRec := true }) (fun _ => rfl) hr
    obtain ⟨q, hq0, hq⟩ := modTask_run h1
    refine ⟨q, recoveryShift_run (job := c.i.job) (m := s.beat + sub + c.r.l + s.plan.guard.toNat - c.r.s) (hasRun_congr hq0 ?_), hq⟩
    obtain ⟨x, e2⟩ := setRooms_form (s.recoveryShift c.i.job (s.beat + sub + c.r.l + s.plan.guard.toNat - c.r.s)) c .idle true
    rw [e2]; rfl

theorem seq_modSeq (s : State) (n k : Nat) (f) : (s.modSeq n f).seq k = if k = n then (s.seq k).map f else s.seq k := tget_tmod _ _ _ _

theorem takeRefs_form (port : Nat) (l : List W64) : ∀ s : State, BufOnly s (s.takeRefs port l).1 := by
  induction l with
  | nil => intro s; exact BufOnly.refl s
  | cons a l ih =>
    intro s
    have h := BufOnly.takeRef s port a
    unfold State.takeRefs
    revert h
    cases s.takeRef port a with
    | mk t c =>
      intro h
      simp only []
      split
      · exact h
      · have h2 := ih t
        revert h2
        cases t.takeRefs port l with
        | mk u b =>
          intro h2
          cases b
          · exact (h.trans h2).trans (BufOnly.dropRef _ _ _)
          · exact h.trans h2

/-- Text records of a sequence go to its ring. -/
theorem textRecords_form (n : Nat) (e : SeqEnt) (h : Bool) (v : W32) (l : List (List Byte)) : ∀ s : State,
    ∃ g, s.textRecords n e h v l = { s with ring := g } := by
  induction l with
  | nil => intro s; exact ⟨s.ring, rfl⟩
  | cons a l ih =>
    intro s
    unfold State.textRecords State.seqRecord
    dsimp only
    obtain ⟨g, eg⟩ := postMeta_form s e.ring (metaRec kindText h (!!l.isEmpty) true n v e.utag (leBytes 1 a.length ++ leBytes 1 (bit !l.isEmpty) ++ [0, 0] ++ a)) (!!l.isEmpty)
    obtain ⟨g', e'⟩ := ih { s with ring := g }
    exact ⟨g', by rw [eg]; exact e'⟩

/-- The unfinished bytes of a sequence are written: it keeps none. -/
theorem flushPend_form (s : State) (n : Nat) (e : SeqEnt) (h : Bool) (hp : e.pend.isEmpty = false) : ∃ y : State,
    s.flushPend n e h = { s with ring := y.ring, seqs := y.seqs } ∧
    (∀ x, s.seq n = some x → tget y.seqs.ents n = some { x with pend := [] }) ∧ ∀ k, k ≠ n → tget y.seqs.ents k = s.seq k := by
  obtain ⟨g, eg⟩ := textRecords_form n e h (e.len - 1) [replacement] (s.modSeq n (fun e => { e with pend := [] }))
  refine ⟨{ (s.modSeq n (fun e => { e with pend := [] })) with ring := g }, ?_, ?_, ?_⟩
  · unfold State.flushPend
    rw [hp, if_neg Bool.false_ne_true, eg]
    rfl
  · intro x hx
    have := seq_modSeq s n n (fun e => { e with pend := [] })
    rw [if_pos rfl, hx] at this
    exact this
  · intro k hk
    have := seq_modSeq s n k (fun e => { e with pend := [] })
    rw [if_neg hk] at this
    exact this

end Sys2Proof.Machine
end

