-- ==== Sys2Proof/Laws/Video.lean ====
section
/-!
SUPPORT. Streams, pictures and views: what their updates leave alone.
-/
namespace Sys2Proof.Machine

theorem stream_modStream (s : State) (n k : Nat) (f) : (s.modStream n f).stream k = if k = n then (s.stream k).map f else s.stream k :=
  tget_tmod _ _ _ _

theorem opsOf_ctx {s t : State} {r : Nat} (hr : r ≠ mboxRing) (h : (t.ringCtx r).map (·.ops) = (s.ringCtx r).map (·.ops)) :
    t.opsOf r = s.opsOf r := by
  unfold State.opsOf
  rw [if_neg hr, if_neg hr]
  cases h1 : t.ringCtx r <;> cases h2 : s.ringCtx r <;> simp_all

theorem opsOf_bindRing (s : State) (q : Nat) (b : Bool) {r : Nat} (hr : r ≠ mboxRing) : (s.bindRing q b).opsOf r = s.opsOf r := by
  refine opsOf_ctx hr ?_
  unfold State.bindRing
  rw [ringCtx_modRing]
  split
  · cases s.ringCtx r <;> rfl
  · rfl

theorem status_ops {s t : State} {g id : Nat} {p : Op} (h : s.findOp g id = some p) (hg : g ≠ mboxRing) (ht : t.opsOf g = s.opsOf g)
    (c : W32) : (t.finish g id c).statusOf g id = some c := by
  have h1 : p ∈ t.opsOf g := by
    rw [ht]
    exact List.mem_of_find?_eq_some h
  have h2 : p.id = id := by simpa using List.find?_some h
  rw [← h2]
  exact State.statusOf_finish h1 hg c

theorem stream_finish (s : State) (r id : Nat) (c : W32) (k : Nat) : (s.finish r id c).stream k = s.stream k := by
  simp [State.stream]

theorem finish_video {s u : State} {g : Video} (h : u = { s with video := g }) (r : RingId) (id : Nat) (c : W32) :
    u.finish r.toNat id c = { s with video := (u.finish r.toNat id c).video, ring := (u.finish r.toNat id c).ring } := by
  subst h
  obtain ⟨x, f⟩ := finish_ring { s with video := g } r id c
  rw [f]

theorem view_modView (s : State) (n k : Nat) (f) : (s.modView n f).view k = if k = n then (s.view k).map f else s.view k :=
  tget_tmod _ _ _ _

theorem onPipe_some {s : State} {f : PicPhase → Bool} {q : Nat × Stream × Pic} (h : (s.onPipe f).head? = some q) :
    q.2.1.pics.head? = some q.2.2 ∧ f q.2.2.phase = true := by
  have h1 := List.mem_of_mem_head? h
  unfold State.onPipe at h1
  obtain ⟨p, -, hp⟩ := List.mem_filterMap.mp h1
  revert hp
  cases e : p.2.head with
  | none => intro hp; exact absurd hp (by simp)
  | some x =>
    intro hp
    by_cases g : f x.phase = true
    · simp only [g, if_true, Option.some.injEq] at hp
      rw [← hp]; exact ⟨e, g⟩
    · simp [g] at hp

theorem append_spares (r : Ras) (b : List Byte) : (r.append b).spDec = r.spDec ∧ (r.append b).spEnc = r.spEnc ∧ (r.append b).retired = r.retired := by
  unfold Ras.append
  dsimp only
  split
  · exact ⟨rfl, rfl, rfl⟩
  · split <;> exact ⟨rfl, rfl, rfl⟩

theorem findNat_some {p : Nat → Bool} (fuel : Nat) : ∀ lo z, findNat p fuel lo = some z →
    p z = true ∧ z < lo + fuel ∧ ∀ q, lo ≤ q → q < z → p q = false := by
  induction fuel with
  | zero => intro lo z h; exact absurd h (by simp [findNat])
  | succ n ih =>
    intro lo z h
    unfold findNat at h
    by_cases hp : p lo = true
    · rw [if_pos hp] at h
      obtain rfl := Option.some.inj h
      exact ⟨hp, by omega, fun q a b => absurd b (by omega)⟩
    · rw [if_neg hp] at h
      obtain ⟨a, b, c⟩ := ih _ _ h
      refine ⟨a, by omega, fun q h1 h2 => ?_⟩
      by_cases e : q = lo
      · rw [e]; simpa using hp
      · exact c q (by omega) h2

theorem setFrame_plan (s : State) (n : Nat) (k : W32) (f : FramePhase) : (s.setFrame n k f).plan = s.plan := rfl

theorem newInst_form {u : State} {jn : Nat} {j : Job} (hj : u.job jn = some j) (who : Submitter) (g : Nat) (v : List Nat) (hs : List W64) (d : Nat) :
    ∃ js, u.newInst who jn g v hs d = { u with plan := { u.plan with
      jobs := js, nextInst := u.plan.nextInst + 1
      insts := tset u.plan.insts u.plan.nextInst
        { who := who, job := jn, graph := g, cls := j.prio, v := v, handles := hs, state := .queued, run := j.runs,
          b := [], once := false, b0 := 0, guard := 0, k := 0, tasks := [], order := u.dispatchOrder who, slips := 0,
          fault := none, recovered := none, lostStore := j.storeLost, heldRec := false, declass := d, energy := 0 } } } := by
  unfold State.newInst
  rw [hj]
  exact ⟨_, rfl⟩

theorem pipeOutcome_form (s : State) (e : Bool) (p j n k : Nat) : ∃ q r, s.pipeOutcome e p j n k = { s with porch := q, ras := r } := by
  unfold State.pipeOutcome State.countPipe
  split
  · exact ⟨s.porch, s.ras, rfl⟩
  · obtain ⟨q, r, h⟩ := log_form' s (pipeEntry e p j n 2 1 Code.rcvRetried)
    rw [h]; split <;> exact ⟨_, _, rfl⟩
  · exact log_form' _ _

/-- Releasing a partition writes the memory and takes the partition out of the table. -/
theorem releasePart_form (s : State) (n : Nat) : ∃ m p, s.releasePart n = { s with mem := m, track := { s.track with parts := p } } ∧
    tget p n = none ∧ ∀ k, k ≠ n → tget p k = tget s.track.parts k := by
  unfold State.releasePart
  split
  · exact ⟨s.mem, s.track.parts, rfl, ‹_›, fun _ _ => rfl⟩
  · exact ⟨_, _, rfl, tget_tdel_self _ _, fun _ h => tget_tdel_ne _ h⟩

theorem dropped_video (u : State) (n : Nat) (g : View → View) (d : Tab W32 → Tab W32) :
    ((u.modView n g).modVideo (fun x => { x with dropped := d x.dropped })).video =
      { u.video with views := tmod u.video.views n g, dropped := d u.video.dropped } := rfl

theorem view_finish (s : State) (r id : Nat) (c : W32) (k : Nat) : (s.finish r id c).view k = s.view k := by
  simp [State.view]

end Sys2Proof.Machine
end

