-- ==== Sys2Proof/Machine/RegRead.lean ====
section
/-!
DEFINITION. What every offset of the register space BAR0/1 reads (R7, R12, R48 to R53, R88, R129, R154, R172, R225, R241,
R269, R270, R291, R326, R348, R375, R397, R416, R423, R442, R450, R481, R496, R514). The reads that change state are commands of
their own.
-/
namespace Sys2Proof.Machine

/-- The low or the high word of a 64-bit register. -/
def half (high : Bool) (v : Nat) : Nat := if high then v / 2 ^ 32 % 2 ^ 32 else v % 2 ^ 32

/-- Word `k` of a run of bytes. -/
def wordOf (b : List Byte) (k : Nat) : Nat := rd b (4 * k) 4

/-- The ID register of a block (R51). -/
def idWord (b : Nat) : Nat := b * 2 ^ 24 + 0xB0 * 2 ^ 16 + (Config.ifver b).toNat

/-- GLOBAL_STATE. -/
def State.stateWord (s : State) : Nat :=
  devCode s.glb.dev * 2 ^ 29 + reasonCode s.glb.reason * 2 ^ 26 + bit s.glb.layout.isSome * 2 ^ 25
    + bit s.glb.override * 2 ^ 24 + bit s.part.debug * 2 ^ 23 + s.glb.cause.toNat

def State.readGlobal (s : State) (o : Nat) : Nat :=
  match o with
  | 0x10 => s.stateWord
  | 0x14 => 2 * bit s.glb.maint + bit s.glb.compat
  | 0x18 => half false (s.dkey s.video.conceal).toNat
  | 0x1C => half true (s.dkey s.video.conceal).toNat
  | 0x20 => bit s.glb.vcomb
  | 0x40 => s.glb.grid.spareCount * 2 ^ 16 + s.part.rows * 2 ^ 8 + 8 * 2 ^ 4 + s.part.e
  | _ => if 0x100 ≤ o ∧ o < 0x2C0 then s.glb.grid.mapWord ((o - 0x100) / 4) else 0

def Porch.holdWord (p : Porch) : Nat := bit p.held * 2 ^ 31 + bit p.lost * 2 ^ 30 + p.holdMs.toNat

/-- A word of an MSI-X table entry (R416). -/
def MsixEntry.word (e : MsixEntry) (k : Nat) : Nat :=
  match k with
  | 0 => half false e.addr.toNat
  | 1 => half true e.addr.toNat
  | 2 => e.data.toNat
  | _ => bit e.masked

def State.readPorch (s : State) (o : Nat) : Nat :=
  match o with
  | 0x10 => s.porch.linkWord
  | 0x14 => s.porch.evtVec.toNat * 2 ^ 16 + s.porch.hostlossMs.toNat
  | 0x18 => s.porch.holdWord
  | 0x1C => s.porch.errWord
  | 0x20 => s.porch.errRingWord
  | 0x24 => s.porch.retryWord
  | 0x28 => (s.porch.cfg.barLog2 - 28) * 2 ^ 28 + s.vBytes / 1048576
  | _ =>
    if 0x100 ≤ o ∧ o < 0x200 then field s.porch.intx.toNat (32 * ((o - 0x100) / 4)) 32
    else if 0xF0000 ≤ o ∧ o < 0xF8000 then (s.porch.entry ((o - 0xF0000) / 16)).word (o % 16 / 4)
    else if 0xF8000 ≤ o ∧ o < 0xF8100 then field s.porch.pba.toNat (32 * ((o - 0xF8000) / 4)) 32
    else 0

/-- RING_ADMIN_CTL: busy while the admin pair is being destroyed (R88, R89). -/
def State.admWord (s : State) : Nat :=
  let g := s.ring
  bit (!g.admEnable && ((s.ringCtx 0).isSome || (s.ringCtx 1).isSome)) * 2 ^ 31 + g.admVector.toNat * 2 ^ 16
    + g.admLog2.toNat * 2 ^ 8 + 2 * bit g.admHbm + bit g.admEnable

def State.readRing (s : State) (o : Nat) : Nat :=
  match o with
  | 0x10 => s.admWord
  | 0x18 => half false s.ring.cmdBase.toNat
  | 0x1C => half true s.ring.cmdBase.toNat
  | 0x20 => half false s.ring.cplBase.toNat
  | 0x24 => half true s.ring.cplBase.toNat
  | 0x40 => s.ring.sel.toNat
  | 0xC0 => s.ring.orphanWord
  | 0xC4 => s.ring.ctx.length
  | 0xC8 => s.ring.faultWord
  | 0xCC => s.ring.faultInfoWord
  | _ => if 0x80 ≤ o ∧ o < 0xC0 then wordOf s.ring.snap ((o - 0x80) / 4) else 0

def State.readPlan (s : State) (o : Nat) : Nat :=
  match o with
  | 0x10 => s.plan.guard.toNat
  | 0x14 => s.plan.semLimit.toNat
  | 0x18 => s.plan.used * 2 ^ 16 + s.plan.freeEntries
  | 0x20 => half false s.plan.beat.toNat
  | 0x24 => half true s.plan.beat.toNat
  | 0x28 => s.plan.slipWord
  | 0x2C => s.plan.refuseWord
  | 0x30 => s.plan.refVal.toNat
  | 0x34 => s.plan.dupTile.toNat
  | 0x38 => s.plan.varies.toNat
  | 0x40 => s.plan.preemptWord
  | 0x44 => min s.plan.switchBeats.toNat 0xFFFF
  | _ => 0

def State.armedWord (s : State) (b : Nat) : Nat := bit (s.glb.armed.getLsbD b)

/-- A window of a Room (R154, R172, R225, R241); 0 at or above the grade's Room count. -/
def State.readWindow (s : State) (w o : Nat) : Nat :=
  let r := s.room w
  if !s.hasWindow w then 0
  else match o with
    | 0x000 => idWord blockRoom
    | 0x004 => s.armedWord blockRoom
    | 0x010 => s.roomStatus w
    | 0x014 => r.graph.toNat * 2 ^ 16 + r.index.toNat
    | 0x018 => r.cycle.toNat
    | 0x01C => r.storeWord
    | 0x020 => r.sat.toNat
    | 0x024 => r.fault.toNat
    | 0x028 => bit r.zgateOff
    | 0x030 => half false r.fed.toNat
    | 0x034 => half true r.fed.toNat
    | 0x038 => half false r.mac.toNat
    | 0x03C => half true r.mac.toNat
    | 0x040 => half false r.gated.toNat
    | 0x044 => half true r.gated.toNat
    | 0x048 => r.fnShort.toNat
    | 0x04C => r.fnFp32.toNat
    | 0x050 => half false r.snapClip.qclipSnap.toNat
    | 0x054 => half true r.qclipSnap.toNat
    | 0x058 => half false r.qconvSnap.toNat
    | 0x05C => half true r.qconvSnap.toNat
    | 0x060 => r.qShare.toNat * 2 ^ 16 + r.qMinK.toNat
    | 0x064 => r.qevWord
    | 0x068 => r.qevEvents.toNat * 2 ^ 16 + r.qevShare.toNat
    | _ => if 0x080 ≤ o ∧ o < 0x0B0 then wordOf r.frec ((o - 0x080) / 4) else 0

def State.readLarder (s : State) (o : Nat) : Nat :=
  match o with
  | 0x10 => s.larder.sel.toNat
  | 0x14 => s.larder.snapCfg.toNat
  | 0x18 => s.larder.snapFree.toNat
  | 0x1C => s.larder.snapNew.toNat
  | 0x20 => s.larder.errWord
  | 0x28 => half false s.larder.errHandle.toNat
  | 0x2C => half true s.larder.errHandle.toNat
  | 0x30 => s.larder.dfree.toNat
  | _ => 0

def State.readSeq (s : State) (o : Nat) : Nat :=
  match o with
  | 0x10 => s.seqs.sel.toNat
  | 0x80 => half false s.seqs.countWord
  | 0x84 => half true s.seqs.countWord
  | 0x88 => s.seqs.pauseWord
  | 0x8C => s.seqs.stepWord
  | 0x90 => s.seqs.skip.toNat
  | 0x94 => s.seqs.stepErr.toNat
  | _ => if 0x40 ≤ o ∧ o < 0x80 then wordOf s.seqs.snap ((o - 0x40) / 4) else 0

/-- VIDEO_PIPES. -/
def Video.pipesWord (v : Video) : Nat := v.enc.toNat * 2 ^ 18 + v.dec.toNat

def State.readVideo (s : State) (o : Nat) : Nat :=
  match o with
  | 0x10 => bit s.video.conceal
  | 0x14 => s.video.egressWord
  | 0x18 => s.video.pipesWord
  | 0x20 => s.video.sel.toNat
  | 0x24 => s.video.snapStat.toNat
  | 0x28 => half false s.video.snapPos.toNat
  | 0x2C => half true s.video.snapPos.toNat
  | 0x30 => half false s.video.snapCnt.toNat
  | 0x34 => half true s.video.snapCnt.toNat
  | 0x38 => s.video.refuseWord
  | 0x40 => half false s.video.refPos.toNat
  | 0x44 => half true s.video.refPos.toNat
  | 0x48 => s.video.slow.toNat
  | 0x4C => s.video.concealed.toNat
  | _ =>
    if 0x100 ≤ o ∧ o < 0x200 then
      let n := (o - 0x100) / 8
      if o % 8 = 0 then (s.video.cidxOf n).toNat else (tgetD s.video.dropped n 0).toNat
    else 0

def State.readCapt (s : State) (o : Nat) : Nat :=
  match o with
  | 0x10 => s.capt.sel.toNat
  | 0x14 => s.capt.snapStat.toNat
  | 0x18 => half false s.capt.snapNext.toNat
  | 0x1C => half true s.capt.snapNext.toNat
  | 0x20 => s.capt.empty.toNat
  | 0x24 => s.capt.damaged.toNat
  | 0x28 => s.capt.damageWord
  | 0x2C => s.capt.dmgPos.toNat
  | 0x30 => s.captDict
  | _ => 0

def State.readTrack (s : State) (o : Nat) : Nat :=
  match o with
  | 0x10 => s.track.sel.toNat
  | 0x14 => s.track.snapPart.toNat
  | 0x18 => s.track.snapCount.toNat
  | 0x1C => s.track.used
  | 0x20 => s.track.drop.toNat
  | 0x24 => s.track.rejectWord
  | 0x28 => s.track.qdrop.toNat
  | _ => 0

def MemPortState.word (p : MemPortState) : Nat := bit p.enable * 2 ^ 31 + p.rate.toNat * 2 ^ 16 + p.burst.toNat

def NrCtl.word (n : NrCtl) : Nat := bit n.seeded * 2 ^ 31 + n.log2p.toNat * 2 ^ 16 + n.thresh.toNat

/-- MEM_REPAIR: soft row repairs and spare lanes in use. -/
def Mem.repairWord (m : Mem) : Nat := min 0xFFFF ((m.rows.map (·.2)).sum) * 2 ^ 16 + m.lanes.length

def State.readMem (s : State) (o : Nat) : Nat :=
  let m := s.mem
  match o with
  | 0x10 => bit m.ecc * 2 ^ 31 + 128 * 2 ^ 20 + s.capMib
  | 0x14 => bit m.eccNext
  | 0x18 => m.pageIdle.toNat
  | 0x1C => m.debtMax.toNat
  | 0x20 => m.nrNext.word
  | 0x28 => half false m.nrSeed.toNat
  | 0x2C => half true m.nrSeed.toNat
  | 0x30 => m.wqHi.toNat * 2 ^ 8 + m.wqLo.toNat
  | 0x34 => m.scrubHours.toNat
  | 0x38 => bit m.trained * 2 ^ 31 + bit m.trainWarm * 2 ^ 30
  | 0x3C => m.temp.toNat
  | 0x40 => m.fwdFull.toNat
  | 0x44 => m.fwdPartial.toNat
  | 0x48 => m.nrDrawn.toNat
  | 0x4C => m.nrForced.toNat
  | 0x50 => m.ce.toNat
  | 0x54 => m.ueWord
  | 0x58 => half false m.ueAddr.toNat
  | 0x5C => half true m.ueAddr.toNat
  | 0x60 => m.repairWord
  | _ =>
    if 0x100 ≤ o ∧ o < 0x160 then ((m.ports[(o - 0x100) / 4]?).map MemPortState.word).getD 0
    else if 0x180 ≤ o ∧ o < 0x1E0 then ((m.ports[(o - 0x180) / 4]?).map (fun p => p.wait.toNat)).getD 0
    else 0

def State.readFab (s : State) (o : Nat) : Nat :=
  match o with
  | 0x10 => s.fab.addrWord
  | 0x14 => s.fab.tagMax.toNat * 2 ^ 16 + s.fab.stallMs.toNat
  | 0x18 => s.fab.portSel.toNat
  | 0x1C => s.fab.snapStat.toNat
  | 0x20 => half false s.fab.snapCnt.toNat
  | 0x24 => half true s.fab.snapCnt.toNat
  | 0x28 => s.fab.errWord
  | 0x2C => s.fab.dropWord
  | _ => 0

/-- Energy in µJ as the 64-bit registers show it (R494, R496). -/
def energyWord (fj : Nat) : Nat := min ((fj + 500000000) / 1000000000) (2 ^ 64 - 1)

def Pwr.ctlWord (w : Pwr) : Nat := bit w.repeatable * 2 ^ 31 + w.slow.toNat * 2 ^ 4 + w.fast.toNat
def Pwr.stateWord (w : Pwr) : Nat :=
  w.pstate.toNat * 2 ^ 29 + bit w.droop * 2 ^ 28 + bit w.ramp.isSome * 2 ^ 27 + w.mv.toNat

def State.readPwr (s : State) (o : Nat) : Nat :=
  let w := s.pwr
  match o with
  | 0x10 => w.ctlWord
  | 0x14 => w.cap.toNat
  | 0x18 => w.stateWord
  | 0x1C => w.droops.toNat
  | 0x20 => half false (2 ^ 41 + w.domains.toNat)
  | 0x24 => half true (2 ^ 41 + w.domains.toNat)
  | 0x28 => w.dieMax.toNat * 2 ^ 24 + w.hbmMax.toNat * 2 ^ 16 + w.throttle.toNat * 2 ^ 8
  | 0x2C => w.modelPower.toNat * 2 ^ 16 + w.measuredPower.toNat
  | 0x30 => half false (energyWord w.eDevice)
  | 0x34 => half true (energyWord w.eDevice)
  | _ =>
    if 0x40 ≤ o ∧ o < 0x60 then (s.part.vid.getD ((o - 0x40) / 4) 0).toNat
    else if 0x80 ≤ o ∧ o < 0xC0 then (w.coef.getD ((o - 0x80) / 4) 0).toNat
    else if 0x100 ≤ o ∧ o < 0x300 then half (o % 8 = 4) (energyWord (tgetD w.eJob ((o - 0x100) / 8) 0))
    else 0

def State.sparesWord (s : State) : Nat :=
  s.glb.grid.spareCount * 2 ^ 24 + s.ras.spDec.toNat * 2 ^ 22 + s.ras.spEnc.toNat * 2 ^ 21 + s.ras.spPll.toNat * 2 ^ 20
    + bit s.hearth.standby * 2 ^ 19 + s.ras.retired.toNat

/-- RAS_REC. -/
def Ras.recWord (r : Ras) : Nat :=
  (if r.replay.isSome then 2 else bit r.recording.isSome) * 2 ^ 30 + r.recMib.toNat

def State.readRas (s : State) (o : Nat) : Nat :=
  let r := s.ras
  match o with
  | 0x10 => r.rateLimit.toNat * 2 ^ 16 + r.windowH.toNat * 2 ^ 8 + r.evtMask.toNat
  | 0x14 => r.head.toNat
  | 0x18 => r.ack.toNat
  | 0x1C => r.lost.toNat
  | 0x20 => r.sel.toNat
  | 0x24 => s.sparesWord
  | 0x28 => r.replan.toNat
  | 0x2C => r.recWord
  | _ => if 0x80 ≤ o ∧ o < 0x100 then wordOf r.snap ((o - 0x80) / 4) else 0

def Hearth.bootWord (h : Hearth) : Nat :=
  h.lastFail.toNat * 2 ^ 16 + bit h.aonValid * 2 ^ 15 + bit h.warm * 2 ^ 14 + bit h.slotB * 2 ^ 13 + bit h.preserve * 2 ^ 12
    + bit h.nextCold * 2 ^ 11 + h.fails.toNat * 2 ^ 9

def Hearth.actionWord (h : Hearth) : Nat := bit h.actionWaits.isSome * 2 ^ 31 + h.action.toNat * 2 ^ 16 + h.result.toNat

def State.readHearth (s : State) (o : Nat) : Nat :=
  let h := s.hearth
  match o with
  | 0x10 => h.bootWord
  | 0x14 => h.actionWord
  | 0x18 => h.mboxWord
  | _ =>
    if 0x40 ≤ o ∧ o < 0x80 then (h.mboxRegs.getD ((o - 0x40) / 4) 0).toNat
    else if 0x80 ≤ o ∧ o < 0xA0 then wordOf h.mboxCpl ((o - 0x80) / 4)
    else if 0x100 ≤ o ∧ o < 0x180 then wordOf h.report ((o - 0x100) / 4)
    else 0

/-- The word at an aligned offset of BAR0/1, its value before any clearing or snapshot of the read but the one of ROOM_QCLIP;
reserved offsets read 0 (R7), DBG on a part that is not debug-unlocked too (R50); on one that is, the spec gives DBG no
register, and the word is a free value (log entry 116). -/
def State.readReg (s : State) (off : Nat) : Nat :=
  let b := off / 0x100000
  let o := off % 0x100000
  if !s.regsUp then 0
  else if b = blockRoom then s.readWindow (o / 0x1000) (o % 0x1000)
  else if b < 15 ∧ o = 0 then idWord b
  else if b < 15 ∧ o = 4 then s.armedWord b
  else match b with
    | 0 => s.readGlobal o
    | 1 => s.readPorch o
    | 2 => s.readRing o
    | 3 => s.readPlan o
    | 5 => s.readLarder o
    | 6 => s.readSeq o
    | 7 => s.readVideo o
    | 8 => s.readCapt o
    | 9 => s.readTrack o
    | 10 => s.readMem o
    | 11 => s.readFab o
    | 12 => s.readPwr o
    | 13 => s.readRas o
    | 14 => s.readHearth o
    | 15 => if s.part.debug then (Config.dbgWord o s.free).toNat else 0
    | _ => 0

/-- The 8 bytes of the doorbell of a ring, BAR2 offset 8 × n (R59): the index that the device owns, and the last index accepted;
a ring that has accepted none reads its reset values. -/
def State.readDoorbell (s : State) (n : Nat) : Nat :=
  match s.ringCtx n with
  | none => 0
  | some c =>
    if !s.regsUp then 0
    else if c.kind == .command then c.cidx.toNat * 2 ^ 32 + c.pidx.toNat
    else c.pidx.toNat * 2 ^ 32 + c.cidx.toNat

end Sys2Proof.Machine
end

