-- ==== Sys2Proof/Tests/Slice0.lean ====
section
/-!
SUPPORT. Tests: ill-formed commands that `Instr.wf` refuses, single steps on small states, and for every statement with
hypotheses concrete states and operands that meet them (`test_hyps_…`). Expected results come from the rules named. Where a
hypothesis names a free value (a constant of `Config` without a body), it stays a hypothesis of the witness: nothing can
evaluate it.
-/
namespace Sys2Proof.Tests
open Sys2Proof.Machine
set_option Elab.async false

/-! ## Small states -/

/-- A layout with a window of 64 MiB (R509). -/
def layout : Layout := { win := 64, strong := 0, save := 16 }

/-- A device that serves, its link up, with nothing opened. -/
def on : State :=
  { State.reset with
    glb := { Global.reset with dev := .serving, layout := some layout }
    pins := { State.reset.pins with pgIn := true, perst := false }
    porch := { Porch.reset with up := true, rate := 6, width := 16,
                                cfg := { ConfigSpace.reset 28 with mse := true, bme := true } }
    mem := { Mem.reset with trained := true } }

/-- The same with Bus Master Enable 0. -/
def noBme : State := { on with porch := { on.porch with cfg := { on.porch.cfg with bme := false } } }

/-- The bytes from offset `at_` to `n`: zero but for fields given as offset, size and value in rising order. -/
def fill (n at_ : Nat) : List (Nat × Nat × Nat) → List Byte
  | [] => List.replicate (n - at_) 0
  | (o, k, v) :: r => List.replicate (o - at_) 0 ++ leBytes k v ++ fill n (o + k) r

/-- A packet of `n` bytes: opcode, its length in slots, and its other fields (R66). -/
def pkt (n op : Nat) (fs : List (Nat × Nat × Nat)) : List Byte := fill n 0 ([(0, 2, op), (3, 1, n / 64)] ++ fs)

/-- A dispatched packet that its unit has not taken up. -/
def anOp (op : Nat) (b : List Byte) (p : Payload) : Op :=
  { id := 7, idx := 0, seq := 0, tag := 0, flags := 0, opcode := op, bytes := b, started := false, payload := p,
    waits := false, fin := none }

/-- A COMMAND ring bound to ring 1, of 64 slots in host memory. -/
def cmdRing : RingCtx := newRing .command 6 false 0 0 0x10000 1 0
/-- A COMPLETION ring of 64 slots in host memory. -/
def cplRing : RingCtx := newRing .completion 6 false 0 3 0x20000 0 0
/-- A METADATA ring of 64 slots in host memory. -/
def metaRing : RingCtx := newRing .metadata 6 false 0 5 0x30000 0 0

/-- Rings 0 to 2: command, completion, metadata. -/
def ringed (s : State) : State := { s with ring := { s.ring with ctx := [(0, cmdRing), (1, cplRing), (2, metaRing)] } }

/-- Ring 0 with a dispatched packet. -/
def offering (s : State) (o : Op) : State :=
  { s with ring := { s.ring with ctx := [(0, { cmdRing with ops := [o] }), (1, cplRing), (2, metaRing)], nextOp := 8 } }

theorem offers (s : State) (op : Nat) (b : List Byte) (p : Payload) (h : s.working = true) :
    Offers (offering s (anOp op b p)) 0 op (anOp op b p) := ⟨rfl, rfl, h⟩

/-- A list of checks that all hold. -/
theorem holdAll {l : List (Bool × W32)} (h : l.all (·.1) = true) : ∀ c ∈ l, c.1 = true := by simpa using h

theorem allBut {l : List (Bool × W32)} (h : (l.eraseIdx 1).all (·.1) = true) (h1 : ∀ x, l[1]? = some x → x.1 = true) :
    ∀ c ∈ l, c.1 = true := by
  match l with
  | [] => simp
  | [a] => simpa using h
  | a :: b :: r => simp_all

/-! ## Well-formed commands -/

theorem test_wf_windowRead : (Instr.windowRead 0 0).wf = false ∧ (Instr.windowRead (2 ^ 37 - 1) 2).wf = false ∧
    (Instr.windowRead 0 4097).wf = false ∧ (Instr.windowRead (2 ^ 37 - 4) 4).wf = true := by decide +kernel

theorem test_wf_windowWrite : (Instr.windowWrite 0 []).wf = false ∧ (Instr.windowWrite (2 ^ 37) [some 1]).wf = false ∧
    (Instr.windowWrite (2 ^ 37 - 1) [some 1]).wf = true := by decide +kernel

theorem test_wf_registerWrite : (Instr.registerWrite (2 ^ 26) (.w32 0)).wf = false ∧
    (Instr.registerWrite (2 ^ 26 - 4) (.w32 0)).wf = true := by decide +kernel

theorem test_wf_barAccess : (Instr.barAccess 0 0).wf = false ∧ (Instr.barAccess (2 ^ 26) 4).wf = false ∧
    (Instr.barAccess 2 4).wf = true := by decide +kernel

theorem test_wf_configurationWrite : (Instr.configurationWrite 2 4 0).wf = false ∧
    (Instr.configurationWrite 4096 4 0).wf = false ∧ (Instr.configurationWrite 4 3 0).wf = false ∧
    (Instr.configurationWrite 4 1 256).wf = false ∧ (Instr.configurationWrite 4092 4 0).wf = true := by decide +kernel

theorem test_wf_larderRequest : (Instr.larderRequest 28 0 (.decrement 0)).wf = false ∧
    (Instr.larderRequest 27 0 (.decrement 0)).wf = true := by decide +kernel

theorem test_wf_pipes : (Instr.blockRowBoundary 18).wf = false ∧ (Instr.pictureResume 18).wf = false ∧
    (Instr.pictureContextSaved 18).wf = false ∧ (Instr.pictureAbandon 18).wf = false ∧
    (Instr.pictureReconstructed 18).wf = false ∧ (Instr.pictureReconstructed 17).wf = true := by decide +kernel

theorem test_wf_pipeFault : (Instr.pipeFault true 5).wf = false ∧ (Instr.pipeFault false 18).wf = false ∧
    (Instr.pipeFault false 5).wf = true := by decide +kernel

theorem test_wf_rateRetirement : (Instr.rateRetirement (.decPipe 18)).wf = false ∧
    (Instr.rateRetirement (.encPipe 5)).wf = false ∧ (Instr.rateRetirement (.encPipe 4)).wf = true := by decide +kernel

theorem test_wf_memPorts : (Instr.memReadRequest 24 0).wf = false ∧ (Instr.memWriteRequest 24 0 [some 1]).wf = false ∧
    (Instr.memWriteRequest 0 0 []).wf = false ∧ (Instr.memWriteRequest 0 63 [some 1, some 2]).wf = false ∧
    (Instr.portAdmit 24).wf = false ∧ (Instr.memRegWaitRead 24).wf = false ∧ (Instr.portAdmit 23).wf = true := by decide +kernel

theorem test_wf_banks : (Instr.activationThreshold 0 48).wf = false ∧ (Instr.refreshInterval 0 48).wf = false ∧
    (Instr.pageIdleTimeout 0 48).wf = false ∧ (Instr.rowRepairDone 0 48).wf = false ∧
    (Instr.rowRepairDone 0 47).wf = true := by decide +kernel

theorem test_wf_errors : (Instr.memReadReturn 0 [(68, 1)]).wf = false ∧
    (Instr.memReadReturn 0 [(67, 1)]).wf = true := by decide +kernel

theorem test_wf_positions : (Instr.roomFault 0 0 128 .poison).wf = false ∧ (Instr.tileClaim 0 0 128 0).wf = false ∧
    (Instr.tileClaimResend 0 0 128).wf = false ∧ (Instr.fabLate 0 0 128 0).wf = false ∧
    (Instr.fabLate 0 0 127 0).wf = true := by decide +kernel

theorem test_wf_thermalSample : (Instr.thermalSample [] 0).wf = false ∧
    (Instr.thermalSample (List.replicate 32 0) 0).wf = true := by decide +kernel

theorem test_wf_domains : (Instr.domainOffTimer 41).wf = false ∧ (Instr.domainFail 41).wf = false ∧
    (Instr.domainFail 40).wf = true := by decide +kernel

/-- A firmware image of a kind that authenticates and fits. -/
def image (k : Byte) : FlashImage :=
  { kind := k, stepLo := 0, stepHi := 255, ifver := 1, seqno := 1, length := 64, qual := [], authentic := true }

/-- A cold start at which everything passes. -/
def goodStart : ColdStartResult :=
  { rooms := BitVec.allOnes 128, sram := true, slotA := [image 1, image 2, image 3, image 4], slotB := [], train := true, lanes := [],
    memSpare := true, decPipes := BitVec.allOnes 18, encPipes := BitVec.allOnes 5, pll0 := true, pll1 := true, entropy := 0 }

theorem test_wf_coldStart : (Instr.coldStart { goodStart with slotA := [image 1] }).wf = false ∧
    (Instr.coldStart { goodStart with slotB := [image 1] }).wf = false ∧ (Instr.coldStart goodStart).wf = true := by decide +kernel

/-! ## Registers and the host link -/

/-- Statements about register reads and writes ask for a device that is not OFF and no held low word. -/
theorem test_hyps_registers : on.regsUp = true ∧ on.porch.low = none ∧ on.hasWindow 0 = true ∧ on.hasWindow 111 = true ∧
    on.mem.ports[0]? = some (MemPortState.reset 0) ∧ on.mem.ports[23]? = some (MemPortState.reset 23) := by decide +kernel

/-- A device with blocks VIDEO and HEARTH armed. -/
def armed : State := { on with glb := { on.glb with armed := 0x4080 } }

theorem test_hyps_LockedFieldNeedsArming : on.glb.armed.getLsbD 7 = false ∧ on.glb.armed.getLsbD 14 = false ∧
    armed.regsUp = true ∧ armed.porch.low = none ∧ armed.glb.armed.getLsbD 7 = true ∧
    armed.glb.armed.getLsbD 14 = true := by decide +kernel

theorem test_hyps_RegisterWrites : (1 ≤ (0xC01#32).toNat % 1024 ∧ (0xC01#32).toNat % 1024 ≤ 1000) ∧
    (1000#32).toNat % 1024 ≤ 1000 ∧ 0x300012 % 4 ≠ 0 ∧ 0x300014 % 8 ≠ 0 ∧ (2#32).getLsbD 1 = true ∧
    on.glb.armed.getLsbD 4 = false ∧ (0x80000000#32).getLsbD 31 = true := by decide +kernel

/-- Vector 1 is masked and pending; MSI-X is enabled. -/
def pends : State :=
  { on with porch := { on.porch with
      pba := setBit 0 1, owed := setBit 0 2, intx := 1, msix := [(2, ⟨0x1000, 9, false⟩)]
      cfg := { on.porch.cfg with msixEnable := true } } }

theorem test_hyps_VectorWrites : on.porch.pba.getLsbD 2047 = false ∧ pends.regsUp = true ∧ pends.porch.low = none ∧
    pends.porch.pba.getLsbD 1 = true ∧ pends.porch.cfg.msixEnable = true ∧ pends.glb.compat = false ∧
    pends.porch.cfg.funcMask = false ∧ pends.porch.cfg.bme = true ∧ pends.silent = false ∧
    (pends.porch.entry 1).addr.toNat % 4 = 0 := by decide +kernel

theorem test_hyps_EgressAndViewIndexWrites : on.video.lock = false ∧ armed.video.lock = false ∧
    armed.glb.armed.getLsbD 7 = true ∧
    let s := { on with video := { on.video with lock := true, cidx := [(31, 0)], views := [] } }
    s.video.lock = true ∧ s.regsUp = true ∧
    (0 - s.video.cidxOf 31).toNat ≤ (s.video.pidxOf 31 - s.video.cidxOf 31).toNat ∧
    (s.video.pidxOf 31 - s.video.cidxOf 31).toNat < (1 - s.video.cidxOf 31).toNat := by decide +kernel

theorem test_hyps_RoomWindowWrites : on.hasWindow 111 = true ∧ (2#32).getLsbD 1 = true ∧ on.glb.armed.getLsbD 4 = false ∧
    (0x80000000#32).getLsbD 31 = true := by decide +kernel

/-- A device whose link is down. -/
def unlinked : State := { on with porch := { on.porch with up := false } }

theorem test_hyps_LinkEvents : unlinked.glb.dev ≠ .off ∧ unlinked.porch.up = false ∧ unlinked.pins.perst = false ∧
    (linkMode 5 16 false = true ∧ (5#4).toNat < 6) ∧ (linkMode 6 8 true = true ∧ (8#5).toNat < 16) ∧ on.porch.up = true ∧
    on.regsUp = true := by decide +kernel

theorem test_hyps_RefusedRequests :
    let s := { on with porch := { on.porch with cfg := { on.porch.cfg with mse := false } } }
    s.cfgUp = true ∧ s.porch.cfg.mse = false ∧ (TlpError.ecrc, 19) ∈ [(TlpError.malformed, 18), (.ecrc, 19)] ∧ on.regsUp = true ∧
    ((3 ≠ 4 ∧ 3 ≠ 8) ∨ 0 % 3 ≠ 0) ∧ ((8 ≠ 4 ∧ 8 ≠ 8) ∨ 4 % 8 ≠ 0) := by decide +kernel

/-- A device in D3hot. -/
def asleep : State := { on with porch := { on.porch with cfg := { on.porch.cfg with d3 := true, saved := (true, false) } } }

theorem test_hyps_BusMasterEnable : on.porch.cfg.bme = true ∧ noBme.porch.cfg.bme = false ∧ noBme.porch.lost = false ∧
    on.cfgUp = true ∧ on.porch.cfg.d3 = false ∧ noBme.cfgUp = true ∧ noBme.porch.cfg.d3 = false ∧
    asleep.cfgUp = true ∧ asleep.porch.cfg.d3 = true ∧
    asleep.porch.cfg.saved.2 = false := by decide +kernel

/-- A device that has held its requests for hostloss_ms. -/
def holding : State := { noBme with porch := { noBme.porch with held := true, holdMs := 100, cfg :=
  { noBme.porch.cfg with mse := false } } }

theorem test_hyps_ConfigurationAndHostLoss : holding.cfgUp = true ∧ holding.porch.cfg.mse = false ∧
    (8 ≤ (8#6).toNat ∧ (8#6).toNat ≤ 17) ∧ (8 ≤ (17#6).toNat ∧ (17#6).toNat ≤ 17) ∧ holding.porch.cfg.d3 = false ∧
    holding.porch.cfg.bme = (0#32).getLsbD 2 ∧ on.porch.cfg.bme = (4#32).getLsbD 2 ∧ holding.porch.held = true ∧
    holding.porch.lost = false ∧ holding.porch.hostlossMs.toNat ≤ holding.porch.holdMs.toNat ∧
    holding.glb.dev = .serving := by decide +kernel

theorem test_hyps_Interrupts :
    let up := { on with porch := { on.porch with inta := true } }
    pends.silent = false ∧ pends.porch.intx ≠ 0 ∧ pends.porch.cfg.intDis = false ∧ pends.porch.inta = false ∧
    up.silent = false ∧ up.porch.intx = 0 ∧ up.porch.inta = true ∧
    pends.porch.owed.getLsbD 2 = true ∧ pends.glb.compat = false ∧ pends.porch.cfg.msixEnable = true ∧
    (pends.porch.entry 2).masked = false ∧ pends.porch.cfg.funcMask = false ∧ pends.porch.cfg.bme = true ∧
    (pends.porch.entry 2).addr.toNat % 4 = 0 ∧
    ({ pends with porch := { pends.porch with msix := [] } }.porch.entry 2).masked = true := by decide +kernel

/-- A read of a packet's payload that is outstanding, and one that is stale. -/
def aRead (t : Nat) (stale : Bool) : DevRead :=
  { tag := t, what := .payload 0 7, addr := 0x1000, len := 64, off := 0, again := false, stale := stale, issued := 0, timer := 0 }

def reading : State := { on with porch := { on.porch with reads := [aRead 0 false, aRead 1 true] } }

theorem test_hyps_DeviceReads : reading.porch.reads.find? (fun r => r.tag == 0) = some (aRead 0 false) ∧
    reading.porch.reads.find? (fun r => r.tag == 1) = some (aRead 1 true) ∧ reading.hearth.actionWaits = none ∧
    reading.ras.recording = none ∧ reading.glb.stopped = false ∧ reading.porch.lost = false ∧ reading.porch.backlog = [] ∧
    (∀ q ∈ reading.porch.reads.filter (fun r => r.tag != 0), q.what = .payload 0 7 → q.stale = true) ∧
    reading.porch.queue = [] ∧ reading.porch.parts = [] ∧ reading.porch.reads.length ≤ 512 ∧
    reading.porch.cfg.bme = true ∧ reading.passed 0 0 = true := by decide +kernel

theorem test_hyps_WindowAccess : on.regsUp = true ∧ Memory.wf on.mem.dram = true ∧
    64 * 2 ^ 20 - 8 + 8 ≤ 2 ^ on.porch.cfg.barLog2 ∧ 64 * 2 ^ 20 - 8 + 8 ≤ on.vBytes ∧
    on.poisoned (64 * 2 ^ 20 - 8) 8 = false := by decide +kernel

/-! ## Rings and packets -/

/-- Rings whose indices have moved: two announced slots on ring 0, two records on ring 2. -/
def moved : State :=
  { on with ring := { on.ring with
      ctx := [(0, { cmdRing with pidx := 2 }), (1, cplRing), (2, { metaRing with pidx := 2 })] } }

theorem test_hyps_Doorbells : moved.regsUp = true ∧ moved.ringCtx 0xFFFFF = none ∧ moved.ctxAway 0 = false ∧
    moved.ringCtx 0 = some { cmdRing with pidx := 2 } ∧ moved.ringCtx 2 = some { metaRing with pidx := 2 } ∧
    cmdRing.state = .active ∧ cmdRing.kind = .command ∧ metaRing.kind ≠ .command ∧
    (64#32 ≠ 2 ∧ (64#32 - 0).toNat ≤ 2 ^ 6) ∧ (2#32 ≠ 0 ∧ (2#32 - 0).toNat ≤ (2#32 - 0).toNat) := by decide +kernel

theorem test_hyps_DoorbellOverrun : moved.ctxAway 2 = false ∧ cmdRing.busy = false ∧ (65#32 ≠ 2 ∧ 2 ^ 6 < (65#32 - 0).toNat) ∧
    (3#32 ≠ 0 ∧ (2#32 - 0).toNat < (3#32 - 0).toNat) := by decide +kernel

/-- RING_CREATE of METADATA ring 3. -/
def createRing : Op := anOp 0x10 (pkt 64 0x10 [(16, 4, 3), (20, 1, 3), (21, 1, 6), (24, 8, 0x40000)]) .unread

/-- RING_DESTROY of ring 2. -/
def destroyRing : Op := anOp 0x11 (pkt 64 0x11 [(16, 4, 2)]) .unread

/-- COMMAND ring 3 being destroyed for packet 7 of ring 0, which goes on. -/
def destroying : State :=
  { on with ring := { on.ring with
      ctx := [(0, { cmdRing with ops := [{ destroyRing with started := true, waits := true }] }), (1, cplRing),
              (3, { cmdRing with state := .destroying, destroyer := some 7 })] } }

theorem test_hyps_RingLifecycle : Offers (offering on createRing) 0 0x10 createRing ∧
    (∀ c ∈ (offering on createRing).ringCreateChecks createRing.bytes, c.1 = true) ∧
    Offers (offering on destroyRing) 0 0x11 destroyRing ∧ rd destroyRing.bytes 16 4 = 2 ∧
    (offering on destroyRing).ringCtx 2 = some metaRing ∧ metaRing.state ≠ .destroying ∧
    (offering on destroyRing).ringBound 2 = false ∧ (∀ p ∈ (offering on destroyRing).opsOf 0, p.id = 7 → p.fin = none) ∧
    destroying.ringCtx 3 = some { cmdRing with state := .destroying, destroyer := some 7 } ∧
    destroying.plan.refsDue = [] ∧
    destroying.findOp 0 destroyRing.id = some { destroyRing with started := true, waits := true } :=
  ⟨offers _ _ _ _ rfl, holdAll (by decide +kernel), offers _ _ _ _ rfl, by decide +kernel⟩

theorem test_hyps_AdminPair :
    let up := { ringed on with ring := { (ringed on).ring with admEnable := true } }
    on.regsUp = true ∧ on.porch.low = none ∧ (0x601#32).getLsbD 0 = true ∧ on.ring.admEnable = false ∧
    on.ringCtx 0 = none ∧ on.ringCtx 1 = none ∧ on.glb.dev = .serving ∧
    up.regsUp = true ∧ up.porch.low = none ∧ (0#32).getLsbD 0 = false ∧ up.ring.admEnable = true ∧
    (∀ p ∈ up.ring.ctx, p.1 ≠ 0 → p.2.kind = .command → p.2.bind ≠ 1) := by decide +kernel

/-- NOP, and QUERY of block 3 to host address 0x1000. -/
def nopOp : Op := anOp 0x01 (pkt 64 0x01 []) .unread
def queryOp : Op := anOp 0x03 (pkt 64 0x03 [(16, 1, 3), (24, 8, 0x1000)]) .unread

/-- A mailbox that serves a packet. -/
def mailed (s : State) (o : Op) : State := { s with hearth := { s.hearth with mbox := some o } }

theorem test_hyps_NopQueryMailbox : Offers (offering on nopOp) 0 0x01 nopOp ∧ Offers (offering on queryOp) 0 0x03 queryOp ∧
    (offering on nopOp).hearth.actionWaits = none ∧ rd queryOp.bytes 16 1 ≤ 3 ∧ rd queryOp.bytes 24 8 % 64 = 0 ∧
    (mailed on nopOp).hearth.mbox = some nopOp ∧ (mailed on queryOp).glb.dev ≠ .starting ∧ on.hearth.mbox = none ∧
    let s := { on with hearth := { on.hearth with mboxRegs := 0x01000001 :: List.replicate 15 0 } }
    s.regsUp = true ∧ s.porch.low = none ∧ (1#32).getLsbD 0 = true ∧ mboxFault (s.hearth.mboxRegs.flatMap le32) = none :=
  ⟨offers _ _ _ _ rfl, offers _ _ _ _ rfl, by decide +kernel⟩

/-- A configuration blob for a window of 256 MiB and a Strongroom of 64 MiB. -/
def blobHead : List Byte := fill 124 0 [(0, 4, 0x47464E43), (4, 2, 1), (8, 4, 128), (12, 4, 256), (16, 4, 64)]
def blob : List Byte := blobHead ++ le32 (crc32c blobHead)

/-- CONFIGURE with its blob arrived, on a device that is HELD, UNCONFIGURED. -/
def configureOp : Op := anOp 0x02 (pkt 64 0x02 [(16, 4, 128), (24, 8, 0x1000)]) (.arrived blob)
def bare : State := { on with glb := { on.glb with dev := .held, reason := .unconfigured, layout := none } }

theorem test_hyps_Configures : (mailed bare configureOp).hearth.mbox = some configureOp ∧ configureOp.started = false ∧
    configureOp.fin = none ∧ configureOp.opcode = 0x02 ∧ rd configureOp.bytes 16 4 = 128 ∧ rd configureOp.bytes 24 8 % 64 = 0 ∧
    (mailed bare configureOp).glb.dev = .held ∧ (mailed bare configureOp).glb.reason = .unconfigured ∧
    (∀ c ∈ (mailed bare configureOp).blobChecks blob, c.1 = true) :=
  ⟨by decide +kernel, by decide +kernel, by decide +kernel, by decide +kernel, by decide +kernel, by decide +kernel,
    by decide +kernel, by decide +kernel, holdAll (by decide +kernel)⟩

/-- Ring 0 in HBM, with an announced slot, that expects sequence number `q`. -/
def inHbm (q : W32) : RingCtx := { cmdRing with hbm := true, pidx := 1, seqNext := q }

/-- A device whose ring 0 is `c`. -/
def withRing (c : RingCtx) : State := { on with ring := { on.ring with ctx := [(0, c), (1, cplRing), (2, metaRing)] } }

theorem test_hyps_PacketFetches :
    ((withRing (inHbm 0)).hbmSlotsBad (inHbm 0) 0 1 = false ∧ rd32 ((withRing (inHbm 0)).hbmSlots (inHbm 0) 0 1) 4 = 0 ∧
      (rd8 ((withRing (inHbm 0)).hbmSlots (inHbm 0) 0 1) 3).toNat ≤ 1) ∧
    rd32 ((withRing (inHbm 5)).hbmSlots (inHbm 5) 0 1) 4 ≠ 5 ∧ (inHbm 5).occupancy ≠ 0 ∧ (inHbm 5).reading = false ∧
    (withRing (inHbm 5)).serving = true ∧
    (withRing { cmdRing with pidx := 1 }).porch.reads.length < 512 ∧ (withRing { cmdRing with pidx := 1 }).porch.cfg.bme = true := by
  decide +kernel

/-- A fetched NOP, and one with a reserved flag set. -/
def fetchedNop (flags : Nat) : Fetched := { idx := 0, bytes := pkt 64 0x01 [] |>.set 2 (BitVec.ofNat 8 flags), bell := 0, fault := 0 }

theorem test_hyps_PacketDispatches :
    let s (k : Nat) := withRing { cmdRing with fetched := [fetchedNop k], cidx := 1, pidx := 1 }
    (s 0).serving = true ∧ (s 0).pickRing = some (0, fetchedNop 0) ∧ cmdRing.bind ≠ 0 ∧ (s 0).ras.recording = none ∧
    packetFault false true (fetchedNop 0).bytes = none ∧ (s 0x80).pickRing = some (0, fetchedNop 0x80) ∧
    packetFault false true (fetchedNop 0x80).bytes = some Code.pktReserved := by decide +kernel

/-- A finished packet: status, and its flags. -/
def done_ (st : W32) (flags : Byte) : Op :=
  { nopOp with flags := flags, started := true, fin := some { status := st, timestamp := 0, energy := 0, slips := 0, held := false } }

theorem test_hyps_CompletionRecords :
    let s := offering on (done_ 0 4)
    s.ringCtx 0 = some { cmdRing with ops := [done_ 0 4] } ∧ s.ringCtx 1 = some cplRing ∧ cplRing.state = .active ∧
    cplRing.base.toNat % 4096 = 0 ∧ s.silent = false ∧ s.porch.cfg.bme = true ∧ s.ras.recording = none ∧ s.plan.refsDue = [] ∧
    s.recordTurn 0 1 = true ∧ (done_ 0 4).flags.getLsbD 2 = true ∧ (done_ 0 0).flags.getLsbD 2 = false := by decide +kernel

/-- METADATA ring 2 with one record waiting, all slots but one in use. -/
def metaFull : RingCtx := { metaRing with waiting := [⟨List.replicate 64 0, true⟩], pidx := 63 }

theorem test_hyps_MetadataRecords : metaFull.kind = .metadata ∧ metaFull.state = .active ∧ metaFull.occupancy < 2 ^ 6 ∧
    metaFull.base.toNat % 4096 = 0 ∧ on.silent = false ∧ on.porch.cfg.bme = true ∧ on.ras.recording = none ∧
    (List.replicate 64 (0 : Byte)).length = 64 := by decide +kernel

/-! ## The Larder -/

/-- Pool 0: four buffers of 256 B from window offset 0x100000, indices 8 to 11. -/
def aPool : Pool :=
  { log2Size := 8, strong := false, first := 8, count := 4, base := 0x100000, head := none, listed := 0, fresh := 9, rebuild := false }

/-- A device with pool 0, whose buffer 8 is allocated, generation 1, with a count. -/
def pooled (p : Pool) (count : W32) : State :=
  { on with larder := { on.larder with pools := [(0, p)], recs := [(8, { count := count, gen := 1, alloc := true })] } }

/-- The handle of buffer 8, and one of an earlier generation of it. -/
def handle : W64 := mkHandle 0 8 1
def oldHandle : W64 := mkHandle 0 8 0xFFFF

/-- POOL_CREATE of pool 1 with four buffers, and of pool 0 with none. -/
def createPool : Op := anOp 0x20 (pkt 64 0x20 [(16, 1, 1), (17, 1, 8), (20, 4, 16), (24, 4, 4), (32, 8, 0x200000)]) .unread
def removePool : Op := anOp 0x20 (pkt 64 0x20 [(16, 1, 0), (17, 1, 8)]) .unread

theorem test_hyps_PoolCreates : Offers (offering (pooled aPool 1) createPool) 0 0x20 createPool ∧
    (let s := offering (pooled aPool 1) createPool
     let p := poolOfPacket createPool.bytes
     p.count ≠ 0 ∧ 8 ≤ p.log2Size ∧ p.log2Size ≤ 26 ∧ rd createPool.bytes 18 1 ≤ 1 ∧ p.base % 2 ^ p.log2Size = 0 ∧
     tget s.larder.pools 1 = none ∧ s.poolFits p = true) ∧
    Offers (offering { pooled aPool 1 with larder := { (pooled aPool 1).larder with recs := [] } } removePool) 0 0x20 removePool ∧
    (poolOfPacket removePool.bytes).count = 0 ∧
    { pooled aPool 1 with larder := { (pooled aPool 1).larder with recs := [] } }.larder.busy aPool = false :=
  ⟨offers _ _ _ _ rfl, by decide +kernel, offers _ _ _ _ rfl, by decide +kernel⟩

/-- BUF_ALLOC of one buffer of 256 B, and of 1,024 of 0 B. -/
def allocOp : Op := anOp 0x21 (pkt 64 0x21 [(16, 1, 0), (18, 2, 1), (20, 4, 256), (24, 8, 0x1000)]) .unread
def allocNone : Op := anOp 0x21 (pkt 64 0x21 [(16, 1, 0), (18, 2, 1024), (24, 8, 0x1000)]) .unread

theorem test_hyps_BufAllocates : Offers (offering (pooled aPool 1) allocOp) 0 0x21 allocOp ∧
    Offers (offering on allocNone) 0 0x21 allocNone ∧ rd allocNone.bytes 18 2 = 1024 ∧ rd allocNone.bytes 20 4 = 0 ∧
    (let s := offering (pooled aPool 1) allocOp
     rd allocOp.bytes 24 8 % 8 = 0 ∧ rd allocOp.bytes 18 2 = 1 ∧ rd allocOp.bytes 20 4 = 2 ^ aPool.log2Size ∧
     tget s.larder.pools 0 = some aPool ∧ 1 ≤ aPool.supply ∧ aPool.fresh < aPool.first + aPool.count ∧
     s.recPoisoned 9 = false ∧ s.poisoned (s.bufAddr aPool 9) 8 = false) ∧
    (let p := { aPool with head := some 8, listed := 1, fresh := 12 }
     1 ≤ p.supply ∧ (pooled p 1).recPoisoned 8 = false ∧ (pooled p 1).poisoned ((pooled p 1).bufAddr p 8) 8 = false) :=
  ⟨offers _ _ _ _ rfl, offers _ _ _ _ rfl, by decide +kernel⟩

/-- BUF_REF by 3, and BUF_FREE, of a handle. -/
def refOp (h : W64) : Op := anOp 0x23 (pkt 128 0x23 [(16, 2, 1), (18, 2, 3), (64, 8, h.toNat)]) .unread
def freeOp (h : W64) : Op := anOp 0x22 (pkt 128 0x22 [(16, 2, 1), (64, 8, h.toNat)]) .unread

theorem test_hyps_BufReferences : Offers (offering (pooled aPool 1) (refOp handle)) 0 0x23 (refOp handle) ∧
    Offers (offering (pooled aPool 2) (freeOp handle)) 0 0x22 (freeOp handle) ∧
    Offers (offering (pooled aPool 1) (freeOp handle)) 0 0x22 (freeOp handle) ∧
    Offers (offering (pooled aPool 1) (freeOp oldHandle)) 0 0x22 (freeOp oldHandle) ∧
    (let s := pooled aPool 1
     handle ≠ 0 ∧ rd64 (refOp handle).bytes 64 = handle ∧ rd64 (freeOp handle).bytes 64 = handle ∧
     rd (refOp handle).bytes 18 2 ≠ 0 ∧ rd (freeOp handle).bytes 16 2 = 1 ∧ s.larder.place handle = some (aPool, 8) ∧
     s.larder.place oldHandle = some (aPool, 8) ∧ s.recPoisoned 8 = false ∧ Memory.wf s.mem.dram = true ∧
     (s.larder.entry 8).gen = handleGen handle ∧ (s.larder.entry 8).gen ≠ handleGen oldHandle ∧ (s.larder.entry 8).alloc = true ∧
     (s.larder.entry 8).count = 1 ∧ 1 < ((pooled aPool 2).larder.entry 8).count.toNat ∧ aPool.rebuild = false ∧
     tget s.larder.pools (handlePool handle) = some aPool) :=
  ⟨offers _ _ _ _ rfl, offers _ _ _ _ rfl, offers _ _ _ _ rfl, offers _ _ _ _ rfl, by decide +kernel⟩

theorem test_hyps_LarderPorts :
    let s := { pooled aPool 1 with larder := { (pooled aPool 1).larder with ports := [(27, ⟨5, 0, 0⟩)] } }
    let q := pooled { aPool with rebuild := true } 1
    s.working = true ∧ (27#5).toNat < 28 ∧ (tget s.larder.ports 27).any (fun p => p.seqno == 5) = true ∧
    (tget s.larder.ports 27).any (fun p => p.seqno == 6) = false ∧ s.larder.place handle = some (aPool, 8) ∧
    (s.larder.entry 8).count.toNat + (1#32).toNat < 2 ^ 32 ∧ tget s.larder.pools 0 = some aPool ∧
    tget q.larder.pools 0 = some { aPool with rebuild := true } := by decide +kernel

/-! ## Graphs and jobs -/

/-- A BULK job on the Rooms 0 and 1. -/
def aJob : Job :=
  { onDemand := false, prio := 4, x := 0, y := 0, w := 2, h := 1, atticAt := 0, attic := 0, atticMem := [], atticSealed := false,
    span := 0, ctrs := [], runs := 0, closing := none, holds := false, pre := [], cut := none, waiters := [], suspended := false,
    save := 2096, saved := [], lives := [], storeLost := false, withdrawn := [], policy := none, newPolicy := none, step := none,
    dict := none, qring := 0 }

/-- The image of a graph of one NOP task, its CRC field a parameter. -/
def imageOf (crc : Nat) : List Byte :=
  fill 512 0 ([(0, 4, 0x49475146), (4, 2, 1), (8, 4, 512), (12, 4, 1), (24, 4, 256), (60, 4, crc),
    (258, 1, 12), (259, 1, 2), (260, 1, 2), (268, 1, 255), (269, 1, 1), (270, 1, 1)] ++
    (List.range 6).map (fun l => (304 + 16 * l, 4, 1)) ++ (List.range 4).map (fun l => (400 + 16 * l, 2, 65535)))
def theImage : List Byte := imageOf (crc32c (imageOf 0)).toNat

/-- The graph of that image, of job 1. -/
def aGraph : Graph := parseGraph 1 theImage

/-- A device with job 1 open. -/
def jobbed (j : Job) : State := { on with plan := { on.plan with jobs := [(1, j)] } }

/-- GRAPH_LOAD of graph 5 with its image from the host, or from the window. -/
def loadOp (p : Payload) (where_ : Nat) : Op :=
  anOp 0x30 (pkt 64 0x30 [(16, 2, 5), (18, 1, 1), (19, 1, where_), (20, 4, 512), (24, 8, 0x1000)]) p

/-- GRAPH_UNLOAD and GRAPH_RUN of graph 5. -/
def unloadOp : Op := anOp 0x31 (pkt 64 0x31 [(16, 2, 5), (18, 1, 1)]) .unread
def runOp : Op := anOp 0x32 (pkt 64 0x32 [(16, 2, 5), (18, 1, 1)]) .unread

/-- A graph of one NOP task, as loaded. -/
def nopTask : Task :=
  { op := 12, fmtAct := 2, fmtWt := 0, fmtOut := 2, flags := 0, predFirst := 0, npred := 0, dim := none, fpW := 1, fpH := 1, sem := 0,
    cycles := [0, 0, 0, 0, 0, 0, 0, 0], loops := List.replicate 6 ⟨1, 0, false, 0, 0, 0, 0⟩, in0 := ⟨65535, 0, 0, 0⟩,
    in1 := ⟨65535, 0, 0, 0⟩, aux := ⟨65535, 0, 0, 0⟩, out := ⟨65535, 0, 0, 0⟩, counter := 0, hN := 0, hS := 0, hE := 0, hW := 0,
    param := List.replicate 32 0 }
def nopGraph : Graph := { job := 1, size := 512, tasks := [nopTask], deps := [], dims := [], slots := [] }

/-- Job 1 with graph 5 loaded. -/
def loaded (j : Job) : State := { jobbed j with plan := { (jobbed j).plan with graphs := [(5, nopGraph)] } }

theorem image_zero (c : Nat) : (imageOf c).take 60 ++ [0, 0, 0, 0] ++ (imageOf c).drop 64 = imageOf 0 := rfl

theorem image_crc : imageCrcOk theImage = true := by
  unfold imageCrcOk theImage rd32
  rw [image_zero, show ∀ c, rd (imageOf c) 60 4 = leNat (leBytes 4 c) from fun _ => rfl, leNat_leBytes]
  generalize crc32c (imageOf 0) = c
  have h := c.isLt
  rw [Nat.mod_eq_of_lt (by omega)]
  simp

theorem checks_crc (s : State) (n : Nat) (j : Job) (k : Nat) (b : List Byte) (hb : imageCrcOk b = true)
    (h : ((s.imageChecks n j k b).eraseIdx 1).all (·.1) = true) : ∀ c ∈ s.imageChecks n j k b, c.1 = true := by
  refine allBut h fun x hx => ?_
  have e : (s.imageChecks n j k b)[1]? = some (imageCrcOk b, Code.graphCrc) := rfl
  rw [e] at hx
  rw [← Option.some.inj hx]
  exact hb

theorem test_image : parseGraph 1 theImage = nopGraph := by decide +kernel

theorem test_hyps_GraphLoads : Offers (offering (jobbed aJob) (loadOp (.arrived theImage) 0)) 0 0x30 (loadOp (.arrived theImage) 0) ∧
    Offers (offering (loaded aJob) unloadOp) 0 0x31 unloadOp ∧ rd (loadOp .unread 1).bytes 19 1 = 1 ∧
    (let s := offering (jobbed aJob) (loadOp (.arrived theImage) 0)
     let b := (loadOp (.arrived theImage) 0).bytes
     s.job 1 = some aJob ∧ aJob.closing = none ∧ rd b 24 8 % 64 = 0 ∧ tget s.plan.graphs 5 = none ∧
     s.plan.stored + rd b 20 4 ≤ 2 ^ 30 ∧ 64 ≤ rd b 20 4 ∧ rd b 20 4 % 64 = 0 ∧ rd b 19 1 = 0) ∧
    (∀ c ∈ (offering (jobbed aJob) (loadOp (.arrived theImage) 0)).imageChecks 1 aJob 512 theImage, c.1 = true) ∧
    (loaded aJob).graph 5 = some nopGraph ∧ nopGraph.job = 1 ∧ (∀ p ∈ (loaded aJob).plan.insts, p.2.graph ≠ 5) ∧
    (jobbed aJob).windowPoisoned 0x1000 512 = false :=
  ⟨offers _ _ _ _ rfl, offers _ _ _ _ rfl, by decide +kernel, by decide +kernel, checks_crc _ _ _ _ _ image_crc (by decide +kernel), by decide +kernel⟩

theorem test_hyps_GraphRuns : Offers (offering (loaded aJob) runOp) 0 0x32 runOp ∧
    (let s := offering (loaded aJob) runOp
     let b := runOp.bytes
     (∀ c ∈ s.runChecks true 1 5 (rd b 19 1) (rd b 20 2) (handlesAt b 64 (rd b 20 2)), c.1 = true) ∧
     (∀ v ∈ (valuesAt b 24).drop (rd b 19 1), v = 0) ∧ s.jobOpenFor 1 7 = true ∧
     (s.takeRefs 27 (handlesAt b 64 (rd b 20 2))).2 = true ∧ s.job 1 = some aJob) :=
  ⟨offers _ _ _ _ rfl, holdAll (by decide +kernel), by decide +kernel⟩

/-- JOB_OPEN of BULK job 1 on 2 × 1 Rooms, with 512 units of the Attic. -/
def openOp : Op :=
  anOp 0x33 (pkt 64 0x33 [(16, 1, 1), (18, 1, 4), (19, 1, 2), (20, 1, 1), (21, 1, 0), (22, 1, 0), (24, 2, 512)]) .unread
def closeOp : Op := anOp 0x34 (pkt 64 0x34 [(16, 1, 1)]) .unread

theorem test_hyps_JobLifecycle : Offers (offering on openOp) 0 0x33 openOp ∧ Offers (offering (loaded aJob) closeOp) 0 0x34 closeOp ∧
    (let s := offering on openOp
     let b := openOp.bytes
     s.job 1 = none ∧ s.jobModeOk b = true ∧
     s.placeJob (decide (rd b 17 1 = 1)) (decide (rd b 18 1 = 4)) (rd b 19 1) (rd b 20 1) (rd b 21 1) (rd b 22 1) =
       some ⟨0, 0, 2, 1⟩ ∧ 1048 * (rd b 19 1 * rd b 20 1) ≤ s.saveFree ∧ s.placeAttic (rd b 24 2) = some 0) ∧
    (loaded aJob).jobInUse 1 = false ∧
    (let s := offering (loaded { aJob with closing := some (0, 7) }) { closeOp with started := true }
     s.working = true ∧ s.plan.insts = [] ∧ s.runsAhead 1 7 = false ∧
     s.findOp 0 7 = some { closeOp with started := true }) := ⟨offers _ _ _ _ rfl, offers _ _ _ _ rfl, by decide +kernel⟩

theorem test_hyps_JobOpenClears : Offers (offering on openOp) 0 0x33 openOp ∧ rd openOp.bytes 16 1 ≤ 63 := ⟨offers _ _ _ _ rfl, by decide +kernel⟩

/-- JOB_PREEMPT of job 1: SUSPEND, RESUME. -/
def preemptOp (what : Nat) : Op := anOp 0x35 (pkt 64 0x35 [(16, 1, 1), (17, 1, what)]) .unread

/-- A job suspended by a JOB_PREEMPT, whose RESUME waits. -/
def suspendedJob : Job := { aJob with suspended := true, waiters := [(0, 7)] }

theorem test_hyps_JobPreempts : Offers (offering (jobbed aJob) (preemptOp 0)) 0 0x35 (preemptOp 0) ∧
    Offers (offering (jobbed suspendedJob) (preemptOp 1)) 0 0x35 (preemptOp 1) ∧ rd (preemptOp 0).bytes 17 1 = 0 ∧
    rd (preemptOp 1).bytes 17 1 = 1 ∧ aJob.prio = 4 ∧ (∃ p ∈ [(⟨64, .requested, 0, []⟩ : Preempt)], p.by_ = 64) ∧
    (let s := jobbed suspendedJob
     s.working = true ∧ suspendedJob.waiters ≠ [] ∧ (∀ q ∈ s.plan.jobs, q.2.holds = true → q.2.rect.meets suspendedJob.rect = false) ∧
     ∀ q ∈ suspendedJob.roomList.filter (fun q => !s.glb.grid.lost.contains q), (s.room q).state = .idle) :=
  ⟨offers _ _ _ _ rfl, offers _ _ _ _ rfl, by decide +kernel⟩

/-! ## Sharing the Rooms -/

/-- An instance of a job, in a state. -/
def anInst (job : Nat) (st : InstState) : Inst :=
  { who := .packet 0 7, job := job, graph := 5, cls := 0, v := List.replicate 8 0, handles := [], state := st, run := 0, b := [],
    once := false, b0 := 0, guard := 2, k := 0, tasks := [], order := 15, slips := 0, fault := none, recovered := none,
    lostStore := false, heldRec := false, declass := 0, energy := 0 }

/-- ON_DEMAND job 2 over the Rooms of BULK job 1, with instances. -/
def odJob : Job := { aJob with onDemand := true, prio := 0 }
def sharing (j : Job) (od : Job) (insts : Tab Inst) : State :=
  { on with plan := { on.plan with jobs := [(1, j), (2, od)], graphs := [(5, nopGraph)], insts := insts } }

/-- Job 1 with a pre-emption by `by_` in a phase. -/
def victim (by_ : Nat) (ph : PrePhase) : Job := { aJob with pre := [⟨by_, ph, 0, [0, 1]⟩] }

theorem test_hyps_PreemptionIsAsked :
    let s := sharing (victim 2 .out) odJob [(0, anInst 2 .waiting)]
    let u := sharing aJob odJob [(0, anInst 2 .waiting)]
    let v := sharing (victim 2 .requested) odJob []
    let w := { (sharing (victim 2 .requested) odJob [(3, anInst 1 .running)]) with plan :=
      { (sharing (victim 2 .requested) odJob [(3, anInst 1 .running)]).plan with sems := [(0, ⟨3, 0, 0⟩)] } }
    (s.inst 0 = some (anInst 2 .waiting) ∧ s.job 2 = some odJob ∧ s.working = true ∧ 0 ≤ s.beat ∧
      (∀ v ∈ s.victims odJob, v.2.pre.any (fun p => p.by_ = 2 && p.phase == .out) = true) ∧
      ∀ q ∈ odJob.roomList, (s.room q).state ≠ .saving) ∧
    ((u.victims odJob).any (fun v => v.2.pre.all (fun p => p.by_ != 2)) = true) ∧
    (v.job 1 = some (victim 2 .requested) ∧ v.holdsSem 1 = false) ∧ w.holdsSem 1 = true := by decide +kernel

theorem test_hyps_SwitchesChangeHands :
    (let s := sharing (victim 2 .frozen) odJob []
     s.working = true ∧ (victim 2 .frozen).pre.find? (fun p => p.phase == .frozen && p.by_ != 65) = some ⟨2, .frozen, 0, [0, 1]⟩ ∧
     s.cutReached 1 (victim 2 .frozen) = true ∧ ∀ q ∈ s.overlapRooms (victim 2 .frozen) 2, (s.room q).state = .idle) ∧
    (let s := sharing (victim 2 (.saving 0)) odJob []
     s.job 1 = some (victim 2 (.saving 0)) ∧ 0 ≤ s.beat ∧ s.job 2 = some odJob) ∧ (jobbed (victim 2 (.saving 0))).job 2 = none ∧
    (sharing (victim 2 (.restoring 0)) odJob []).job 1 = some (victim 2 (.restoring 0)) := by decide +kernel

theorem test_hyps_RoomsReturn :
    let s := sharing (victim 2 .out) { odJob with holds := true } []
    s.job 2 = some { odJob with holds := true } ∧ s.working = true ∧ s.plan.insts = [] ∧
    (∀ v ∈ s.plan.jobs, ∀ q ∈ v.2.pre, q.phase = .out) ∧ odJob.pre = [] := by decide +kernel

theorem test_hyps_SuspensionEnds :
    let j (ph : PrePhase) : Job := { victim 64 ph with waiters := [(0, 7)] }
    let s := offering (jobbed (j (.saving 0))) { preemptOp 0 with started := true }
    s.job 1 = some (j (.saving 0)) ∧ (j (.restoring 0)).pre = [⟨64, .restoring 0, 0, [0, 1]⟩] ∧ 0 ≤ s.beat ∧
    s.findOp 0 7 = some { preemptOp 0 with started := true } := by decide +kernel

/-- A CONTROL frame of device 3 with a content. -/
def ctrlFrame (c : Ctrl) : Frame :=
  { ftype := 4, vc := 3, dst := 0, src := 3, ttl := 8, fflags := 0, plen := 0, lseq := 0, ack := 0, crVc := 0, crN := 0, payload := [],
    ctrl := c }

/-- Job 1 is a member of span 9's job, and frames of the span have come. -/
def spanned (j : Job) (fs : List Frame) : State := { jobbed { j with span := 9 } with fab := { on.fab with inbox := fs } }

theorem test_hyps_SpanFreezes :
    let s := spanned aJob [ctrlFrame (.freeze 9)]
    let g := (s.fab.takeFrame (fun c => c == .freeze 9)).map (·.1)
    s.jobOfSpan 9 = some (1, { aJob with span := 9 }) ∧ s.working = true ∧ g = some (ctrlFrame (.freeze 9)) ∧ s.holdsSem 1 = false ∧
    ((spanned (victim 65 .frozen) [ctrlFrame (.cut 9 [])]).fab.takeFrame (fun c => c == .cut 9 [])).isSome = true ∧
    ((spanned (victim 65 .frozen) [ctrlFrame (.thaw 9)]).fab.takeFrame (fun c => c == .thaw 9)).isSome = true ∧
    (∀ p ∈ (victim 65 .frozen).pre, p.by_ = 65) := by decide +kernel

/-! ## Instances and tasks -/

/-- A task that has run for a while, in a state. -/
def aRun (st : TaskState) : TaskRun :=
  { c := 40, d := 1, l := 1, s := 3, e := 5, x := 0, y := 0, state := st, attempt := 1, once := [], poisoned := false, late := false,
    bad := [], fetched := [], faults := [], fbeat := 0, recovery := 0, sent := [], stage := [], counts := [] }

/-- Job 1 with graph 5 and an instance 0 of it, at a beat. -/
def running (t : Task) (i : Inst) (beat : Nat) : State :=
  { on with plan := { on.plan with
      jobs := [(1, aJob)], graphs := [(5, { nopGraph with tasks := [t] })], insts := [(0, i)], beat := BitVec.ofNat 64 beat } }

theorem test_hyps_Admission :
    (let s := running nopTask (anInst 1 .queued) 3
     s.working = true ∧ s.nextQueued = some (0, anInst 1 .queued) ∧ s.graph 5 = some nopGraph) ∧
    (let i := { anInst 1 .queued with v := [9] }
     let g := { nopGraph with dims := [[8]] }
     let s := { running nopTask i 3 with plan := { (running nopTask i 3).plan with graphs := [(5, g)], admits := [⟨0, 1, 3, 2, [], 0⟩] } }
     s.nextQueued = none ∧ s.inst 0 = some i ∧ s.graph 5 = some g ∧ g.refused i.v = some 0 ∧ s.jobLost aJob = false ∧
     g.tasks.length ≤ 1024 * 1 ∧ nopGraph.refused [] = none ∧ 1024 * 0 < nopGraph.tasks.length) ∧
    ({ running nopTask (anInst 1 .queued) 3 with glb := { on.glb with grid := { on.glb.grid with lost := [1] } } }.jobLost aJob = true) ∧
    (let i := { anInst 1 .waiting with k := 1 }
     let s := running nopTask i 3
     firstInst (s.inOrder .waiting) = some (0, i) ∧ i.k ≤ s.plan.freeEntries ∧ s.stays i = false ∧
     ((s.job 1).any (fun j => !j.onDemand || j.holds)) = true) ∧
    ((running nopTask { anInst 1 .waiting with k := 100000 } 3).plan.freeEntries < 100000) := by decide +kernel

/-- A COPY of 64 B from a Room store to a Room store, and one from a device buffer. -/
def copyTask : Task :=
  { nopTask with op := 10, in0 := ⟨65535, 3, 0, 0⟩, out := ⟨65535, 3, 0, 64⟩,
                 param := List.replicate 16 0 ++ [64, 0, 0, 0] ++ List.replicate 12 0 }
def farTask : Task := { copyTask with in0 := ⟨65535, 2, 64, 0⟩ }

/-- Instance 0 of job 1 with one task, running. -/
def inst (r : TaskRun) : Inst := { anInst 1 .running with tasks := [r] }

/-- Task 0 of it with all it belongs to. -/
def ctx (t : Task) (r : TaskRun) : TaskCtx :=
  { n := 0, k := 0, i := inst r, j := aJob, g := { nopGraph with tasks := [t] }, t := t, r := r }

theorem test_ctx : (running copyTask (inst (aRun .planned)) 3).taskCtx 0 0 = some (ctx copyTask (aRun .planned)) ∧
    (running farTask (inst (aRun .prefetch)) 3).taskCtx 0 0 = some (ctx farTask (aRun .prefetch)) ∧
    (running copyTask (inst (aRun .running)) 3).taskCtx 0 0 = some (ctx copyTask (aRun .running)) ∧
    (running copyTask (inst (aRun .writeback)) 5).taskCtx 0 0 = some (ctx copyTask (aRun .writeback)) := ⟨rfl, rfl, rfl, rfl⟩

theorem test_hyps_TasksStart :
    (let c := ctx farTask (aRun .planned)
     let s := running farTask (inst (aRun .planned)) 3
     s.working = true ∧ c.i.state = .running ∧ c.r.c ≠ 0 ∧ c.t.far = true ∧ c.i.opens c.r ≤ s.beat ∧ c.j.frozen = false ∧
     c.j.onDemand = false) ∧
    (let c := ctx copyTask (aRun .planned)
     let s := running copyTask (inst (aRun .planned)) 3
     c.t.far = false ∧ c.r.s = s.beat ∧ c.mayStart = true ∧ c.predsOver = true ∧
     (∀ q ∈ s.positions c, (s.room q.2).state = .idle) ∧ s.semCheck c = .go ∧ c.t.halo = false ∧ c.t.op ≠ opCollective ∧
     c.t.tiled = false ∧ s.positions c = [(0, 0)]) ∧
    (let t := { copyTask with flags := 8, sem := 4 }
     let c := ctx t (aRun .planned)
     let s := running t (inst (aRun .planned)) 3
     c.t.semAcq = true ∧ s.semCheck c = .go ∧
     { s with plan := { s.plan with sems := [(4, ⟨1, 0, 0⟩)] } }.semCheck c = .wait) := by decide +kernel

theorem test_hyps_TasksEnd :
    (let c := ctx copyTask (aRun .running)
     let s := running copyTask (inst (aRun .running)) 5
     s.working = true ∧ c.r.state = .running ∧ s.bodyBeat c ≤ s.beat ∧ s.claimed c = true ∧ s.chargesFirst c = false ∧
     c.r.faults = [] ∧ s.commitFaults c = [] ∧ s.badRelease c = false) ∧
    (let c := ctx copyTask (aRun .writeback)
     let s := running copyTask (inst (aRun .writeback)) 5
     c.i.state = .running ∧ c.r.e ≤ s.beat ∧ s.nearArrived c = some []) ∧
    ((ctx nopTask { aRun .planned with c := 0 }).r.c = 0 ∧ (ctx nopTask { aRun .planned with c := 0 }).predsOver = true) := by
  decide +kernel

/-- The first and the second fault of position 0 in attempt 1. -/
def aFault (code : W32) (ladder : Bool) : TaskFault :=
  { pos := 0, rec_ := ⟨code, 0, 5, 2, 0, 0, 16, noIdx, 0⟩, ladder := ladder }

theorem test_hyps_TasksFault :
    (let c := ctx copyTask (aRun .running)
     let s := running copyTask (inst (aRun .running)) 3
     s.working = true ∧ c.r.state = .running ∧ 0 < c.rooms ∧ s.roomOf c 0 = some 0 ∧ c.r.faults = []) ∧
    ({ aRun .running with bad := [(0, 1, 64)] }.bad.find? (fun b => b.1 = 0) = some (0, 1, 64)) ∧
    (let t := { copyTask with in0 := ⟨65535, 3, 0, 0xFFFFF⟩ }
     let c := ctx t (aRun .running)
     let s := running t (inst (aRun .running)) 3
     ((s.bodyRun c).head?.bind (·.fault)).any (fun f => !f.ladder) = true) := by decide +kernel

theorem test_hyps_TasksFault_late :
    let sp : Span := { m := 2, a := 2, b := 1, w := 2, h := 1, members := [0, 3], crc := 0, direct := [(3, 1)] }
    let t : Task := { copyTask with op := opCollective, param := List.replicate 16 0 ++ leBytes 8 9 ++ leBytes 8 64 }
    let h : Task := { copyTask with
      op := opPool, flags := 128, fpW := 2, hN := 1, hS := 1, hE := 1, hW := 1
      param := List.replicate 16 0 ++ [1, 0, 8, 0, 8, 0, 1, 0] ++ List.replicate 8 0 }
    let j := { aJob with span := 9 }
    let c := { ctx t (aRun .running) with j := j }
    let d := { ctx h (aRun .running) with j := { j with w := 1 } }
    let s := { running t (inst (aRun .running)) 3 with fab := { on.fab with spans := [(9, sp)] } }
    3 ∈ s.members c.j c.t ∧ (3 : Byte) ≠ s.fab.addr ∧ s.contribution c [] 0 3 = none ∧
    d.t.op ≠ opCollective ∧ d.t.halo = true ∧ d.beside 0 (sideOf 3) = some 1 ∧ s.roomOf d 1 = none ∧
    s.haloFrames d 0 3 (d.t.sectionBytes 3) = none := by decide +kernel

/-- A task discarded with a fault of position 0 in beat 3. -/
def discarded (f : TaskFault) : TaskRun := { aRun .discarded with faults := [f], fbeat := 3 }

theorem test_hyps_Recoveries :
    (let c := ctx copyTask (discarded (aFault Code.storeOver false))
     let s := running copyTask (inst (discarded (aFault Code.storeOver false))) 5
     s.working = true ∧ c.r.fbeat < s.beat ∧ s.ladderFault c = some (aFault Code.storeOver false)) ∧
    (let c := ctx copyTask (discarded (aFault Code.roomParity true))
     let s := running copyTask (inst (discarded (aFault Code.roomParity true))) 5
     s.ladderFault c = some (aFault Code.roomParity true) ∧ s.roomOf c 0 = some 0 ∧ s.ladderBehind c 0 = false ∧
     c.i.state = .running ∧ c.r.attempt ≤ 1 ∧ 0 ∉ c.r.once) ∧
    (let s := { running copyTask (inst (aRun .running)) 3 with
       plan := { (running copyTask (inst (aRun .running)) 3).plan with sems := [(4, ⟨0, 0, 0⟩)] }
       pwr := { on.pwr with aclk := 7501 } }
     tget s.plan.sems 4 = some ⟨0, 0, 0⟩ ∧ s.plan.semLimit.toNat * 150 < (s.now - 0).toNat) ∧
    (let s := { on with ras := { on.ras with cntAttic := [(3, 16)] } }
     s.working = true ∧ s.ras.rateLimit ≠ 0 ∧ s.ras.rateLimit.toNat ≤ tgetD s.ras.cntAttic 3 0) := by decide +kernel

theorem test_hyps_Recoveries_attic :
    let j := { aJob with attic := 1 }
    let s := { running farTask (inst (aRun .prefetch)) 3 with
      plan := { (running farTask (inst (aRun .prefetch)) 3).plan with jobs := [(1, j)] } }
    (s.atticReader 0 0).isSome = true ∧ s.atticReader 1 0 = none := by decide +kernel

/-- A TILED task of one Room, and the claims of its instance. -/
def tiledTask : Task := { copyTask with flags := 4, loops := ⟨4, roleTile, false, 0, 0, 0, 0⟩ :: List.replicate 5 ⟨1, 0, false, 0, 0, 0, 0⟩ }
def someClaims (served : Tab (W32 × W32)) (arrived : Tab W32) : Claims :=
  { inst := 0, task := 0, served := served, arrived := arrived, answered := [], twice := [], rounds := 0, bits := [] }
def claiming (c : Claims) : State :=
  { running tiledTask (inst (aRun .running)) 3 with plan := { (running tiledTask (inst (aRun .running)) 3).plan with claims := [c] } }

theorem test_hyps_TileClaims :
    let c := ctx tiledTask (aRun .running)
    (claiming (someClaims [] [])).claimsOf 0 0 = some (someClaims [] []) ∧ c.claims 0 = true ∧ (claiming (someClaims [] [])).working = true ∧
    (0#32 = (tgetD ([] : Tab (W32 × W32)) 0 (0xFFFFFFFF, 0)).1 + 1) ∧
    (0xFFFFFFFF#32 = (tgetD ([] : Tab (W32 × W32)) 0 (0xFFFFFFFF, 0)).1) ∧
    (let s := someClaims [(0, (2, 5))] []
     tget s.served 0 = some (2, 5) ∧ (3#32 = (tgetD s.served 0 (0xFFFFFFFF, 0)).1 + 1) ∧ (7#32 ≠ (tgetD s.served 0 (0xFFFFFFFF, 0)).1)) ∧
    (let s := someClaims [] [(0, 0)]
     s.arrived ≠ [] ∧ c.rooms = 1 ∧ tget s.arrived 0 = some 0) := by decide +kernel

/-! ## Sequences -/

/-- A step policy with 16 tokens a page, and a sequence of job 1. -/
def aPolicy : Policy :=
  { graph := 5, ndims := 0, nslots := 0, bdim := 0, v := List.replicate 8 0, pool := 0, wlSlot := 0, resSlot := 0, tpp := 16,
    maxBatch := 4, pauseUs := 0, handles := [] }

def joinOp : Op :=
  anOp 0x40 (pkt 128 0x40 [(16, 2, 5), (18, 1, 1), (19, 1, 4), (20, 4, 2), (24, 8, 0), (40, 4, 640), (48, 1, 16)]) .unread
def leaveOp : Op := anOp 0x41 (pkt 64 0x41 [(16, 2, 5), (18, 1, 1)]) .unread

/-- Job 1 with a policy; sequence 5 of it. -/
def decoding (e : SeqState) : State :=
  { jobbed { aJob with policy := some aPolicy } with
    seqs := { on.seqs with ents := [(5, { joinEntry joinOp.bytes 0 with state := e })] } }

theorem test_hyps_SequencesJoinAndLeave : Offers (offering (jobbed { aJob with policy := some aPolicy }) joinOp) 0 0x40 joinOp ∧
    Offers (offering (decoding .active) leaveOp) 0 0x41 leaveOp ∧
    (let s := offering (jobbed { aJob with policy := some aPolicy }) joinOp
     let b := joinOp.bytes
     s.seq 5 = none ∧ ({ aJob with policy := some aPolicy } : Job).nextPolicy = some aPolicy ∧ rd b 19 1 ≤ 4 ∧ rd b 48 1 ≤ 16 ∧
     rd b 48 1 + 1 ≤ rd b 40 4 ∧ rd b 40 4 = 40 * 16 ∧ s.activeRing 2 .metadata = true ∧ (s.takeRef 0 (rd64 b 24)).2 = Code.ok) ∧
    (((decoding .active).seq 5).map (·.job) = some 1 ∧ ((decoding .active).seq 5).map (·.pend) = some []) :=
  ⟨offers _ _ _ _ rfl, offers _ _ _ _ rfl, by decide +kernel⟩

/-- Job 1 with a policy whose buffers are buffers 8 and 9 of pool 0, of 64 KiB; sequence 5 of it. -/
def stepPolicy : Policy := { aPolicy with graph := 5, ndims := 1, nslots := 2, resSlot := 1, handles := [mkHandle 0 8 1, mkHandle 0 9 1] }
def stepping (e : SeqState) (leave : Bool) : State :=
  { decoding e with
    plan := { on.plan with
      jobs := [(1, { aJob with policy := some stepPolicy })]
      graphs := [(5, { nopGraph with dims := [[4]], slots := [(0, 3), (0, 3)] })] }
    larder := { on.larder with
      pools := [(0, { aPool with log2Size := 16, fresh := 10 })]
      recs := [(8, ⟨1, 1, true⟩), (9, ⟨1, 1, true⟩)] }
    seqs := { on.seqs with ents := [(5, { joinEntry joinOp.bytes 0 with state := e, leave := leave, len := 1, pages := [0] })] } }

theorem test_hyps_StepsRun : (stepping .active false).serving = true ∧
    ((stepping .active false).nextStepJob.map (·.1) = some 1) ∧
    (let s := stepping .active false
     let c := s.stepPhases 1 stepPolicy
     let v := c.st.hbmWrite (c.st.policyBuf stepPolicy stepPolicy.wlSlot) (c.rows.flatMap c.st.workRow)
     c.rows = [⟨5, false⟩] ∧
     ((v.runChecks (v.jobOpen 1) 1 5 1 2 stepPolicy.handles).all (·.1)) = true ∧ (v.takeRefs 27 stepPolicy.handles).2 = true) ∧
    ((stepping .leaving true).stepPhases 1 stepPolicy).rows = [] ∧
    ((stepping .leaving true).nextStepJob.map (·.1) = some 1) := by decide +kernel

theorem test_hyps_StepsRun_collect :
    let j (st : W32) : Job := { aJob with policy := some stepPolicy, step := some { rows := [⟨5, false⟩], resAddr := 0, done := some (st, false) } }
    (jobbed (j 0)).job 1 = some (j 0) ∧ (jobbed (j 0)).working = true ∧ (j 0).step.bind (·.done) = some (0, false) ∧
    (j Code.memUe).step.bind (·.done) = some (Code.memUe, false) ∧ Code.memUe ≠ 0 := by decide +kernel

/-- STEP_POLICY of job 1, ENABLE set or clear. -/
def policyOp (enable : Nat) : Op :=
  anOp 0x42 (pkt 192 0x42 [(16, 2, 5), (18, 1, 1), (19, 1, 1), (20, 2, 2), (23, 1, enable), (58, 1, 1), (60, 2, 16), (62, 2, 4), (64, 4, 1000),
    (128, 8, (mkHandle 0 8 1).toNat), (136, 8, (mkHandle 0 9 1).toNat)]) .unread

theorem test_hyps_StepPolicies : Offers (offering (stepping .active false) (policyOp 1)) 0 0x42 (policyOp 1) ∧
    policyParamOk (policyOp 1).bytes = true ∧ policyParamOk (policyOp 0).bytes = true ∧ rd (policyOp 0).bytes 23 1 = 0 ∧
    (stepping .active false).policyGraphOk 1 (policyOf (policyOp 1).bytes) = true ∧
    { stepping .active false with seqs := on.seqs }.seqs.ents = [] := ⟨offers _ _ _ _ rfl, by decide +kernel⟩

/-! ## Streams, decode pipes, views -/

/-- Two Strongroom pools. -/
def strongPool (first : Nat) : Pool := { aPool with strong := true, first := first, fresh := first + 1, base := 256 * first }
def withPools (s : State) : State :=
  { s with larder := { s.larder with pools := [(0, strongPool 8), (1, strongPool 16)], recs := [(8, ⟨1, 1, true⟩), (16, ⟨1, 1, true⟩)] } }

/-- Graph 5 with one slot, which takes the pyramid. -/
def frameGraph : Graph := { nopGraph with slots := [(0, 3)] }

/-- STREAM_OPEN of H.264 stream 4 of job 1, without a mesh. -/
def openStream : Op :=
  anOp 0x50 (pkt 192 0x50 [(16, 2, 4), (18, 1, 1), (19, 1, 0), (20, 4, 2), (26, 2, 64), (28, 2, 4096), (30, 1, 0), (31, 1, 1), (32, 2, 5),
    (34, 2, 1), (40, 4, 65536)]) .unread

/-- Job 1 with that graph and the pools. -/
def viewing : State :=
  withPools { jobbed aJob with plan := { (jobbed aJob).plan with graphs := [(5, frameGraph)] } }

/-- Coded parameters of 64 × 64 pictures. -/
def params : SeqParams :=
  { wc := 64, hc := 64, wo := 64, ho := 64, tenBit := false, fps := none, frameNums := 16, x0 := 0, y0 := 0, bufs := [], separate := false,
    outW := 64, outH := 64 }

/-- Stream 4 in a state, with pictures. -/
def aStream (st : StreamState) (pics : List Pic) : Stream :=
  { newStream openStream.bytes none with state := st, sps := some params, pics := pics }
def streamed (t : Stream) : State := { viewing with video := { on.video with streams := [(4, t)], dec := 3, enc := 31 } }

/-- STREAM_DATA of no bytes; of an H.264 slice of an IDR picture; of a picture parameter set. -/
def dataOp (d : List Byte) : Op :=
  anOp 0x51 (pkt 64 0x51 [(16, 2, 4), (18, 1, 0), (20, 4, d.length), (24, 8, 0x1000)]) (if d = [] then .unread else .arrived d)
def slicePacket : List Byte := [0, 0, 1, 0x65, 0x88]
def closeStream : Op := anOp 0x52 (pkt 64 0x52 [(16, 2, 4)]) .unread

theorem test_nalUnits : nalUnits slicePacket = [(3, [0x65, 0x88])] ∧ nalUnits [0, 0, 0, 1, 0x68, 0, 0, 0, 1, 0x65, 0] = [(4, [0x68]), (9, [0x65])] := by
  decide +kernel

theorem test_hyps_VideoStreams : Offers (offering viewing openStream) 0 0x50 openStream ∧
    Offers (offering (streamed (aStream .running [])) (dataOp [])) 0 0x51 (dataOp []) ∧
    Offers (offering (streamed (aStream .running [])) closeStream) 0 0x52 closeStream ∧
    (let s := offering viewing openStream
     s.stream 4 = none ∧ (∀ v ∈ (valuesAt openStream.bytes 64).drop 0, v = 0) ∧ s.streamParamOk openStream.bytes = true ∧
     s.streamGraphOk openStream.bytes = true ∧ rd64 openStream.bytes 48 = 0) ∧
    (let s := offering (streamed (aStream .running [])) (dataOp [])
     s.firstOfStream 4 7 = true ∧ s.stream 4 = some (aStream .running []) ∧ rd (dataOp []).bytes 20 4 = 0 ∧
     rd (dataOp slicePacket).bytes 20 4 = 5 ∧ (dataOp slicePacket).payload = .arrived slicePacket ∧
     (∀ v ∈ s.video.views, v.2.stream ≠ 4)) ∧
    (let t := { aStream .closing [] with closer := some (0, 7) }
     let s := offering (streamed t) { closeStream with started := true }
     s.working = true ∧ s.stream 4 = some t ∧ s.streamOwes 4 t = false ∧ tget s.track.pend 4 = none ∧
     s.findOp 0 7 = some { closeStream with started := true }) :=
  ⟨offers _ _ _ _ rfl, offers _ _ _ _ rfl, offers _ _ _ _ rfl, by decide +kernel⟩

/-- The slice of a packet is a picture whatever its header says; a parameter set with a tool outside the profile fails. -/
theorem test_hyps_VideoStreams_units (s : State) (n : Nat) : ∃ a i, s.takeUnits n false ⟨0, none, none, none, [], false⟩ (nalUnits slicePacket) =
      (s, a, none) ∧ a.pic = some i ∧ i.rasl = false ∧ a.units = [(3, [0x65, 0x88])] := by
  let x := Config.readSlice false 0 [0x65, 0x88]
  refine ⟨⟨Config.parserNext false 0 [0x65, 0x88], some x.first, none, some ⟨true, false, false, false, x.place⟩, [(3, [0x65, 0x88])], false⟩,
    ⟨true, false, false, false, x.place⟩, ?_, ?_⟩
  · rw [show nalUnits slicePacket = [(3, [0x65, 0x88])] by decide +kernel]
    rw [State.takeUnits]
    rw [show unitKind false [0x65, 0x88] = .slice true false false false by decide +kernel]
    simp only [AuRun.slice, Option.isSome_none, Bool.and_false, Bool.or_self, Bool.false_eq_true, if_false, Option.any_none,
      Option.none_or, List.nil_append]
    rfl
  · exact ⟨rfl, rfl, rfl⟩

theorem test_hyps_VideoStreams_tool (s : State) (n : Nat) (h : Config.readPps 0 [0x68] = (true, false)) :
    ∃ a, s.takeUnits n false ⟨0, none, none, none, [], false⟩ [(3, [0x68])] = (s, a, some (Code.vidTool, 3)) ∧ Code.vidTool ≠ Code.vidNoBuffer := by
  refine ⟨⟨0, none, none, none, [], false⟩, ?_, by decide⟩
  rw [State.takeUnits, show unitKind false [0x68] = .pps by decide +kernel]
  simp only [h]
  rfl

/-- A picture in a phase. -/
def aPic (ph : PicPhase) (faults : Nat) : Pic :=
  { units := [], pos := 0, order := 3, pts := 0, ctx := 0, num := 0, bump := [], par := params, newSeq := true, shown := true, phase := ph,
    budget := 100, motion := false, faults := faults, late := false }

/-- Stream 4 of class 3 with a picture in a phase, and stream 5 of class 1 with a ready one. -/
def twoStreams (ph : PicPhase) (faults : Nat) (dec : BitVec 18) (two : Bool) : State :=
  let a : Stream := { aStream .running [aPic ph faults] with prio := 3 }
  let b : Stream := { aStream .running [aPic .ready 0] with prio := 1 }
  { viewing with video := { on.video with streams := (4, a) :: (if two then [(5, b)] else []), dec := dec, enc := 31 } }

theorem test_hyps_DecodePipes :
    (let s := twoStreams .ready 0 1 false
     s.working = true ∧ s.readyPic.map (·.1) = some 4 ∧ s.pipeFor 3 = some 0) ∧
    (let s := twoStreams (.pipe 0) 0 1 true
     (s.running 0).map (·.1) = some 4 ∧ s.readyPic.map (·.1) = some 5 ∧ findNat s.pipeIdle 18 0 = none) ∧
    (let s := twoStreams (.saving 17) 0 1 true
     (s.onPipe (fun f => f = .saving 17)).head?.map (·.1) = some 4 ∧
     (s.modPic 4 (fun x => { x with phase := .suspended 17 })).readyPic.map (·.2.1.prio) = some 1) ∧
    (let s := twoStreams (.suspended 0) 0 1 false
     (highestClass (s.suspendedOn 0)).map (·.1) = some 4 ∧ s.pipeFree 0 = true ∧ s.readyPic = none) := by decide +kernel

theorem test_hyps_PipeFaultsAndFrames :
    (((twoStreams (.pipe 0) 0 1 false).running 0).map (·.2.2.faults) = some 0) ∧
    (((twoStreams (.pipe 0) 1 1 false).running 0).map (·.2.2.faults) = some 1) ∧
    (((twoStreams (.pipe 0) 2 1 false).running 0).map (·.2.2.faults) = some 2) ∧
    findNat (0b11 <<< 16 : BitVec 18).getLsbD 18 0 = some 16 ∧
    findNat (twoStreams (.pipe 0) 1 1 false).video.decSpare.getLsbD 18 0 = none := by decide +kernel

/-- A frame of stream 4. -/
def aFrame (k : W32) (ph : FramePhase) : FrameSt := { k := k, pyr := mkHandle 1 16 1, pts := 0, par := params, phase := ph, notes := [], late := false }
def framed (ph : FramePhase) : State := streamed { aStream .running [] with frames := [aFrame 0 ph] }

theorem test_hyps_PipeFaultsAndFrames_frames :
    (let s := framed .waiting
     s.working = true ∧ (s.stream 4).bind (s.nextFrame 4) = some (aFrame 0 .waiting) ∧
     ((s.runChecks (s.jobOpen 1) 1 5 0 1 [mkHandle 1 16 1]).all (·.1)) = true ∧ (s.takeRefs 27 [mkHandle 1 16 1]).2 = true) ∧
    (let s := { framed .waiting with plan := on.plan }
     ((s.runChecks (s.jobOpen 1) 1 5 0 1 [mkHandle 1 16 1]).find? (fun c => !c.1)) = some (false, Code.jobNotOpen)) := by decide +kernel

/-- VIEW_OPEN of view 31 of stream 4 at 128 × 128, and VIEW_CLOSE of it. -/
def openView : Op :=
  anOp 0x53 (pkt 64 0x53 [(16, 1, 31), (18, 2, 4), (20, 2, 128), (22, 2, 128), (24, 4, 100), (28, 1, 2), (29, 1, 1), (30, 1, 0), (31, 1, 51),
    (36, 1, 20), (40, 8, 0x100000), (48, 8, 0x200000)]) .unread
def closeView : Op := anOp 0x54 (pkt 64 0x54 [(16, 1, 31)]) .unread

/-- Views allowed and locked; stream 4 RUNNING. -/
def egress (views : Tab View) : State :=
  { streamed (aStream .running []) with video := { (streamed (aStream .running [])).video with
      lock := true, allow := true, maxViews := 1, views := views } }

/-- View 31 with a frame to encode. -/
def aView (closing : Bool) : View :=
  { newView openView.bytes 0 491520000 with
    closing := closing, closer := if closing then some (0, 7) else none
    todo := if closing then [] else [{ k := 0, pyr := mkHandle 1 16 1, pts := 0, par := params }] }

theorem test_hyps_Views : Offers (offering (egress []) openView) 0 0x53 openView ∧
    Offers (offering (egress [(31, aView false)]) closeView) 0 0x54 closeView ∧
    (let s := offering (egress []) openView
     viewFieldsOk openView.bytes = true ∧ (s.stream 4).map (·.state) = some .running ∧ s.egressOpen = true ∧ s.view 31 = none ∧
     s.video.views.length < s.video.maxViews.toNat ∧ 128 * 128 * viewRate none 0 = 491520000 ∧
     s.video.placeView 491520000 = some 0) ∧
    (let s := offering (egress [(31, aView true)]) { closeView with started := true }
     s.view 31 = some (aView true) ∧ s.findOp 0 7 = some { closeView with started := true }) ∧
    (let s := egress [(31, aView false)]
     s.working = true ∧ (aView false).todo ≠ [] ∧ ((aView false).todo.head?.bind (s.viewCrop (aView false))) = some (0, 0, 64, 64)) :=
  ⟨offers _ _ _ _ rfl, offers _ _ _ _ rfl, by decide +kernel⟩

theorem test_hyps_PipeFaultsAndFrames_encode :
    ((egress [(31, aView false)]).encoding 0).map (·.1) = some 31 ∧
    ((egress [(31, { aView false with faults := 2 })]).encoding 0).map (·.2.faults) = some 2 ∧
    ((egress [(31, { aView false with faults := 1 })]).replacePipe true 0).2 = none ∧
    (({ egress [(31, aView false)] with video := { (egress [(31, aView false)]).video with encSpare := 16 } }).replacePipe true 0).2 = some 4 := by
  decide +kernel

/-! ## Capture and the tracker -/

/-- CAPTURE_DATA of source 4095 with a region of 64 bytes that holds no record. -/
def captureOp (d : List Byte) : Op := anOp 0x60 (pkt 64 0x60 [(16, 2, 4095), (20, 4, d.length), (24, 8, 0x1000), (56, 8, 0x2000)]) (.arrived d)

/-- A record's head of a payload of 0 bytes with its CRC. -/
def recordHead : List Byte := fill 28 0 [(0, 4, capMagic), (4, 2, 1), (6, 2, 5)]

theorem test_hyps_Captures : Offers (offering on (captureOp (List.replicate 64 0))) 0 0x60 (captureOp (List.replicate 64 0)) ∧
    (let s := offering on (captureOp (List.replicate 64 0))
     let b := (captureOp (List.replicate 64 0)).bytes
     s.firstOf 0x60 7 = true ∧ captureOk b = true ∧ rd b 18 1 = 0 ∧ rd b 20 4 ≠ 0 ∧ rd64 b 32 = 0 ∧ rd64 b 40 = 0 ∧ rd b 48 4 = 0 ∧
     rd (List.replicate 64 (0 : Byte)) 0 4 ≠ capMagic ∧ capMagic = 0x52435146) := ⟨offers _ _ _ _ rfl, by decide +kernel⟩

/-- DICT_LOAD that takes job 1's dictionary away. -/
def dictOp : Op := anOp 0x61 (pkt 64 0x61 [(16, 1, 1)]) .unread

theorem test_hyps_Captures_dict : Offers (offering (jobbed aJob) dictOp) 0 0x61 dictOp ∧
    ((offering (jobbed aJob) dictOp).jobOpen 1 = true ∧ rd dictOp.bytes 17 1 = 0 ∧ rd dictOp.bytes 24 8 % 8 = 0 ∧ rd dictOp.bytes 20 4 = 0) :=
  ⟨offers _ _ _ _ rfl, by decide +kernel⟩

/-- TRACK_POLICY of stream 4 with 16 tracks, and of job 1 with QUALITY ring 2. -/
def trackOp : Op :=
  anOp 0x70 (pkt 64 0x70 [(17, 1, 1), (18, 2, 4), (20, 2, 16), (22, 1, 1), (24, 1, 1), (34, 1, 1), (35, 1, 2)]) .unread
def qualityOp : Op := anOp 0x70 (pkt 64 0x70 [(16, 1, 1), (18, 1, 1), (20, 4, 2)]) .unread

/-- Stream 4 with buffers for the blocks at slots 1 and 2, of 128 KiB. -/
def tracked (frames : List FrameSt) : State :=
  let t : Stream := { aStream .running [] with nslots := 3, handles := [0, mkHandle 0 8 1, mkHandle 0 8 1], frames := frames }
  { streamed t with larder := { on.larder with
      pools := [(0, { strongPool 8 with log2Size := 17, base := 0 }), (1, { strongPool 16 with base := 2 ^ 22 })]
      recs := [(8, ⟨1, 1, true⟩), (16, ⟨1, 1, true⟩)] } }

theorem test_hyps_Tracking : Offers (offering (tracked []) trackOp) 0 0x70 trackOp ∧
    Offers (offering (tracked []) qualityOp) 0 0x70 qualityOp ∧
    (let s := offering (tracked []) trackOp
     rd trackOp.bytes 16 1 = 0 ∧ (s.stream 4).map (·.state) = some .running ∧ tget s.track.pend 4 = none ∧
     (trackPolicyOf trackOp.bytes).ok = true ∧ ((s.stream 4).map (s.trackSlotsOk · (trackPolicyOf trackOp.bytes))) = some true ∧
     tget s.track.parts 4 = none ∧ (s.stream 4).map (·.busy) = some false ∧ ((framed .running).stream 4).map (·.busy) = some true) ∧
    (let s := offering (tracked []) qualityOp
     rd qualityOp.bytes 16 1 = 1 ∧ s.job 1 = some aJob ∧ aJob.qring = 0 ∧ s.activeRing 2 .metadata = true) :=
  ⟨offers _ _ _ _ rfl, offers _ _ _ _ rfl, by decide +kernel⟩

/-- A partition of 16 entries for stream 4, and a frame that has ended. -/
def aPart : Partition := { base := 0, policy := trackPolicyOf trackOp.bytes, tracks := [], nextId := 0, cands := [] }
def updating (code : W32) (poison : List Nat) (block : Memory) (part : Bool) : State :=
  { tracked [aFrame 0 (.ended code false)] with
    track := { on.track with parts := if part then [(4, aPart)] else [] }
    mem := { on.mem with poison := poison, dram := block } }

/-- The block's place, and a good block of frame 0 there. -/
def blockAt : Nat := 67108864
def goodBlock : Memory := [(blockAt, 0x41), (blockAt + 1, 0x53), (blockAt + 2, 0x4F), (blockAt + 3, 0x43)]

theorem test_hyps_TrackerUpdates :
    (let s := updating 0 [] [] true
     s.working = true ∧ tget s.track.pend 4 = none ∧ tget s.track.parts 4 = some aPart ∧
     (s.stream 4).map (fun t => s.streamBuf t aPart.policy.assocSlot) = some blockAt ∧ s.partPoisoned aPart = false) ∧
    (let s := updating 0 [] [] false
     tget s.track.parts 4 = none) ∧ (Code.memUe != 0 && Code.cls Code.memUe != 1) = true ∧ Code.cls 0x1E001 = 1 := by decide +kernel

theorem test_hyps_TrackerUpdates_block :
    let a (m : Memory) : Assoc := parseAssoc ((updating 0 [] m true).hbmRead blockAt 64 ++ List.replicate 68608 0)
    (a []).ok 0 = false ∧ (a goodBlock).ok 0 = true ∧ (updating 0 [] goodBlock true).blockPoisoned blockAt (a goodBlock) = false ∧
    (updating 0 [blockAt / 64] [] true).blockPoisoned blockAt (a []) = true ∧
    (updating 0 [(updating 0 [] [] true).trackAddr aPart 0 / 64] [] true).partPoisoned aPart = true := by decide +kernel

/-! ## The memory controllers -/

/-- Port 14's bucket, with requests that wait. -/
def aPort (tokens : Nat) (l : List PortReq) : MemPortState := { MemPortState.reset 14 with tokens := tokens, waiting := l }
/-- A read of block 5 for port 14, of plain bytes, or again after an error. -/
def queuedRead (retry : Bool) (errors : Nat) : MemRead :=
  { port := 14, block := 5, at_ := 0, use := .port, data := List.replicate 64 (BitVec.ofNat 8 errors), bad := false, fwd := []
    retry := retry, fresh := false }
/-- A queued write of bytes of block 5. -/
def aWrite (full : Bool) : MemWrite :=
  { block := 5, data := List.replicate 64 (if full then some 1 else none), reading := false, filled := none }
/-- The memory with a pseudo-channel's queues and a port. -/
def memory (p : Pc) (port : MemPortState) (hall : List (Nat × PortReq)) : State :=
  { on with mem := { on.mem with pcs := [(1, p)], ports := on.mem.ports.set 14 port, hall := hall } }
def blockRead : PortReq := { block := 5, write := none, scrub := false }

theorem test_hyps_MemPorts : (14 : MemPort).toNat < 24 ∧ (memory Pc.reset (aPort 64 []) []).mem.ports[14]? = some (aPort 64 []) ∧
    (memory Pc.reset (aPort 64 []) []).mem.trained = true ∧ State.reset.mem.trained = false ∧
    (State.reset.mem.ports[14]? = some (MemPortState.reset 14)) ∧ pcOf 5 = 1 ∧
    5 < (memory Pc.reset (aPort 64 []) []).mem.blocks ∧ on.mem.blocks ≤ 1509949440 ∧ 5 * 64 + 64 ≤ on.mem.blocks * 64 ∧
    (aPort 64 []).due 1 = some 0 ∧ (aPort 0 []).due 1 = some 1 ∧ (aPort 64 []).due 257 = none ∧ (aPort 0 []).waiting = [] ∧
    (aPort 64 [blockRead]).waiting = [blockRead] ∧ (aPort 64 [blockRead]).at_ + 0 ≤ on.pwr.beatMclk ∧
    ({ aPort 0 [blockRead] with rate := 0 } : MemPortState).due blockRead.cost = none := by decide +kernel

theorem test_hyps_MemPorts_queues :
    let s (p : Pc) (hall : List (Nat × PortReq)) := memory p (aPort 64 []) hall
    let busy (s : State) (w : Bool) := s.mem.hall.any (fun h => pcOf h.2.block = 1 && h.2.write.isSome == w)
    let full := { Pc.reset with wq := [aWrite true] }
    (busy (s Pc.reset []) true = false ∧ busy (s Pc.reset []) false = false ∧ (s Pc.reset []).mem.entry 5 = none ∧
      ((s Pc.reset []).mem.pc 1).rq.length < 64 ∧ ((s Pc.reset []).mem.pc 1).wq.length < 64) ∧
    (busy (s Pc.reset [(15, blockRead)]) false = true) ∧
    ((s full []).mem.entry 5 = some (aWrite true) ∧ fullMask (aWrite true).data = true ∧ fullMask (aWrite false).data = false) ∧
    (64 ≤ ((s { Pc.reset with rq := List.replicate 64 (queuedRead false 0) } []).mem.pc 1).rq.length) := by decide +kernel

/-- Every queued write of `memory` lies in its own pseudo-channel, and no block has two entries. -/
theorem test_hyps_PcCommandsKeepContents (q : Pc) (hq : q.wq = [] ∨ q.wq = [aWrite true]) :
    (memory q (aPort 64 []) []).mem.trained = true ∧ Memory.wf (memory q (aPort 64 []) []).mem.dram = true ∧
    ∀ n p, tget (memory q (aPort 64 []) []).mem.pcs n = some p → p.wq.Pairwise (fun x y => x.block ≠ y.block) ∧
      ∀ w ∈ p.wq, pcOf w.block = n ∧ w.data.length = 64 := by
  refine ⟨rfl, rfl, fun n p h => ?_⟩
  have e : tget (memory q (aPort 64 []) []).mem.pcs n = if 1 = n then some q else none := by simp [memory, tget]
  rw [e] at h
  split at h
  · cases h
    subst n
    rcases hq with hq | hq <;> simp [hq]
    exact ⟨by decide +kernel, rfl⟩
  · cases h

theorem test_hyps_PcCommandsKeepContents_clauses :
    let s (p : Pc) := memory p (aPort 64 []) []
    let choice (p : Pc) := ((s p).mem.pc 1).choose (s p).mem |>.map (·.cmd)
    let bank := bankOf (pageOf true 5)
    let row := rowOf (pageOf true 5)
    let opened : Pc := { Pc.reset with banks := [(bank, { Bank.reset with row := some row, check := true })] }
    (on.mem.base + on.pwr.beatMclk ≤ ((s { Pc.reset with clk := 256 }).mem.pc 1).clk ∧ ((s Pc.reset).mem.pc 1).clk < on.mem.base + on.pwr.beatMclk) ∧
    (choice Pc.reset = none ∧ Pc.reset.burst = none ∧ Pc.reset.retrying = false) ∧
    choice { Pc.reset with rq := [queuedRead false 0] } = some (.activate row) ∧
    choice { Pc.reset with wq := [aWrite true] } = some (.activate row) ∧
    choice { opened with wq := [aWrite true] } = some .column ∧ choice { opened with rq := [queuedRead false 0] } = some .column ∧
    choice { Pc.reset with banks := [(0, { Bank.reset with debt := 1 })] } = some .refresh ∧
    choice { Pc.reset with banks := [(0, { Bank.reset with rfm := true })] } = some .rfm := by decide +kernel

/-- Reads that have come back; whether an error is bad is for the decoder of R392. -/
theorem test_hyps_MemReads :
    let s (e : MemRead) := memory { Pc.reset with flight := [e] } (aPort 64 []) []
    let e := queuedRead false 0
    (((s e).mem.pc 1).flight = [e] ∧ ((s e).mem.pc 1).burst = none) ∧
    (∃ bad : MemRead, { bad with bad := false } = queuedRead true 0 ∧ bad.decode true [] = .bad ∧ ((s bad).mem.pc 1).flight = [bad]) ∧
    (queuedRead false 0).decode true [] = .clean ∧ (queuedRead true 0).decode true [] = .clean ∧
    (∃ p v, (queuedRead false 0).decode true [(3, 0x40)] = .fixed p v) ∧
    (queuedRead false 0).fwd = [] := by
  refine ⟨⟨rfl, rfl⟩, ⟨{ queuedRead true 0 with bad := true }, rfl, by decide +kernel, rfl⟩, by decide +kernel, by decide +kernel,
    ⟨3, 0x40, by decide +kernel⟩, rfl⟩

theorem test_hyps_MemReads_scrub :
    on.mem.trained = true ∧ on.scrubDue = true ∧
    ({ on with mem := { on.mem with scrubDone := 1 } } : State).scrubDue = false := by decide +kernel

theorem test_hyps_MemUpkeep :
    let s (b : Bank) := memory { Pc.reset with clk := 100, banks := [(3, b)] } (aPort 64 []) []
    (({ on.mem with nr := { on.mem.nr with thresh := 0 } } : Mem).nr.thresh.toNat ≤ Bank.reset.actCount.toNat) ∧
    ((s { Bank.reset with actCount := 0xFFFF }).mem.nr.thresh.toNat ≤ 0xFFFF ∧ Bank.reset.forced = false) ∧
    (({ s Bank.reset with pwr := { on.pwr with aclk := 585 } } : State).passed ((Bank.reset).refAt.getD on.mem.served) (on.mem.tRefi 1) = true) ∧
    ({ Bank.reset with idleAt := some 100 } : Bank).idleAt = some 100 ∧ ((s Bank.reset).mem.pc 1).clk = 100 ∧
    (spareOf 1 5, 5) ∉ on.mem.laneMarks ∧ Bank.reset.held = none ∧
    ({ Bank.reset with held := some 0 } : Bank).held = some 0 ∧ on.glb.dev ≠ .off := by decide +kernel

theorem test_hyps_MemUpkeep_repair :
    let s := { on with mem := { on.mem with repairs := [(1, 3, 77)] } }
    s.mem.repairs = ((1 : PcId).toNat, (3 : BankId).toNat, 77) :: [] ∧ s.mem.trained = true ∧ ((s.mem.pc 1).bank 3).held = none := by
  decide +kernel

/-! ## The fabric -/

/-- A device of the fabric: address 3, port 0 as given at aclk 150,000,000, and routes: LOCAL for itself, port 0 for address 9, none
for any other. -/
def linked (p : Port) : State :=
  { on with
    pwr := { on.pwr with aclk := 150000000 }
    fab := { on.fab with
      joined := true, addr := 3, ports := p :: on.fab.ports.drop 1
      tables := List.replicate 9 (List.replicate 3 0xFFF ++ [0x8FFF] ++ List.replicate 5 0xFFF ++ [0xFF0] ++ List.replicate 246 0xFFF) } }
/-- A port in a state, with the keys and credits of a link. -/
def portIn (st : PortState) : Port :=
  { Port.reset with state := st, keyed := true, partner := 9, credits := [128, 128, 192, 64] }

theorem test_hyps_FabricTraining (q : Port) : (linked q).glb.dev ≠ .off ∧ (linked q).fab.ports[(0 : PortId).toNat]? = some q :=
  ⟨nofun, rfl⟩

theorem test_hyps_FabricTraining_clauses :
    let stood (st : PortState) (ms : Nat) := (linked (portIn st)).passed (portIn st).since (ms * 150000)
    stood .down 100 = true ∧ stood .training 50 = true ∧
    (linked { portIn .training with since := 150000000 }).passed 150000000 (50 * 150000) = false ∧
    (let q := { portIn .up with credits := [0, 128, 192, 64] }
     q.credits.getD (0 : Vc).toNat 0 = 0 ∧ (linked q).passed (q.zeroAt.getD 0 0) ((linked q).fab.stallMs.toNat * 150000) = true) ∧
    (∀ v, v < 4 → (portIn .slow).credits.getD v 0 ≠ 0) ∧ (linked (portIn .slow)).passed (portIn .slow).backAt 1500000 = true ∧
    (portIn .up).spared = false ∧ ({ portIn .up with reauth := true } : Port).state = .up := by decide +kernel

/-- Frames of 16 bytes of DATA to an address, with a tseq, and CONTROL. -/
def dataFrame (dst : Byte) (tseq lseq : W32) : Frame :=
  { ftype := 1, vc := 0, dst := dst, src := 9, ttl := 4, fflags := 0, plen := 16, lseq := lseq, ack := 0, crVc := 0, crN := 0
    payload := le32 tseq ++ List.replicate 12 0, ctrl := .none }
def helloFrame (src : Byte) : Frame :=
  { dataFrame 3 0 0 with ftype := 4, vc := 3, src := src, ctrl := .hello { addr := 9, port := 1, serial := 5, tableCrc := 6 } }
def queued (dst : Byte) (owes : Bool) : Queued := { table := 8, owes := owes, frame := dataFrame dst 0 0 }

theorem test_hyps_PortsGoDown :
    let lastSecond (s : State) (l : List W64) : Nat := (l.filter (fun t => decide ((s.now - t).toNat < 150000000))).length
    (8 ≤ ({ portIn .up with resends := 8, unacked := [queued 9 false] } : Port).resends ∧
      ({ portIn .up with unacked := [queued 9 false] } : Port).unacked ≠ []) ∧
    ({ portIn .up with spared := true } : Port).spared = true ∧ ({ portIn .slow with reauth := true } : Port).reauth = true ∧
    ({ portIn .up with forged := true } : Port).forged = true ∧
    (linked (portIn .up)).fab.tagMax.toNat ≤ lastSecond (linked (portIn .up)) (List.replicate 16 149999999) ∧
    16 ≤ lastSecond (linked (portIn .up)) (List.replicate 16 149999999) ∧
    (linked (portIn .up)).fab.pick ((linked (portIn .up)).fab.route1 8 9) = some (0, false) ∧
    (linked (portIn .down)).fab.pick ((linked (portIn .down)).fab.route1 8 9) = none ∧ (queued 9 false).owes = false := by
  decide +kernel

theorem test_hyps_FramesGoOut (q : Port) (h : q = { portIn .up with queue := [queued 9 true, queued 9 false] } ∨ q = portIn .up ∨
      q = { portIn .slow with unacked := [queued 9 false] }) : (linked q).glb.dev ≠ .off ∧
    (linked q).fab.ports[(0 : PortId).toNat]? = some q ∧ (q.state = .up ∨ q.state = .slow) ∧ q.keyed = true ∧ q.retrain = false ∧
    q.reauth = false ∧ q.txWraps * 2 ^ 32 + q.txSeq.toNat < 2 ^ 40 := by
  rcases h with h | h | h <;> subst h <;> exact ⟨nofun, rfl, by decide, rfl, rfl, rfl, by decide⟩

theorem test_hyps_FramesGoOut_clauses :
    (let q := { portIn .up with queue := [queued 9 true, queued 9 false] }
     q.queue = [] ++ queued 9 true :: [queued 9 false] ∧ (queued 9 true).frame.vc.toNat = (0 : Vc).toNat ∧ q.unacked.length < 512 ∧
     ((queued 9 true).frame.ftype = 1 → q.credits.getD (0 : Vc).toNat 0 ≠ 0)) ∧ (portIn .up).queue = [] ∧
    (let q := { portIn .slow with unacked := [queued 9 false] }
     q.unacked = [] ++ queued 9 false :: [] ∧ q.resends < 8 ∧ (linked q).passed q.progressAt 300 = true) := by decide +kernel

theorem test_hyps_FramesComeIn : (linked (portIn .up)).glb.dev ≠ .off ∧
    (linked (portIn .up)).fab.ports[(0 : PortId).toNat]? = some (portIn .up) ∧ ((portIn .up).state = .up ∨ (portIn .up).state = .slow) ∧
    (portIn .up).reauth = false ∧ (linked (portIn .up)).fab.cfg = none := ⟨nofun, rfl, by decide, rfl, rfl⟩

theorem test_hyps_FramesComeIn_clauses :
    let s := linked (portIn .up)
    let idle := { dataFrame 3 0 0 with ftype := 0, payload := [] }
    let d (f : Frame) : Nat := (rd32 f.payload 0 - (0 : W32)).toNat
    (frameReserved idle = false ∧ idle.ftype ≠ 1 ∧ idle.ftype ≠ 4) ∧
    (frameReserved (dataFrame 3 0 5) = false ∧ (dataFrame 3 0 5).lseq ≠ (portIn .up).rxSeq) ∧
    (frameReserved (helloFrame 9) = false ∧ (helloFrame 9).lseq = (portIn .up).rxSeq ∧ (helloFrame 9).src = (portIn .up).partner ∧
      (helloFrame 7).src ≠ (portIn .up).partner) ∧
    (s.plan.insts = [] ∧ (s.fab.route1 (0 : PortId).toNat 3).getLsbD 15 = true ∧ (dataFrame 3 0 0).ctrl = .none ∧
      (rd8 (dataFrame 3 0 0).payload 5).getLsbD 0 = false ∧ tget s.fab.rx (4 * 9 + 0) = none) ∧
    (frameReserved (dataFrame 3 64 0) = false ∧ d (dataFrame 3 0 0) = 0 ∧ 2 ^ 31 ≤ d (dataFrame 3 0x80000000 0) ∧ d (dataFrame 3 1 0) = 1 ∧
      d (dataFrame 3 64 0) = 64 ∧ d (dataFrame 3 65 0) = 65 ∧ d (dataFrame 3 0x7FFFFFFF 0) < 2 ^ 31) ∧
    ((s.fab.route1 0 9).getLsbD 15 = false ∧ ({ dataFrame 9 0 0 with ttl := 0 } : Frame).ttl = 0 ∧ (dataFrame 9 0 0).ttl ≠ 0 ∧
      s.fab.pick (s.fab.route1 0 9) = some (0, false)) := by decide +kernel

/-- A gap that has not closed for 100 µs. -/
theorem test_hyps_FramesComeIn_gap :
    let u : Triple := { expect := 0, held := [(1, 0, dataFrame 3 1 0)], ended := false }
    let s := linked (portIn .up)
    let s := { s with fab := { s.fab with rx := [(4 * 9 + 0, u)] } }
    tget s.fab.rx (4 * (9 : Byte).toNat + (0 : Vc).toNat) = some u ∧ u.ended = false ∧
      (∃ h ∈ u.held, s.passed h.2.1 15000 = true) :=
  ⟨by decide +kernel, rfl, _, List.mem_singleton.2 rfl, by decide +kernel⟩

/-- FABRIC_JOIN: action, location, and its tables' bytes. -/
def fabricOp (leave loc : Nat) (p : Payload) : Op :=
  anOp 0x80 (pkt 128 0x80 [(16, 1, leave), (17, 1, 3), (18, 1, 0xFF), (20, 1, loc), (24, 8, 64)]) p

theorem test_hyps_FabricJoins (leave loc : Nat) (p : Payload) :
    Offers (offering (linked (portIn .up)) (fabricOp leave loc p)) 0 0x80 (fabricOp leave loc p) ∧
    (offering (linked (portIn .up)) (fabricOp leave loc p)).fab.ports.length = 8 := ⟨offers _ _ _ _ rfl, rfl⟩

theorem test_hyps_FabricJoins_clauses :
    let s := linked (portIn .up)
    let b (leave loc : Nat) := (fabricOp leave loc .unread).bytes
    s.joinParamOk (b 2 0) = false ∧ s.joinParamOk (b 0 0) = true ∧ s.joinParamOk (b 1 0) = true ∧ s.joinParamOk (b 0 1) = true ∧
    s.fab.spans = [] ∧ rd (b 1 0) 16 1 = 1 ∧ rd (b 0 0) 16 1 ≠ 1 ∧ rd (b 0 0) 20 1 = 0 ∧ rd (b 0 1) 20 1 = 1 ∧
    (∃ q ∈ (linked { portIn .up with partner := 3 }).fab.ports, (q.state = .up ∨ q.state = .slow) ∧ q.partner = rd8 (b 0 0) 17) ∧
    (¬ ∃ q ∈ s.fab.ports, (q.state = .up ∨ q.state = .slow) ∧ q.partner = rd8 (b 0 0) 17) ∧
    (offering s (fabricOp 0 1 .unread)).windowPoisoned (rd (b 0 1) 24 8) 4608 = false ∧
    (∀ q ∈ s.fab.ports, q.unacked = [] ∧ q.queue = []) := by decide +kernel

/-- COLLECTIVE_CFG of span `id` of the devices `l` in a row, with an option byte. -/
def spanOp (id opts : Nat) (l : List Nat) : Op :=
  anOp 0x81 (pkt 128 0x81 ([(16, 4, id), (20, 1, l.length), (21, 1, l.length), (22, 1, 1), (23, 1, opts), (24, 1, 4), (25, 1, 4)] ++
    l.mapIdx (fun i d => (64 + i, 1, d)))) .unread
def rowSpan : Span := { m := 2, a := 2, b := 1, w := 4, h := 4, members := [3, 9], crc := 5, direct := [(9, 1)] }
/-- The same device with spans. -/
def withSpans (l : Tab Span) : State := { linked (portIn .up) with fab := { (linked (portIn .up)).fab with spans := l } }

theorem test_hyps_Spans (id opts : Nat) (l : List Nat) (spans : Tab Span) :
    Offers (offering (withSpans spans) (spanOp id opts l)) 0 0x81 (spanOp id opts l) := offers _ _ _ _ rfl

theorem test_hyps_Spans_clauses :
    let b (id opts : Nat) (l : List Nat) := (spanOp id opts l).bytes
    let s (spans : Tab Span) := withSpans spans
    ((s [(1, rowSpan)]).fab.cfg = none ∧ (rd8 (b 1 1 [3, 9]) 23).getLsbD 0 = true ∧ rd32 (b 1 1 [3, 9]) 16 = 1 ∧
      thas (s [(1, rowSpan)]).fab.spans 1 = true ∧ (s [(1, rowSpan)]).spanJob 1 = none ∧ thas (s []).fab.spans 1 = false) ∧
    (rd32 (b 0 0 [3, 9]) 16 = 0 ∧ (rd8 (b 1 0 [3, 9]) 23).getLsbD 0 = false ∧ (s []).spanParamOk (b 1 0 [3]) = false ∧
      (s []).spanParamOk (b 1 0 [3, 9]) = true) ∧
    (64 ≤ ((List.range 64).map (fun i => (i + 2, rowSpan))).length ∧ (s []).fab.spans.length < 64) ∧
    ((s []).topologyOk ((s []).spanOfPacket (b 1 0 [3, 9])) = true ∧ (s []).topologyOk ((s []).spanOfPacket (b 1 0 [3, 7])) = false) ∧
    ((s []).fab.early = [] ∧ (∃ d ∈ ((s []).spanOfPacket (b 1 0 [3, 9])).members, d ≠ (s []).fab.addr) ∧
      ∀ d ∈ ((s []).spanOfPacket (b 1 0 [3, 9])).members, d ≠ (s []).fab.addr → ((s []).fab.route1 8 d).getLsbD 15 = false) := by
  decide +kernel

/-- A configuration in progress, with its reports. -/
theorem test_hyps_Spans_reports :
    let c (reports : Tab W32) : SpanCfg := { id := 1, span := rowSpan, ring := 0, op := 7, reports := reports, at_ := 0 }
    let s (r : Tab W32) : State := { withSpans [] with fab := { (withSpans []).fab with cfg := some (c r) } }
    (∀ r, (s r).fab.cfg = some (c r)) ∧ (∃ r ∈ (c [(9, 6)]).reports, r.2 ≠ (c []).span.crc) ∧
    ((∀ r ∈ (c [(9, 5)]).reports, r.2 = (c []).span.crc) ∧
      ∀ d ∈ (c []).span.members, d = (s []).fab.addr ∨ thas (c [(9, 5)]).reports d.toNat = true) ∧
    (∃ d ∈ (c []).span.members, d ≠ (s []).fab.addr ∧ thas (c []).reports d.toNat = false) ∧
    (s []).passed (c []).at_ 15000000 = true ∧ ({ s [] with pwr := { on.pwr with aclk := 1 } } : State).passed (c []).at_ 15000000 = false :=
  ⟨fun _ => rfl, by decide +kernel, by decide +kernel, by decide +kernel, by decide +kernel, by decide +kernel⟩

/-! ## Power, heat, recovery units, starts -/

theorem test_hyps_PowerSteps :
    let s (f : Pwr → Pwr) : State := { on with pwr := f { on.pwr with aclk := 150000, modeNow := false } }
    let ended (s : State) := s.intervalOver
    on.glb.dev ≠ .off ∧ ended (s id) = true ∧ ended on = false ∧
    ({ on.pwr with dieMax := 120 } : Pwr).throttle.toNat ≤ (120 : Byte).toNat ∧ ({ on.pwr with hbmMax := 95 } : Pwr).hbmMax.toNat = 95 ∧
    ¬ (on.pwr.throttle.toNat ≤ on.pwr.dieMax.toNat ∨ 95 ≤ on.pwr.hbmMax.toNat) ∧
    ({ on.pwr with cap := 5, modeNow := false } : Pwr).overCap 51 = true ∧ ({ on.pwr with cap := 5, modeNow := false } : Pwr).overCap 50 = false ∧
    ({ on.pwr with pstate := 7 } : Pwr).pstate.toNat = 7 ∧
    (let w := { on.pwr with pstate := 3, cap := 500 }
     w.fast.toNat < w.pstate.toNat ∧ w.predict 0 2 * 100 ≤ w.cap.toNat * 95) := by decide +kernel

theorem test_hyps_PowerSteps_steps :
    let s (f : Pwr → Pwr) : State := { on with pwr := f { on.pwr with aclk := 3150 } }
    let down (goal_ : Nat) : PStep := { goal_ := goal_, at_ := 0 }
    on.pwr.next = none ∧ on.pwr.ramp = none ∧ ({ on.pwr with next := some (down 1) } : Pwr).next = some (down 1) ∧
    (s id).passed (down 1).at_ 150 = true ∧ (s id).passed (down 1).at_ (21 * 150) = true ∧ on.passed (down 1).at_ 150 = false ∧
    ((93 : Nat) * 107 < 100 * 100 ∧ (100 : Nat) * 93 ≤ 100 * 100 ∧ (100 : Nat) * 100 ≤ 100 * 107) ∧
    on.pwr.droop = false ∧ ({ on.pwr with droop := true } : Pwr).droop = true := by decide +kernel

theorem test_hyps_Heat : on.glb.dev ≠ .off ∧ (∀ b ∈ List.replicate 32 (109 : Byte), b.toNat < 110) ∧
    (∃ b ∈ List.replicate 31 (20 : Byte) ++ [110], 110 ≤ b.toNat) ∧
    (on.glb.dev = .serving ∨ on.glb.dev = .maintenance ∨ on.glb.dev = .draining) := by decide +kernel

/-- A device with domain 40 on and not needed, found so at aclk 0. -/
def domained (now : W64) (idle : Tab W64) : State :=
  { on with pwr := { on.pwr with domains := 1 <<< 40, aclk := now, idle := idle }, part := { on.part with debug := false } }

theorem test_hyps_DomainsAndSpares :
    ((domained 0 []).pwr.domains.getLsbD 40 = true ∧ (domained 0 []).domainNeeded 40 = false ∧ (domained 0 []).pwr.domains.getLsbD 0 = false ∧
      tget (domained 0 [(40, 0)]).pwr.idle 40 = some 0 ∧ tget (domained 0 []).pwr.idle 40 = none ∧
      (domained 149999 [(40, 0)]).passed 0 150000 = false ∧ (domained 150000 [(40, 0)]).passed 0 150000 = true) ∧
    ({ domained 0 [] with part := { on.part with debug := true } } : State).domainNeeded 40 = true ∧
    (let s := offering on (fabricOp 0 0 (.arrived []))
     s.working = true ∧ s.pwr.domains.getLsbD 34 = false ∧
     s.ring.ctx = [] ++ (0, { cmdRing with ops := [fabricOp 0 0 (.arrived [])] }) :: [(1, cplRing), (2, metaRing)] ∧
     (s.wouldPower 0 34).isSome = true) ∧
    (on.ras.spPll = 1 ∧ on.hearth.standby = true ∧ ({ on.ras with spPll := 0 } : Ras).spPll = 0 ∧
      ({ on.hearth with standby := false } : Hearth).standby = false) := by decide +kernel

/-- RECORD_START, RECORD_STOP and REPLAY of a region of 1 MiB. -/
def regionOp (op size : Nat) (p : Payload) : Op := anOp op (pkt 64 op [(16, 8, 0x1000), (24, 8, size)]) p
def aRecording (full : Bool) : Recording := { addr := 0x1000, size := 2 ^ 20, used := 48, entries := 1, full := full }

theorem test_hyps_RecordAndReplay (op size : Nat) (p : Payload) (s : State) (h : s.working = true) :
    Offers (offering s (regionOp op size p)) 0 op (regionOp op size p) := offers _ _ _ _ h

/-- Ready to replay. -/
def replaying (p : Option Replay) : State :=
  { ringed on with glb := { on.glb with dev := .maintenance }, ras := { on.ras with replay := p } }

theorem test_hyps_RecordAndReplay_clauses :
    let good (b : List Byte) : Prop := rd b 16 8 % 4096 = 0 ∧ rd b 24 8 % 4096 = 0 ∧ 2 ^ 20 ≤ rd b 24 8 ∧ rd b 24 8 ≤ 2 ^ 40
    let b (size : Nat) := (regionOp 0xF0 size .unread).bytes
    good (b (2 ^ 20)) ∧ good (b (2 ^ 40)) ∧ ¬ good (b (2 ^ 20 - 4096)) ∧
    (on.glb.dev = .serving ∧ on.plan.jobs = [] ∧ on.larder.pools = [] ∧ on.video.streams = [] ∧ on.video.views = [] ∧
      on.fab.spans = [] ∧ on.ras.recording = none) ∧
    ({ on.ras with recording := some (aRecording false) } : Ras).recording = some (aRecording false) ∧
    (aRecording false).full = false ∧ (aRecording true).full = true ∧
    (let s := replaying none
     let d := recEntry 1 0 s.recState
     s.glb.dev = .maintenance ∧ s.plan.jobs = [] ∧ s.ras.replay = none ∧ rd d 0 1 = 1 ∧
     slice d 16 16 = le64 (s.dkey s.video.conceal) ++ le64 s.mem.nrSeed ∧ rd ([] : List Byte) 0 1 ≠ 1) := by decide +kernel

/-- A recording of a NOP on ring 0 at beat 5, and of its result. -/
def recorded (kind beat : Nat) (body : List Byte) : Replay :=
  { ring := 0, op := 3, bytes := recEntry kind (BitVec.ofNat 64 beat) body, pos := 0, base := none, running := [], results := [] }
/-- A PACKET entry of ring 0. -/
def recordedPacket (b : List Byte) : Replay := recorded 2 5 (leBytes 4 0 ++ b)

theorem test_hyps_RecordAndReplay_entries :
    let s (p : Replay) := replaying (some p)
    let n (p : Replay) := rd p.bytes (p.pos + 4) 4
    let due (p : Replay) (base : W64 × W64) : Prop := (rd64 p.bytes (p.pos + 8) - base.2).toNat ≤ ((s p).plan.beat - base.1).toNat
    let packet (p : Replay) := slice p.bytes (p.pos + 20) (n p - 20)
    let nop := recordedPacket (pkt 64 0x01 [])
    let odd := recordedPacket (pkt 64 0xEE [])
    (n (recorded 0 0 []) = 16 ∧ n { recorded 0 0 [] with pos := 16 } = 0 ∧ rd (recorded 0 0 []).bytes 0 1 = 0) ∧
    (due nop ((s nop).plan.beat, rd64 nop.bytes 8) ∧ ¬ due nop ((s nop).plan.beat, 0) ∧ rd nop.bytes 0 1 = 2 ∧
      rd nop.bytes 16 4 = 0 ∧ (s nop).activeRing 0 .command = true ∧ packetFault (s nop).glb.compat true (packet nop) = none) ∧
    ((packetFault (s odd).glb.compat true (packet odd)).isSome = true ∧ (∀ x ∈ (s odd).opsOf 0, x.id ≠ (s odd).ring.nextOp)) ∧
    (let r := recorded 4 0 (leBytes 8 0 ++ leBytes 4 0xAB)
     rd r.bytes 0 1 = 4 ∧ r.results = [] ∧ rd32 r.bytes 24 = 0xAB ∧ rd32 r.bytes 24 ≠ 0xAC) ∧
    rd (recorded 5 0 (leBytes 4 2)).bytes 0 1 = 5 := by decide +kernel

/-! ## Starts and actions -/

/-- OFF with good supplies, PERST# asserted. -/
def powered : State := { State.reset with pins := { State.reset.pins with pgIn := true, perst := true } }
/-- A start under way. -/
def starting (x : Bool × StartPhase) : State :=
  { powered with glb := { on.glb with dev := .starting }, hearth := { on.hearth with start := some x } }

theorem test_hyps_StartsBegin :
    (powered.glb.dev = .off ∧ powered.pins.perst = true ∧ powered.pins.pgIn = true) ∧
    (State.reset.glb.dev = .off ∧ State.reset.pins.pgIn = false) ∧
    (let s : State := { powered with glb := { on.glb with dev := .starting } }
     s.glb.dev = .starting ∧ s.pins.perst = true ∧ s.hearth.start = none ∧ s.porch.up = false) ∧
    (let s : State := { on with glb := { on.glb with armed := 1 <<< 14 } }
     s.glb.dev ≠ .off ∧ s.porch.up = true ∧ s.porch.cfg.mse = true ∧ s.glb.armed.getLsbD 14 = true ∧ s.hearth.mbox = none ∧
     s.porch.low = none) := by decide +kernel

theorem test_hyps_StartsEnd :
    (starting (true, .passed)).hearth.start = some (true, .passed) ∧
    (starting (false, .failed Code.fwCompat)).hearth.start = some (false, .failed Code.fwCompat) ∧
    (Code.startSram ≠ Code.fwCompat ∧ Code.cls Code.startSram ≠ 4 ∧ (0 : Byte).toNat < 2 ∧ 2 ≤ (2 : Byte).toNat) ∧
    Code.cls Code.startGiveup = 4 := by decide +kernel

theorem test_hyps_StartsEnd_cold :
    let s := starting (false, .begin)
    let own (k : Byte) : FlashImage := { image k with qual := [(1, 1), (2, 1), (3, 1), (4, 1)] }
    let slot := [own 1, own 2, own 3, own 4]
    let first (x : ColdStartResult) := if slotRank x.slotA < slotRank x.slotB then x.slotB else x.slotA
    s.hearth.start = some (false, .begin) ∧ gridOk s.part.e (s.part.goodRooms &&& goodStart.rooms) = true ∧
    gridOk s.part.e (s.part.goodRooms &&& 0) = false ∧ goodStart.sram = true ∧
    (slotOk (first goodStart) = true ∧ slotOk ([] : List FlashImage) = false) ∧
    (mismatches (slot.map FlashImage.kept) = [] ∧ mismatches ((first goodStart).map FlashImage.kept) ≠ []) ∧
    (goodStart.train = true ∧ goodStart.memSpare = true ∧ s.mem.laneMarks = [] ∧ tget s.mem.lanes 7 = none ∧
      tget [(7, 3)] 7 = some 3 ∧ (3 : Nat) ≠ 4) := by decide +kernel

theorem test_hyps_StartsEnd_warm :
    let s := { starting (true, .begin) with hearth := { (starting (true, .begin)).hearth with lastLayout := some layout } }
    s.hearth.start = some (true, .begin) ∧ s.mem.laneMarks = [] ∧ s.hearth.lastLayout = some layout := by decide +kernel

/-- A device whose HEARTH block is armed, in a state. -/
def acting (d : DevState) (r : HeldReason) : State :=
  { on with glb := { on.glb with dev := d, reason := r, armed := 1 <<< 14 } }

theorem test_hyps_Actions :
    let s := acting .held .drained
    (s.glb.dev ≠ .off ∧ s.porch.up = true ∧ s.porch.cfg.mse = true ∧ s.porch.low = none ∧ s.glb.armed.getLsbD 14 = true ∧
      s.hearth.mbox = none ∧ on.glb.armed.getLsbD 14 = false ∧ ({ s.hearth with mbox := some (anOp 0x01 [] .unread) } : Hearth).mbox ≠ none) ∧
    (s.glb.dev = .held ∧ s.glb.reason = .drained ∧ s.glb.layout ≠ none) ∧
    ((acting .held .unconfigured).glb.reason = .unconfigured ∧ (acting .held .fwMismatch).glb.reason = .fwMismatch ∧
      State.reset.glb.layout = none ∧ s.hearth.preserved = none) ∧
    ((acting .maintenance .none).glb.dev = .maintenance ∧ on.glb.maint = false ∧ ({ on.glb with maint := true } : Global).maint = true) ∧
    (({ on.part with debug := true } : Part).debug = true ∧ ({ on.part with debug := false } : Part).debug = false) ∧
    ((acting .draining .none).glb.dev = .draining ∧ (acting .draining .none).quiet = true ∧
      (offering (acting .draining .none) (regionOp 0xF1 0 .unread)).quiet = false) := by decide +kernel

theorem test_hyps_SuppliesAndReset : on.glb.dev = .serving ∧ (starting (false, .begin)).glb.dev = .starting ∧
    State.reset.glb.dev = .off := by decide +kernel

/-- The reset state is Dark, and stays so on an empty queue. -/
theorem test_hyps_OffStaysOff : State.reset.Dark := by
  constructor <;> decide +kernel

theorem test_hyps_ResetIsOff : Instr.pgInAssert ∉ on.pending := by decide


end Sys2Proof.Tests
end

section
/-!
Register accesses of the host: reads that clear, KEY and the arming rule, writes that need no arming, the vectors, the egress
policy and the view index (R7 to R13, R407, R416 to R420).
-/
namespace Sys2Proof.Machine

/-! ## Reads that clear -/

/-- The shape that the reads of the model share: with the registers up, the word is returned and the read's effect follows. -/
theorem read_answers {s : State} (h : s.regsUp = true) (n v : Nat) (effect : State → State) :
    (.next (if !s.regsUp then s else effect (s.reply n v)) : Outcome) = .next (effect (s.answers n v)) := by
  rw [if_neg (by simp [h]), reply_eq h]

/-- Settles O1: every read has the shape of `read_answers`. -/
theorem readsClearRingPlan : Obligations.ReadsClearRingPlan := by
  unfold Obligations.ReadsClearRingPlan
  refine ⟨fun s h => ⟨?orphan, ?fault, ?faultInfo⟩, fun s h => ?plan, fun s h => ?seqsLarder⟩
  case orphan =>
    exact read_answers h 4 _ (fun t => { t with
      ring := { t.ring with orphanValid := false, orphanCount := 0, orphanRing := 0 } })
  case fault =>
    exact read_answers h 4 _ (fun t => { t with
      ring := { t.ring with faultValid := false, faultKind := 0, faultRing := 0, faultPend := 0,
                            faultCode := if t.ring.faultValid then t.ring.faultPend else 0 } })
  case faultInfo => exact read_answers h 4 _ (fun t => { t with ring := { t.ring with dropped := 0 } })
  case plan =>
    exact ⟨read_answers h 4 s.plan.slipWord (·.modPlan _), read_answers h 4 s.plan.refuseWord (·.modPlan _),
      read_answers h 4 s.plan.dupTile.toNat (·.modPlan _), read_answers h 4 s.plan.preemptWord (·.modPlan _)⟩
  case seqsLarder =>
    exact ⟨read_answers h 4 s.seqs.pauseWord (·.modSeqs _), read_answers h 4 s.seqs.skip.toNat (·.modSeqs _),
      read_answers h 4 s.seqs.stepErr.toNat (·.modSeqs _), read_answers h 4 s.larder.errWord (·.modLarder _),
      read_answers h 4 s.larder.dfree.toNat (·.modLarder _)⟩

/-- A read of a port's MEM_REG_WAIT clears the count of that port and of no other. -/
theorem exec_memRegWaitRead {s : State} (h : s.regsUp = true) {p : MemPort} {q : MemPortState}
    (hq : s.mem.ports[p.toNat]? = some q) :
    exec (.memRegWaitRead p) s = .next ((s.answers 4 q.wait.toNat).modMem (fun m =>
      { m with ports := lmod m.ports p.toNat (fun q => { q with wait := 0 }) })) := by
  change execMemRegWaitRead p s = _
  unfold execMemRegWaitRead
  rw [hq]
  exact read_answers h 4 q.wait.toNat (·.modMem _)

/-- Settles O2: every read has the shape of `read_answers`. -/
theorem readsClearVideoMem : Obligations.ReadsClearVideoMem := by
  unfold Obligations.ReadsClearVideoMem
  refine ⟨fun s v h => ?video, fun s h => ⟨?cntBoth, ?cntLow, ?cntHigh, ?damage, ?track⟩,
    fun s h => ⟨?fwdBoth, ?fwdLow, ?fwdHigh, ?ce, ?ue, fun p q hq => ?wait⟩⟩
  case video =>
    exact ⟨read_answers h 4 s.video.refuseWord (·.modVideo _), read_answers h 4 s.video.slow.toNat (·.modVideo _),
      read_answers h 4 s.video.concealed.toNat (·.modVideo _), read_answers h 4 _ (·.modVideo _)⟩
  case cntBoth => exact read_answers h 8 _ (·.modCapt _)
  case cntLow => exact read_answers h 4 s.capt.empty.toNat (·.modCapt _)
  case cntHigh => exact read_answers h 4 s.capt.damaged.toNat (·.modCapt _)
  case damage => exact read_answers h 4 s.capt.damageWord (·.modCapt _)
  case track =>
    exact ⟨read_answers h 4 s.track.drop.toNat (·.modTrack _), read_answers h 4 s.track.qdrop.toNat (·.modTrack _),
      read_answers h 4 s.track.rejectWord (·.modTrack _)⟩
  case fwdBoth => exact read_answers h 8 _ (·.modMem _)
  case fwdLow => exact read_answers h 4 s.mem.fwdFull.toNat (·.modMem _)
  case fwdHigh => exact read_answers h 4 s.mem.fwdPartial.toNat (·.modMem _)
  case ce => exact read_answers h 4 s.mem.ce.toNat (·.modMem _)
  case ue => exact read_answers h 4 s.mem.ueWord (·.modMem _)
  case wait =>
    refine ⟨_, exec_memRegWaitRead h hq, rfl, ?_, fun k hk => ?_⟩
    · change (lmod s.mem.ports p.toNat _)[p.toNat]? = _
      rw [getElem?_lmod, if_pos rfl, hq, Option.map_some]
    · change (lmod s.mem.ports p.toNat _)[k]? = _
      rw [getElem?_lmod, if_neg hk]

/-- Settles O3: every read has the shape of `read_answers`; the end of a window is a case of its own. -/
theorem readsClearLink : Obligations.ReadsClearLink := by
  unfold Obligations.ReadsClearLink
  refine ⟨fun s h => ?link, fun s h => ⟨?lost, ?replan, ?droop, ?mbox, fun hw => ?window⟩⟩
  case link =>
    exact ⟨read_answers h 4 s.porch.linkWord (·.modPorch _), read_answers h 4 s.porch.errWord (·.modPorch _),
      read_answers h 4 s.porch.retryWord (·.modPorch _), read_answers h 4 s.fab.errWord (·.modFab _),
      read_answers h 4 s.fab.dropWord (·.modFab _)⟩
  case lost => exact read_answers h 4 s.ras.lost.toNat (·.modRas _)
  case replan => exact read_answers h 4 s.ras.replan.toNat (·.modRas _)
  case droop => exact read_answers h 4 s.pwr.droops.toNat (·.modPwr _)
  case mbox => exact read_answers h 4 s.hearth.mboxWord (·.modHearth _)
  case window =>
    change execRateWindowEnd s = _
    unfold execRateWindowEnd
    rw [if_neg (by simp [hw])]
    rfl

/-- A read of an RC register in a window of the grade returns the Room's word and clears the register. -/
theorem readRoom_eq {s : State} {w : Nat} (h : s.regsUp = true) (hw : s.hasWindow w = true) (value : Room → Nat)
    (clear : Room → Room) :
    s.readRoom w value clear =
      { s.answers 4 (value (s.room w)) with rooms := tset s.rooms w (clear (s.room w)) } := by
  unfold State.readRoom
  rw [if_neg (by simp [h]), if_neg (by simp [hw]), reply_eq (s := s.modRoom w clear) h]
  rfl

/-- A read of ROOM_QCLIP returns as many low bytes of the counter as it is wide, fixes the snapshots and clears the counters. -/
theorem exec_roomQclipSnapshot {s : State} {w : RoomIdx} (h : s.regsUp = true) (hw : s.hasWindow w.toNat = true) (wide : Bool) :
    exec (.roomQclipSnapshot ⟨w, wide⟩) s =
      let n := if wide then 8 else 4
      .next { s.answers n ((s.room w.toNat).qclip.toNat % 2 ^ (8 * n)) with
        rooms := tset s.rooms w.toNat (s.room w.toNat).snapClip } := by
  change execRoomQclipSnapshot ⟨w, wide⟩ s = _
  unfold execRoomQclipSnapshot
  dsimp only
  rw [if_neg (by simp [h]), if_neg (by simp [hw]), reply_eq (s := s.modRoom w.toNat Room.snapClip) h, field_zero]
  rfl

/-- Settles O4: the reads of one Room register, and the snapshot of the clip pair in its two widths. -/
theorem roomReads : Obligations.RoomReads := by
  unfold Obligations.RoomReads
  intro s w h hw r after
  refine ⟨?store, ?sat, ?fault, ?low, ?whole⟩
  case store => exact congrArg _ (readRoom_eq h hw Room.storeWord _)
  case sat => exact congrArg _ (readRoom_eq h hw (·.sat.toNat) _)
  case fault => exact congrArg _ (readRoom_eq h hw (·.fault.toNat) _)
  case low => exact exec_roomQclipSnapshot h hw false
  case whole =>
    have e : r.qclip.toNat % 2 ^ 64 = r.qclip.toNat := Nat.mod_eq_of_lt r.qclip.isLt
    rw [← e]
    exact exec_roomQclipSnapshot h hw true

/-! ## Register writes -/

/-- The shape that the register writes of the model share: with the registers up and no low word held, the write takes effect
alone. -/
theorem write_gives {s t : State} (h : s.regsUp = true) (hl : s.porch.low = none) {f : State → State} (e : f s = t) :
    (.next (s.hostWriteReg f) : Outcome) = .next t := by rw [hostWriteReg_low h hl, e]

/-! ## KEY and the arming rule -/

/-- A KEY write sets the armed bit of its block as the value says, and leaves the bits of the other blocks. -/
theorem armed_writeKey (s : State) {b : Nat} (hb : b < 15) (v : W32) (k : Nat) :
    (s.writeKey b v).glb.armed.getLsbD k = if k = b then decide (v = armKey) else s.glb.armed.getLsbD k := by
  change (if v = armKey then setBit s.glb.armed b else clearBit s.glb.armed b).getLsbD k = _
  by_cases hv : v = armKey
  · rw [if_pos hv, getLsbD_setBit]
    by_cases hk : k = b <;> simp [hk, hv, hb]
  · rw [if_neg hv, getLsbD_clearBit]
    by_cases hk : k = b <;> simp [hk, hv]

/-- Settles O6 by what a KEY write does to each armed bit. -/
theorem keyWriteArms : Obligations.KeyWriteArms := by
  unfold Obligations.KeyWriteArms
  intro s b v h hl
  refine ⟨s.writeKey (blockNo b) v, write_gives h hl rfl, ?own, fun k hk => ?other, rfl⟩
  case own => rw [armed_writeKey s (blockNo_lt b), if_pos rfl]; rfl
  case other => rw [armed_writeKey s (blockNo_lt b), if_neg hk]

theorem lockedWrite_unarmed {s : State} {b : Nat} (h : s.glb.armed.getLsbD b = false) (f : State → State) :
    s.lockedWrite b f = s := if_neg (by simp [h])

theorem lockedWrite_armed {s : State} {b : Nat} (h : s.glb.armed.getLsbD b = true) (f : State → State) :
    s.lockedWrite b f = f { s with glb := { s.glb with armed := clearBit s.glb.armed b } } := if_pos h

theorem getLsbD_clearBit_self {w} (v : BitVec w) (i : Nat) : (clearBit v i).getLsbD i = false := by
  simp [getLsbD_clearBit]

/-- Settles O7: both registers are written through `State.lockedWrite`. -/
theorem lockedFieldNeedsArming : Obligations.LockedFieldNeedsArming := by
  unfold Obligations.LockedFieldNeedsArming
  intro s v h hl
  refine ⟨fun ha => ?_, fun ha => ?_, fun ha => ?_, fun ha => ?_⟩
  · exact (write_video_ctl h hl v).trans (congrArg _ (lockedWrite_unarmed ha _))
  · exact (write_hearth_ctl h hl v).trans (congrArg _ (lockedWrite_unarmed ha _))
  · exact ⟨_, (write_video_ctl h hl v).trans (congrArg _ (lockedWrite_armed ha _)), rfl, getLsbD_clearBit_self _ 7, rfl⟩
  · exact ⟨_, (write_hearth_ctl h hl v).trans (congrArg _ (lockedWrite_armed ha _)), rfl, getLsbD_clearBit_self _ 14, rfl⟩

/-! ## Writes that need no arming -/

/-- A 4-byte write below the DBG block, not of a ring base, reaches the word of its block. -/
theorem exec_write4 {s : State} (h : s.regsUp = true) (hl : s.porch.low = none) (v : W32) {o : Nat} (ha : o % 4 = 0)
    (hr : 0x300000 ≤ o) (hd : o < 0xF00000) : exec (.registerWrite o (.w32 v)) s = .next (s.writeWord o v) := by
  have hc : offCplBase + 4 < 0x300000 := by decide
  have hb : offCmdBase < offCplBase := by decide
  exact write4_low h hl o v ha hd (by omega) (by omega) (by omega) (by omega)

/-- The bytes of a write: 4 or 8, as `execRegisterWrite` takes them. -/
def formBytes : WriteForm → Nat
  | .w32 _ => 4
  | .w64 _ => 8

/-- A write that is not aligned to its size is discarded and logged (R407). -/
theorem exec_write_unaligned {s : State} (h : s.regsUp = true) (hl : s.porch.low = none) {o : Nat} {f : WriteForm}
    (ha : o % formBytes f ≠ 0) : exec (.registerWrite o f) s = .next (s.porchErr Code.barAccess none) := by
  have hu : ¬ (!s.regsUp) = true := by simp [h]
  calc exec (.registerWrite o f) s
      = .next (s.flushLow.porchErr Code.barAccess none) := by
        cases f <;> exact (if_neg hu).trans (if_pos (bne_iff_ne.mpr ha))
    _ = .next (s.porchErr Code.barAccess none) := by rw [flushLow_none hl]

/-- A write of word `k` of HEARTH_MBOX stores it. -/
theorem writeWord_mbox (s : State) (v : W32) {k : Nat} (hk : k < 16) : s.writeWord (0xE00040 + 4 * k) v =
    s.modHearth (fun h => { h with mboxRegs := lset h.mboxRegs k v }) := by
  have hb : (0xE00040 + 4 * k) / 0x100000 = 14 := by omega
  have ho : (0xE00040 + 4 * k) % 0x100000 = 0x40 + 4 * k := by omega
  have hw : s.writeWord (0xE00040 + 4 * k) v = s.writeHearth (0x40 + 4 * k) v := by
    unfold State.writeWord
    dsimp only
    rw [hb, ho, if_neg (by decide), if_neg (by omega)]
    rfl
  rw [hw]
  unfold State.writeHearth
  split
  · omega
  · omega
  · omega
  · rw [if_pos (by omega), show (0x40 + 4 * k - 0x40) / 4 = k by omega]

/-- A write of PLAN_SEM_LIMIT within [1, 1,000] µs stores it. -/
theorem writeWord_semLimit (s : State) (v : W32) (h1 : 1 ≤ v.toNat % 1024) (h2 : v.toNat % 1024 ≤ 1000) :
    s.writeWord 0x300014 v = s.modPlan (fun p => { p with semLimit := BitVec.ofNat 10 v.toNat }) := by
  have hf : field v.toNat 0 10 = v.toNat % 1024 := field_zero _ _
  have hr : inRange 1 1000 (v.toNat % 1024) = true := decide_eq_true ⟨h1, h2⟩
  have hv : BitVec.ofNat 10 (v.toNat % 1024) = BitVec.ofNat 10 v.toNat := BitVec.eq_of_toNat_eq (by simp)
  change (if inRange 1 1000 (field v.toNat 0 10) = true
    then s.modPlan (fun p => { p with semLimit := BitVec.ofNat 10 (field v.toNat 0 10) }) else s) = _
  rw [hf, if_pos hr, hv]

/-- A write of ROOM_CTL with act_clr set, while its block is not armed, clears the Room's activity counters and does no more. -/
theorem writeRoomCtl_actClr {s : State} {w : Nat} (hw : s.hasWindow w = true) {v : W32} (hv : v.getLsbD 1 = true)
    (ha : s.glb.armed.getLsbD blockRoom = false) : s.writeRoomCtl w v = s.modRoom w Room.clearAct := by
  unfold State.writeRoomCtl
  rw [if_neg (by simp [hw]), if_pos hv]
  exact lockedWrite_unarmed (s := s.modRoom w Room.clearAct) ha _

/-- A write of ROOM_QEVENT with valid set clears the Room's event. -/
theorem writeQevent_valid {s : State} {w : Nat} (hw : s.hasWindow w = true) {v : W32} (hv : v.getLsbD 31 = true) :
    s.writeQevent w v = s.modRoom w (fun r =>
      { r with qevValid := false, qevGraph := 0, qevIndex := 0, qevEvents := 0, qevShare := 0 }) :=
  if_pos (by rw [hw, hv]; rfl)

/-- Settles O8, register by register. -/
theorem registerWrites : Obligations.RegisterWrites := by
  unfold Obligations.RegisterWrites
  refine ⟨fun s v h hl => ⟨?guard, fun h1 h2 => ?semLimit, ?ack, fun k hk => ?mbox, ?reserved, fun o ho => ?word,
      fun o x ho => ?dword⟩,
    fun s w v h hl hw => ⟨fun hv ha => ?actClr, fun hv => ?qevent⟩⟩
  case guard => exact exec_write4 h hl v (by decide) (by decide) (by decide)
  case semLimit => rw [exec_write4 h hl v (by decide) (by decide) (by decide), writeWord_semLimit s v h1 h2]; rfl
  case ack => exact exec_write4 h hl v (by decide) (by decide) (by decide)
  case mbox => rw [exec_write4 h hl v (by omega) (by omega) (by omega), writeWord_mbox s v hk]; rfl
  case reserved => exact exec_write4 h hl v (by decide) (by decide) (by decide)
  case word => exact exec_write_unaligned h hl ho
  case dword => exact exec_write_unaligned h hl ho
  case actClr => exact write_gives h hl (writeRoomCtl_actClr hw hv ha)
  case qevent => exact write_gives h hl (writeQevent_valid hw hv)

/-! ## Vectors, the egress policy and the view index -/

/-- The Porch with the MSI-X table entry of vector `v` changed by `f`, before any message: what `State.msixPut` writes. -/
def Porch.putEntry (p : Porch) (v : Nat) (f : MsixEntry → MsixEntry) : Porch := { p with msix := tup p.msix v msixDefault f }

theorem msixPut_eq (s : State) (v : Nat) (f : MsixEntry → MsixEntry) :
    s.msixPut v f = (s.modPorch (·.putEntry v f)).releaseMsi v := rfl

theorem entry_putEntry (p : Porch) (v : Nat) (f : MsixEntry → MsixEntry) : (p.putEntry v f).entry v = f (p.entry v) :=
  tgetD_tup_self _ _ _ _ _

/-- The host changes an entry of the MSI-X table of which no message waits: the entry alone changes. -/
theorem msixPut_idle {s : State} {v : Nat} (h : s.porch.pba.getLsbD v = false) (f : MsixEntry → MsixEntry) :
    s.msixPut v f = s.modPorch (·.putEntry v f) := if_neg (by simp [h])

/-- The host unmasks a vector whose message waits: the message goes as the new entry says, and waits no more (R417). -/
theorem msixPut_sends {s : State} {v : Nat} {f : MsixEntry → MsixEntry} (hp : s.porch.pba.getLsbD v = true)
    (he : s.porch.cfg.msixEnable = true) (hc : s.glb.compat = false) (hf : s.porch.cfg.funcMask = false)
    (hb : s.porch.cfg.bme = true) (hs : s.silent = false) (hm : (f (s.porch.entry v)).masked = false)
    (ha : (f (s.porch.entry v)).addr.toNat % 4 = 0) :
    s.msixPut v f = { s with
      out := s.out ++ [.write (f (s.porch.entry v)).addr (le32 (f (s.porch.entry v)).data) false],
      porch := { s.porch.putEntry v f with pba := clearBit s.porch.pba v } } := by
  have hn : (s.modPorch (·.putEntry v f)).porch.entry v = f (s.porch.entry v) := entry_putEntry s.porch v f
  have hr := releaseMsi_sends (t := s.modPorch (·.putEntry v f)) hp hf (hn ▸ hm) he hc hb hs (hn ▸ ha)
  rw [msixPut_eq, hr, hn]
  rfl

/-- VIDEO_EGRESS takes a write while its block is armed and lock is 0 (R318). -/
theorem putEgress_armed {s : State} (hk : s.video.lock = false) (ha : s.glb.armed.getLsbD blockVideo = true) (v : W32) :
    s.putEgress v = { s with
      glb := { s.glb with armed := clearBit s.glb.armed blockVideo },
      video := { s.video with lock := v.getLsbD 31, declass := v.getLsbD 9, allow := v.getLsbD 8,
                              maxViews := BitVec.ofNat 6 v.toNat } } :=
  (if_neg (by simp [hk])).trans (lockedWrite_armed ha _)

theorem putEgress_locked {s : State} (hk : s.video.lock = true) (v : W32) : s.putEgress v = s := if_pos hk

/-- C of a view moves no further than P (R326). -/
theorem viewCidx_within {s : State} {n : Nat} {v : W32}
    (h : (v - s.video.cidxOf n).toNat ≤ (s.video.pidxOf n - s.video.cidxOf n).toNat) :
    s.viewCidx n v = s.modVideo (fun x => { x with cidx := tset x.cidx n v }) := if_neg (Nat.not_lt.mpr h)

theorem viewCidx_beyond {s : State} {n : Nat} {v : W32}
    (h : (s.video.pidxOf n - s.video.cidxOf n).toNat < (v - s.video.cidxOf n).toNat) : s.viewCidx n v = s := if_pos h

/-- Settles O9: the unmasked vector without and with a waiting message, and the three registers. -/
theorem vectorWrites : Obligations.VectorWrites := by
  unfold Obligations.VectorWrites
  refine ⟨fun s x k v h hl => ⟨fun hp => ?idle, fun hp he hc hf hb hs ha => ?sends, ?intx⟩,
    fun s n v h hl => ⟨fun hk ha => ?egress, fun hk => ?locked, fun hc => ?cidx, fun hc => ?beyond⟩⟩
  case idle => exact write_gives h hl (msixPut_idle hp _)
  case sends => exact write_gives h hl (msixPut_sends hp he hc hf hb hs rfl ha)
  case intx => exact write_gives h hl rfl
  case egress => exact write_gives h hl (putEgress_armed hk ha v)
  case locked => exact write_gives h hl (putEgress_locked hk v)
  case cidx => exact write_gives h hl (viewCidx_within hc)
  case beyond => exact write_gives h hl (viewCidx_beyond hc)

end Sys2Proof.Machine
end

section
/-!
Dispatch: what the Hearth does with the packet that the rings offer first (R39, R66, R68, R75).
-/
namespace Sys2Proof.Machine

/-- A packet that is started leaves the fetched ones of its ring for those in execution, in ring order, and counts as
outstanding there; its completion slot is reserved on another ring (R75, R87). -/
theorem ringCtx_startOp {s : State} {r : Nat} {c : RingCtx} (hc : s.ringCtx r = some c) (hb : c.bind ≠ r) (f : Fetched) :
    (s.startOp r f).ringCtx r = some { c with
      fetched := c.fetched.drop 1, ops := c.ops ++ [mkOp s.ring.nextOp f], outstanding := c.outstanding + 1 } := by
  have hg : tget s.ring.ctx r = some c := hc
  simp only [State.startOp, State.modRing, State.ringCtx, hg, tget_tmod_ne _ _ hb.symm, tget_tmod_self, Option.map_some]

@[simp] theorem startOp_glb (s : State) (r : Nat) (f : Fetched) : (s.startOp r f).glb = s.glb := rfl

@[simp] theorem startOp_ras (s : State) (r : Nat) (f : Fetched) : (s.startOp r f).ras = s.ras := rfl

/-- Without a recording in progress, no entry is appended (R479). -/
theorem record_none {s : State} (h : s.ras.recording = none) (kind : Nat) (body : List Byte) : s.record kind body = s := by
  simp only [State.record, h]

/-- The packet that the rings offer first is started; one that breaks a packet rule finishes at once with that rule's code
(R68). -/
theorem exec_packetDispatch {s : State} {r : Nat} {f : Fetched} (hs : s.serving = true) (hp : s.pickRing = some (r, f))
    (hf : f.fault = 0) (hr : s.ras.recording = none) :
    exec .packetDispatch s = .next ((packetFault s.glb.compat (r = 0) f.bytes).elim (s.startOp r f)
      ((s.startOp r f).finish r s.ring.nextOp)) := by
  have hnew : (s.startOp r f).record 2 (leBytes 4 r ++ f.bytes) = s.startOp r f :=
    record_none (s := s.startOp r f) hr _ _
  change Host.Outcome.next s.dispatch = _
  simp only [State.dispatch, hs, hp, hf, hnew, startOp_glb, Bool.not_true, Bool.false_eq_true, if_false, bne_self_eq_false]
  cases packetFault s.glb.compat (r = 0) f.bytes <;> rfl

/-- Settles O22: the packet starts on its ring, and the packet rules decide whether it also finishes. -/
theorem packetDispatches : Obligations.PacketDispatches := by
  unfold Obligations.PacketDispatches
  intro s r f c hs hp hc _ hb hf hr
  have hx := exec_packetDispatch hs hp hf hr
  refine ⟨ringCtx_startOp hc hb f, fun hok => ?accepted, fun e he => ?refused, rfl, rfl, rfl, rfl⟩
  case accepted => rw [hx, hok]; rfl
  case refused => rw [hx, he]; rfl

end Sys2Proof.Machine
end

section
/-!
Writes that select what a snapshot shows (R88, R269, R291, R326, R348, R375, R442, R481).
-/
namespace Sys2Proof.Machine

/-- The shape that the selecting writes share: with the registers up, the write takes effect on the state in which a held low
word has taken effect (R407). -/
theorem select_gives {s t : State} (h : s.regsUp = true) {f : State → State} (e : f s.flushLow = t) :
    (.next (s.hostWriteReg f) : Outcome) = .next t := by rw [hostWriteReg_up h, e]

/-- A selector of `w` bits that takes the low field of a word holds that word cut to `w` bits. -/
theorem ofNat_field_zero (w x : Nat) : BitVec.ofNat w (field x 0 w) = BitVec.ofNat w x := by
  rw [field_zero]
  exact BitVec.eq_of_toNat_eq (by simp)

theorem ringSel_eq (s : State) (v : W32) : s.ringSel v = { s with
    ring := { s.ring with sel := BitVec.ofNat 20 v.toNat, snap := ctxBytes (s.ringCtx (v.toNat % 2 ^ 20)) } } := by
  unfold State.ringSel
  dsimp only
  rw [ofNat_field_zero, field_zero]

/-- Settles O5: a selector's snapshot is taken of the entry that its low field names. -/
theorem selectWrites : Obligations.SelectWrites := by
  unfold Obligations.SelectWrites
  refine ⟨fun s v h => ⟨?ring, ?seq, ?pool, ?stream⟩, fun s v h => ⟨?source, ?track, ?port, ?log⟩⟩
  case ring => exact select_gives h (ringSel_eq _ v)
  case seq => exact select_gives h (by rw [State.seqSel, field_zero]; rfl)
  case pool => exact select_gives h rfl
  case stream => exact select_gives h (by rw [State.streamSel, field_zero]; rfl)
  case source => exact select_gives h (by rw [State.srcSel, field_zero]; rfl)
  case track => exact select_gives h (by rw [State.trackSel, field_zero]; rfl)
  case port => exact select_gives h (by rw [State.portSel, field_zero]; rfl)
  case log => exact select_gives h rfl

end Sys2Proof.Machine
end

section
/-!
Rules of the ring tables that the proofs about rings share.
-/
namespace Sys2Proof.Machine

/-! ## Contexts -/

theorem tmod_id {α : Type} (t : Tab α) (k : Nat) {f : α → α} (h : ∀ a, f a = a) : tmod t k f = t := by
  refine (List.map_congr_left fun p _ => ?_).trans (List.map_id t)
  by_cases hp : p.1 = k
  · rw [if_pos hp, h, ← hp]; rfl
  · rw [if_neg hp]; rfl

/-- The contexts depend on the ring manager's table alone. -/
theorem ringCtx_congr {s t : State} (h : t.ring.ctx = s.ring.ctx) (n : Nat) : t.ringCtx n = s.ringCtx n :=
  congrArg (tget · n) h

/-- The context of a ring that is there after it was changed. -/
theorem ringCtx_modRing_self {s : State} {r : Nat} {c : RingCtx} (hc : s.ringCtx r = some c) (f : RingCtx → RingCtx) :
    (s.modRing r f).ringCtx r = some (f c) := by
  rw [ringCtx_modRing, if_pos rfl, hc, Option.map_some]

theorem ringCtx_modRing_ne (s : State) {r n : Nat} (hn : n ≠ r) (f : RingCtx → RingCtx) :
    (s.modRing r f).ringCtx n = s.ringCtx n := by
  rw [ringCtx_modRing, if_neg hn]

/-! ## Packets in execution -/

theorem zero_ne_mbox : 0 ≠ mboxRing := by decide

/-- The packets of a ring depend on its context alone. -/
theorem opsOf_of_ringCtx {s t : State} {r : Nat} (h : t.ringCtx r = s.ringCtx r) (hr : r ≠ mboxRing) :
    t.opsOf r = s.opsOf r := by
  simp only [State.opsOf, if_neg hr, h]

/-- A packet of a ring that finishes: the ring tables change, of no other ring's context, and the packet has its status. -/
theorem finish_gives {s : State} {r : Nat} {o : Op} (ho : o ∈ s.opsOf r) (hr : r ≠ mboxRing) (c : W32) : ∃ x y,
    s.finish r o.id c = { s with ring := { s.ring with ctx := x, ready := y } } ∧ (∀ n, n ≠ r → tget x n = s.ringCtx n) ∧
    State.statusOf { s with ring := { s.ring with ctx := x, ready := y } } r o.id = some c := by
  obtain ⟨x, y, e, hx, -⟩ := finish_form s hr o.id c
  exact ⟨x, y, e, hx, e ▸ State.statusOf_finish ho hr c⟩

/-! ## Messages -/

/-- A message owed changes nothing but what is owed. -/
theorem oweMsi_form (s : State) (v : Nat) : ∃ w, s.oweMsi v = { s with porch := { s.porch with owed := w } } := by
  unfold State.oweMsi
  split <;> exact ⟨_, rfl⟩

theorem holdRoom_of_bme {s : State} (h : s.porch.cfg.bme = true) (n : Nat) : s.holdRoom n = true := by
  rw [State.holdRoom, h, Bool.true_or]

end Sys2Proof.Machine
end

section
/-!
Doorbells: what one does to a ring of each state, and the fault that one out of bounds gives (R58 to R62, R80, R81, R84).
-/
namespace Sys2Proof.Machine

/-- With the registers up, the low word of a doorbell slot is the ring's index. -/
theorem exec_doorbell_low {s : State} (h : s.regsUp = true) (r : RingId) (v : W32) :
    exec (.doorbellWrite r (.low v)) s = .next (s.doorbell r.toNat v) := if_neg (by simp [h])

theorem exec_doorbell_high {s : State} (h : s.regsUp = true) (r : RingId) (v : W32) :
    exec (.doorbellWrite r (.high v)) s = .next s := if_neg (by simp [h])

theorem exec_doorbell_both {s : State} (h : s.regsUp = true) (r : RingId) (x : W64) :
    exec (.doorbellWrite r (.both x)) s = .next (s.doorbell r.toNat (BitVec.ofNat 32 x.toNat)) := if_neg (by simp [h])

/-- A doorbell of a ring that is FREE or being destroyed is counted, and the first such ring latched (R80). -/
theorem doorbell_orphan {s : State} {r : RingId} (h : ∀ k, s.ringCtx r.toNat = some k → k.state = .destroying) (v : W32) :
    s.doorbell r.toNat v = { s with ring := { s.ring with
      orphanValid := true, orphanCount := satAdd s.ring.orphanCount 1,
      orphanRing := if s.ring.orphanValid then s.ring.orphanRing else r } } := by
  unfold State.doorbell
  cases hc : s.ringCtx r.toNat with
  | none => simp only [BitVec.ofNat_toNat, BitVec.setWidth_eq]
  | some k => simp only [h k hc, BitVec.ofNat_toNat, BitVec.setWidth_eq]

theorem doorbell_faulted {s : State} {r : Nat} {c : RingCtx} (hc : s.ringCtx r = some c) (hf : c.state = .faulted) (v : W32) :
    s.doorbell r v = s := by
  simp only [State.doorbell, hc, hf]

/-- A doorbell of an ACTIVE COMMAND ring whose context reads well moves P, up to C + 2^s (R60). -/
theorem doorbell_command {s : State} {r : Nat} {c : RingCtx} (hc : s.ringCtx r = some c) (ha : c.state = .active)
    (hp : (s.ctxAway r && s.poisoned (s.ctxAddr r) 64) = false) (hk : c.kind = .command) (v : W32) :
    s.doorbell r v = if v = c.pidx then s
      else if 2 ^ c.log2Size < (v - c.cidx).toNat then s.modRing r RingCtx.overrun
      else s.modRing r (fun c => { c with pidx := v, bells := c.bells ++ [(v, s.now)] }) := by
  simp only [State.doorbell, hc, ha, hp, hk, Bool.false_eq_true, if_false]

/-- A doorbell of an ACTIVE record ring whose context reads well moves C, up to P (R62). -/
theorem doorbell_record {s : State} {r : Nat} {c : RingCtx} (hc : s.ringCtx r = some c) (ha : c.state = .active)
    (hp : (s.ctxAway r && s.poisoned (s.ctxAddr r) 64) = false) (hk : c.kind ≠ .command) (v : W32) :
    s.doorbell r v = if v = c.cidx then s
      else if (c.pidx - c.cidx).toNat < (v - c.cidx).toNat then s.recordRingFault r Code.dbOverrun
      else s.modRing r (fun c => { c with cidx := v }) := by
  simp only [State.doorbell, hc, ha, hp, Bool.false_eq_true, if_false]

/-- A record ring's context after its fault (R84). -/
def RingCtx.recordFault (c : RingCtx) (code : W32) : RingCtx := { c with state := .faulted, fault := code, waiting := [] }

/-- The RING block after the fault of record ring `r`, which was `c`: the first fault is latched, and the records that waited
are counted (R84). -/
def Rings.recordFault (g : Rings) (r : Nat) (c : RingCtx) (code : W32) : Rings :=
  { g with ctx := tmod g.ctx r (·.recordFault code), dropped := satAdd g.dropped c.waiting.length, faultValid := true,
           faultKind := if g.faultValid then g.faultKind else BitVec.ofNat 2 (kindCode c.kind),
           faultRing := if g.faultValid then g.faultRing else BitVec.ofNat 20 r,
           faultPend := if g.faultValid then g.faultPend else Code.low code }

/-- The state as the fault is logged: the RING block alone has changed. -/
def State.recordFault (s : State) (r : Nat) (c : RingCtx) (code : W32) : State :=
  { s with ring := s.ring.recordFault r c code }

theorem recordRingFault_eq {s : State} {r : Nat} {c : RingCtx} (hc : s.ringCtx r = some c) (code : W32) :
    s.recordRingFault r code = ((s.recordFault r c code).log
      { status := code, unit := 11, ctx := BitVec.ofNat 32 (2 ^ 31 + r) }).oweMsi s.porch.evtVec.toNat := by
  unfold State.recordRingFault
  cases hv : s.ring.faultValid <;>
    simp only [hc, State.modRing_ring, hv, State.recordFault, Rings.recordFault, if_true, Bool.false_eq_true, if_false]
  all_goals rfl

/-- A record ring that faults: the RING block changes, an entry joins the RAS log, and a message is owed. -/
theorem recordRingFault_form {s : State} {r : Nat} {c : RingCtx} (hc : s.ringCtx r = some c) (code : W32) : ∃ p b,
    s.recordRingFault r code = { s.recordFault r c code with porch := p, ras := s.ras.append b } := by
  rw [recordRingFault_eq hc]
  generalize ({ status := code, unit := 11, ctx := BitVec.ofNat 32 (2 ^ 31 + r) } : LogEntry) = entry
  obtain ⟨_, _, _, _, _, b, hlog⟩ := log_form (s.recordFault r c code) entry
  obtain ⟨w, howe⟩ := oweMsi_form ((s.recordFault r c code).log entry) s.porch.evtVec.toNat
  rw [howe, hlog]
  exact ⟨_, b, rfl⟩

/-- A COMMAND ring that reads no packet faults at once, its record behind the packets fetched before (R81). -/
theorem overrun_idle {c : RingCtx} (h : c.busy = false) : c.overrun = c.cmdFault Code.dbOverrun [] := by
  rw [RingCtx.overrun, h]
  rfl

/-- Settles O17: a doorbell by the state and the kind of its ring, within bounds and beyond. -/
theorem doorbells : Obligations.Doorbells := by
  unfold Obligations.Doorbells
  refine ⟨fun s r v x c h => ⟨exec_doorbell_high h r v, ?both, fun ho => ?orphan, fun hc hf => ?faulted,
      fun hc ha hp => ⟨fun hk => ⟨fun hv => ?sameP, fun hv hb => ?movesP⟩,
        fun hk => ⟨fun hv => ?sameC, fun hv hb => ?movesC⟩⟩⟩,
    fun s r v c h hc ha hp => ⟨fun hk hb hv ho => ?overrun, fun hk hv ho => ?fault⟩⟩
  case both => rw [exec_doorbell_both h, exec_doorbell_low h]
  case orphan => rw [exec_doorbell_low h, doorbell_orphan ho]
  case faulted => rw [exec_doorbell_low h, doorbell_faulted hc hf]
  case sameP => rw [exec_doorbell_low h, doorbell_command hc ha hp hk, if_pos hv]
  case movesP => rw [exec_doorbell_low h, doorbell_command hc ha hp hk, if_neg hv, if_neg (Nat.not_lt.mpr hb)]
  case sameC => rw [exec_doorbell_low h, doorbell_record hc ha hp hk, if_pos hv]
  case movesC => rw [exec_doorbell_low h, doorbell_record hc ha hp hk, if_neg hv, if_neg (Nat.not_lt.mpr hb)]
  case overrun =>
    refine ⟨s.modRing r.toNat RingCtx.overrun, ?_, ⟨c.cmdFault Code.dbOverrun [], c.faultEntry Code.dbOverrun [], ?_,
      rfl, rfl, rfl, rfl, rfl, rfl, rfl⟩, fun n hn => ?_, rfl⟩
    · rw [exec_doorbell_low h, doorbell_command hc ha hp hk, if_neg hv, if_pos ho]
    · rw [ringCtx_modRing_self hc, overrun_idle hb]
    · exact ringCtx_modRing_ne s hn _
  case fault =>
    obtain ⟨p, b, hf⟩ := recordRingFault_form hc Code.dbOverrun
    have hctx (n : Nat) := ringCtx_congr (s := s.modRing r.toNat (·.recordFault Code.dbOverrun))
      (t := { s.recordFault r.toNat c Code.dbOverrun with porch := p, ras := s.ras.append b }) rfl n
    refine ⟨_, ?_, (hctx _).trans (ringCtx_modRing_self hc _), fun n hn => (hctx n).trans (ringCtx_modRing_ne s hn _), rfl, ?_,
      rfl, append_head _ b, rfl⟩
    · rw [exec_doorbell_low h, doorbell_record hc ha hp hk, if_neg hv, if_pos ho, hf]
    · simp only [State.recordFault, Rings.recordFault, BitVec.ofNat_toNat, BitVec.setWidth_eq]

end Sys2Proof.Machine
end

section
/-!
The life of a ring: RING_CREATE, RING_DESTROY and its end, and the admin pair (R56, R57, R80, R83, R85, R86, R89).
-/
namespace Sys2Proof.Machine

/-! ## Creation -/

/-- RING_CREATE whose checks hold writes the context that its packet describes and completes with success (R85). -/
theorem exec_ringCreate {s : State} {o : Op} (ho : Offers s 0 0x10 o) (h : ∀ c ∈ s.ringCreateChecks o.bytes, c.1 = true) :
    exec .ringCreate s = .next ((s.setRing (rd o.bytes 16 4) (ringOfPacket o.bytes)).finish 0 o.id Code.ok) := by
  change Host.Outcome.next (s.withOp _ _ _) = _
  rw [ho.withOp, State.checked_ok h]

/-- RING_CREATE never names an admin ring (R85 check 2). -/
theorem ringCreateChecks_ring {s : State} {b : List Byte} (h : ∀ c ∈ s.ringCreateChecks b, c.1 = true) : 2 ≤ rd b 16 4 :=
  of_decide_eq_true (h (decide (2 ≤ rd b 16 4), Code.ringId) (by simp [State.ringCreateChecks]))

/-! ## Destruction -/

/-- RING_DESTROY of a ring that is there, goes on and has nothing bound begins to destroy it (R86). -/
theorem exec_ringDestroy {s : State} {o : Op} {c : RingCtx} (ho : Offers s 0 0x11 o) (h2 : 2 ≤ rd o.bytes 16 4)
    (h20 : rd o.bytes 16 4 < 2 ^ 20) (hc : s.ringCtx (rd o.bytes 16 4) = some c) (hd : c.state ≠ .destroying)
    (hb : s.ringBound (rd o.bytes 16 4) = false) :
    exec .ringDestroy s = .next ((s.beginOp 0 o.id).destroyRing (rd o.bytes 16 4) (some o.id)) := by
  change Host.Outcome.next (s.withOp _ _ _) = _
  rw [ho.withOp]
  dsimp only
  rw [if_neg (Nat.not_le.mpr h20), if_neg (Nat.not_lt.mpr h2), hc, if_neg (by simpa using hd), if_neg (by simp [hb])]

theorem ringCtx_destroyRing (s : State) (r n : Nat) (d : Option Nat) :
    (s.destroyRing r d).ringCtx n = if n = r then (s.ringCtx n).map (·.destroy d) else s.ringCtx n :=
  (ringCtx_congr rfl n).trans (ringCtx_modRing s r n (·.destroy d))

/-- A packet that is taken up leaves the contexts of the other rings. -/
theorem ringCtx_beginOp (s : State) {r n : Nat} (id : Nat) (hr : r ≠ mboxRing) (hn : n ≠ r) :
    (s.beginOp r id).ringCtx n = s.ringCtx n := by
  obtain ⟨x, e, hx, -⟩ := modOp_form s hr id (fun o => { o with started := true, waits := true })
  rw [State.beginOp, e]
  exact hx n hn

/-- What goes on on a ring goes on while another ring's destruction begins. -/
theorem goesOn_destroyRing {s : State} {r id : Nat} (h : s.goesOn r id) (hr : r ≠ mboxRing) {n : Nat} (hn : r ≠ n)
    (d : Option Nat) : (s.destroyRing n d).goesOn r id := by
  obtain ⟨o, ho, hs, hf⟩ := h
  refine ⟨o, ?_, hs, hf⟩
  rw [State.findOp, opsOf_of_ringCtx ((ringCtx_destroyRing s n r d).trans (if_neg hn)) hr]
  exact ho

/-- A ring without packets gives no reservation back when its context is cleared. -/
theorem freeRing_eq (s : State) (r : Nat) {c : RingCtx} (h : c.ops = []) : s.freeRing r c =
    { s with ring := { s.ring with ctx := tdel s.ring.ctx r, ready := s.ring.ready.filter (· != r) } } := by
  unfold State.freeRing State.modRing
  dsimp only
  rw [tmod_id s.ring.ctx c.bind (fun k => by rw [h]; rfl)]

/-- RING_DESTROY_DONE of a ring whose records are written and for which no reference waits: the context goes, and the packet
that asked for it completes (R80). -/
theorem exec_ringDestroyDone {s : State} {r : RingId} {c : RingCtx} {id : Nat} (hc : s.ringCtx r.toNat = some c)
    (hs : c.state = .destroying) (ho : c.ops = []) (hd : c.destroyer = some id) (hp : ∀ d ∈ s.plan.refsDue, d.1 ≠ r.toNat) :
    exec (.ringDestroyDone r) s = .next ((s.freeRing r.toNat c).finish 0 id Code.ok) := by
  have hdrop : (s.freeRing r.toNat c).dropDue (fun d => d.1 = r.toNat) = s.freeRing r.toNat c :=
    dropDue_free (s := s.freeRing r.toNat c) fun d h => decide_eq_false (hp d h)
  have hspent : s.ringSpent c = true := by simp [State.ringSpent, ho]
  change execRingDestroyDone r s = _
  simp only [execRingDestroyDone, hc, hs, hspent, hdrop, hd]
  rfl

/-! ## The admin pair -/

theorem admOpen_of {s : State} (he : s.ring.admEnable = false) (h0 : s.ringCtx 0 = none) (h1 : s.ringCtx 1 = none) :
    s.admOpen = true := by simp [State.admOpen, he, h0, h1]

/-- The fields of a write of RING_ADMIN_CTL, while it accepts writes (R88, R89). -/
theorem admFields_eq {s : State} (h : s.admOpen = true) (v : W32) :
    let l := v.toNat / 2 ^ 8 % 2 ^ 4
    s.admFields v = { s with ring := { s.ring with
      admVector := BitVec.ofNat 11 (v.toNat / 2 ^ 16 % 2 ^ 11), admLog2 := BitVec.ofNat 4 (if 6 ≤ l then l else 6),
      admHbm := v.getLsbD 1 } } := by
  have hl : v.toNat / 2 ^ 8 % 2 ^ 4 ≤ 16 := by omega
  unfold State.admFields
  rw [if_neg (by simp [h])]
  simp only [field, hl, and_true]

/-- While the device is SERVING or in MAINTENANCE, setting enable makes the pair (R88). -/
theorem admSet_eq {s : State} (h : s.admOpen = true) (hd : s.glb.dev = .serving ∨ s.glb.dev = .maintenance) (v : W32) :
    s.admSet v = (s.admFields v).createAdmin := by
  have hdev : ((s.admFields v).glb.dev == .serving || (s.admFields v).glb.dev == .maintenance) = true := by
    rw [admFields_eq h]
    rcases hd with hd | hd <;> simp [hd]
  unfold State.admSet
  dsimp only
  rw [if_neg (by simp [h]), if_pos hdev]

theorem ringCtx_createAdmin (s : State) : let g := s.ring
    s.createAdmin.ringCtx 0 = some (newRing .command g.admLog2.toNat g.admHbm 0 0 g.cmdBase 1 0) ∧
    s.createAdmin.ringCtx 1 = some (newRing .completion g.admLog2.toNat g.admHbm 0 g.admVector.toNat g.cplBase 0 0) ∧
    ∀ k, 2 ≤ k → s.createAdmin.ringCtx k = s.ringCtx k := by
  refine ⟨?_, tget_tset_self .., fun k hk => ?_⟩
  · exact (tget_tset_ne _ _ (by decide)).trans (tget_tset_self ..)
  · exact (tget_tset_ne _ _ (by omega)).trans (tget_tset_ne _ _ (by omega))

/-- Settles O18: the packets by what their ring's context becomes, and the admin pair by the writes of RING_ADMIN_CTL. -/
theorem ringLifecycle : Obligations.RingLifecycle := by
  unfold Obligations.RingLifecycle
  refine ⟨fun s o => ⟨fun ho h => ?create, fun c ho h2 h20 hc hd hb hf => ?destroy, fun r c p hc hs ho hd h2 hp hf => ?done⟩,
    fun s v h hl => ⟨fun hv he h0 h1 hd => ?enable, fun hv he hb => ?disable⟩⟩
  case create =>
    have h2 := ringCreateChecks_ring h
    have hset (n : Nat) := ringCtx_setRing s (rd o.bytes 16 4) n (ringOfPacket o.bytes)
    have hops := opsOf_of_ringCtx ((hset 0).trans (if_neg (by omega))) zero_ne_mbox
    obtain ⟨x, y, e, hx, hst⟩ := finish_gives (hops ▸ ho.mem) zero_ne_mbox Code.ok
    refine ⟨_, (exec_ringCreate ho h).trans (congrArg _ e), hst, (hx _ (by omega)).trans ((hset _).trans (if_pos rfl)),
      fun n hn h0 => (hx n h0).trans ((hset n).trans (if_neg hn)), rfl⟩
  case destroy =>
    have h0 : rd o.bytes 16 4 ≠ 0 := by omega
    refine ⟨_, exec_ringDestroy ho h2 h20 hc hd hb, ⟨c.destroy (some o.id), ?_, rfl, rfl, rfl, rfl, rfl⟩,
      goesOn_destroyRing (State.goesOn_beginOp ho.mem zero_ne_mbox hf) zero_ne_mbox h0.symm _, fun n hn hn0 => ?_, ?_⟩
    · rw [ringCtx_destroyRing, if_pos rfl, ringCtx_beginOp s _ zero_ne_mbox h0, hc]; rfl
    · rw [ringCtx_destroyRing, if_neg hn, ringCtx_beginOp s _ zero_ne_mbox hn0]
    · obtain ⟨x, e, -⟩ := modOp_form s zero_ne_mbox o.id (fun o => { o with started := true, waits := true })
      rw [State.beginOp, e]; rfl
  case done =>
    have hfree := freeRing_eq s r.toNat ho
    have hdel (n : Nat) (hn : n ≠ r.toNat) : (s.freeRing r.toNat c).ringCtx n = s.ringCtx n := by
      rw [hfree]; exact tget_tdel_ne _ hn
    have hfind : (s.opsOf 0).find? (fun q => q.id == o.id) = some p := hf
    have hid : p.id = o.id := by simpa using List.find?_some hfind
    have hmem : p ∈ (s.freeRing r.toNat c).opsOf 0 := by
      rw [opsOf_of_ringCtx (hdel 0 (by omega)) zero_ne_mbox]
      exact List.mem_of_find?_eq_some hfind
    obtain ⟨x, y, e, hx, hst⟩ := finish_gives hmem zero_ne_mbox Code.ok
    rw [hid] at e hst
    refine ⟨_, (exec_ringDestroyDone hc hs ho hd hp).trans (congrArg _ e), (hx _ (by omega)).trans ?_, hst,
      fun n hn h0 => (hx n h0).trans (hdel n hn), ?_⟩
    · rw [hfree]; exact tget_tdel_self ..
    · rw [hfree]
  case enable =>
    have ha := admOpen_of he h0 h1
    have hx : exec (.adminRingsEnable v) s = .next (s.admFields v).createAdmin :=
      write_gives h hl ((if_pos hv).trans (admSet_eq ha hd v))
    have hsize : (BitVec.ofNat 4 (if 6 ≤ v.toNat / 2 ^ 8 % 2 ^ 4 then v.toNat / 2 ^ 8 % 2 ^ 4 else 6)).toNat =
        if 6 ≤ v.toNat / 2 ^ 8 % 2 ^ 4 then v.toNat / 2 ^ 8 % 2 ^ 4 else 6 :=
      (BitVec.toNat_ofNat _ 4).trans (Nat.mod_eq_of_lt (by split <;> omega))
    have hvec : (BitVec.ofNat 11 (v.toNat / 2 ^ 16 % 2 ^ 11)).toNat = v.toNat / 2 ^ 16 % 2 ^ 11 :=
      (BitVec.toNat_ofNat _ 11).trans (Nat.mod_mod _ _)
    obtain ⟨hcmd, hcpl, hrest⟩ := ringCtx_createAdmin (s.admFields v)
    rw [admFields_eq ha] at hx hcmd hcpl hrest
    dsimp only at hcmd hcpl
    rw [hsize] at hcmd hcpl
    rw [hvec] at hcpl
    exact ⟨_, hx, hcmd, hcpl, hrest, rfl, rfl⟩
  case disable =>
    have hb' : s.ring.ctx.any (fun p => p.1 != 0 && p.2.kind == .command && p.2.bind = 1) = false := by
      simpa [List.any_eq_false] using hb
    refine write_gives h hl ((if_neg (ne_true_of_eq_false hv)).trans ?_)
    unfold State.admClear
    rw [if_neg (by simp [he]), hb']
    rfl

end Sys2Proof.Machine
end

section
/-!
NOP, QUERY and the mailbox (R69, R512, R513, R514).
-/
namespace Sys2Proof.Machine

/-- NOP of the packet that its source offers completes with success, and no action of the Hearth waits for it (R69). -/
theorem exec_nop {s : State} {src : Src} {o : Op} (ha : s.hearth.actionWaits = none) (hw : ∀ f, s.withOp src 0x01 f = f o s) :
    exec (.nop src) s = .next (s.finish (srcRing src) o.id Code.ok) := by
  change Host.Outcome.next (s.withOp _ _ _).afterMbox = _
  rw [hw]
  exact congrArg _ (afterMbox_none ((finish_actionWaits s _ o.id Code.ok).trans ha))

/-- Where the block that a QUERY packet asks for goes (R513). -/
def State.queryEffect (s : State) (r : Nat) (b : List Byte) : State :=
  let t := s.queryBlock (rd b 16 1)
  if r = mboxRing then s.modHearth (fun h => { h with report := padTo 128 t }) else s.dataWrite (rd b 24 8) t

theorem queryEffect_actionWaits (s : State) (r : Nat) (b : List Byte) :
    (s.queryEffect r b).hearth.actionWaits = s.hearth.actionWaits := by
  unfold State.queryEffect
  dsimp only
  split
  · rfl
  · rw [State.dataWrite_hearth]

/-- QUERY of a block that may be asked for puts the block where its source gets it and completes with success (R512, R513). -/
theorem exec_query {s : State} {src : Src} {o : Op} (ha : s.hearth.actionWaits = none) (hw : ∀ f, s.withOp src 0x03 f = f o s)
    (hb : rd o.bytes 16 1 ≤ 3) (hd : srcRing src ≠ mboxRing → rd o.bytes 24 8 % 64 = 0)
    (hs : s.glb.dev = .starting → rd o.bytes 16 1 = 0) :
    exec (.query src) s = .next ((s.queryEffect (srcRing src) o.bytes).finish (srcRing src) o.id Code.ok) := by
  have hok : ¬ (decide (3 < rd o.bytes 16 1) || (srcRing src != mboxRing && rd o.bytes 24 8 % 64 != 0)
      || (s.glb.dev == .starting && rd o.bytes 16 1 != 0)) = true := by
    simp only [Bool.or_eq_true, Bool.and_eq_true, decide_eq_true_eq, bne_iff_ne, beq_iff_eq]
    rintro ((h | ⟨h, hne⟩) | ⟨h, hne⟩)
    · omega
    · exact hne (hd h)
    · exact hne (hs h)
  have hwait := (finish_actionWaits (s.queryEffect (srcRing src) o.bytes) (srcRing src) o.id Code.ok).trans
    ((queryEffect_actionWaits s _ _).trans ha)
  change Host.Outcome.next (s.withOp _ _ _).afterMbox = _
  rw [hw, ← afterMbox_none hwait]
  exact congrArg (fun t => Host.Outcome.next (State.afterMbox t)) (if_neg hok)

/-- A device that works is not in STARTING. -/
theorem dev_ne_starting_of_working {s : State} (h : s.working = true) : s.glb.dev ≠ .starting := by
  intro hd
  simp [State.working, hd] at h

/-- The packet in HEARTH_MBOX, as the mailbox takes it. -/
def State.mboxOp (s : State) : Op :=
  mkOp s.ring.nextOp { idx := 0, bytes := s.hearth.mboxRegs.flatMap le32, bell := s.now, fault := 0 }

/-- A mailbox that serves nothing takes the packet in HEARTH_MBOX, where it breaks no rule of the mailbox (R512, R514). -/
theorem mailboxGo_eq {s : State} {v : W32} (hv : v.getLsbD 0 = true) (hm : s.hearth.mbox = none)
    (hf : mboxFault (s.hearth.mboxRegs.flatMap le32) = none) : s.mailboxGo v = { s with
      ring := { s.ring with nextOp := s.ring.nextOp + 1 },
      hearth := { s.hearth with mbox := some s.mboxOp } } := by
  unfold State.mailboxGo
  simp only [hv, hm, hf]
  rfl

/-- Settles O19: the two commands by their source, and the write that gives the mailbox a packet. -/
theorem nopQueryMailbox : Obligations.NopQueryMailbox := by
  unfold Obligations.NopQueryMailbox
  intro s r o v ha
  refine ⟨fun ho => ⟨exec_nop ha ho.withOp, ho.finish rfl _⟩, fun hm h1 h2 h3 => ?nop, fun hm h1 h2 h3 hb hs => ?query,
    fun ho hb hd => ⟨?ringQuery, ho.finish (State.dataWrite_ring ..) _⟩, fun h hl hv hm hf => ?go⟩
  case nop =>
    obtain ⟨b, hb, e⟩ := finish_mbox hm Code.ok
    exact ⟨_, (exec_nop ha (withOp_mbox hm h1 h2 h3)).trans (congrArg _ e), rfl, rfl, hb, rfl⟩
  case query =>
    obtain ⟨b, hc, e⟩ := finish_mbox (s := s.queryEffect mboxRing o.bytes) hm Code.ok
    exact ⟨_, (exec_query ha (withOp_mbox hm h1 h2 h3) hb (absurd rfl) hs).trans (congrArg _ e), rfl, rfl, rfl, hc, rfl⟩
  case ringQuery =>
    have hr : s.queryEffect r.toNat o.bytes = s.dataWrite (rd o.bytes 24 8) (s.queryBlock (rd o.bytes 16 1)) :=
      if_neg (ringId_ne_mbox r)
    rw [← hr]
    exact exec_query ha ho.withOp hb (fun _ => hd) (fun hs => absurd hs (dev_ne_starting_of_working ho.2.2))
  case go => exact ⟨_, write_gives h hl (mailboxGo_eq hv hm hf), ⟨_, rfl, rfl, rfl, rfl⟩, rfl⟩

end Sys2Proof.Machine
end

section
/-!
Fetching: the one-slot packet at C of a COMMAND ring, in HBM and in host memory (R64, R66, R67, R68).
-/
namespace Sys2Proof.Machine

/-- The ring manager reads the first slot of the packet at C of an ACTIVE COMMAND ring next (R64). -/
structure State.HeadDue (s : State) (r : Nat) (c : RingCtx) : Prop where
  ctx : s.ringCtx r = some c
  kind : c.kind = .command
  active : c.state = .active
  idle : c.reading = false
  head : c.head = []
  announced : c.occupancy ≠ 0
  serving : s.serving = true

/-- The first slot of the packet at C of a ring in HBM is read at once, where no block of it reports MEM_UE. -/
theorem fetch_hbm {s : State} {r : Nat} {c : RingCtx} (h : s.HeadDue r c)
    (hm : c.hbm = true) (hb : s.hbmSlotsBad c c.cidx 1 = false) :
    s.fetch r = s.modRing r (fun _ => c.gotHead (s.hbmSlots c c.cidx 1) s.glb.compat s.now) := by
  simp [State.fetch, h.ctx, h.kind, RingCtx.fetching, h.active, h.idle, h.head, h.announced, h.serving, hm, hb]

/-- A one-slot packet with the expected seq is delivered (R67). -/
theorem gotHead_delivers {c : RingCtx} {b : List Byte} (hq : rd32 b 4 = c.seqNext) (hl : (rd8 b 3).toNat ≤ 1) (x : Bool)
    (t : W64) : c.gotHead b x t = c.deliver b x 1 t := by
  have h2 : 1 ≤ 2 ^ c.log2Size := Nat.one_le_two_pow
  unfold RingCtx.gotHead
  dsimp only
  rw [if_neg (by simp [hq]), if_neg (by omega), if_pos hl]

/-- A packet with a wrong seq faults its ring (R67). -/
theorem gotHead_faults {c : RingCtx} {b : List Byte} (hq : rd32 b 4 ≠ c.seqNext) (x : Bool) (t : W64) :
    c.gotHead b x t = c.cmdFault Code.pktSequence (nativeHead x b) := if_pos (bne_iff_ne.mpr hq)

theorem slotSize_bounds (s : State) : 0 < s.slotSize ∧ s.slotSize ≤ 128 := by
  unfold State.slotSize
  split <;> decide

/-- A device that serves has not stopped its outputs. -/
theorem not_stopped_of_serving {s : State} (h : s.serving = true) : s.glb.stopped = false := by
  simp only [State.serving, Bool.and_eq_true, Bool.not_eq_true'] at h
  exact h.2

/-- A request goes out at once under a new tag while Bus Master Enable is 1 and a tag is free (R411, R414). -/
theorem readPiece_issues {s : State} (hs : s.glb.stopped = false) (hl : s.porch.lost = false) (hb : s.porch.cfg.bme = true)
    (w : ReadFor) (a : W64) (n o : Nat) (g : Bool) : s.readPiece w a n o g = s.issueRead w a n o g := by
  simp only [State.readPiece, hs, hl, hb, Bool.or_self, Bool.false_eq_true, if_false, if_true]

/-- For a ring in host memory, a read of the first slot is issued while requests go out and a tag is free. -/
theorem fetch_host {s : State} {r : Nat} {c : RingCtx} (h : s.HeadDue r c)
    (hm : c.hbm = false) (hl : s.porch.lost = false) (hb : s.porch.cfg.bme = true) :
    s.fetch r = (s.modRing r (fun c => { c with reading := true })).issueRead (.slot r)
      (BitVec.ofNat 64 (c.slotAddr s.slotSize c.cidx)) s.slotSize 0 false := by
  obtain ⟨h0, h128⟩ := slotSize_bounds s
  have hx : s.fetch r = (s.modRing r (fun c => { c with reading := true })).hostRead (.slot r)
      (BitVec.ofNat 64 (c.slotAddr s.slotSize c.cidx)) s.slotSize := by
    simp [State.fetch, h.ctx, h.kind, RingCtx.fetching, h.active, h.idle, h.head, h.announced, h.serving, hm]
  rw [hx, hostRead_one _ _ _ h0 h128]
  exact readPiece_issues (s := s.modRing r _) (not_stopped_of_serving h.serving) hl hb _ _ _ _ _

/-- Settles O21: the packet that joins the fetched ones, the wrong seq, and the read issued. -/
theorem packetFetches : Obligations.PacketFetches := by
  unfold Obligations.PacketFetches
  intro s r c hc hk ha hr hh ho hs
  have due : s.HeadDue r.toNat c := ⟨hc, hk, ha, hr, hh, ho, hs⟩
  refine ⟨fun hm hb hq hl hp => ?delivered, fun hm hb hq => ?faulted, fun hm hlost hbme hn => ?issued⟩
  case delivered =>
    obtain ⟨f, l, hd, hidx, hbytes, hfault⟩ := deliver_form (s.hbmSlots c c.cidx 1) s.glb.compat 1 s.now hp
    have hx := fetch_hbm due hm hb
    rw [gotHead_delivers hq hl, hd] at hx
    exact ⟨_, congrArg Host.Outcome.next hx,
      ⟨_, f, ringCtx_modRing_self hc _, rfl, rfl, ha, rfl, rfl, hidx, hbytes, hfault⟩,
      fun n hn => ringCtx_modRing_ne s hn _, rfl⟩
  case faulted =>
    have hx := fetch_hbm due hm hb
    rw [gotHead_faults hq] at hx
    exact ⟨_, congrArg Host.Outcome.next hx, ⟨_, _, ringCtx_modRing_self hc _, rfl, rfl, rfl, rfl, rfl, rfl⟩,
      fun n hn => ringCtx_modRing_ne s hn _, rfl⟩
  case issued =>
    obtain ⟨timer, e⟩ := issueRead_form (s.modRing r.toNat (fun c => { c with reading := true })) (.slot r.toNat)
      (BitVec.ofNat 64 (c.slotAddr s.slotSize c.cidx)) s.slotSize 0 false hn
    have hx := (fetch_host due hm hlost hbme).trans e
    exact ⟨_, congrArg Host.Outcome.next hx, ringCtx_modRing_self hc _, rfl,
      ⟨_, rfl, rfl, rfl, rfl, rfl, rfl, rfl, rfl, rfl⟩,
      fun n hn => ringCtx_modRing_ne s hn _, rfl⟩

end Sys2Proof.Machine
end

section
/-!
Records: those of completed packets on their COMPLETION ring, and metadata records (R65, R70 to R77, R366).
-/
namespace Sys2Proof.Machine

/-! ## Slots and messages -/

/-- Slots of a ring whose base is aligned to 4 KiB are aligned to their size (R58, R85). -/
theorem dvd_slotAddr {c : RingCtx} (hb : c.base.toNat % 4096 = 0) {n : Nat} (hn : n ∣ 4096) (i : W32) : n ∣ c.slotAddr n i :=
  (hn.trans (Nat.dvd_of_mod_eq_zero hb)).add (Nat.dvd_mul_right n _)

/-- A slot of a record ring is written in one piece, or in HBM (R54, R77). -/
theorem ringWrite_slot {s : State} {c : RingCtx} {n : Nat} {b : List Byte} (hs : s.silent = false)
    (hb : s.porch.cfg.bme = true) (hal : c.base.toNat % 4096 = 0) (hlen : b.length = n) (hn : n = 32 ∨ n = 64) (i : W32) :
    s.ringWrite c (c.slotAddr n i) b = { s with
      out := if c.hbm then s.out else s.out ++ [.write (BitVec.ofNat 64 (c.slotAddr n i)) b false],
      mem := if c.hbm then (s.hbmWrite (c.slotAddr n i) b).mem else s.mem } := by
  have hdvd : n ∣ 4096 := by rcases hn with rfl | rfl <;> decide
  unfold State.ringWrite
  cases hm : c.hbm with
  | true => rw [if_pos rfl, if_neg (by simp [hs])]; rfl
  | false =>
    exact (if_neg Bool.false_ne_true).trans
      (hostWrite_one hs hb _ n b hlen (by omega) (by omega) hdvd (dvd_slotAddr hal hdvd i) false)

/-- A message that is owed under a condition, outside a replay (R76). -/
theorem oweMsi_if {s : State} (h : s.ras.replay = none) (p : Bool) (v : Nat) : (if p then s.oweMsi v else s) =
    { s with porch := { s.porch with owed := if p then setBit s.porch.owed v else s.porch.owed } } := by
  have howe : s.oweMsi v = { s with porch := { s.porch with owed := setBit s.porch.owed v } } := by
    simp only [State.oweMsi, h, Option.isSome_none, Bool.false_eq_true, if_false]
  cases p with
  | true => exact howe
  | false => rfl

/-- The state after the bytes `b` were written to the slot at `a` of ring `q`, whose context was `c` and changes by `g`, and a
message was owed if `owes`. -/
def State.afterSlot (s : State) (q : Nat) (c : RingCtx) (a : Nat) (b : List Byte) (g : RingCtx → RingCtx) (owes : Bool) :
    State :=
  { s with
    ring := { s.ring with ctx := tmod s.ring.ctx q g },
    out := if c.hbm then s.out else s.out ++ [.write (BitVec.ofNat 64 a) b false],
    mem := if c.hbm then (s.hbmWrite a b).mem else s.mem,
    porch := { s.porch with owed := if owes then setBit s.porch.owed c.vector else s.porch.owed } }

/-- Both kinds of record go out in this way: the slot is written, the ring moves on, and the message is owed. -/
theorem slot_written {s : State} {c : RingCtx} {n : Nat} {b : List Byte} (hs : s.silent = false)
    (hb : s.porch.cfg.bme = true) (hr : s.ras.recording = none) (hal : c.base.toNat % 4096 = 0) (hlen : b.length = n)
    (hn : n = 32 ∨ n = 64) (q : Nat) (g : RingCtx → RingCtx) (i crc : W32) (owes : Bool) :
    let t := ((s.ringWrite c (c.slotAddr n i) b).modRing q g).noteResult q i crc
    (if owes then t.oweMsi c.vector else t) = s.afterSlot q c (c.slotAddr n i) b g owes := by
  have hreplay := (silent_parts hs).1
  dsimp only
  rw [ringWrite_slot hs hb hal hlen hn, noteResult_none (by exact hr) (by exact hreplay)]
  exact oweMsi_if (by exact hreplay) owes c.vector

/-! ## Completion records -/

/-- A completion record in the slot of index `i` of a ring of 2^`s` slots (R70, R71). -/
def Op.recordAt (o : Op) (f : Fin) (s : Nat) (i : W32) : List Byte :=
  le32 f.status ++ le32 o.seq ++ le64 o.tag ++ le64 f.timestamp ++ le32 f.energy ++ le16 f.slips ++
    leBytes 2 (phaseBit s i + 2 * bit f.held + 4 * bit (o.flags.getLsbD 0))

theorem recordAt_length (o : Op) (f : Fin) (s : Nat) (i : W32) : (o.recordAt f s i).length = 32 := by
  simp only [Op.recordAt, le16, le32, le64, List.length_append, leBytes_length]

/-- The oldest packet of a ring whose record is written next: it has finished, its COMPLETION ring is ACTIVE, requests go out,
and the ring's turn has come (R74). -/
structure State.RecordDue (s : State) (r : Nat) (c k : RingCtx) (o : Op) (l : List Op) (f : Fin) : Prop where
  ctx : s.ringCtx r = some c
  ops : c.ops = o :: l
  fin : o.fin = some f
  cpl : s.ringCtx c.bind = some k
  apart : c.bind ≠ r
  active : k.state = .active
  aligned : k.base.toNat % 4096 = 0
  loud : s.silent = false
  bme : s.porch.cfg.bme = true
  unrecorded : s.ras.recording = none
  turn : s.recordTurn r c.bind = true

/-- A NOCPL success (R66). -/
def Op.noRecord (o : Op) (f : Fin) : Bool := f.status = 0 && o.flags.getLsbD 2

/-- A record that owes its ring's message (R76). -/
def Op.owesMsi (o : Op) (f : Fin) : Bool := o.flags.getLsbD 0 || f.status != 0

/-- A record that is due returns the reservations of its packet; unless it is a NOCPL success's, it goes to the next slot of the
COMPLETION ring, whose P moves on, and may owe the ring's message. -/
theorem writeRecord_due {s : State} {r : Nat} {c k : RingCtx} {o : Op} {l : List Op} {f : Fin} (h : s.RecordDue r c k o l f) :
    s.writeRecord r =
      if o.noRecord f then s.retireOp r c.bind false
      else
        let t := (((s.retireOp r c.bind true).ringWrite k (k.slotAddr 32 k.pidx) (o.recordAt f k.log2Size k.pidx)).modRing c.bind
          (fun k => { k with pidx := k.pidx + 1 })).noteResult c.bind k.pidx (crc32c (le32 f.status ++ le32 o.seq ++ le64 o.tag))
        if o.owesMsi f then t.oweMsi k.vector else t := by
  have hq : (decide (f.status = 0) && o.flags.getLsbD 2) = o.noRecord f := rfl
  cases hn : o.noRecord f <;>
    simp only [State.writeRecord, h.ctx, h.ops, h.fin, h.cpl, h.active, h.loud, holdRoom_of_bme h.bme, h.turn, record_bytes, hq,
      hn, Bool.false_and, Bool.not_true, Bool.or_self, bne_self_eq_false, Bool.false_eq_true, if_false, if_true]
  all_goals rfl

/-- A record that is not a NOCPL success's is written to the next slot of the COMPLETION ring. -/
theorem writeRecord_loud {s : State} {r : Nat} {c k : RingCtx} {o : Op} {l : List Op} {f : Fin} (h : s.RecordDue r c k o l f)
    (hn : o.noRecord f = false) : s.writeRecord r = (s.retireOp r c.bind true).afterSlot c.bind k (k.slotAddr 32 k.pidx)
      (o.recordAt f k.log2Size k.pidx) (fun k => { k with pidx := k.pidx + 1 }) (o.owesMsi f) := by
  obtain ⟨-, -, -, x, y, e⟩ := retire_ctx s true c k h.ctx h.cpl h.apart
  rw [writeRecord_due h, hn, if_neg Bool.false_ne_true, e]
  exact slot_written (by exact h.loud) (by exact h.bme) (by exact h.unrecorded) h.aligned (recordAt_length o f _ _) (.inl rfl)
    _ _ _ _ _

/-- COMPLETION_RECORD_WRITE of a record for which no reference waits writes it and does no more (R74, R284). -/
theorem exec_completionRecordWrite {s t : State} {r : RingId} {c : RingCtx} {o : Op} {l : List Op}
    (hc : s.ringCtx r.toNat = some c) (ho : c.ops = o :: l) (ht : s.writeRecord r.toNat = t) (hp : t.plan = s.plan)
    (hd : ∀ d ∈ s.plan.refsDue, ¬ (d.1 = r.toNat ∧ d.2.1 = o.id)) : exec (.completionRecordWrite r) s = .next t := by
  have hops : s.opsOf r.toNat = o :: l := by rw [State.opsOf, if_neg (ringId_ne_mbox r), hc]; exact ho
  have hdrop : t.dropDue (fun d => d.1 = r.toNat && d.2 = o.id) = t :=
    dropDue_free fun d h => by simpa using hd d (hp ▸ h)
  change execCompletionRecordWrite r s = _
  simp only [execCompletionRecordWrite, hops, List.head?_cons, ht, hdrop, ite_self]

/-! ## Metadata records -/

/-- A metadata record as the slot of index `i` holds it: bit 0 of its second byte is the phase (R366). -/
def MetaRec.recordAt (m : MetaRec) (s : Nat) (i : W32) : List Byte :=
  let fl := (rd8 m.bytes 1).toNat
  m.bytes.take 1 ++ leBytes 1 (fl - fl % 2 + phaseBit s i) ++ m.bytes.drop 2

/-- The slot differs from the record in the phase alone. -/
theorem metaRecordAt_bytes {m : MetaRec} (h : m.bytes.length = 64) (s : Nat) (i : W32) :
    (m.recordAt s i).length = 64 ∧ rd (m.recordAt s i) 1 1 % 2 = phaseBit s i ∧
    rd (m.recordAt s i) 1 1 / 2 = rd m.bytes 1 1 / 2 ∧ ∀ n, n ≠ 1 → (m.recordAt s i)[n]? = m.bytes[n]? := by
  have hp : phaseBit s i ≤ 1 := by unfold phaseBit; omega
  obtain ⟨bytes, irq⟩ := m
  match bytes, h with
  | a :: b :: l, h =>
    have hb := b.isLt
    have hat : MetaRec.recordAt ⟨a :: b :: l, irq⟩ s i =
        a :: BitVec.ofNat 8 (b.toNat - b.toNat % 2 + phaseBit s i) :: l := rfl
    have hrd (x : Byte) : rd (a :: x :: l) 1 1 = x.toNat := by simp [rd, slice, leNat]
    have hval : (BitVec.ofNat 8 (b.toNat - b.toNat % 2 + phaseBit s i)).toNat = b.toNat - b.toNat % 2 + phaseBit s i :=
      (BitVec.toNat_ofNat _ 8).trans (Nat.mod_eq_of_lt (by omega))
    dsimp only
    rw [hat, hrd, hrd, hval]
    refine ⟨h, by omega, by omega, fun n hn => ?_⟩
    match n, hn with
    | 0, _ | n + 2, _ => rfl

/-- A metadata record that waits goes to the next slot of its ring, while that lies below C + 2^s (R65, R367). -/
theorem writeMeta_eq {s : State} {r : Nat} {c : RingCtx} {m : MetaRec} {l : List MetaRec} (hc : s.ringCtx r = some c)
    (hk : c.kind = .metadata) (ha : c.state = .active) (hw : c.waiting = m :: l) (ho : c.occupancy < 2 ^ c.log2Size)
    (hal : c.base.toNat % 4096 = 0) (hm : m.bytes.length = 64) (hs : s.silent = false) (hb : s.porch.cfg.bme = true)
    (hr : s.ras.recording = none) : s.writeMeta r = s.afterSlot r c (c.slotAddr 64 c.pidx) (m.recordAt c.log2Size c.pidx)
      (fun c => { c with waiting := l, pidx := c.pidx + 1 }) m.irq := by
  have hroom : ¬ (c.kind != .metadata || c.state != .active || 2 ^ c.log2Size ≤ c.occupancy
      || (s.silent && !s.ras.replay.isSome) || !s.holdRoom 64) = true := by
    simp [hk, ha, hs, holdRoom_of_bme hb, ho]
  have hwrite := slot_written hs hb hr hal (metaRecordAt_bytes hm c.log2Size c.pidx).1 (.inr rfl) r
    (fun c => { c with waiting := l, pidx := c.pidx + 1 }) c.pidx (crc32c (slice m.bytes 0 1 ++ [0] ++ slice m.bytes 2 6 ++ slice m.bytes 16 48)) m.irq
  unfold State.writeMeta
  rw [hc]
  dsimp only
  rw [hw]
  exact (if_neg hroom).trans hwrite

theorem noRecord_eq_true {o : Op} {f : Fin} (h0 : f.status = 0) (hq : o.flags.getLsbD 2 = true) : o.noRecord f = true := by
  rw [Op.noRecord, h0, hq]
  rfl

theorem noRecord_eq_false {o : Op} {f : Fin} (h : f.status = 0 → o.flags.getLsbD 2 = false) : o.noRecord f = false := by
  by_cases h0 : f.status = 0
  · rw [Op.noRecord, h h0, Bool.and_false]
  · rw [Op.noRecord, decide_eq_false h0, Bool.false_and]

theorem owesMsi_iff (o : Op) (f : Fin) : o.owesMsi f = true ↔ o.flags.getLsbD 0 = true ∨ f.status ≠ 0 := by
  rw [Op.owesMsi, Bool.or_eq_true, bne_iff_ne]

/-- Settles O23: a record is due in its ring's turn, with and without a slot of its own; a metadata record has its own ring. -/
theorem completionRecords : Obligations.CompletionRecords := by
  unfold Obligations.CompletionRecords
  refine ⟨fun s r c k o l f hc ho hf hk hne hka hal hs hb hr hd ht => ?completion,
    fun s r c m l hc hk ha hw hocc hal hm hs hb hr => ?metadata⟩
  case completion =>
    have due : s.RecordDue r.toNat c k o l f := ⟨hc, ho, hf, hk, hne, hka, hal, hs, hb, hr, ht⟩
    refine ⟨fun h0 hq => ?quiet, fun hq => ?loud⟩
    case quiet =>
      have hx : s.writeRecord r.toNat = s.retireOp r.toNat c.bind false := by
        rw [writeRecord_due due, noRecord_eq_true h0 hq, if_pos rfl]
      obtain ⟨hrc, hkc, hrest, x, y, e⟩ := retire_ctx s false c k hc hk hne
      rw [ho] at hrc
      refine ⟨_, exec_completionRecordWrite hc ho hx (by rw [e]) hd, hrc.trans ?_, hkc, hrest, ?_⟩
      · simp
      · rw [e]
    case loud =>
      obtain ⟨hrc, hkc, hrest, x, y, e⟩ := retire_ctx s true c k hc hk hne
      have hx := writeRecord_loud due (noRecord_eq_false hq)
      rw [ho] at hrc
      rw [e] at hx hrc hkc hrest
      refine ⟨_, exec_completionRecordWrite hc ho hx rfl hd, rfl, rfl, ?_, ringCtx_modRing_self hkc _, fun n hn hn' => ?_, ?_,
        rfl⟩
      · exact (ringCtx_modRing_ne _ hne.symm _).trans hrc
      · exact (ringCtx_modRing_ne _ hn' _).trans (hrest n hn hn')
      · exact if_congr (owesMsi_iff o f) rfl rfl
  case metadata =>
    obtain ⟨hlen, hphase, hflags, hbytes⟩ := metaRecordAt_bytes hm c.log2Size c.pidx
    exact ⟨_, congrArg Host.Outcome.next (writeMeta_eq hc hk ha hw hocc hal hm hs hb hr),
      ⟨_, rfl, rfl, hlen, hphase, hflags, hbytes⟩, ringCtx_modRing_self hc _,
      fun n hn => ringCtx_modRing_ne s hn _, rfl, rfl⟩

end Sys2Proof.Machine
end

section
/-!
Graphs: how an image is loaded and unloaded, and how a run enters the Planner (R105, R106, R108, R284).
-/
namespace Sys2Proof.Machine

/-! ## Loading and unloading -/

theorem thas_eq_false {α : Type} {t : Tab α} {k : Nat} (h : tget t k = none) : thas t k = false := by rw [thas, h]; rfl

/-- A job whose JOB_CLOSE, if any, was dispatched later than a packet is open for it (R100). -/
theorem jobOpenFor_of {s : State} {n : Nat} {j : Job} (h : s.job n = some j) {op : Nat}
    (hc : ∀ c, j.closing = some c → op < c.2) : s.jobOpenFor n op = true := by
  rw [State.jobOpenFor, h]
  dsimp only
  cases hj : j.closing with
  | none => rfl
  | some c => exact decide_eq_true (hc c hj)

/-- A payload that has arrived is worked on at once. -/
theorem withPayload_arrived {s : State} {o : Op} {d : List Byte} (h : o.payload = .arrived d) (r : Nat) (hbm : Bool) (a n : Nat)
    (f : List Byte → State → State) : s.withPayload r o hbm a n f = f d s := by
  rw [State.withPayload, h]

/-- A payload in the window is read at once, and leaves no trace unless a recording is in progress (R406, R478). -/
theorem withPayload_window {s : State} {o : Op} (h : o.payload = .unread) (hr : s.ras.recording = none) (r a n : Nat)
    (f : List Byte → State → State) : s.withPayload r o true a n f = f (s.windowBytes a n) s := by
  rw [State.withPayload, h]
  dsimp only
  rw [if_pos rfl, record_none hr]

/-- The bytes of a graph image, as GRAPH_LOAD of a packet `b` finds them: from host memory, or unpoisoned in the window. -/
def State.ImageIs (s : State) (o : Op) (b : List Byte) (d : List Byte) : Prop :=
  rd b 19 1 = 0 ∧ o.payload = .arrived d ∨
    rd b 19 1 = 1 ∧ o.payload = .unread ∧ s.ras.recording = none ∧ s.windowPoisoned (rd b 24 8) (rd b 20 4) = false ∧
      d = s.windowBytes (rd b 24 8) (rd b 20 4)

theorem imageIs_place {s : State} {o : Op} {b d : List Byte} (h : s.ImageIs o b d) : rd b 19 1 ≤ 1 := by
  rcases h with ⟨h, -⟩ | ⟨h, -⟩ <;> omega

/-- The image that is there is worked on. -/
theorem withPayload_image {s : State} {o : Op} {b d : List Byte} (h : s.ImageIs o b d) (r : Nat)
    (f : List Byte → State → State) : s.withPayload r o (decide (rd b 19 1 = 1)) (rd b 24 8) (rd b 20 4) f = f d s := by
  rcases h with ⟨-, hp⟩ | ⟨h1, hp, hr, -, rfl⟩
  · exact withPayload_arrived hp ..
  · rw [decide_eq_true h1, withPayload_window hp hr]

theorem image_unpoisoned {s : State} {o : Op} {b d : List Byte} (h : s.ImageIs o b d) :
    (decide (rd b 19 1 = 1) && s.windowPoisoned (rd b 24 8) (rd b 20 4)) = false := by
  rcases h with ⟨h0, -⟩ | ⟨-, -, -, hp, -⟩
  · simp [h0]
  · rw [hp, Bool.and_false]

/-- GRAPH_LOAD of packet `o` passes every check: the packet's, and the image's for job `j` (R105, R106). -/
structure State.Loadable (s : State) (o : Op) (j : Job) (d : List Byte) : Prop where
  job : s.job (rd o.bytes 18 1) = some j
  open_ : ∀ c, j.closing = some c → o.id < c.2
  aligned : rd o.bytes 24 8 % 64 = 0
  named : rd o.bytes 16 2 < 4096
  free : tget s.plan.graphs (rd o.bytes 16 2) = none
  fits : s.plan.stored + rd o.bytes 20 4 ≤ graphStore
  least : 64 ≤ rd o.bytes 20 4
  whole : rd o.bytes 20 4 % 64 = 0
  image : s.ImageIs o o.bytes d
  legal : ∀ c ∈ s.imageChecks (rd o.bytes 18 1) j (rd o.bytes 20 4) d, c.1 = true

/-- GRAPH_LOAD whose checks hold enters the graph of its image (R105, R106). -/
theorem exec_graphLoad {s : State} {r : RingId} {o : Op} {j : Job} {d : List Byte} (ho : Offers s r 0x30 o)
    (h : s.Loadable o j d) : exec (.graphLoad r) s = .next ((s.modPlan (fun p => { p with
      graphs := tset p.graphs (rd o.bytes 16 2) (parseGraph (rd o.bytes 18 1) d) })).finish r.toNat o.id Code.ok) := by
  have hpacket := jobOpenFor_of h.job h.open_
  change Host.Outcome.next (s.withOp _ _ _) = _
  rw [ho.withOp]
  dsimp only
  rw [find_none (by simp [imageIs_place h.image, h.aligned, h.named, thas_eq_false h.free, hpacket, h.fits, h.least, h.whole])]
  dsimp only
  rw [image_unpoisoned h.image, if_neg Bool.false_ne_true, withPayload_image h.image, h.job]
  dsimp only
  rw [State.checked_ok h.legal]

/-- GRAPH_UNLOAD of a job's graph without instances takes it away (R108). -/
theorem exec_graphUnload {s : State} {r : RingId} {o : Op} {j : Job} {g : Graph} (ho : Offers s r 0x31 o)
    (hj : s.job (rd o.bytes 18 1) = some j) (hc : ∀ c, j.closing = some c → o.id < c.2)
    (hg : s.graph (rd o.bytes 16 2) = some g) (hgj : g.job = rd o.bytes 18 1)
    (hi : ∀ p ∈ s.plan.insts, p.2.graph ≠ rd o.bytes 16 2) :
    exec (.graphUnload r) s = .next ((s.modPlan (fun p => { p with
      graphs := tdel p.graphs (rd o.bytes 16 2) })).finish r.toNat o.id Code.ok) := by
  change Host.Outcome.next (s.withOp _ _ _) = _
  rw [ho.withOp]
  dsimp only
  rw [State.checked_ok (by simpa [jobOpenFor_of hj hc, hg, hgj] using fun a b h => hi (a, b) h)]

/-! ## Runs -/

/-- GRAPH_RUN whose checks hold, and whose references are taken, makes a QUEUED run; the packet goes on (R108, R284). -/
theorem exec_graphRun {s u : State} {r : RingId} {o : Op} (ho : Offers s r 0x32 o)
    (hv : ∀ v ∈ (valuesAt o.bytes 24).drop (rd o.bytes 19 1), v = 0)
    (hc : ∀ c ∈ s.runChecks (s.jobOpenFor (rd o.bytes 18 1) o.id) (rd o.bytes 18 1) (rd o.bytes 16 2) (rd o.bytes 19 1)
      (rd o.bytes 20 2) (handlesAt o.bytes 64 (rd o.bytes 20 2)), c.1 = true)
    (hu : s.takeRefs 27 (handlesAt o.bytes 64 (rd o.bytes 20 2)) = (u, true)) :
    exec (.graphRun r) s = .next ((u.beginOp r.toNat o.id).newInst (.packet r.toNat o.id) (rd o.bytes 18 1) (rd o.bytes 16 2)
      (valuesAt o.bytes 24) (handlesAt o.bytes 64 (rd o.bytes 20 2)) 0) := by
  change Host.Outcome.next (s.withOp _ _ _) = _
  rw [ho.withOp]
  dsimp only
  rw [if_neg (by simpa using hv), find_none hc, hu]

/-- The jobs after a run is made: its own counts it, and hands its lost store over (R469). -/
theorem job_newInst {u : State} {n : Nat} {j : Job} (hj : u.job n = some j) (who : Submitter) (g : Nat) (v : List Nat)
    (hs : List W64) (e k : Nat) : (u.newInst who n g v hs e).job k =
      if k = n then some { j with runs := j.runs + 1, storeLost := false } else u.job k := by
  unfold State.newInst
  rw [hj]
  refine (job_modJob _ n k _).trans ?_
  by_cases hk : k = n
  · rw [if_pos hk, if_pos hk, hk]
    exact congrArg (Option.map _) hj
  · rw [if_neg hk, if_neg hk]
    rfl

/-- Settles O27: loads, unloads and runs, each by what its command does once its checks hold. -/
theorem graphsLoadAndRun : Obligations.GraphsLoadAndRun := by
  unfold Obligations.GraphsLoadAndRun
  refine ⟨fun s r o j d => ⟨?load, fun g ho hj hc hg hgj hi => ?unload⟩, fun s u r o j ho => ?run⟩
  case load =>
    intro ho hj hc ha hn hg hs h64 hm hd hi
    exact exec_graphLoad ho ⟨hj, hc, ha, hn, hg, hs, h64, hm, hd, hi⟩
  case unload => exact exec_graphUnload ho hj hc hg hgj hi
  case run =>
    intro b n jn hs hv hopen hc hu hj
    obtain ⟨g, hg⟩ := beginOp_ring u r o.id
    have hj' : ({ u with ring := g } : State).job jn = some j := hj
    have hjobs := job_newInst hj' (.packet r.toNat o.id) n (valuesAt b 24) hs 0
    obtain ⟨js, e⟩ := newInst_form hj' (.packet r.toNat o.id) n (valuesAt b 24) hs 0
    refine ⟨_, exec_graphRun ho hv (by rw [hopen]; exact hc) hu, ?_⟩
    rw [hg]
    refine ⟨?inst, fun k hk => ?others, ?next, (hjobs jn).trans (if_pos rfl), fun k hk => (hjobs k).trans (if_neg hk), ?rest⟩
    case inst => rw [e]; exact ⟨_, tget_tset_self .., rfl, rfl, rfl, rfl, rfl, rfl, rfl, rfl, rfl, rfl, rfl⟩
    case others => rw [e]; exact tget_tset_ne _ _ hk
    case next => rw [e]
    case rest => rw [e]; exact ⟨rfl, rfl, rfl⟩

end Sys2Proof.Machine
end

section
/-!
Jobs: how one is opened, begins to close, and goes (R96 to R100).
-/
namespace Sys2Proof.Machine

theorem toNat_ne_mbox {g : Nat} (h : g < 2 ^ 20) : g ≠ mboxRing := by simp only [mboxRing]; omega

/-! ## Opening -/

/-- JOB_OPEN whose parameters are legal, and for whose Suite, save region and Attic grant there is room, opens the job
(R96 to R99, R266). -/
theorem exec_jobOpen {s : State} {r : RingId} {o : Op} {q : Rect} {u : Nat} (ho : Offers s r 0x33 o) (hn : rd o.bytes 16 1 ≤ 63)
    (hj : s.job (rd o.bytes 16 1) = none) (hm : s.jobModeOk o.bytes = true)
    (hq : s.placeJob (decide (rd o.bytes 17 1 = 1)) (decide (rd o.bytes 18 1 = 4)) (rd o.bytes 19 1) (rd o.bytes 20 1)
      (rd o.bytes 21 1) (rd o.bytes 22 1) = some q)
    (hs : rd o.bytes 18 1 = 4 → 1048 * (rd o.bytes 19 1 * rd o.bytes 20 1) ≤ s.saveFree)
    (hu : s.placeAttic (rd o.bytes 24 2) = some u) :
    exec (.jobOpen r) s = .next ((s.openJob (rd o.bytes 16 1) o.bytes q u).finish r.toNat o.id Code.ok) := by
  have hname : ¬ (decide (63 < rd o.bytes 16 1) || thas s.plan.jobs (rd o.bytes 16 1)) = true := by
    have hfree : tget s.plan.jobs (rd o.bytes 16 1) = none := hj
    simp [thas, hfree, hn]
  have hsave : ¬ (decide (rd o.bytes 18 1 = 4) &&
      decide (s.saveFree < saveKib * (rd o.bytes 19 1 * rd o.bytes 20 1))) = true := by
    intro h
    obtain ⟨hbulk, hless⟩ := Bool.and_eq_true_iff.mp h
    exact Nat.not_lt.mpr (hs (of_decide_eq_true hbulk)) (of_decide_eq_true hless)
  change Host.Outcome.next (s.withOp _ _ _) = _
  rw [ho.withOp]
  dsimp only
  rw [if_neg hname, if_neg (by simp [hm]), hq]
  dsimp only
  rw [if_neg hsave, hu]

/-- What a job is when it has just been opened by packet `b` on rectangle `q` and the Attic units from `u` on. -/
structure Job.Fresh (j : Job) (b : List Byte) (q : Rect) (u : Nat) : Prop where
  onDemand : j.onDemand = decide (rd b 17 1 = 1)
  prio : j.prio = rd b 18 1
  rect : j.rect = q
  atticAt : j.atticAt = u
  attic : j.attic = rd b 24 2
  span : j.span = rd32 b 28
  holds : j.holds = false
  suspended : j.suspended = false
  closing : j.closing = none
  saved : j.saved = []
  runs : j.runs = 0
  ctrs : j.ctrs = []
  atticMem : j.atticMem = []

/-- The state in which JOB_OPEN's packet is complete: the job is there, and only the rings, the Rooms and the power unit changed
beside it. -/
theorem openJob_finish (s : State) (n : Nat) (b : List Byte) (q : Rect) (u : Nat) (r : RingId) (id : Nat) :
    ∃ j x w g, Job.Fresh j b q u ∧ (s.openJob n b q u).finish r.toNat id Code.ok =
      { s with plan := { s.plan with jobs := tset s.plan.jobs n j }, rooms := x, pwr := w, ring := g } := by
  obtain ⟨j, x, w, e, hod, hprio, hrect, hat, hattic, hspan, hholds, hsusp, hclosing, hsaved, hruns, hctrs, hmem⟩ :=
    openJob_form s n b q u
  obtain ⟨g, f⟩ := finish_ring (s.openJob n b q u) r id Code.ok
  have hfresh : j.Fresh b q u :=
    ⟨hod, hprio, hrect, hat, hattic, hspan, hholds, hsusp, hclosing, hsaved, hruns, hctrs, hmem⟩
  exact ⟨j, x, w, g, hfresh, by rw [f, e]⟩

theorem openJob_ring (s : State) (n : Nat) (b : List Byte) (q : Rect) (u : Nat) : (s.openJob n b q u).ring = s.ring := by
  obtain ⟨j, x, w, e, -⟩ := openJob_form s n b q u
  rw [e]

/-- Settles O29: a fresh job has no counter and no Attic byte listed, and what is not listed reads 0. -/
theorem jobOpenClears : Obligations.JobOpenClears := by
  unfold Obligations.JobOpenClears
  intro s r o q u ho b n hn hj hm hq hs hu
  obtain ⟨j, x, w, g, hfresh, e⟩ := openJob_finish s n b q u r o.id
  refine ⟨_, exec_jobOpen ho hn hj hm hq hs hu, ho.finish (openJob_ring s n b q u) _, j, ?_, fun k _ => ?_, fun a => ?_⟩
  · rw [e]; exact tget_tset_self ..
  · rw [hfresh.ctrs]; rfl
  · rw [hfresh.atticMem]; rfl

/-! ## Closing -/

/-- JOB_CLOSE of an open job that nothing uses marks it, and its packet goes on (R100). -/
theorem exec_jobClose {s : State} {r : RingId} {o : Op} {j : Job} (ho : Offers s r 0x34 o)
    (hj : s.job (rd o.bytes 16 1) = some j) (hc : j.closing = none) (hu : s.jobInUse (rd o.bytes 16 1) = false)
    (hs : j.suspended = true → ∀ q ∈ s.plan.insts, q.2.job ≠ rd o.bytes 16 1) :
    exec (.jobClose r) s = .next ((s.beginOp r.toNat o.id).modJob (rd o.bytes 16 1)
      (fun j => { j with closing := some (r.toNat, o.id) })) := by
  have hcancel : (if j.suspended then s.cancelAll (rd o.bytes 16 1) else s) = s := by
    split
    case isTrue h => exact cancelAll_none (hs h)
    case isFalse => rfl
  change Host.Outcome.next (s.withOp _ _ _) = _
  rw [ho.withOp]
  dsimp only
  rw [hj]
  dsimp only
  rw [if_neg (by simp [hc]), if_neg (by simp [hu]), hcancel]

/-- JOB_CLOSE_DONE of a closing job without instances, and without a run dispatched ahead of the close, removes it; the packets
that wait for it end, and so does the JOB_CLOSE (R100). -/
theorem exec_jobCloseDone {s : State} {m : JobId} {j : Job} {g id : Nat} (hj : s.job m.toNat = some j)
    (hc : j.closing = some (g, id)) (hw : s.working = true) (hi : ∀ q ∈ s.plan.insts, q.2.job ≠ m.toNat)
    (hr : s.runsAhead m.toNat id = false) : exec (.jobCloseDone m) s =
      .next (((s.endWaiters m.toNat j Code.jobNotOpen).removeJob m.toNat j).finish g id Code.ok) := by
  have hcancel : (if s.working && j.suspended then s.cancelAll m.toNat else s) = s := by
    rw [cancelAll_none hi, ite_self]
  have hnone : s.plan.insts.any (fun p => p.2.job = m.toNat) = false := by simpa using fun a b h => hi (a, b) h
  change execJobCloseDone m s = _
  unfold execJobCloseDone
  dsimp only
  rw [hj]
  dsimp only
  rw [hc]
  dsimp only
  rw [hcancel, if_neg (by simp [hw, hnone, hr])]

/-- A job that is removed is gone, with its graphs. -/
theorem removeJob_gone (s : State) (n : Nat) (j : Job) :
    (s.removeJob n j).job n = none ∧ ∀ q ∈ (s.removeJob n j).plan.graphs, q.2.job ≠ n := by
  obtain ⟨v, e⟩ := removeJob_last s n j
  rw [e]
  exact ⟨tget_tdel_self .., fun q hq => bne_iff_ne.mp (List.mem_filter.mp hq).2⟩

/-- Without packets that wait for it, a job that ends them is as it was. -/
theorem endWaiters_none (s : State) (n : Nat) {j : Job} (h : j.waiters = []) (c : W32) :
    s.endWaiters n j c = s.modJob n (fun j => { j with waiters := [] }) := by rw [State.endWaiters, h]; rfl

/-- The removal of a job of which nothing waits and that has no Rooms of its own to give back: the Rooms and the Planner change,
and the other jobs keep all but the names of their pre-emptions. -/
theorem removeJob_quiet (s : State) (n : Nat) {j : Job} (hw : j.waiters = []) (hd : j.onDemand = false) (hq : j.qring = 0)
    (c : W32) : ∃ x p, (s.endWaiters n j c).removeJob n j = { s with rooms := x, plan := p } ∧ p.insts = s.plan.insts ∧
      ∀ k, k ≠ n → (tget p.jobs k).map (fun v => { v with pre := [] }) = (s.job k).map (fun v => { v with pre := [] }) := by
  rw [endWaiters_none s n hw]
  obtain ⟨x, e⟩ := removeJob_plain (s.modJob n (fun j => { j with waiters := [] })) n j hd hq
  rw [e]
  refine ⟨x, _, rfl, rfl, fun k hk => ?_⟩
  dsimp only
  rw [tget_tdel_ne _ hk, orphan_jobs]
  change Option.map _ (Option.map _ (State.job (s.modJob n _) k)) = _
  rw [job_modJob, if_neg hk, Option.map_map]
  rfl

/-- Settles O28: a fresh job is opened, an open one marked, and a closing one removed. -/
theorem jobLifecycle : Obligations.JobLifecycle := by
  unfold Obligations.JobLifecycle
  intro s r o b n
  refine ⟨fun q u ho hn hj hm hq hs hu => ?opens, fun j ho hj hc hu hs => ?closes,
    fun m j g id p hj hc hw hi hr hg hp => ?goes⟩
  case opens =>
    obtain ⟨j, x, w, g, hfresh, e⟩ := openJob_finish s n b q u r o.id
    refine ⟨_, exec_jobOpen ho hn hj hm hq hs hu, ho.finish (openJob_ring s n b q u) _, ?_⟩
    rw [e]
    exact ⟨⟨j, tget_tset_self .., hfresh.onDemand, hfresh.prio, hfresh.rect, hfresh.atticAt, hfresh.attic, hfresh.span,
      hfresh.holds, hfresh.suspended, hfresh.closing, hfresh.saved, hfresh.runs⟩, fun k hk => tget_tset_ne _ _ hk,
      rfl, rfl, rfl, rfl, rfl⟩
  case closes =>
    obtain ⟨x, e⟩ := beginOp_ring s r o.id
    rw [exec_jobClose ho hj hc hu hs, e]
    rfl
  case goes =>
    obtain ⟨hjob, hgraphs⟩ := removeJob_gone (s.endWaiters m.toNat j Code.jobNotOpen) m.toNat j
    refine ⟨_, exec_jobCloseDone hj hc hw hi hr, ?_, ?_, fun hwait hd hq => ?_⟩
    · rw [State.job, State.finish_plan]; exact hjob
    · rw [State.finish_plan]; exact hgraphs
    · obtain ⟨x, y, e, hinsts, hjobs⟩ := removeJob_quiet s m.toNat hwait hd hq Code.jobNotOpen
      refine ⟨status_find hp (toNat_ne_mbox hg) (by rw [e]) _, fun k hk => ?_, ?_, ?_, ?_⟩
      · rw [State.job, State.finish_plan, e]; exact hjobs k hk
      · rw [State.finish_plan, e]; exact hinsts
      · rw [State.finish_mem, e]
      · rw [State.finish_out, e]

end Sys2Proof.Machine
end

section
/-!
Admission: how a run is taken up, planned and let run (R93, R94, R113, R115, R117, R120).
-/
namespace Sys2Proof.Machine

/-! ## The end of a run -/

theorem endInst_inst {s : State} {n : Nat} {i : Inst} (h : s.inst n = some i) (c : W32) : (s.endInst n c).inst n = none := by
  obtain ⟨js, -, hinsts, -⟩ := endInst_form s n c i h
  rw [State.inst, hinsts]
  exact tget_tdel_self ..

/-- A packet whose run ends has the status, its references are due with its record, and no more than the
rings and the Planner changes (R93, R284). -/
theorem endInst_submitted {s : State} {n r id : Nat} {i : Inst} {o : Op} (h : s.inst n = some i) (hw : i.who = .packet r id)
    (hr : r < 2 ^ 20) (ho : s.findOp r id = some o) (c : W32) :
    (s.endInst n c).statusOf r id = some c ∧ (s.endInst n c).plan.refsDue = s.plan.refsDue ++ [(r, id, i.handles)] ∧
      s.endInst n c = { s with ring := (s.endInst n c).ring, plan := (s.endInst n c).plan } := by
  obtain ⟨p, e, hrefs⟩ := endInst_packet s n c i h hw
  obtain ⟨g, f⟩ := finishOp_form { s with plan := p } (toNat_ne_mbox hr) id c i.slips i.energy i.heldRec
  have hstatus := status_findOp (t := { s with plan := p }) ho (toNat_ne_mbox hr) rfl c i.slips i.energy i.heldRec
  rw [e]
  refine ⟨hstatus, ?_, ?_⟩
  · rw [State.finishOp_plan]; exact hrefs
  · rw [f]

/-! ## ADMISSION -/

/-- The next QUEUED run goes before an admission under way (R94). -/
theorem exec_admission_queued {s : State} (hw : s.working = true) {n : Nat} {i : Inst} (hq : s.nextQueued = some (n, i)) :
    exec .admission s = .next (s.beginAdmit n i) := by
  change execAdmission s = _
  unfold execAdmission
  rw [if_neg (by simp [hw])]
  cases s.plan.admits <;> simp only [hq]

/-- With no run to take up, the innermost admission plans a further chunk (R94). -/
theorem exec_admission_chunk {s : State} (hw : s.working = true) {a : Admit} {rest : List Admit} (ha : s.plan.admits = a :: rest)
    (hq : s.nextQueued = none) :
    exec .admission s = .next (s.modPlan (fun p => { p with admits := { a with done := a.done + 1 } :: rest })) := by
  change execAdmission s = _
  unfold execAdmission
  rw [if_neg (by simp [hw])]
  simp only [ha, hq]

theorem beginAdmit_eq {s : State} {n : Nat} {i : Inst} {g : Graph} (hg : s.graph i.graph = some g) :
    s.beginAdmit n i = { s with plan := { s.plan with
      admits := ⟨n, 0, s.beat, s.plan.guard.toNat, s.placedOf i.job, 0⟩ :: s.plan.admits,
      insts := tmod s.plan.insts n (fun i' => { i' with
        once := s.glb.vcomb,
        b := (List.range g.dims.length).map (fun d => (bucketOf (g.dims.getD d []) (i.v.getD d 0)).getD 0) }) } } := by
  rw [State.beginAdmit, hg]
  rfl

/-! ## ADMISSION_COMPLETE -/

/-- The innermost admission is that of run `i` of job `j`, of graph `g`, on a device that works. -/
structure State.Admits (s : State) (a : Admit) (rest : List Admit) (i : Inst) (j : Job) (g : Graph) : Prop where
  working : s.working = true
  admits : s.plan.admits = a :: rest
  inst : s.inst a.inst = some i
  job : s.job i.job = some j
  graph : s.graph i.graph = some g

/-- The Planner when the admission `a` is over and the one below it goes on (R94). -/
def Plan.admitted (p : Plan) (beat : Nat) (a : Admit) (rest : List Admit) : Plan :=
  { p with admits := resumeAdmits (beat - a.began) rest }

section

variable {s : State} {a : Admit} {rest : List Admit} {i : Inst} {j : Job} {g : Graph}

/-- A value that no bucket holds ends the run (R115). -/
theorem exec_admissionComplete_refused (h : s.Admits a rest i j g) {d : Nat} (hr : g.refused i.v = some d) :
    exec .admissionComplete s = .next ((s.modPlan (fun p =>
      (p.admitted s.beat a rest).refuse i.job d (i.v.getD d 0) Code.admShapeOver)).endInst a.inst Code.admShapeOver) := by
  change execAdmissionComplete s = _
  simp only [execAdmissionComplete, h.admits, h.inst, h.job, h.graph, h.working, hr, Bool.not_true, Bool.false_eq_true, if_false]
  rfl

/-- While a chunk is still to be planned, the admission goes on (R94). -/
theorem exec_admissionComplete_unplanned (h : s.Admits a rest i j g) (hr : g.refused i.v = none)
    (hc : 1024 * a.done < g.tasks.length) : exec .admissionComplete s = .next s := by
  have hless : a.done * 1024 < g.tasks.length := by omega
  change execAdmissionComplete s = _
  simp only [execAdmissionComplete, h.admits, h.inst, h.job, h.graph, h.working, hr, hless, Bool.not_true, Bool.false_eq_true,
    if_false, if_true]

/-- A planned run whose Suite lost a Room ends (R470). -/
theorem exec_admissionComplete_lost (h : s.Admits a rest i j g) (hr : g.refused i.v = none)
    (hc : g.tasks.length ≤ 1024 * a.done) (hl : s.jobLost j = true) : exec .admissionComplete s =
      .next ((s.modPlan (fun p => p.admitted s.beat a rest)).endInst a.inst Code.roomLost) := by
  have hless : ¬ a.done * 1024 < g.tasks.length := by omega
  change execAdmissionComplete s = _
  simp only [execAdmissionComplete, h.admits, h.inst, h.job, h.graph, h.working, hr, hless, hl, Bool.not_true,
    Bool.false_eq_true, if_false, if_true]
  rfl

/-- A planned run takes its timetable and WAITS (R117). -/
theorem exec_admissionComplete_planned (h : s.Admits a rest i j g) (hr : g.refused i.v = none)
    (hc : g.tasks.length ≤ 1024 * a.done) (hl : s.jobLost j = false) :
    let b0 := s.beat + 1 - a.paused
    let w : Inst := { i with state := .waiting, b0 := b0, guard := a.guard,
                             tasks := timetable a.guard a.occ i g (s.suiteSize j).1 (s.suiteSize j).2 b0 }
    exec .admissionComplete s = .next { s with plan := { s.plan with
      admits := resumeAdmits (s.beat - a.began) rest, insts := tset s.plan.insts a.inst { w with k := w.need g },
      varies := satAdd s.plan.varies (g.tasks.filter Task.varies).length } } := by
  have hless : ¬ a.done * 1024 < g.tasks.length := by omega
  change execAdmissionComplete s = _
  simp only [execAdmissionComplete, h.admits, h.inst, h.job, h.graph, h.working, hr, hless, hl, Bool.not_true,
    Bool.false_eq_true, if_false]
  rfl

/-! ## ENTRY_RESERVATION -/

/-- The first WAITING one runs from the next beat on, or nothing happens (R93, R120, R262). -/
theorem exec_entryReservation (hw : s.working = true) {n : Nat} (hf : firstInst (s.inOrder .waiting) = some (n, i)) :
    let rooms := (s.job i.job).any (fun j => !j.onDemand || j.holds)
    let more := s.beat + 1 - i.b0
    exec .entryReservation s = .next (if s.plan.freeEntries < i.k ∨ s.stays i = true ∨ rooms = false then s
      else s.modInst n (fun i' => { i' with
        state := .running, b0 := i'.b0 + more,
        tasks := i'.tasks.map (fun r => { r with s := r.s + more, e := r.e + more }) })) := by
  change execEntryReservation s = _
  simp only [execEntryReservation, hf, hw, Bool.not_true, Bool.false_or, Bool.or_eq_true, decide_eq_true_eq, Bool.not_eq_true',
    or_assoc]

/-- A refusal changes nothing but what PLAN_REFUSE shows. -/
theorem refuse_refsDue (p : Plan) (n d v : Nat) (c : W32) : (p.refuse n d v c).refsDue = p.refsDue := by
  unfold Plan.refuse; split <;> rfl

theorem refuse_insts (p : Plan) (n d v : Nat) (c : W32) : (p.refuse n d v c).insts = p.insts := by
  unfold Plan.refuse; split <;> rfl

theorem refuse_latches {p : Plan} (h : p.refValid = false) (n d v : Nat) (c : W32) :
    (p.refuse n d v c).refValid = true ∧ (p.refuse n d v c).refJob = BitVec.ofNat 6 n ∧
      (p.refuse n d v c).refDim = BitVec.ofNat 3 d ∧ (p.refuse n d v c).refPend = BitVec.ofNat 32 v := by
  rw [Plan.refuse, if_neg (by simp [h])]
  exact ⟨rfl, rfl, rfl, rfl⟩

theorem inst_modPlan {f : Plan → Plan} (h : (f s.plan).insts = s.plan.insts) (n : Nat) : (s.modPlan f).inst n = s.inst n :=
  congrArg (tget · n) h

/-- A run that ends as its admission does, whatever the admission noted in the Planner. -/
theorem endInst_admitted {n : Nat} (h : s.inst n = some i) (f : Plan → Plan) (hi : (f s.plan).insts = s.plan.insts)
    (hd : (f s.plan).refsDue = s.plan.refsDue) (c : W32) :
    let t := (s.modPlan f).endInst n c
    t.inst n = none ∧ ∀ r id o, i.who = .packet r id → r < 2 ^ 20 → s.findOp r id = some o →
      t.statusOf r id = some c ∧ t.plan.refsDue = s.plan.refsDue ++ [(r, id, i.handles)] ∧
      t = { s with ring := t.ring, plan := t.plan } := by
  have h' : (s.modPlan f).inst n = some i := (inst_modPlan hi n).trans h
  refine ⟨endInst_inst h' c, fun r id o hw hr ho => ?_⟩
  obtain ⟨hstatus, hrefs, e⟩ := endInst_submitted h' hw hr ho c
  exact ⟨hstatus, hrefs.trans (congrArg (· ++ _) hd), e⟩

end

/-- Settles O33: each of the three commands by what it finds, a run that ends being one lemma for both its codes. -/
theorem admission : Obligations.Admission := by
  unfold Obligations.Admission
  intro s hw
  refine ⟨fun n i g hq hg => ?begins, fun a rest ha hq => exec_admission_chunk hw ha hq,
    fun a rest i j g ha hi hj hg => ?completes, fun n i hf => ?reserves⟩
  case begins => rw [exec_admission_queued hw hq, beginAdmit_eq hg]
  case completes =>
    have h : s.Admits a rest i j g := ⟨hw, ha, hi, hj, hg⟩
    refine ⟨exec_admissionComplete_unplanned h, exec_admissionComplete_planned h, fun hr hc hl => ?lost, fun d hr => ?refused⟩
    case lost => exact ⟨_, exec_admissionComplete_lost h hr hc hl, endInst_admitted hi _ rfl rfl _⟩
    case refused =>
      let f (p : Plan) : Plan := (p.admitted s.beat a rest).refuse i.job d (i.v.getD d 0) Code.admShapeOver
      have hinsts : (f s.plan).insts = s.plan.insts := refuse_insts ..
      obtain ⟨hgone, hpacket⟩ := endInst_admitted hi f hinsts (refuse_refsDue ..) Code.admShapeOver
      refine ⟨_, exec_admissionComplete_refused h hr, hgone, fun hv => ?_, hpacket⟩
      obtain ⟨_, -, -, hvalid, hjob, hdim, hpend⟩ :=
        endInst_form (s.modPlan f) a.inst Code.admShapeOver i ((inst_modPlan hinsts _).trans hi)
      obtain ⟨hvalid', hjob', hdim', hpend'⟩ :=
        refuse_latches (p := s.plan.admitted s.beat a rest) hv i.job d (i.v.getD d 0) Code.admShapeOver
      exact ⟨hvalid.trans hvalid', hjob.trans hjob', hdim.trans hdim', hpend.trans hpend'⟩
  case reserves =>
    have hx := exec_entryReservation hw hf
    refine ⟨fun hk hs hrooms => ?_, fun h => ?_⟩
    · rw [hx, if_neg (by simp [Nat.not_lt.mpr hk, hs, hrooms])]
      rfl
    · rw [hx, if_pos h]

end Sys2Proof.Machine
end

section
/-!
The start of a task: its prefetch, and the beat at which it begins in its Rooms (R117, R121, R127, R141, R142, R153).
-/
namespace Sys2Proof.Machine

section

variable {s : State} {n k : Nat} {c : TaskCtx}

theorem taskCtx_hasRun (h : s.taskCtx n k = some c) : s.hasRun n k c.r := by
  obtain ⟨-, -, hi, -, -, -, hr⟩ := taskCtx_some h
  exact ⟨c.i, hi, hr⟩

/-- A command on a task that is there works on that task. -/
theorem withTask_next (h : s.taskCtx n k = some c) (f : TaskCtx → State) :
    (.next (s.withTask n k f) : Outcome) = .next (f c) := by rw [withTask_some h]

theorem empty_eq_false {r : TaskRun} (h : r.c ≠ 0) : r.empty = false := by simp [TaskRun.empty, h]

/-! ## PREFETCH_START -/

/-- A planned task of a job that may start tasks has operands to fetch, and its window is open (R117, R262, R264). -/
structure State.PrefetchDue (s : State) (n k : Nat) (c : TaskCtx) : Prop where
  task : s.taskCtx n k = some c
  working : s.working = true
  running : c.i.state = .running
  beats : c.r.c ≠ 0
  planned : c.r.state = .planned
  far : c.t.far = true
  opened : c.i.opens c.r ≤ s.beat
  thawed : c.j.frozen = true → c.withinCut = true
  roomed : c.j.onDemand = true → c.j.holds = true

/-- A prefetch that is due fetches the operands of every Room of the footprint (R141). -/
theorem exec_prefetchStart (h : s.PrefetchDue n k c) : exec (.prefetchStart n k) s =
    .next ((s.positions c).foldl (fun s q => s.fetchInto c q.1 q.2)
      (s.modTask n k (fun r => { r with state := .prefetch }))) := by
  have hfrozen : (c.j.frozen && !c.withinCut) = false := by simpa using h.thawed
  have hroom : (c.j.onDemand && !c.j.holds) = false := by simpa using h.roomed
  refine (withTask_next h.task _).trans ?_
  dsimp only
  rw [if_neg (by simp [h.working, h.running, h.planned, h.far, empty_eq_false h.beats, Nat.not_lt.mpr h.opened, hfrozen,
    hroom])]
  rfl

/-! ## TASK_START -/

/-- A task that is ready at its start beat, with its Rooms IDLE, starts as its semaphore lets it (R121, R127, R142). -/
structure State.StartDue (s : State) (n k : Nat) (c : TaskCtx) : Prop where
  task : s.taskCtx n k = some c
  working : s.working = true
  running : c.i.state = .running
  beats : c.r.c ≠ 0
  ready : c.r.state = if c.t.far then .prefetch else .planned
  due : c.r.s = s.beat
  may : c.mayStart = true
  preds : c.predsOver = true
  idle : ∀ q ∈ s.positions c, (s.room q.2).state = .idle

theorem startDue_ready (h : s.StartDue n k c) : (if c.t.far then c.r.state == .prefetch else c.r.state == .planned) = true := by
  rw [h.ready]
  cases c.t.far <;> rfl

theorem exec_taskStart_go (h : s.StartDue n k c) (hs : s.semCheck c = .go) :
    exec (.taskStart n k true) s = .next (s.beginTask c) := by
  have hidle : (s.positions c).all (fun q => (s.room q.2).state = .idle) = true :=
    List.all_eq_true.mpr fun q hq => decide_eq_true (h.idle q hq)
  refine (withTask_next h.task _).trans ?_
  dsimp only
  rw [if_neg (by simp [startDue_ready h, h.working, h.running, empty_eq_false h.beats, h.due, h.may, h.preds, hidle]), hs]

theorem exec_taskStart_wait (h : s.taskCtx n k = some c) (hs : s.semCheck c = .wait) (arrived : Bool) :
    exec (.taskStart n k arrived) s = .next s := by
  refine (withTask_next h _).trans ?_
  dsimp only
  rw [hs, ite_self]

/-- The Planner with the semaphore that a task acquires, where it is free (R127). -/
def Plan.acquired (p : Plan) (c : TaskCtx) (now : W64) : Plan :=
  if c.t.semAcq && !thas p.sems c.t.sem then
    { p with sems := tset p.sems c.t.sem { inst := c.n, task := c.k, at_ := now } } else p

/-- The state in which a task has taken its semaphore and entered its Rooms. -/
def State.enterRooms (s : State) (c : TaskCtx) : State := (s.positions c).foldl (enter c) (s.modPlan (·.acquired c s.now))

theorem enterRooms_form (h : s.taskCtx n k = some c) : (∃ x y, s.enterRooms c =
      { s with rooms := x, plan := { s.plan.acquired c s.now with insts := y } }) ∧
    (∀ q ∈ s.positions c, entered c ((s.enterRooms c).room q.2)) ∧
    (∃ ts, (s.enterRooms c).inst n = some { c.i with tasks := ts }) ∧ ∃ r, (s.enterRooms c).hasRun n k r := by
  obtain ⟨rfl, rfl, hi, -, -, -, -⟩ := taskCtx_some h
  have hinsts : (s.plan.acquired c s.now).insts = s.plan.insts := by unfold Plan.acquired; split <;> rfl
  obtain ⟨form, hrooms, hinst, hrun⟩ := enter_fold c (s.positions c) (s.modPlan (·.acquired c s.now))
  obtain ⟨r, hr, -⟩ := hrun c.r (hasRun_congr (taskCtx_hasRun h) hinsts)
  exact ⟨form, fun q hq => hrooms q.2 (.inr ⟨q, hq, rfl⟩), hinst c.n c.i ((congrArg (tget · c.n) hinsts).trans hi),
    r, hr⟩

theorem acquire_eq (s : State) (c : TaskCtx) : (if c.t.semAcq && !thas s.plan.sems c.t.sem then
    s.modPlan (fun p => { p with sems := tset p.sems c.t.sem { inst := c.n, task := c.k, at_ := s.now } }) else s) =
      s.modPlan (·.acquired c s.now) :=
  (apply_ite (fun p => ({ s with plan := p } : State)) _ _ _).symm

/-- A task without faults from its landing, that exchanges no halo, is no COLLECTIVE and claims no tiles, begins by entering its
Rooms alone (R153). -/
theorem beginTask_plain (h : s.taskCtx n k = some c) (hh : c.t.halo = false) (hc : c.t.op ≠ opCollective) (hf : c.r.faults = [])
    (ht : c.t.tiled = false) : s.beginTask c =
      ((s.enterRooms c).modTask n k (fun r => { r with state := .running, fbeat := (s.enterRooms c).beat })).modTask n k
        (fun r => { r with faults := [] }) := by
  obtain ⟨⟨x, y, e⟩, -, ⟨ts, hinst⟩, -⟩ := enterRooms_form h
  obtain ⟨rfl, rfl, -, -, hg, htask, -⟩ := taskCtx_some h
  have hclaims (u : State) : u.openClaims c = u := by rw [State.openClaims, ht]; rfl
  have hgraph : (s.enterRooms c).graph c.i.graph = some c.g := by
    rw [e, ← hg]
    change tget (s.plan.acquired c s.now).graphs _ = _
    unfold Plan.acquired
    split <;> rfl
  have hfaces (f g : TaskRun → TaskRun) : (((s.enterRooms c).modTask c.n c.k f).modTask c.n c.k g).sendFaces c.n c.k =
      ((s.enterRooms c).modTask c.n c.k f).modTask c.n c.k g := by
    refine sendFaces_plain _ c.n c.k { c.i with tasks := lmod (lmod ts c.k f) c.k g } c.g c.t ?_ hgraph htask hh
    rw [inst_modTask, if_pos rfl, inst_modTask, if_pos rfl, hinst]
    rfl
  unfold State.beginTask
  dsimp only
  rw [acquire_eq, hf, if_neg hc]
  simp only [List.foldl_nil]
  change State.sendFaces (State.modTask (State.modTask (State.openClaims (s.enterRooms c) c) _ _ _) _ _ _) _ _ = _
  rw [hclaims, hfaces]
  rfl

end

/-- Settles O34: the fetch and the entry go Room by Room, and `fetch_fold` and `enter_fold` say what they leave. -/
theorem tasksStart : Obligations.TasksStart := by
  unfold Obligations.TasksStart
  intro s n k c h hw hi hc
  refine ⟨fun hp hf ho hz hd => ?prefetch, fun arrived ha hready hs hmay hpreds hidle => ?start⟩
  case prefetch =>
    obtain ⟨hn, hk, -⟩ := taskCtx_some h
    obtain ⟨⟨x, y, z, e⟩, r, hr, hstate, hfetched⟩ := fetch_fold n k c hn hk s (s.positions c)
      (s.modTask n k (fun r => { r with state := .prefetch })) _ ⟨_, _, _, rfl⟩ (hasRun_modTask (taskCtx_hasRun h) _)
    refine ⟨_, exec_prefetchStart ⟨h, hw, hi, hc, hp, hf, ho, hz, hd⟩, ⟨r, hr, hstate, hfetched⟩, ?_⟩
    rw [e]
    rfl
  case start =>
    subst ha
    have hdue : s.StartDue n k c := ⟨h, hw, hi, hc, hready, hs, hmay, hpreds, hidle⟩
    refine ⟨fun hgo => ⟨exec_taskStart_go hdue hgo, fun hh hop hf ht => ?_⟩,
      fun hwait => exec_taskStart_wait h hwait true⟩
    obtain ⟨⟨x, y, e⟩, hrooms, -, r, hr⟩ := enterRooms_form h
    obtain ⟨rfl, rfl, -⟩ := taskCtx_some h
    rw [beginTask_plain h hh hop hf ht]
    refine ⟨⟨_, hasRun_modTask (hasRun_modTask hr _) _, rfl⟩, hrooms, fun hacq hfree => ?sem, ?frame⟩
    case sem =>
      rw [e]
      change tget (s.plan.acquired c s.now).sems c.t.sem = _
      rw [Plan.acquired, hacq, thas, hfree]
      exact tget_tset_self ..
    case frame => rw [e]; rfl

end Sys2Proof.Machine
end

section
/-!
The end of a task: its commit check, write-back and commit (R114, R121, R147, R167).
-/
namespace Sys2Proof.Machine

section

variable {s : State} {n k : Nat} {c : TaskCtx}

/-! ## TASK_BODY_END -/

/-- The body of an attempt is over, with every claim answered. -/
structure State.BodyDue (s : State) (n k : Nat) (c : TaskCtx) : Prop where
  task : s.taskCtx n k = some c
  working : s.working = true
  attempt : c.r.state = .running ∨ c.r.state = .faulted
  due : s.bodyBeat c ≤ s.beat
  claimed : s.claimed c = true

theorem bodyDue_attempt (h : s.BodyDue n k c) : (c.r.state != .running && c.r.state != .faulted) = false := by
  rcases h.attempt with h | h <;> simp [h]

/-- A task that charges the budget behind another of the same cycle waits for it (R167). -/
theorem exec_taskBodyEnd_behind (h : s.BodyDue n k c) (hc : s.chargesFirst c = true) : exec (.taskBodyEnd n k) s = .next s := by
  refine (withTask_next h.task _).trans ?_
  dsimp only
  rw [if_pos (by simp [hc])]

/-- A task without faults passes its commit check (R147). -/
theorem exec_taskBodyEnd_passes (h : s.BodyDue n k c) (hc : s.chargesFirst c = false) {d : TaskCtx}
    (hd : (s.endBody c (s.bodyRun c)).taskCtx n k = some d) (hf : d.r.faults = [])
    (hcheck : (s.endBody c (s.bodyRun c)).commitFaults d = []) (hrel : (s.endBody c (s.bodyRun c)).badRelease d = false) :
    exec (.taskBodyEnd n k) s = .next ((s.endBody c (s.bodyRun c)).passCheck d (s.bodyRun c)) := by
  refine (withTask_next h.task _).trans ?_
  dsimp only
  rw [if_neg (by simp [h.working, bodyDue_attempt h, Nat.not_lt.mpr h.due, h.claimed, hc]), hd]
  dsimp only
  rw [hf, hcheck, hrel]
  rfl

/-- A task with a fault is discarded (R168). -/
theorem exec_taskBodyEnd_faulted (h : s.BodyDue n k c) (hc : s.chargesFirst c = false) {d : TaskCtx}
    (hd : (s.endBody c (s.bodyRun c)).taskCtx n k = some d) (hf : d.r.faults ≠ []) :
    exec (.taskBodyEnd n k) s = .next ((s.endBody c (s.bodyRun c)).discardTask n k) := by
  refine (withTask_next h.task _).trans ?_
  dsimp only
  rw [if_neg (by simp [h.working, bodyDue_attempt h, Nat.not_lt.mpr h.due, h.claimed, hc]), hd]
  dsimp only
  rw [if_pos (by simpa using hf)]

theorem passCheck_run (h : s.taskCtx n k = some c) {ps : List PosRun} {r : TaskRun} (hr : (s.passCheck c ps).hasRun n k r) :
    r.state = .writeback ∧ r.stage = ps.flatMap ((if s.charged c then
      s.modInst c.n (fun i => { i with declass := i.declass - s.chargeBytes c }) else s).writeBack c) := by
  obtain ⟨rfl, rfl, -⟩ := taskCtx_some h
  obtain ⟨q, -, rfl⟩ := modTask_run hr
  exact ⟨rfl, rfl⟩

theorem discardTask_run (h : s.taskCtx n k = some c) {r : TaskRun} (hr : (s.discardTask n k).hasRun n k r) :
    r.state = .discarded ∧ r.stage = [] := by
  rw [State.discardTask, withTask_some h] at hr
  obtain ⟨q, -, rfl⟩ := modTask_run hr
  exact ⟨rfl, rfl⟩

/-! ## TASK_COMMIT -/

/-- What runs, or ends, is past its admission. -/
theorem notBefore_of (h : c.i.state = .running ∨ c.i.state = .ending) : c.i.state ≠ .queued ∧ c.i.state ≠ .waiting := by
  rcases h with h | h <;> simp [h]

/-- The end beat of a task has come. -/
structure State.CommitDue (s : State) (n k : Nat) (c : TaskCtx) : Prop where
  task : s.taskCtx n k = some c
  working : s.working = true
  admitted : c.i.state = .running ∨ c.i.state = .ending
  due : c.r.e ≤ s.beat

/-- A task that occupies no beat commits when its predecessors are over (R114). -/
theorem exec_taskCommit_empty (h : s.CommitDue n k c) (hc : c.r.c = 0) (hp : c.r.state = .planned) (hpreds : c.predsOver = true)
    (b : Bool) : exec (.taskCommit n k b) s = .next (s.closeTask c .committed) := by
  refine (withTask_next h.task _).trans ?_
  dsimp only
  rw [if_neg (by simp [h.working, notBefore_of h.admitted, Nat.not_lt.mpr h.due]), if_pos (by simp [TaskRun.empty, hc]),
    if_pos (by simp [hp, hpreds])]

/-- Until every write of a write-back is accepted, the task does not commit (R147). -/
theorem exec_taskCommit_early (h : s.taskCtx n k = some c) (hc : c.r.c ≠ 0) : exec (.taskCommit n k false) s = .next s := by
  refine (withTask_next h _).trans ?_
  dsimp only
  split
  · rfl
  · rw [if_neg (by simp [empty_eq_false hc])]
    cases s.nearArrived c with
    | none => rfl
    | some near => simp

/-- A task's results at their places: those of this device and those that came from others; an Attic grant takes their seal
(R44, R147). -/
def State.placeResults (s : State) (c : TaskCtx) (near : List WriteBack) : State :=
  let t := (c.r.stage ++ near).foldl (fun t w => t.applyBack c.i.job (s.isSealed c) w) s
  if s.isSealed c && decide (c.t.out.space = 2) then t.modJob c.i.job (fun j => { j with atticSealed := true }) else t

/-- A task whose results are at their places leaves its Rooms: what they counted is taken, a semaphore that it releases is free,
and a ladder that it ends is reported (R128, R240, R465, R494). -/
def State.leaveRooms (s : State) (c : TaskCtx) : State :=
  let t := (s.positions c).foldl (fun t q => t.commitRoom c q.2) s
  let t := t.taskEnergy c (Inst.tallyOf c.r) (t.positions c).length true
  let t := if c.t.semRel then t.modPlan (fun p => { p with sems := tdel p.sems c.t.sem }) else t
  t.ladderOutcome c

/-- A task whose writes are accepted commits at its end beat (R147). -/
theorem exec_taskCommit_accepted (h : s.CommitDue n k c) (hc : c.r.c ≠ 0) (hb : c.r.state = .writeback)
    {near : List WriteBack} (hn : s.nearArrived c = some near) :
    exec (.taskCommit n k true) s = .next (((s.placeResults c near).leaveRooms c).closeTask c .committed) := by
  refine (withTask_next h.task _).trans ?_
  dsimp only
  rw [if_neg (by simp [h.working, notBefore_of h.admitted, Nat.not_lt.mpr h.due]), if_neg (by simp [empty_eq_false hc]), hn]
  dsimp only
  rw [if_neg (by simp [hb])]
  rfl

/-- The results that are placed change the memory, the Rooms' stores and the Attic grants. -/
theorem placeResults_form (s : State) (c : TaskCtx) (near : List WriteBack) : ∃ x js, s.placeResults c near = { s with
    mem := ((c.r.stage ++ near).foldl (fun t w => t.applyBack c.i.job (s.isSealed c) w) s).mem,
    rooms := x, plan := { s.plan with jobs := js } } := by
  obtain ⟨m, x, js, e⟩ := apply_fold c.i.job (s.isSealed c) (c.r.stage ++ near) s
  unfold State.placeResults
  dsimp only
  rw [e]
  split
  · exact ⟨x, _, rfl⟩
  · exact ⟨x, js, rfl⟩

theorem releaseSem_eq (s : State) (c : TaskCtx) : (if c.t.semRel then
    s.modPlan (fun p => { p with sems := tdel p.sems c.t.sem }) else s) =
      { s with plan := { s.plan with sems := if c.t.semRel then tdel s.plan.sems c.t.sem else s.plan.sems } } := by
  cases c.t.semRel <;> rfl

/-- Leaving its Rooms, a task changes no memory and sends nothing. -/
theorem leaveRooms_form (s : State) (c : TaskCtx) : ∃ x g tr w y p r, s.leaveRooms c = { s with
      rooms := x, ring := g, track := tr, pwr := w, porch := p, ras := r
      plan := { s.plan with insts := y, sems := if c.t.semRel then tdel s.plan.sems c.t.sem else s.plan.sems } } ∧
    ∀ q ∈ s.positions c, (tgetD x q.2 Room.reset).state = .idle := by
  obtain ⟨x, g, tr, e, hx⟩ := commit_fold c (s.positions c) s
  unfold State.leaveRooms
  dsimp only
  rw [e]
  obtain ⟨w, y, e⟩ := taskEnergy_form { s with rooms := x, ring := g, track := tr } c (Inst.tallyOf c.r)
    (State.positions { s with rooms := x, ring := g, track := tr } c).length true
  rw [e, releaseSem_eq]
  obtain ⟨z, p, r, e⟩ := ladderOutcome_form { s with
    rooms := x, ring := g, track := tr, pwr := w
    plan := { s.plan with insts := y, sems := if c.t.semRel then tdel s.plan.sems c.t.sem else s.plan.sems } } c
  exact ⟨x, g, tr, w, z, p, r, e, fun q hq => hx q.2 (.inr ⟨q, hq, rfl⟩)⟩

end

/-- Settles O35: the body's end by its three outcomes, the commit by its three. -/
theorem tasksEnd : Obligations.TasksEnd := by
  unfold Obligations.TasksEnd
  intro s n k c h hw
  refine ⟨fun d ha hb hcl => ?body,
    fun hi he => ⟨?empty, fun near hc hwb hn => ?accepted, fun hc _ => exec_taskCommit_early h hc⟩⟩
  case body =>
    have hdue : s.BodyDue n k c := ⟨h, hw, ha, hb, hcl⟩
    refine ⟨exec_taskBodyEnd_behind hdue, fun hfirst => ?_⟩
    intro ps u hd
    exact ⟨fun hf hcheck hrel => ⟨exec_taskBodyEnd_passes hdue hfirst hd hf hcheck hrel, fun r => passCheck_run hd⟩,
      fun hf => ⟨exec_taskBodyEnd_faulted hdue hfirst hd hf, fun r => discardTask_run hd⟩⟩
  case empty => exact fun hc hp hpreds b => exec_taskCommit_empty ⟨h, hw, hi, he⟩ hc hp hpreds b
  case accepted =>
    obtain ⟨x, js, e⟩ := placeResults_form s c near
    obtain ⟨y, g, tr, w, z, p, r, e', hidle⟩ := leaveRooms_form (s.placeResults c near) c
    rw [e] at e' hidle
    refine ⟨_, exec_taskCommit_accepted ⟨h, hw, hi, he⟩ hc hwb hn, ?_⟩
    rw [e, e']
    refine ⟨rfl, hidle, fun hrel => ?_, rfl, rfl, rfl⟩
    dsimp only
    rw [if_pos hrel]
    exact tget_tdel_self ..

end Sys2Proof.Machine
end

section
/-!
The faults of a task: what ROOM_FAULT and FAB_LATE note of a position that has not faulted (R95, R166, R438, R439, R463).
-/
namespace Sys2Proof.Machine

section

variable {s : State} {n k p : Nat} {c : TaskCtx}

/-- A position on this device of a running attempt, which has not faulted in it, may fault. -/
theorem canFault_of (hw : s.working = true) (ha : c.r.state = .running ∨ c.r.state = .faulted) (hp : p < c.rooms) {room : Nat}
    (hr : s.roomOf c p = some room) (hf : ∀ f ∈ c.r.faults, f.pos ≠ p) : s.canFault c p = true := by
  have hrun : (c.r.state == .running || c.r.state == .faulted) = true := by rcases ha with ha | ha <;> simp [ha]
  have hfirst : c.r.faults.any (fun f => f.pos = p) = false := by simpa using hf
  simp [State.canFault, hw, hrun, hp, hr, hfirst]

/-! ## ROOM_FAULT -/

theorem exec_roomFault_parity (h : s.taskCtx n k = some c) (hc : s.canFault c p = true) (rclk : W32) :
    exec (.roomFault n k p (.parity rclk)) s = .next (s.noteFault c {
      pos := p, ladder := true, rec_ := c.record p Code.roomParity (s.phaseAt c rclk.toNat) 0 rclk.toNat noIdx 0 }) :=
  (withTask_next h _).trans (congrArg _ (if_neg (by simp [hc])))

theorem exec_roomFault_issue (h : s.taskCtx n k = some c) (hc : s.canFault c p = true) (rclk : W32) :
    exec (.roomFault n k p (.issue rclk)) s = .next (s.noteFault c {
      pos := p, ladder := true, rec_ := c.record p Code.roomIssue (s.phaseAt c rclk.toNat) 0 rclk.toNat noIdx 0 }) :=
  (withTask_next h _).trans (congrArg _ (if_neg (by simp [hc])))

theorem exec_roomFault_poison (h : s.taskCtx n k = some c) (hc : s.canFault c p = true) {b : Nat × Nat × Nat}
    (hb : c.r.bad.find? (fun b => b.1 = p) = some b) :
    exec (.roomFault n k p .poison) s = .next (s.noteFault c (s.poisonFault c p b)) := by
  refine (withTask_next h _).trans ?_
  dsimp only
  rw [if_neg (by simp [hc]), hb]

theorem exec_roomFault_resource (h : s.taskCtx n k = some c) (hc : s.canFault c p = true) {q : PosRun} {f : TaskFault}
    (hq : (s.bodyRun c).find? (fun q => q.pos = p) = some q) (hf : q.fault = some f) (hl : f.ladder = false) :
    exec (.roomFault n k p .resource) s = .next (s.noteFault c f) := by
  refine (withTask_next h _).trans ?_
  dsimp only
  rw [if_neg (by simp [hc]), hq, Option.bind_some, hf]
  dsimp only
  rw [hl, if_neg Bool.false_ne_true]

/-! ## FAB_LATE -/

/-- A contribution of another member to a COLLECTIVE is missing (R439). -/
theorem exec_fabLate_collective (h : s.taskCtx n k = some c) (hc : s.canFault c p = true) (hop : c.t.op = opCollective) {d : Byte}
    (hd : d ∈ s.members c.j c.t) (ha : d ≠ s.fab.addr) (hm : s.contribution c [] p d = none) (rclk : W32) :
    exec (.fabLate n k p rclk) s = .next (s.noteFault c {
      pos := p, ladder := true, rec_ := c.record p Code.fabLate (if c.t.halo then 1 else 2) oHalo rclk.toNat noIdx 0 }) := by
  have hmissing : (s.members c.j c.t).any (fun d => d != s.fab.addr && (s.contribution c [] p d).isNone) = true :=
    List.any_eq_true.mpr ⟨d, hd, by simp [ha, hm]⟩
  refine (withTask_next h _).trans ?_
  dsimp only
  rw [if_pos hop, hmissing, hc, if_neg (by decide)]

/-- A section of a halo that another device holds is missing (R438). -/
theorem exec_fabLate_halo (h : s.taskCtx n k = some c) (hc : s.canFault c p = true) (hop : c.t.op ≠ opCollective)
    (hh : c.t.halo = true) {sec q : Nat} (hs : sec < 4) (hq : c.beside p (sideOf sec) = some q) (hr : s.roomOf c q = none)
    (hm : s.haloFrames c p sec (c.t.sectionBytes sec) = none) (rclk : W32) :
    exec (.fabLate n k p rclk) s = .next (s.noteFault c {
      pos := p, ladder := true, rec_ := c.record p Code.fabLate 1 oHalo rclk.toNat noIdx 0 }) := by
  refine (withTask_next h _).trans ?_
  dsimp only
  rw [if_neg hop, hh, Bool.true_and, List.any_eq_true.mpr ⟨sec, List.mem_range.mpr hs, by simp [hq, hr, hm]⟩, hc,
    if_neg (by decide), if_pos rfl]

end

/-- Settles O36: every cause leads to `State.noteFault`, and what that does is the last part. -/
theorem tasksFault : Obligations.TasksFault := by
  unfold Obligations.TasksFault
  intro s n k p room c rclk h hw ha hp hr hfirst
  have hc : s.canFault c p = true := canFault_of hw ha hp hr hfirst
  exact ⟨exec_roomFault_parity h hc rclk, exec_roomFault_issue h hc rclk, fun b hb => exec_roomFault_poison h hc hb,
    fun q f hq hf hl => exec_roomFault_resource h hc hq hf hl,
    fun d hd hop hne hm => exec_fabLate_collective h hc hop hd hne hm rclk,
    fun sec q hs hop hh hq hro hm => exec_fabLate_halo h hc hop hh hs hq hro hm rclk,
    fun f hf => noteFault_form s n k room c f h (by rw [hf]; exact hr)⟩

end Sys2Proof.Machine
end

section
/-!
Recoveries: the ladder's steps, a semaphore held too long, parity of the Attic, and its retirement (R128, R463, R465, R466, R472,
R474).
-/
namespace Sys2Proof.Machine

section

variable {s : State} {n k room : Nat} {c : TaskCtx} {f : TaskFault}

/-- A task has one course. -/
theorem hasRun_eq (h : s.taskCtx n k = some c) {r : TaskRun} (hr : s.hasRun n k r) : r = c.r := by
  obtain ⟨-, -, hi, -, -, -, hk⟩ := taskCtx_some h
  obtain ⟨i, hi', hk'⟩ := hr
  obtain rfl : i = c.i := Option.some.inj (hi'.symm.trans hi)
  exact Option.some.inj (hk'.symm.trans hk)

/-! ## LADDER_STEP -/

/-- A step of a discarded task is due: a boundary has come since its fault `f` (R465). -/
structure State.StepDue (s : State) (n k : Nat) (c : TaskCtx) (f : TaskFault) : Prop where
  task : s.taskCtx n k = some c
  working : s.working = true
  discarded : c.r.state = .discarded
  due : c.r.fbeat < s.beat
  fault : s.ladderFault c = some f

/-- An overflow ends the task with its status (R168). -/
theorem exec_ladderStep_overflow (h : s.StepDue n k c f) (hl : f.ladder = false) :
    exec (.ladderStep n k) s = .next (s.failTask c f.rec_.status) := by
  refine (withTask_next h.task _).trans ?_
  dsimp only
  rw [h.fault]
  dsimp only
  rw [if_neg (by simp [h.working, h.discarded, Nat.not_le.mpr h.due]), if_pos (by simp [hl]), if_pos h.discarded]

/-- A step waits for those that go before it (R469). -/
theorem exec_ladderStep_behind (h : s.StepDue n k c f) (hl : f.ladder = true) (hr : s.roomOf c f.pos = some room)
    (hb : s.ladderBehind c room = true) : exec (.ladderStep n k) s = .next s := by
  refine (withTask_next h.task _).trans ?_
  dsimp only
  rw [h.fault]
  dsimp only
  rw [if_neg (by simp [h.working, h.discarded, Nat.not_le.mpr h.due]), if_neg (by simp [hl]), if_pos (by simp [hr, hb])]

/-- Parity errors and failed issue checks, while the graph runs, take the step of their Room (R465). -/
theorem exec_ladderStep_room (h : s.StepDue n k c f) (hl : f.ladder = true) (hr : s.roomOf c f.pos = some room)
    (hb : s.ladderBehind c room = false) (hi : c.i.state = .running) (hue : f.rec_.status ≠ Code.memUe)
    (hlate : f.rec_.status ≠ Code.fabLate) : exec (.ladderStep n k) s = .next (s.roomStep c f room) := by
  refine (withTask_next h.task _).trans ?_
  dsimp only
  rw [h.fault]
  dsimp only
  rw [if_neg (by simp [h.working, h.discarded, Nat.not_le.mpr h.due]), if_neg (by simp [hl]), if_neg (by simp [hr, hb]),
    if_neg (by simp [h.discarded]), hr]
  dsimp only
  rw [if_neg (by simp [hi]), if_neg hue, if_neg hlate]

/-- The first fault of a Room is logged, and the task goes back as attempt 2 (R465). -/
theorem roomStep_first (ha : c.r.attempt ≤ 1) (ho : room ∉ c.r.once) : s.roomStep c f room =
    (s.log (c.entry f.rec_.status 1 (s.physOf room) 1 1 0 f.rec_.addr f.rec_.bytes)).redispatch c 0
      (fun r => { r with attempt := 2, once := r.once ++ [room] }) := by
  have hattempt : max c.r.attempt 1 = 1 := by omega
  unfold State.roomStep
  dsimp only
  rw [hattempt, if_neg (by decide), if_pos (by simp [ho])]

/-- What goes back after a log entry: the log has grown by it, and the task is planned anew, L + G beats on (R466). -/
theorem redispatch_logged (h : s.taskCtx n k = some c) (e : LogEntry) (g : TaskRun → TaskRun) :
    let t := (s.log e).redispatch c 0 g
    (∀ r, t.hasRun n k r → ∃ q : TaskRun, q.state = .planned ∧ q.faults = [] ∧
      q.s = s.beat + c.r.l + s.plan.guard.toNat ∧ q.e = q.s + c.r.d ∧ r = g q) ∧
    t.ras.head = s.ras.head + 1 ∧ t.mem = s.mem ∧ t.larder = s.larder ∧ t.ring = s.ring ∧ t.out = s.out := by
  obtain ⟨rfl, rfl, -⟩ := taskCtx_some h
  obtain ⟨x, y, w, z, e', hhead, hrun⟩ := redispatch_form (s.log e) c 0 g
  refine ⟨fun r hr => ?_, ?_⟩
  · obtain ⟨q, ⟨q0, hq0, hd⟩, rfl⟩ := hrun r hr
    have hq : q0 = c.r := hasRun_eq h (hasRun_congr hq0 (by rw [State.log_plan]))
    refine ⟨_, rfl, rfl, ?_, ?_, rfl⟩
    · simp [State.beat]
    · rw [hd, hq]
  · rw [e']
    exact ⟨hhead.trans (log_head s e), s.log_mem e, s.log_larder e, s.log_ring e, s.log_out e⟩

/-! ## SEM_HOLD_LIMIT -/

/-- A semaphore held longer than the limit is freed and faults its holder; the log takes it while the holder's task is there
(R128). -/
theorem exec_semHoldLimit_long {m : BitVec 8} {h : SemHold} (hs : tget s.plan.sems m.toNat = some h) (hw : s.working = true)
    (hl : s.plan.semLimit.toNat * 150 < (s.now - h.at_).toNat) :
    let u := s.modPlan (fun p => { p with sems := tdel p.sems m.toNat })
    exec (.semHoldLimit m) s = .next (((u.taskCtx h.inst h.task).elim u (fun c =>
      u.log (c.entry Code.semHoldLimit 0 0 0 0 0 0 []))).instFault h.inst h.task Code.semHoldLimit) := by
  have hpassed : s.passed h.at_ (s.plan.semLimit.toNat * ticksPerUs + 1) = true := decide_eq_true hl
  intro u
  change execSemHoldLimit m s = _
  unfold execSemHoldLimit
  rw [hs]
  dsimp only
  rw [if_neg (by simp [hw, hpassed])]
  cases hc : u.taskCtx h.inst h.task <;> rfl

theorem exec_semHoldLimit_short {m : BitVec 8} {h : SemHold} (hs : tget s.plan.sems m.toNat = some h)
    (hl : (s.now - h.at_).toNat ≤ s.plan.semLimit.toNat * 150) : exec (.semHoldLimit m) s = .next s := by
  have hpassed : s.passed h.at_ (s.plan.semLimit.toNat * ticksPerUs + 1) = false := decide_eq_false (Nat.not_lt.mpr hl)
  change execSemHoldLimit m s = _
  unfold execSemHoldLimit
  rw [hs]
  dsimp only
  rw [if_pos (by simp [hpassed])]

/-! ## The Attic -/

theorem exec_atticParity_unread {m : BitVec 3} (h : s.atticReader n m.toNat = none) (again : Bool) :
    exec (.atticParity m n again) s = .next s := by
  change execAtticParity m n again s = _
  unfold execAtticParity
  rw [h]

/-- Two entries in the log change it, and what the link reports. -/
theorem log_log_form (s : State) (e f : LogEntry) : ∃ p r, (s.log e).log f = { s with porch := p, ras := r } ∧
    r.head = s.ras.head + 2 ∧ r.cntAttic = s.ras.cntAttic ∧ r.rows = s.ras.rows := by
  obtain ⟨_, _, h⟩ := log_form' s e
  obtain ⟨p, r, h'⟩ := log_form' (s.log e) f
  have hras : r = ((s.log e).log f).ras := by rw [h']
  refine ⟨p, r, by rw [h', h], ?head, ?count, ?rows⟩
  case head => rw [hras, log_head, log_head, BitVec.add_assoc]; rfl
  case count => rw [hras, log_cntAttic, log_cntAttic]
  case rows => rw [hras, log_rows, log_rows]

/-- The entry that a parity error of slice `m` of the Attic makes about the task that reads it (R463, R476). -/
def TaskCtx.atticEntry (c : TaskCtx) (m : BitVec 3) (status : W32) (attempt action : Nat) : LogEntry :=
  c.entry status 5 m.toNat attempt action 0 0 []

/-- The repeated read is good: the error is counted, and the recovery will be reported (R463, R475). -/
theorem exec_atticParity_retried {m : BitVec 3} (h : s.atticReader n m.toNat = some c) (hw : s.working = true) :
    exec (.atticParity m n false) s = .next (((((s.log (c.atticEntry m (Code.withCls Code.sramParity 0) 1 1)).log
      (c.atticEntry m Code.rcvRetried 2 0)).modRas (fun r =>
        { r with cntAttic := tup r.cntAttic m.toNat 0 (· + 1) })).modInst n (fun i =>
          { i with recovered := i.recovered.orElse (fun _ => some Code.rcvRetried), heldRec := true }))) := by
  change execAtticParity m n false s = _
  unfold execAtticParity
  rw [h]
  dsimp only
  rw [if_neg (by simp [hw])]
  rfl

/-- A second error gives the row for repair and ends the task (R463, R471). -/
theorem exec_atticParity_again {m : BitVec 3} (h : s.atticReader n m.toNat = some c) (hw : s.working = true) :
    let u := ((s.log (c.atticEntry m (Code.withCls Code.sramParity 0) 1 1)).log (c.atticEntry m Code.sramParity 2 0)).modRas
      (fun r => { r with rows := r.rows ++ [(5, m.toNat)] })
    exec (.atticParity m n true) s = .next (if c.r.state == .prefetch
      then (u.instFault c.n c.k Code.sramParity).closeTask c .ended else u.failTask c Code.sramParity) := by
  change execAtticParity m n true s = _
  unfold execAtticParity
  rw [h]
  dsimp only
  rw [if_neg (by simp [hw])]
  rfl

/-- A slice whose count is at the limit is counted anew, and its row is given for repair (R471, R472). -/
theorem exec_rateRetirement_attic {m : BitVec 3} (hw : s.working = true) (hl : s.ras.rateLimit ≠ 0)
    (hc : s.ras.rateLimit.toNat ≤ tgetD s.ras.cntAttic m.toNat 0) : exec (.rateRetirement (.attic m)) s =
      .next ((s.modRas (fun r => { r with cntAttic := tdel r.cntAttic m.toNat, rows := r.rows ++ [(5, m.toNat)] })).log
        { status := Code.rcvRetiredRate, unit := 5, index := m.toNat, action := 3 }) := by
  have hlimit : s.atLimit (tgetD s.ras.cntAttic m.toNat 0) = true :=
    Bool.and_eq_true_iff.mpr ⟨bne_iff_ne.mpr hl, decide_eq_true hc⟩
  change Host.Outcome.next (s.retireAttic m.toNat) = _
  rw [State.retireAttic, if_neg (by simp [hw, hlimit])]
  rfl

end

/-- Settles O37: a step of the ladder by the fault it takes up, and the rest by what the log has grown by. -/
theorem recoveries : Obligations.Recoveries := by
  unfold Obligations.Recoveries
  refine ⟨fun s n k room c f h hw hs hb hf => ?ladder, fun s m h hs hw => ?sem,
    fun s k n => ⟨fun again h => ?unread, fun c h hw => ?attic⟩, fun s k hw hl hc => ?rate⟩
  case ladder =>
    have hdue : s.StepDue n k c f := ⟨h, hw, hs, hb, hf⟩
    refine ⟨exec_ladderStep_overflow hdue, exec_ladderStep_behind hdue, fun hl hr hbehind hi hue hlate ha ho => ?_⟩
    obtain ⟨hrun, hrest⟩ := redispatch_logged h (c.entry f.rec_.status 1 (s.physOf room) 1 1 0 f.rec_.addr f.rec_.bytes)
      (fun r => { r with attempt := 2, once := r.once ++ [room] })
    refine ⟨_, (exec_ladderStep_room hdue hl hr hbehind hi hue hlate).trans (congrArg _ (roomStep_first ha ho)),
      fun r hr' => ?_, hrest⟩
    obtain ⟨q, hstate, hfaults, hstart, hend, rfl⟩ := hrun r hr'
    exact ⟨rfl, hstate, List.mem_append_right _ (List.mem_singleton_self _), hstart, hend, hfaults⟩
  case sem =>
    intro u
    refine ⟨fun hl => ⟨fun c hc => ?_, fun hc => ?_⟩, exec_semHoldLimit_short hs⟩
    all_goals
      refine (exec_semHoldLimit_long hs hw hl).trans ?_
      change Host.Outcome.next (State.instFault ((u.taskCtx h.inst h.task).elim u _) _ _ _) = _
      rw [hc]
      rfl
  case unread => exact exec_atticParity_unread h again
  case attic =>
    obtain ⟨p, r, e, hhead, hcount, -⟩ := log_log_form s (c.atticEntry k (Code.withCls Code.sramParity 0) 1 1)
      (c.atticEntry k Code.rcvRetried 2 0)
    obtain ⟨p', r', e', hhead', -, hrows'⟩ := log_log_form s (c.atticEntry k (Code.withCls Code.sramParity 0) 1 1)
      (c.atticEntry k Code.sramParity 2 0)
    refine ⟨⟨_, exec_atticParity_retried h hw, ?_⟩, _, exec_atticParity_again h hw, ?_⟩
    · rw [e]
      refine ⟨fun i hi => ?_, hhead, ?_, rfl⟩
      · rw [inst_modInst, if_pos rfl]
        exact congrArg (Option.map _) hi
      · change tup r.cntAttic _ _ _ = _
        rw [hcount]
        rfl
    · rw [e']
      exact ⟨congrArg (· ++ _) hrows', hhead', rfl⟩
  case rate =>
    refine ⟨_, exec_rateRetirement_attic hw hl hc, ?_, ?_, ?_, ?_⟩
    · rw [log_cntAttic]; exact tget_tdel_self ..
    · rw [log_rows]; rfl
    · rw [log_head]; rfl
    · obtain ⟨p, r, e⟩ := log_form' (s.modRas (fun r =>
        { r with cntAttic := tdel r.cntAttic k.toNat, rows := r.rows ++ [(5, k.toNat)] }))
        { status := Code.rcvRetiredRate, unit := 5, index := k.toNat, action := 3 }
      rw [e]
      rfl

end Sys2Proof.Machine
end

section
/-!
Tile claims: their rounds, their repetitions, and what is out of sequence (R123 to R126).
-/
namespace Sys2Proof.Machine

section

variable {s : State} {n k p : Nat} {c : TaskCtx} {cl : Claims}

/-- The last q that a position's claims were served with; 0xFFFF_FFFF before the first (R124). -/
def Claims.lastQ (cl : Claims) (p : Nat) : W32 := (tgetD cl.served p (0xFFFFFFFF, 0)).1

theorem lastQ_eq (cl : Claims) (p : Nat) : ((tget cl.served p).map (·.1)).getD 0xFFFFFFFF = cl.lastQ p := by
  rw [Claims.lastQ, tgetD]
  cases tget cl.served p <;> rfl

theorem ne_add_one (q : W32) : q ≠ q + 1 := by bv_omega

/-- A position of a working device's task that still claims, with no claim waiting for its round. -/
structure State.ClaimDue (s : State) (n k p : Nat) (c : TaskCtx) (cl : Claims) : Prop where
  task : s.taskCtx n k = some c
  claims : s.claimsOf n k = some cl
  working : s.working = true
  open_ : c.claims p = true
  idle : tget cl.arrived p = none

/-! ## TILE_CLAIM -/

/-- The next q joins its round (R124). -/
theorem exec_tileClaim_next (h : s.ClaimDue n k p c cl) : exec (.tileClaim n k p (cl.lastQ p + 1)) s =
    .next (s.modClaims n k (fun x => { x with arrived := tset x.arrived p (cl.lastQ p + 1) })) := by
  refine (withTask_next h.task _).trans ?_
  dsimp only
  rw [h.claims]
  dsimp only
  rw [lastQ_eq, if_neg (by simp [h.working, h.open_]), if_neg (by simp [thas_eq_false h.idle]), if_pos rfl]

/-- The last q is answered again, from the stored value (R125). -/
theorem exec_tileClaim_stored (h : s.ClaimDue n k p c cl) {q v : W32} (hq : tget cl.served p = some (q, v)) :
    exec (.tileClaim n k p q) s = .next (s.answerTwice n k p v) := by
  have hlast : cl.lastQ p = q := by rw [Claims.lastQ, tgetD, hq]; rfl
  refine (withTask_next h.task _).trans ?_
  dsimp only
  rw [h.claims]
  dsimp only
  rw [lastQ_eq, hlast, if_neg (by simp [h.working, h.open_]), if_neg (by simp [thas_eq_false h.idle]), if_neg (ne_add_one q),
    if_pos rfl, hq]

/-- Before the first, the q stored at dispatch is answered by a free value (log entry 132). -/
theorem exec_tileClaim_dispatch (h : s.ClaimDue n k p c cl) (hq : tget cl.served p = none) :
    exec (.tileClaim n k p 0xFFFFFFFF) s =
      .next ({ s with free := s.free + 1 }.answerTwice n k p ((Config.freeWord s.free).setWidth 32)) := by
  have hlast : cl.lastQ p = 0xFFFFFFFF := by rw [Claims.lastQ, tgetD, hq]; rfl
  refine (withTask_next h.task _).trans ?_
  dsimp only
  rw [h.claims]
  dsimp only
  rw [lastQ_eq, hlast, if_neg (by simp [h.working, h.open_]), if_neg (by simp [thas_eq_false h.idle]), if_neg (ne_add_one _),
    if_pos rfl, hq]
  rfl

/-- Any other q faults the task (R124). -/
theorem exec_tileClaim_fault (h : s.ClaimDue n k p c cl) {q : W32} (hnext : q ≠ cl.lastQ p + 1) (hlast : q ≠ cl.lastQ p) :
    exec (.tileClaim n k p q) s = .next (s.claimFault c p) := by
  refine (withTask_next h.task _).trans ?_
  dsimp only
  rw [h.claims]
  dsimp only
  rw [lastQ_eq, if_neg (by simp [h.working, h.open_]), if_neg (by simp [thas_eq_false h.idle]), if_neg hnext, if_neg hlast]

/-! ## CLAIM_ROUND_SERVE and TILE_CLAIM_RESEND -/

/-- A round in which every position that still claims has claimed is served from the job's counter (R123, R124). -/
theorem exec_claimRoundServe (h : s.taskCtx n k = some c) (hc : s.claimsOf n k = some cl) (hw : s.working = true)
    (ha : cl.arrived ≠ []) (hall : ∀ q < c.rooms, (∃ v, tget cl.arrived q = some v) ∨ c.claims q = false) :
    let r := serveRound (tgetD c.j.ctrs c.t.counter 0) cl.arrived
    exec (.claimRoundServe n k) s = .next ((s.modJob c.i.job (fun j =>
      { j with ctrs := tset j.ctrs c.t.counter r.2 })).modClaims n k (Claims.serve c.t r.1)) := by
  have hround : (List.range c.rooms).all (fun p => thas cl.arrived p || !c.claims p) = true := by
    refine List.all_eq_true.mpr fun q hq => ?_
    rcases hall q (List.mem_range.mp hq) with ⟨v, hv⟩ | hq <;> simp [thas, *]
  refine (withTask_next h _).trans ?_
  dsimp only
  rw [hc]
  dsimp only
  rw [if_neg (by simp [hw, ha, hround])]

/-- A Room that lost its answer receives the stored value again; a second staging of a tile whose bit is set is counted (R125,
R126). -/
theorem exec_tileClaimResend (h : s.ClaimDue n k p c cl) {q v : W32} (hq : tget cl.served p = some (q, v)) :
    let u : State := { s.answerTwice n k p v with free := s.free + 1 }
    exec (.tileClaimResend n k p) s = .next
      (if (Config.freeWord s.free).getLsbD 0 && (cl.stage (c.t.trips roleTile) (c.t.tileIndex q.toNat v)).2
        then u.modPlan (fun p => { p with dupTile := satAdd p.dupTile 1 }) else u) := by
  refine (withTask_next h.task _).trans ?_
  dsimp only
  rw [h.claims]
  dsimp only
  rw [if_neg (by simp [h.working, h.open_, thas_eq_false h.idle]), hq]
  rfl

end

/-- Settles O38: a claim by how its q stands to the last one served; the round and the repetition. -/
theorem tileClaims : Obligations.TileClaims := by
  unfold Obligations.TileClaims
  intro s n k p c cl h hcl hw
  refine ⟨fun ho hi q => ?_, exec_claimRoundServe h hcl hw,
    fun q v ho hi hq => exec_tileClaimResend ⟨h, hcl, hw, ho, hi⟩ hq⟩
  have hdue : s.ClaimDue n k p c cl := ⟨h, hcl, hw, ho, hi⟩
  refine ⟨?next, fun v hv => exec_tileClaim_stored hdue hv, ?dispatch, exec_tileClaim_fault hdue⟩
  case next => rintro rfl; exact exec_tileClaim_next hdue
  case dispatch => rintro hn rfl; exact exec_tileClaim_dispatch hdue hn

end Sys2Proof.Machine
end

section
/-!
Pre-emption: how it is asked for and granted (R262).
-/
namespace Sys2Proof.Machine

/-! ## PREEMPT_REQUEST -/

/-- PREEMPT_REQUEST of a WAITING run of an ON_DEMAND job whose beat has come: the job takes its Rooms, or every victim is asked
to give way (R262). -/
theorem exec_preemptRequest {s : State} {n : Nat} {i : Inst} {j : Job} (hi : s.inst n = some i) (hj : s.job i.job = some j)
    (hw : s.working = true) (hs : i.state = .waiting) (hd : j.onDemand = true) (hh : j.holds = false) (hb : i.b0 ≤ s.beat) :
    exec (.preemptRequest n) s = .next (if s.allOut i.job j then s.claimRooms i.job
      else (s.victims j).foldl (fun s v => s.askFreeze v.1 i.job) s) := by
  change execPreemptRequest n s = _
  unfold execPreemptRequest
  rw [hi]
  dsimp only
  rw [hj]
  dsimp only
  rw [if_neg (by simp [hw, hs, hd, hh, hb])]

theorem allOut_iff (s : State) (n : Nat) (j : Job) : s.allOut n j = true ↔
    (∀ v ∈ s.victims j, ∃ p ∈ v.2.pre, p.by_ = n ∧ p.phase = .out) ∧ ∀ q ∈ j.roomList, (s.room q).state ≠ .saving := by
  simp [State.allOut]

/-- A victim that is not out, or a Room of another switch, keeps the job from its Rooms. -/
theorem allOut_eq_false {s : State} {n : Nat} {j : Job} (h : (∃ v ∈ s.victims j, ∀ p ∈ v.2.pre, p.by_ = n → p.phase ≠ .out) ∨
    ∃ q ∈ j.roomList, (s.room q).state = .saving) : s.allOut n j = false := by
  rw [Bool.eq_false_iff, ne_eq, allOut_iff]
  rintro ⟨hout, hrooms⟩
  obtain ⟨v, hv, hne⟩ | ⟨q, hq, hsaving⟩ := h
  · obtain ⟨p, hp, hby, hphase⟩ := hout v hv
    exact hne p hp hby hphase
  · exact hrooms q hq hsaving

/-- The Rooms that an ON_DEMAND job takes are its own, with nothing live; only its mark changes beside them (R262). -/
theorem claimRooms_form {s : State} {n : Nat} {j : Job} (hj : s.job n = some j) : ∃ x, s.claimRooms n =
      { s with rooms := x, plan := { s.plan with jobs := tmod s.plan.jobs n (fun j => { j with holds := true }) } } ∧
    ∀ q, tgetD x q Room.reset = if q ∈ j.roomList then { s.room q with job := BitVec.ofNat 6 n, live := 0 } else s.room q := by
  obtain ⟨x, e, hrooms⟩ := fold_room (fun r => { r with job := BitVec.ofNat 6 n, live := 0 }) (fun _ => rfl) j.roomList s
  refine ⟨x, ?_, hrooms⟩
  unfold State.claimRooms
  rw [hj]
  exact congrArg (State.modJob · n (fun j => { j with holds := true })) e

/-- A victim is a job of the Planner. -/
theorem job_of_victim {s : State} {j : Job} {v : Nat × Job} (h : v ∈ s.victims j) : ∃ w, s.job v.1 = some w :=
  tget_of_mem (List.mem_of_mem_filter h)

/-! ## VICTIM_FREEZE -/

/-- A victim with a request that has come freezes at once, or waits for a semaphore hold to end (R262). -/
theorem exec_victimFreeze {s : State} {m : JobId} {j : Job} {p : Preempt} (hj : s.job m.toNat = some j) (hw : s.working = true)
    (hp : p ∈ j.pre) (hby : p.by_ ≠ 65) (hphase : p.phase = .requested) (hat : p.at_ ≤ s.beat) :
    exec (.victimFreeze m) s = .next (if s.holdsSem m.toNat then s else s.modJob m.toNat (fun j => { j with
      pre := j.pre.map (fun p => if p.by_ != 65 && p.phase == .requested then { p with phase := .frozen } else p) })) := by
  have hcome : j.pre.any (fun p => p.by_ != bySpan && p.phase == .requested && decide (p.at_ ≤ s.beat)) = true :=
    List.any_eq_true.mpr ⟨p, hp, by simp [bySpan, hby, hphase, hat]⟩
  change execVictimFreeze m s = _
  unfold execVictimFreeze
  dsimp only
  rw [hj]
  dsimp only
  rw [if_neg (by simp [hw]), if_pos hcome]
  rfl

/-- Settles O31: the request by whether every victim is out, the freeze by whether the victim holds a semaphore. -/
theorem preemptionIsAsked : Obligations.PreemptionIsAsked := by
  unfold Obligations.PreemptionIsAsked
  refine ⟨fun s n i j hi hj hw hs hd hh hb => ?asks, fun s m j p hj hw hp hby hphase hat => ?freezes⟩
  case asks =>
    have hx := exec_preemptRequest hi hj hw hs hd hh hb
    refine ⟨fun hout hrooms => ?taken, fun h => ?asked⟩
    case taken =>
      rw [if_pos ((allOut_iff ..).mpr ⟨hout, hrooms⟩)] at hx
      obtain ⟨x, e, htaken⟩ := claimRooms_form hj
      refine ⟨_, hx, ?_⟩
      rw [e]
      refine ⟨?_, fun k hk => (job_modJob s i.job k _).trans (if_neg hk), htaken, rfl⟩
      exact (job_modJob s i.job i.job _).trans (by rw [if_pos rfl, hj]; rfl)
    case asked =>
      rw [if_neg (Bool.eq_false_iff.mp (allOut_eq_false h))] at hx
      obtain ⟨⟨js, f, q, w, e⟩, hothers, hasked⟩ := ask_fold i.job (s.victims j) s
      refine ⟨_, hx, fun v hv => ?_, hothers, by rw [e]⟩
      obtain ⟨w, hw⟩ := job_of_victim hv
      obtain ⟨u, hu, -, hby⟩ := hasked v.1 w hw
      exact ⟨u, hu, hby ⟨v, hv, rfl⟩⟩
  case freezes =>
    have hx := exec_victimFreeze hj hw hp hby hphase hat
    refine ⟨fun hfree => ?_, fun hheld => ?_⟩
    · rw [hx, if_neg (by simp [hfree])]
      rfl
    · rw [hx, if_pos hheld]

end Sys2Proof.Machine
end

section
/-!
Switches of Rooms: what they change, and what the end of a save and of a restore leaves (R263, R265).
-/
namespace Sys2Proof.Machine

/-- What no switch, return or thaw touches. -/
structure SwitchKeeps (s t : State) : Prop where
  insts : t.plan.insts = s.plan.insts
  ring : t.ring = s.ring
  mem : t.mem = s.mem
  larder : t.larder = s.larder
  out : t.out = s.out

theorem SwitchKeeps.trans {s t u : State} (h : SwitchKeeps s t) (g : SwitchKeeps t u) : SwitchKeeps s u :=
  ⟨g.insts.trans h.insts, g.ring.trans h.ring, g.mem.trans h.mem, g.larder.trans h.larder, g.out.trans h.out⟩

theorem SwitchKeeps.modJob (s : State) (n : Nat) (f : Job → Job) : SwitchKeeps s (s.modJob n f) := ⟨rfl, rfl, rfl, rfl, rfl⟩

theorem SwitchKeeps.thaw (s : State) (n : Nat) : SwitchKeeps s (s.thaw n) := by
  obtain ⟨js, f, q, w, e, -⟩ := thaw_form s n
  rw [e]
  exact ⟨rfl, rfl, rfl, rfl, rfl⟩

theorem room_thaw (s : State) (n q : Nat) : (s.thaw n).room q = s.room q := by
  obtain ⟨js, f, po, w, e, -⟩ := thaw_form s n
  rw [e]
  rfl

theorem job_thaw_ne (s : State) {n k : Nat} (h : k ≠ n) : (s.thaw n).job k = s.job k := by
  obtain ⟨js, f, po, w, e, hothers, -⟩ := thaw_form s n
  rw [e]
  exact hothers k h

theorem job_thaw_self {s : State} {n : Nat} {j : Job} (h : s.job n = some j) :
    ∃ c x, (s.thaw n).job n = some { j with cut := c, withdrawn := x } := by
  obtain ⟨js, f, po, w, e, -, hself⟩ := thaw_form s n
  rw [e]
  exact hself j h

theorem room_roomsTo (s : State) (l : List Nat) (st : RoomState) (q : Nat) :
    (s.roomsTo l st).room q = if q ∈ l then { s.room q with state := st } else s.room q := by
  obtain ⟨x, e, h⟩ := roomsTo_form st l s
  rw [e]
  exact h q

@[simp] theorem job_finish (s : State) (r id : Nat) (c : W32) (k : Nat) : (s.finish r id c).job k = s.job k := by
  rw [State.job, State.finish_plan, State.job]

@[simp] theorem room_finish (s : State) (r id : Nat) (c : W32) (q : Nat) : (s.finish r id c).room q = s.room q := by
  rw [State.room, State.finish_rooms, State.room]

/-- The one packet that waits for a job completes (R268). -/
theorem endWaiters_one (s : State) (n : Nat) {j : Job} {g id : Nat} (h : j.waiters = [(g, id)]) (c : W32) :
    s.endWaiters n j c = (s.modJob n (fun j => { j with waiters := [] })).finish g id c := by
  rw [State.endWaiters, h]
  rfl

/-! ## SWITCH_COMPLETE -/

/-- Rooms of a pre-emption that are not lost. -/
def State.keptRooms (s : State) (p : Preempt) : List Nat := p.rooms.filter (fun q => !s.glb.grid.lost.contains q)

theorem mem_keptRooms {s : State} {p : Preempt} {q : Nat} : q ∈ s.keptRooms p ↔ q ∈ p.rooms ∧ q ∉ s.glb.grid.lost := by
  simp [State.keptRooms]

/-- What the Rooms of a pre-emption hold is saved with the job, and the job is out of them (R265). -/
def State.saveRooms (s : State) (n : Nat) (p : Preempt) : State :=
  (((s.keptRooms p).foldl (fun s q => s.saveRoom n q) s).roomsTo (s.keptRooms p) .idle).modPre n p.by_
    (fun q => { q with phase := .out })

/-- The end of a save, with the parity faults that it meets (R265, R469). -/
def State.saveOut (s : State) (n : Nat) (p : Preempt) : State := (s.saveFault n (s.keptRooms p)).saveRooms n p

/-- The end of a restore: the Rooms of a pre-emption hold what the job keeps, and are its own (R265). -/
def State.restoreAll (s : State) (n : Nat) (p : Preempt) : State := p.rooms.foldl (fun s q => s.restoreRoom n q) s

/-- The first element of a list at which a test holds. -/
theorem find_first {α : Type} {f : α → Bool} {l₁ l₂ : List α} {p : α} (hl : ∀ q ∈ l₁, f q = false) (hp : f p = true) :
    (l₁ ++ p :: l₂).find? f = some p := by
  rw [List.find?_eq_some_iff_append]
  exact ⟨hp, l₁, l₂, rfl, fun q hq => by rw [hl q hq]; rfl⟩

/-- A job whose first switch that is due is that of pre-emption `p`. -/
structure State.Due (s : State) (n : Nat) (j : Job) (p : Preempt) (till : Nat) : Prop where
  job : s.job n = some j
  first : ∃ l₁ l₂, j.pre = l₁ ++ p :: l₂ ∧ ∀ q ∈ l₁, ∀ t, q.phase = .saving t ∨ q.phase = .restoring t → s.beat < t
  come : till ≤ s.beat
  phase : p.phase = .saving till ∨ p.phase = .restoring till

/-- The victim's Rooms go to the ON_DEMAND job once every victim is out, or back at once where that job is gone (R263). -/
def State.handOver (s : State) (n : Nat) (p : Preempt) (rooms : List Nat) : State :=
  match s.job n, s.job p.by_ with
  | _, some o => if s.allOut p.by_ o then s.claimRooms p.by_ else s
  | some j, none => s.beginReturn n j n p.by_ rooms
  | none, none => s

theorem handOver_open {s : State} {p : Preempt} {o : Job} (h : s.job p.by_ = some o) (n : Nat) (rooms : List Nat) :
    s.handOver n p rooms = if s.allOut p.by_ o then s.claimRooms p.by_ else s := by
  unfold State.handOver
  rw [h]

theorem handOver_gone {s : State} {n : Nat} {p : Preempt} {j : Job} (hj : s.job n = some j) (h : s.job p.by_ = none)
    (rooms : List Nat) : s.handOver n p rooms = s.beginReturn n j n p.by_ rooms := by
  unfold State.handOver
  rw [hj, h]

/-- The end of the switch of pre-emption `p`. -/
def State.completeSwitch (s : State) (n : Nat) (j : Job) (p : Preempt) : State :=
  match p.phase with
  | .saving _ => if p.by_ = byHost then (s.saveOut n p).suspendDone n j
      else (s.saveOut n p).handOver n p ((s.saveFault n (s.keptRooms p)).keptRooms p)
  | _ => if p.by_ = byHost then (s.restoreAll n p).resumeDone n j else ((s.restoreAll n p).dropPre n p.by_).thaw n

section
variable {s : State} {m : JobId} {j : Job} {p : Preempt} {till : Nat}

/-- SWITCH_COMPLETE ends the first switch that is due (R265). -/
theorem exec_switchComplete (h : s.Due m.toNat j p till) :
    exec (.switchComplete m) s = .next (s.completeSwitch m.toNat j p) := by
  obtain ⟨hj, ⟨l₁, l₂, hpre, hfirst⟩, hcome, hphase⟩ := h
  change execSwitchComplete m s = _
  unfold execSwitchComplete
  dsimp only
  rw [hj]
  dsimp only
  rw [hpre, find_first (fun q hq => ?early) ?due]
  case early =>
    split
    · next t ht => exact decide_eq_false (Nat.not_le.mpr (hfirst q hq t (.inl ht)))
    · next t ht => exact decide_eq_false (Nat.not_le.mpr (hfirst q hq t (.inr ht)))
    · rfl
  case due =>
    obtain hp | hp := hphase
    · rw [hp]
      exact decide_eq_true hcome
    · rw [hp]
      exact decide_eq_true hcome
  rfl

theorem exec_switchComplete_saving (h : s.Due m.toNat j p till) (hp : p.phase = .saving till) :
    exec (.switchComplete m) s = .next (if p.by_ = 64 then (s.saveOut m.toNat p).suspendDone m.toNat j
      else (s.saveOut m.toNat p).handOver m.toNat p ((s.saveFault m.toNat (s.keptRooms p)).keptRooms p)) := by
  rw [exec_switchComplete h, State.completeSwitch, hp]
  rfl

theorem exec_switchComplete_restoring (h : s.Due m.toNat j p till) (hp : p.phase = .restoring till) :
    exec (.switchComplete m) s = .next (if p.by_ = 64 then (s.restoreAll m.toNat p).resumeDone m.toNat j
      else ((s.restoreAll m.toNat p).dropPre m.toNat p.by_).thaw m.toNat) := by
  rw [exec_switchComplete h, State.completeSwitch, hp]
  rfl

end

/-- What the end of a save without a second parity fault leaves: `u` holds the Rooms' contents with the job, and the Rooms are
IDLE. -/
structure SavedOut (s : State) (n : Nat) (j : Job) (p : Preempt) (u : State) : Prop where
  room : ∀ q, u.room q = if q ∈ s.keptRooms p then { s.room q with state := .idle } else s.room q
  self : ∃ k, u.job n = some k ∧ k.pre = j.pre.map (fun q => if q.by_ = p.by_ then { q with phase := .out } else q) ∧
    ∀ q ∈ s.keptRooms p, ∃ v, tget k.saved q = some v ∧ v.store = (s.room q).store ∧ v.acc0 = (s.room q).acc0 ∧
      v.acc1 = (s.room q).acc1 ∧ v.lines = (s.room q).lines
  others : ∀ k, k ≠ n → u.job k = s.job k
  frame : u = { s with free := s.free + 1, rooms := u.rooms, porch := u.porch, ras := u.ras,
                       plan := { s.plan with jobs := u.plan.jobs } }

theorem SavedOut.keeps {s : State} {n : Nat} {j : Job} {p : Preempt} {u : State} (h : SavedOut s n j p u) : SwitchKeeps s u := by
  rw [h.frame]
  exact ⟨rfl, rfl, rfl, rfl, rfl⟩

theorem saveRooms_form {s : State} {n : Nat} {j : Job} (p : Preempt) (hj : s.job n = some j) : ∃ x js,
    s.saveRooms n p = { s with rooms := x, plan := { s.plan with jobs := js } } ∧
    (∀ q, tgetD x q Room.reset = if q ∈ s.keptRooms p then { s.room q with state := .idle } else s.room q) ∧
    (∃ k, tget js n = some k ∧ k.pre = j.pre.map (fun q => if q.by_ = p.by_ then { q with phase := .out } else q) ∧
      ∀ q ∈ s.keptRooms p, ∃ v, tget k.saved q = some v ∧ v.store = (s.room q).store ∧ v.acc0 = (s.room q).acc0 ∧
        v.acc1 = (s.room q).acc1 ∧ v.lines = (s.room q).lines) ∧
    ∀ k, k ≠ n → tget js k = s.job k := by
  obtain ⟨js, e, ⟨k, hk, hpre, hsaved, -⟩, hothers⟩ := save_fold n (s.keptRooms p) s j hj
  obtain ⟨x, e', hroom⟩ := roomsTo_form .idle (s.keptRooms p) { s with plan := { s.plan with jobs := js } }
  rw [State.saveRooms, e, e']
  refine ⟨x, _, rfl, hroom, ?_, fun i hi => (tget_tmod_ne _ _ hi).trans (hothers i hi)⟩
  refine ⟨_, (tget_tmod_self ..).trans (congrArg _ hk), by rw [← hpre], hsaved⟩

theorem saveOut_savedOut {s : State} {n : Nat} {j : Job} (p : Preempt) (hj : s.job n = some j)
    (hf : ((Config.freeWord s.free).getLsbD 0 && (Config.freeWord s.free).getLsbD 1) = false) :
    SavedOut s n j p (s.saveOut n p) := by
  obtain ⟨po, ra, e⟩ := saveFault_form s n (s.keptRooms p) hf
  rw [State.saveOut, e]
  obtain ⟨x, js, e', hroom, hself, hothers⟩ :=
    saveRooms_form (s := { s with free := s.free + 1, porch := po, ras := ra }) p hj
  rw [e']
  exact ⟨hroom, hself, hothers, rfl⟩

/-- A save without a second parity fault loses no Room. -/
theorem keptRooms_saveFault {s : State} (n : Nat) (p : Preempt)
    (hf : ((Config.freeWord s.free).getLsbD 0 && (Config.freeWord s.free).getLsbD 1) = false) :
    (s.saveFault n (s.keptRooms p)).keptRooms p = s.keptRooms p := by
  obtain ⟨po, ra, e⟩ := saveFault_form s n (s.keptRooms p) hf
  rw [e]
  rfl

/-- What the end of a restore leaves: the job is in its Rooms again. -/
structure Restored (s : State) (n : Nat) (j : Job) (p : Preempt) (u : State) : Prop where
  self : ∃ v, u.job n = some { j with saved := v }
  others : ∀ k, k ≠ n → u.job k = s.job k
  room : ∀ q ∈ p.rooms, q ∉ s.glb.grid.lost → (u.room q).state = .idle ∧ (u.room q).job = BitVec.ofNat 6 n
  keeps : SwitchKeeps s u

theorem restoreAll_restored {s : State} {n : Nat} {j : Job} (p : Preempt) (hj : s.job n = some j) :
    Restored s n j p (s.restoreAll n p) := by
  obtain ⟨x, js, e, hself, hothers, -, hroom⟩ := restore_rooms n p.rooms s j hj
  rw [State.restoreAll, e]
  exact ⟨hself, hothers, hroom, ⟨rfl, rfl, rfl, rfl, rfl⟩⟩

end Sys2Proof.Machine
end

section
/-!
The host's pre-emption of a job: JOB_PREEMPT, the end of its switch, and the way back (R268).
-/
namespace Sys2Proof.Machine

/-! ## JOB_PREEMPT -/

/-- A packet that waits for a job is in execution, and the job's list of them ends with it (R268). -/
theorem waitFor_form (s : State) (r : RingId) (id n : Nat) : s.waitFor r.toNat id n =
    { s with ring := (s.beginOp r.toNat id).ring, plan := { s.plan with
      jobs := tmod s.plan.jobs n (fun j => { j with waiters := j.waiters ++ [(r.toNat, id)] }) } } := by
  obtain ⟨g, e⟩ := beginOp_ring s r id
  unfold State.waitFor
  rw [e]
  rfl

theorem job_waitFor (s : State) (r : RingId) (id n k : Nat) : (s.waitFor r.toNat id n).job k =
    if k = n then (s.job k).map (fun j => { j with waiters := j.waiters ++ [(r.toNat, id)] }) else s.job k := by
  rw [waitFor_form]
  exact job_modJob s n k _

theorem beat_waitFor (s : State) (r : RingId) (id n : Nat) : (s.waitFor r.toNat id n).beat = s.beat := by
  rw [waitFor_form]
  rfl

/-- JOB_PREEMPT of an open BULK job that is not yet as the packet asks: the packet waits, and SUSPEND asks for the switch. -/
theorem exec_jobPreempt {s : State} {r : RingId} {o : Op} {j : Job} (ho : Offers s r 0x35 o)
    (hj : s.job (rd o.bytes 16 1) = some j) (hc : j.closing = none) (hp : j.prio = 4)
    (ha : rd o.bytes 17 1 = 0 ∧ j.suspended = false ∨ rd o.bytes 17 1 = 1 ∧ j.suspended = true) :
    exec (.jobPreempt r) s = .next (if rd o.bytes 17 1 = 0
      then (s.waitFor r.toNat o.id (rd o.bytes 16 1)).askFreeze (rd o.bytes 16 1) byHost
      else s.waitFor r.toNat o.id (rd o.bytes 16 1)) := by
  have hact : ¬ 1 < rd o.bytes 17 1 := by omega
  have hopen : s.jobOpen (rd o.bytes 16 1) = true := by simp [State.jobOpen, hj, hc]
  have hother : ¬ (rd o.bytes 17 1 = 0) = (j.suspended = true) := by
    obtain ⟨h0, hs⟩ | ⟨h1, hs⟩ := ha
    · simp [h0, hs]
    · simp [h1, hs]
  change Host.Outcome.next (s.withOp _ _ _) = _
  rw [ho.withOp]
  dsimp only
  rw [if_neg hact, if_neg (by simp [hopen]), hj]
  dsimp only
  rw [if_neg (by simp [Job.bulk, hp]), if_neg hother]

theorem FabOnly.job {s t : State} (h : FabOnly s t) (k : Nat) : t.job k = s.job k := by
  obtain ⟨f, po, w, rfl⟩ := h
  rfl

theorem askFreeze_asked {s : State} {v b : Nat} {j : Job} (hj : s.job v = some j) (h : ∃ p ∈ j.pre, p.by_ = b) :
    s.askFreeze v b = s := by
  unfold State.askFreeze
  rw [hj]
  dsimp only
  rw [if_pos (by simpa using h)]

/-- The first request: the victim notes it, and only the fabric, with what it reports, changes beside the victim (R264). -/
theorem askFreeze_first {s : State} {v b : Nat} {j : Job} (hj : s.job v = some j) (h : ∀ p ∈ j.pre, p.by_ ≠ b) :
    FabOnly (s.modJob v (fun j => { j with pre := j.pre ++ [⟨b, .requested, s.beat, []⟩] })) (s.askFreeze v b) := by
  unfold State.askFreeze
  rw [hj]
  dsimp only
  rw [if_neg (by simpa using h)]
  exact FabOnly.tellOthers ..

/-! ## JOB_RESUME_RESTORE -/

/-- JOB_RESUME_RESTORE of a suspended job with a packet that waits, over whose IDLE Rooms nobody holds any: the switch back
begins (R268). -/
theorem exec_jobResumeRestore {s : State} {m : JobId} {j : Job} (hj : s.job m.toNat = some j) (hw : s.working = true)
    (hs : j.suspended = true) (hwait : j.waiters ≠ []) (hpre : ∀ p ∈ j.pre, p.by_ ≠ 64)
    (hheld : ∀ q ∈ s.plan.jobs, q.2.holds = true → q.2.rect.meets j.rect = false)
    (hidle : ∀ q ∈ j.roomList.filter (fun q => !s.glb.grid.lost.contains q), (s.room q).state = .idle) :
    exec (.jobResumeRestore m) s = .next ((s.modJob m.toNat (fun j => { j with
      pre := ⟨64, .frozen, s.beat, j.roomList⟩ :: j.pre.filter (fun p => decide (p.by_ = 65)) })).beginReturn m.toNat j m.toNat 64
        (j.roomList.filter (fun q => !s.glb.grid.lost.contains q))) := by
  have hnone : j.pre.any (fun p => p.by_ = byHost) = false := by
    simpa using show ∀ p ∈ j.pre, p.by_ ≠ byHost from hpre
  have hfree : s.plan.jobs.any (fun p => p.2.holds && p.2.rect.meets j.rect) = false := by
    rw [List.any_eq_false]
    intro q hq h
    obtain ⟨hholds, hmeets⟩ := Bool.and_eq_true_iff.mp h
    exact Bool.eq_false_iff.mp (hheld q hq hholds) hmeets
  have hall : (j.roomList.filter (fun q => !s.glb.grid.lost.contains q)).all (fun q => (s.room q).state == .idle) = true :=
    List.all_eq_true.mpr (fun q hq => beq_iff_eq.mpr (hidle q hq))
  change execJobResumeRestore m s = _
  unfold execJobResumeRestore
  dsimp only
  rw [hj]
  dsimp only
  rw [if_neg (by simp only [hw, hs, hnone, hfree, hall, List.isEmpty_eq_false_iff.mpr hwait]; decide)]
  rfl

theorem room_beginReturn (s : State) (n : Nat) (j : Job) (o b : Nat) (l : List Nat) (q : Nat) :
    (s.beginReturn n j o b l).room q = if q ∈ l then { s.room q with state := .saving } else s.room q :=
  room_roomsTo s l .saving q

theorem job_beginReturn (s : State) (n : Nat) (j : Job) (o b : Nat) (l : List Nat) : (s.beginReturn n j o b l).job n =
    (s.job n).map (fun j' => { j' with pre := j'.pre.map (fun p =>
      if p.by_ = b then { p with phase := .restoring (s.beat + switchBeats (l.map (s.liveOf j.savedLives))) } else p) }) := by
  obtain ⟨x, c, e⟩ := beginReturn_form s n j o b l
  rw [e]
  exact (job_modJob s n n _).trans (if_pos rfl)

/-- A change of the pre-emptions by another name leaves a list of the span's alone. -/
theorem map_spanPre (l : List Preempt) (f : Preempt → Preempt) :
    (l.filter (fun p => decide (p.by_ = 65))).map (fun p => if p.by_ = 64 then f p else p) =
      l.filter (fun p => decide (p.by_ = 65)) := by
  refine (List.map_congr_left fun p hp => ?_).trans (List.map_id _)
  have hby : p.by_ = 65 := of_decide_eq_true (List.mem_filter.mp hp).2
  exact if_neg (by omega)

/-! ## The end of the host's own switch -/

/-- A switch of `s` has ended in `u`: the packet that waited for it completes with success, and nothing changes that no switch
touches but the rings. -/
structure SwitchEnds (s : State) (g id : Nat) (u : State) : Prop where
  status : u.statusOf g id = some Code.ok
  insts : u.plan.insts = s.plan.insts
  mem : u.mem = s.mem
  larder : u.larder = s.larder
  out : u.out = s.out

section
variable {s t : State} {n : Nat} {j : Job} {g id : Nat} {o : Op}

theorem job_endWaiters (h : j.waiters = [(g, id)]) (c : W32) (k : Nat) : (t.endWaiters n j c).job k =
    if k = n then (t.job k).map (fun j => { j with waiters := [] }) else t.job k := by
  rw [endWaiters_one _ _ h, job_finish, job_modJob]

theorem room_endWaiters (h : j.waiters = [(g, id)]) (c : W32) (q : Nat) : (t.endWaiters n j c).room q = t.room q := by
  rw [endWaiters_one _ _ h, room_finish]
  rfl

theorem endWaiters_ends (h : SwitchKeeps s t) (hw : j.waiters = [(g, id)]) (hg : g < 2 ^ 20) (ho : s.findOp g id = some o) :
    SwitchEnds s g id (t.endWaiters n j Code.ok) := by
  rw [endWaiters_one _ _ hw]
  refine ⟨status_find (t := t.modJob n _) ho (toNat_ne_mbox hg) h.ring _, ?_, ?_, ?_, ?_⟩
  · rw [State.finish_plan]; exact h.insts
  · rw [State.finish_mem]; exact h.mem
  · rw [State.finish_larder]; exact h.larder
  · rw [State.finish_out]; exact h.out

/-- The host's suspension is done: the job is no victim any more, and no packet waits for it (R268). -/
theorem job_suspendDone {k : Job} (hw : j.waiters = [(g, id)]) (hk : t.job n = some k) : (t.suspendDone n j).job n =
    some { k with suspended := true, waiters := [],
                  pre := k.pre.filter (fun p => p.by_ = bySpan || p.phase == .out && p.by_ != byHost) } := by
  rw [State.suspendDone, job_endWaiters hw, if_pos rfl, job_modJob, if_pos rfl, hk]
  rfl

theorem job_suspendDone_ne (hw : j.waiters = [(g, id)]) {k : Nat} (h : k ≠ n) : (t.suspendDone n j).job k = t.job k := by
  rw [State.suspendDone, job_endWaiters hw, if_neg h, job_modJob, if_neg h]

theorem room_suspendDone (hw : j.waiters = [(g, id)]) (q : Nat) : (t.suspendDone n j).room q = t.room q := by
  rw [State.suspendDone, room_endWaiters hw]
  rfl

/-- The host's resumption is done: only its part in a spanning freeze is left, and no packet waits for it (R268). -/
theorem job_resumeDone {k : Job} (hw : j.waiters = [(g, id)]) (hk : t.job n = some k) : ∃ c x, (t.resumeDone n j).job n =
    some { k with suspended := false, waiters := [], pre := k.pre.filter (fun p => p.by_ = bySpan), cut := c,
                  withdrawn := x } := by
  have hrun : (t.modJob n (fun j => { j with suspended := false, pre := j.pre.filter (fun p => p.by_ = bySpan) })).job n =
      some { k with suspended := false, pre := k.pre.filter (fun p => p.by_ = bySpan) } := by
    rw [job_modJob, if_pos rfl, hk]
    rfl
  obtain ⟨c, x, e⟩ := job_thaw_self hrun
  refine ⟨c, x, ?_⟩
  rw [State.resumeDone, job_endWaiters hw, if_pos rfl, e]
  rfl

theorem job_resumeDone_ne (hw : j.waiters = [(g, id)]) {k : Nat} (h : k ≠ n) : (t.resumeDone n j).job k = t.job k := by
  rw [State.resumeDone, job_endWaiters hw, if_neg h, job_thaw_ne _ h, job_modJob, if_neg h]

theorem room_resumeDone (hw : j.waiters = [(g, id)]) (q : Nat) : (t.resumeDone n j).room q = t.room q := by
  rw [State.resumeDone, room_endWaiters hw, room_thaw]
  rfl

end

/-- Settles O30: the packet by whether its switch was asked for before, the end of the host's switch by its direction. -/
theorem jobPreempts : Obligations.JobPreempts := by
  unfold Obligations.JobPreempts
  constructor
  · intro s r o j n waits
    have hjob (hj : s.job n = some j) : (s.waitFor r.toNat o.id n).job n = some waits := by
      rw [job_waitFor, if_pos rfl, hj]; rfl
    refine ⟨fun ho hj hc hp => ⟨fun ha hs hfirst => ?asks, fun h => ?waits⟩, ?resumes⟩
    case asks =>
      have hx := exec_jobPreempt ho hj hc hp (.inl ⟨ha, hs⟩)
      rw [if_pos ha] at hx
      have hfab := askFreeze_first (b := byHost) (hjob hj) hfirst
      refine ⟨_, hx, ?_, fun k hk => ?_, ?_⟩
      · rw [hfab.job, job_modJob, if_pos rfl, hjob hj, beat_waitFor]
        rfl
      · rw [hfab.job, job_modJob, if_neg hk, job_waitFor, if_neg hk]
      · obtain ⟨f, po, w, e⟩ := hfab
        rw [e, waitFor_form]
        exact ⟨rfl, rfl, rfl, rfl, rfl⟩
    case waits =>
      have hx := exec_jobPreempt ho hj hc hp (h.symm.imp (fun h => ⟨h.1, h.2.1⟩) id)
      have e : (if rd o.bytes 17 1 = 0 then (s.waitFor r.toNat o.id n).askFreeze n byHost else s.waitFor r.toNat o.id n) =
          s.waitFor r.toNat o.id n := by
        obtain ⟨h1, -⟩ | ⟨h0, -, hasked⟩ := h
        · rw [if_neg (by omega)]
        · rw [if_pos h0, askFreeze_asked (b := byHost) (hjob hj) hasked]
      rw [e] at hx
      refine ⟨_, hx, hjob hj, fun k hk => by rw [job_waitFor, if_neg hk], ?_, ?_⟩
      · rw [waitFor_form]
      · rw [waitFor_form]
    case resumes =>
      intro m hj hw hs hwait hpre hheld rooms hidle
      refine ⟨_, exec_jobResumeRestore hj hw hs hwait hpre hheld hidle, ?_, fun k hk => ?_, fun q => ?_, ?_⟩
      · rw [job_beginReturn, job_modJob, if_pos rfl, hj]
        simp only [Option.map_some, List.map_cons, if_true, map_spanPre]
        rfl
      · rw [beginReturn_job _ _ _ _ _ _ hk, job_modJob, if_neg hk]
      · rw [room_beginReturn]; rfl
      · obtain ⟨x, c, e⟩ := beginReturn_form (s.modJob m.toNat _) m.toNat j m.toNat 64 rooms
        rw [e]
        exact ⟨rfl, rfl⟩
  · intro s m j p till g id o l hj hpre hb hcome hw hg ho
    have hfirst : ∃ l₁ l₂, j.pre = l₁ ++ p :: l₂ ∧
        ∀ q ∈ l₁, ∀ t, q.phase = .saving t ∨ q.phase = .restoring t → s.beat < t :=
      ⟨[], l, hpre, fun _ h => absurd h List.not_mem_nil⟩
    refine ⟨fun hp hf => ?suspends, fun hp => ?runsOn⟩
    case suspends =>
      have hx := exec_switchComplete_saving ⟨hj, hfirst, hcome, .inl hp⟩ hp
      rw [if_pos hb] at hx
      have hout := saveOut_savedOut p hj hf
      have hends : SwitchEnds s g id ((s.saveOut m.toNat p).suspendDone m.toNat j) :=
        endWaiters_ends (hout.keeps.trans (.modJob ..)) hw hg ho
      obtain ⟨k, hk, -, hsaved⟩ := hout.self
      refine ⟨_, hx, hends.status, ⟨_, job_suspendDone hw hk, rfl, rfl, fun q hq hlost => ?_⟩, fun q hq hlost => ?_,
        fun i hi => (job_suspendDone_ne hw hi).trans (hout.others i hi), hends.insts, hends.mem, hends.larder, hends.out⟩
      · obtain ⟨v, hv, hstore, -⟩ := hsaved q (mem_keptRooms.mpr ⟨hq, hlost⟩)
        exact ⟨v, hv, hstore⟩
      · rw [room_suspendDone hw, hout.room, if_pos (mem_keptRooms.mpr ⟨hq, hlost⟩)]
    case runsOn =>
      have hx := exec_switchComplete_restoring ⟨hj, hfirst, hcome, .inr hp⟩ hp
      rw [if_pos hb] at hx
      have hback := restoreAll_restored p hj
      have hends : SwitchEnds s g id ((s.restoreAll m.toNat p).resumeDone m.toNat j) :=
        endWaiters_ends ((hback.keeps.trans (.modJob ..)).trans (.thaw ..)) hw hg ho
      obtain ⟨v, hv⟩ := hback.self
      obtain ⟨c, x, hjob⟩ := job_resumeDone hw hv
      refine ⟨_, hx, hends.status, ⟨_, hjob, rfl, rfl, rfl⟩, fun q hq hlost => ?_,
        fun i hi => (job_resumeDone_ne hw hi).trans (hback.others i hi), hends.insts, hends.mem, hends.larder, hends.out⟩
      rw [room_resumeDone hw]
      exact hback.room q hq hlost

end Sys2Proof.Machine
end

section
/-!
Rooms that change hands between a BULK job and an ON_DEMAND job, and a member's part in a spanning freeze (R262 to R266, R270).
-/
namespace Sys2Proof.Machine

/-! ## SWITCH_START -/

theorem countSwitch_eq (p : Plan) (n b : Nat) : p.countSwitch n b = { p with
    preValid := true, preJob := if p.preValid then p.preJob else BitVec.ofNat 6 n,
    preCount := satAdd p.preCount 1, switchBeats := BitVec.ofNat 32 (min b 0xFFFF) } := by
  unfold Plan.countSwitch
  cases h : p.preValid
  case false => rfl
  case true => simp [h]

theorem job_withdraw (s : State) (n : Nat) (j : Job) (k : Nat) : (s.withdraw n j).job k = if k = n then (s.job k).map (fun i =>
    { i with withdrawn := i.withdrawn ++ s.fab.ports.flatMap (fun p => p.queue.filter (fun q => q.bulkOf j.span)) })
    else s.job k := by
  rw [State.job, withdraw_jobs, tget_tmod]
  rfl

/-- What a switch of Rooms leaves as it begins (R265, R270). -/
theorem beginSwitch_eq (s : State) (n : Nat) (l : List Nat) (v : Tab (BitVec 11)) :
    let beats := switchBeats (l.map (s.liveOf v))
    s.beginSwitch n l v = ({ s with rooms := (s.roomsTo l .saving).rooms, plan := s.plan.countSwitch n beats }, s.beat + beats) := by
  obtain ⟨x, e, -⟩ := roomsTo_form .saving l s
  unfold State.beginSwitch
  rw [e]
  rfl

/-- SWITCH_START of a frozen victim at its cut, whose overlapped Rooms are IDLE: its frames are withdrawn, and the Rooms save
(R262, R440). -/
theorem exec_switchStart {s : State} {m : JobId} {j : Job} {p : Preempt} (hj : s.job m.toNat = some j) (hw : s.working = true)
    (hp : j.pre.find? (fun p => p.phase == .frozen && p.by_ != 65) = some p) (hcut : s.cutReached m.toNat j = true)
    (hidle : ∀ q ∈ s.overlapRooms j p.by_, (s.room q).state = .idle) :
    let t := (s.withdraw m.toNat j).beginSwitch m.toNat (s.overlapRooms j p.by_) (((s.job p.by_).map (·.lives)).getD [])
    exec (.switchStart m) s = .next (t.1.modPre m.toNat p.by_
      (fun q => { q with phase := .saving t.2, rooms := s.overlapRooms j p.by_ })) := by
  have hall : (s.overlapRooms j p.by_).all (fun q => (s.room q).state == .idle) = true :=
    List.all_eq_true.mpr (fun q hq => beq_iff_eq.mpr (hidle q hq))
  have hfind : j.pre.find? (fun p => p.phase == .frozen && p.by_ != bySpan) = some p := hp
  change execSwitchStart m s = _
  unfold execSwitchStart
  dsimp only
  rw [hj]
  dsimp only
  rw [hfind]
  dsimp only
  rw [if_neg (by simp [hw, hcut, hall])]

/-! ## SWITCH_COMPLETE of a restore -/

/-- The job whose Rooms are back is a victim of that name no longer, and runs on in them (R263). -/
theorem Restored.thawed {s u : State} {n : Nat} {j : Job} {p : Preempt} (h : Restored s n j p u) :
    let t := (u.dropPre n p.by_).thaw n
    SwitchKeeps s t ∧ (∃ k, t.job n = some k ∧ k.pre = j.pre.filter (fun q => q.by_ != p.by_)) ∧
    (∀ q ∈ p.rooms, q ∉ s.glb.grid.lost → (t.room q).state = .idle ∧ (t.room q).job = BitVec.ofNat 6 n) ∧
    ∀ k, k ≠ n → t.job k = s.job k := by
  obtain ⟨v, hv⟩ := h.self
  have hdrop : (u.dropPre n p.by_).job n = some { j with saved := v, pre := j.pre.filter (fun q => q.by_ != p.by_) } := by
    rw [dropPre_job, if_pos rfl, hv]
    rfl
  obtain ⟨c, x, hjob⟩ := job_thaw_self hdrop
  refine ⟨(h.keeps.trans (.modJob ..)).trans (.thaw ..), ⟨_, hjob, rfl⟩, fun q hq hlost => ?_, fun k hk => ?_⟩
  · rw [room_thaw]
    exact h.room q hq hlost
  · rw [job_thaw_ne _ hk, dropPre_job, if_neg hk, h.others k hk]

/-! ## ROOMS_RETURN -/

/-- ROOMS_RETURN of an ON_DEMAND job that has Rooms or has asked for some, without instances and in no switch (R263). -/
theorem exec_roomsReturn {s : State} {m : JobId} {j : Job} (hj : s.job m.toNat = some j) (hw : s.working = true)
    (hd : j.onDemand = true) (hh : j.holds = true ∨ ∃ v ∈ s.plan.jobs, ∃ q ∈ v.2.pre, q.by_ = m.toNat)
    (hi : ∀ q ∈ s.plan.insts, q.2.job ≠ m.toNat)
    (hs : ∀ v ∈ s.plan.jobs, ∀ q ∈ v.2.pre, q.by_ = m.toNat → (∀ t, q.phase ≠ .saving t) ∧ ∀ t, q.phase ≠ .restoring t) :
    exec (.roomsReturn m) s = .next (s.returnRooms m.toNat j) := by
  have hasked : (!j.holds && !s.plan.jobs.any (fun p => p.2.pre.any (fun q => q.by_ = m.toNat))) = false := by
    obtain hh | ⟨v, hv, q, hq, hby⟩ := hh
    · rw [hh]; rfl
    · rw [List.any_eq_true.mpr ⟨v, hv, List.any_eq_true.mpr ⟨q, hq, decide_eq_true hby⟩⟩]
      exact Bool.and_false _
  have hnone : s.plan.insts.any (fun p => p.2.job = m.toNat) = false := by simpa using fun a b h => hi (a, b) h
  change execRoomsReturn m s = _
  unfold execRoomsReturn
  dsimp only
  rw [hj]
  dsimp only
  rw [if_neg ?free]
  case free =>
    rw [hw, hd, hasked, hnone]
    simp only [Bool.not_true, Bool.false_or, List.any_eq_true, Bool.and_eq_true, decide_eq_true_eq]
    rintro ⟨v, hv, q, hq, hby, hswitch⟩
    obtain ⟨hsaving, hrestoring⟩ := hs v hv q hq hby
    split at hswitch
    · next t ht => exact hsaving t ht
    · next t ht => exact hrestoring t ht
    · cases hswitch

/-- What the return of a victim's Rooms keeps. -/
theorem returnVictim_keeps (s : State) (n : Nat) (v : Nat × Job) : SwitchKeeps s (s.returnVictim n v) := by
  obtain ⟨⟨x, q, js, f, po, w, e⟩, -⟩ := ret_one n s v
  rw [e]
  exact ⟨rfl, rfl, rfl, rfl, rfl⟩

/-- The return of the Rooms of several victims: a job with no pre-emption by the returning one stays as it is. -/
theorem returnVictims_frame (n : Nat) (l : List (Nat × Job)) : ∀ s : State,
    SwitchKeeps s (l.foldl (fun s v => s.returnVictim n v) s) ∧
    ∀ k, (∀ v ∈ l, v.1 = k → ∀ q ∈ v.2.pre, q.by_ ≠ n) → (l.foldl (fun s v => s.returnVictim n v) s).job k = s.job k := by
  induction l with
  | nil => intro s; exact ⟨⟨rfl, rfl, rfl, rfl, rfl⟩, fun _ _ => rfl⟩
  | cons v l ih =>
    intro s
    obtain ⟨hkeeps, hjobs⟩ := ih (s.returnVictim n v)
    refine ⟨(returnVictim_keeps s n v).trans hkeeps, fun k hk => ?_⟩
    rw [List.foldl_cons, hjobs k (fun w hw => hk w (List.mem_cons_of_mem _ hw))]
    exact (ret_one n s v).2 k (hk v List.mem_cons_self)

/-- A change that leaves a job's pre-emptions leaves those of every job in the table. -/
theorem pre_of_mem_modJob {s : State} {n : Nat} {f : Job → Job} (hf : ∀ j, (f j).pre = j.pre) {v : Nat × Job}
    (h : v ∈ (s.modJob n f).plan.jobs) : ∃ w ∈ s.plan.jobs, v.1 = w.1 ∧ v.2.pre = w.2.pre := by
  obtain ⟨w, hw, rfl | rfl⟩ := mem_modJob h
  · exact ⟨v, hw, rfl, rfl⟩
  · exact ⟨w, hw, rfl, hf w.2⟩

/-- An ON_DEMAND job that holds its Rooms no longer; what they held is its value of the next switch (R265). -/
def State.returned (s : State) (o j : Job) : Job :=
  { j with holds := false, lives := if o.holds then o.roomList.map (fun q => (q, (s.room q).live)) else j.lives }

/-- What the return of an ON_DEMAND job's Rooms leaves of every job without a pre-emption of its own by that job, and of the rest
(R263, R265). -/
theorem returnRooms_frame (s : State) (n : Nat) (o : Job) : SwitchKeeps s (s.returnRooms n o) ∧
    ∀ k, (∀ v ∈ s.plan.jobs, v.1 = k → ∀ q ∈ v.2.pre, q.by_ ≠ n) →
      (s.returnRooms n o).job k = if k = n then (s.job k).map (s.returned o) else s.job k := by
  let t := s.modJob n (s.returned o)
  obtain ⟨hkeeps, hjobs⟩ := returnVictims_frame n t.plan.jobs t
  refine ⟨(SwitchKeeps.modJob s n (s.returned o)).trans hkeeps,
    fun k hk => (hjobs k fun v hv hvk q hq => ?_).trans (job_modJob ..)⟩
  obtain ⟨w, hw, hname, hpre⟩ := pre_of_mem_modJob (f := s.returned o) (fun _ => rfl) hv
  exact hk w hw (hname.symm.trans hvk) q (hpre ▸ hq)

/-! ## Spanning freezes -/

theorem job_of_jobOfSpan {s : State} {span : W32} {n : Nat} {j : Job} (h : s.jobOfSpan span = some (n, j)) :
    s.job n = some j := by
  obtain ⟨k, -, hk⟩ := Option.bind_eq_some_iff.mp h
  obtain ⟨i, hi, e⟩ := Option.map_eq_some_iff.mp hk
  cases e
  exact hi

section
variable {s : State} {span : W32} {n : Nat} {j : Job} {f : Frame} {g : Fab} (hj : s.jobOfSpan span = some (n, j))
  (hw : s.working = true)
include hj hw

/-- SPAN_FREEZE at a boundary without a semaphore hold: the member freezes and reports what it has started (R264). -/
theorem exec_spanFreeze (hf : s.fab.takeFrame (fun c => c == .freeze span) = some (f, g)) (hs : s.holdsSem n = false) :
    exec (.spanFreeze span) s = .next ((({ s with fab := g } : State).modJob n (fun j => { j with
      cut := none, pre := j.pre.filter (fun p => p.by_ != 65) ++ [⟨65, .frozen, s.beat, []⟩] })).sendCtrl f.src
        (.started span (s.startedTop n))) := by
  change execSpanFreeze span s = _
  unfold execSpanFreeze
  rw [hj, hf]
  dsimp only
  rw [if_neg (by simp [hw]), if_neg (by simp [hs])]
  rfl

/-- SPAN_FREEZE_CUT at a frozen member: the agreed cut is noted (R264). -/
theorem exec_spanFreezeCut {top : List (Nat × Nat)} (hf : s.fab.takeFrame (fun c => c == .cut span top) = some (f, g))
    (hp : ∃ p ∈ j.pre, p.by_ = 65) :
    exec (.spanFreezeCut span top) s = .next (({ s with fab := g } : State).modJob n (fun j => { j with cut := some top })) := by
  have hfrozen : j.pre.any (fun p => p.by_ = bySpan) = true := by simpa using show ∃ p ∈ j.pre, p.by_ = bySpan from hp
  change execSpanFreezeCut span top s = _
  unfold execSpanFreezeCut
  rw [hj, hf]
  dsimp only
  rw [if_neg (by simp [hw, hfrozen])]

/-- SPAN_THAW of a member that no other pre-emption concerns (R264). -/
theorem exec_spanThaw (hf : s.fab.takeFrame (fun c => c == .thaw span) = some (f, g)) (hp : ∀ p ∈ j.pre, p.by_ = 65) :
    exec (.spanThaw span) s = .next ((({ s with fab := g } : State).dropPre n 65).modJob n (fun j => { j with cut := none })) := by
  have hnone : j.pre.any (fun p => p.by_ != bySpan) = false := by simpa using show ∀ p ∈ j.pre, p.by_ = bySpan from hp
  change execSpanThaw span s = _
  unfold execSpanThaw
  rw [hj, hf]
  dsimp only
  rw [if_neg (by simp [hw, hnone])]
  rfl

end

/-- Settles O32: the switch by its beginning and its two ends, the return by what a fold over the victims leaves, and the
spanning freeze by its three frames. -/
theorem switchesChangeHands : Obligations.SwitchesChangeHands := by
  unfold Obligations.SwitchesChangeHands
  refine ⟨?switches, ?returns, ?spans⟩
  case switches =>
    intro s m j p hj
    refine ⟨?starts, ?completes⟩
    case starts =>
      intro hw hp hcut rooms hidle beats mine
      refine ⟨_, exec_switchStart hj hw hp hcut hidle, ?_⟩
      rw [beginSwitch_eq, countSwitch_eq]
      refine ⟨fun q => room_roomsTo (s.withdraw m.toNat j) rooms .saving q, ?_, fun k hk => ?_, rfl, rfl, rfl, rfl⟩
      · refine (modPre_job (s.withdraw m.toNat j) m.toNat p.by_ m.toNat _).trans ?_
        rw [if_pos rfl, job_withdraw, if_pos rfl, hj]
        rfl
      · refine (modPre_job (s.withdraw m.toNat j) m.toNat p.by_ k _).trans ?_
        rw [if_neg hk, job_withdraw, if_neg hk]
    case completes =>
      intro till l₁ l₂ hpre hcome hfirst rooms
      refine ⟨fun hp hhost hself hf => ?saves, fun hp hhost => ?restores⟩
      case saves =>
        have hx := exec_switchComplete_saving ⟨hj, ⟨l₁, l₂, hpre, hfirst⟩, hcome, .inl hp⟩ hp
        rw [if_neg hhost, keptRooms_saveFault m.toNat p hf] at hx
        have hout := saveOut_savedOut p hj hf
        obtain ⟨k, hk, hkpre, hsaved⟩ := hout.self
        have hby : (s.saveOut m.toNat p).job p.by_ = s.job p.by_ := hout.others _ hself
        refine ⟨s.saveOut m.toNat p, k, fun o ho => ?_, fun ho => ?_, hout.room, hk, hkpre, hsaved, hout.others, hout.frame⟩
        · rw [hx, handOver_open (hby.trans ho)]
        · rw [hx, handOver_gone hk (hby.trans ho)]
          rfl
      case restores =>
        have hx := exec_switchComplete_restoring ⟨hj, ⟨l₁, l₂, hpre, hfirst⟩, hcome, .inr hp⟩ hp
        rw [if_neg hhost] at hx
        obtain ⟨hkeeps, hjob, hroom, hothers⟩ := (restoreAll_restored p hj).thawed
        exact ⟨_, hx, hjob, fun q hq => hroom q (mem_keptRooms.mp hq).1 (mem_keptRooms.mp hq).2, hothers, hkeeps.insts,
          hkeeps.ring, hkeeps.mem, hkeeps.larder, hkeeps.out⟩
  case returns =>
    intro s m j hj hw hd hh hi hs hown
    obtain ⟨hkeeps, hjobs⟩ := returnRooms_frame s m.toNat j
    refine ⟨_, exec_roomsReturn hj hw hd hh hi hs, ?_, fun k hk hpre => ?_, hkeeps.insts, hkeeps.ring, hkeeps.mem,
      hkeeps.larder, hkeeps.out⟩
    · rw [hjobs _ hown, if_pos rfl, hj]
      rfl
    · rw [hjobs k hpre, if_neg hk]
  case spans =>
    intro s span n j f g hspan hw
    have hj := job_of_jobOfSpan hspan
    refine ⟨fun hf hs => ?freezes, fun top hf hp => exec_spanFreezeCut hspan hw hf hp, fun hf hp => ?thaws⟩
    case freezes =>
      let u : State := State.modJob { s with fab := g } n (fun j => { j with
        cut := none, pre := j.pre.filter (fun p => p.by_ != 65) ++ [⟨65, .frozen, s.beat, []⟩] })
      obtain ⟨x, po, w, e⟩ := FabOnly.sendCtrl u f.src (.started span (s.startedTop n))
      refine ⟨_, (exec_spanFreeze hspan hw hf hs).trans (congrArg _ e), ?_, fun k hk => ?_,
        ⟨u, rfl, rfl, congrArg State.fab e⟩, rfl⟩
      · refine (job_modJob { s with fab := g } n n _).trans ?_
        rw [if_pos rfl, show State.job { s with fab := g } n = some j from hj]
        rfl
      · exact (job_modJob { s with fab := g } n k _).trans (if_neg hk)
    case thaws =>
      have hall : j.pre.filter (fun p => p.by_ != 65) = [] := List.filter_eq_nil_iff.mpr fun p hp' => by simp [hp p hp']
      refine ⟨_, exec_spanThaw hspan hw hf hp, ?_, fun k hk => ?_, rfl⟩
      · rw [job_modJob, if_pos rfl, dropPre_job, if_pos rfl, show State.job { s with fab := g } n = some j from hj]
        simp only [Option.map_some, hall]
      · rw [job_modJob, if_neg hk, dropPre_job, if_neg hk]
        rfl

end Sys2Proof.Machine
end

section
/-!
The Larder's commands: POOL_CREATE, BUF_ALLOC, BUF_REF and BUF_FREE (R272 to R280, R285 to R292).
-/
namespace Sys2Proof.Machine

/-- A command that finishes the packet offered, in a state whose rings stand as before, gives it its status. -/
theorem Offers.gives {s t : State} {r : RingId} {op : Nat} {o : Op} {c : Instr} {w : W32} {P : State → Prop}
    (ho : Offers s r op o) (hx : exec c s = .next (t.finish r.toNat o.id w)) (ht : t.ring = s.ring)
    (hP : P (t.finish r.toNat o.id w)) : Gives c s (fun u => u.statusOf r.toNat o.id = some w ∧ P u) :=
  ⟨_, hx, ho.finish ht _, hP⟩

@[simp] theorem State.served_ring (s : State) (port : Nat) (c : W32) (h : W64) : (s.served port c h).ring = s.ring := rfl
@[simp] theorem State.served_out (s : State) (port : Nat) (c : W32) (h : W64) : (s.served port c h).out = s.out := rfl
@[simp] theorem State.served_plan (s : State) (port : Nat) (c : W32) (h : W64) : (s.served port c h).plan = s.plan := rfl
@[simp] theorem State.served_rooms (s : State) (port : Nat) (c : W32) (h : W64) : (s.served port c h).rooms = s.rooms := rfl

/-! ## Pools -/

section
variable {s : State} {r : RingId} {o : Op}

/-- POOL_CREATE of buffers in a range of their own enters the pool of its packet (R285). -/
theorem exec_poolCreate_new (ho : Offers s r 0x20 o) (hc : (poolOfPacket o.bytes).count ≠ 0)
    (h8 : 8 ≤ (poolOfPacket o.bytes).log2Size) (h26 : (poolOfPacket o.bytes).log2Size ≤ 26) (hloc : rd o.bytes 18 1 ≤ 1)
    (hal : (poolOfPacket o.bytes).base % 2 ^ (poolOfPacket o.bytes).log2Size = 0)
    (hfree : tget s.larder.pools (rd o.bytes 16 1) = none) (hfits : s.poolFits (poolOfPacket o.bytes) = true) :
    exec (.poolCreate r) s = .next
      (((s.modLarder fun l => { l with pools := tset l.pools (rd o.bytes 16 1) (poolOfPacket o.bytes) }).served 0 Code.ok
        0).finish r.toNat o.id Code.ok) := by
  change Host.Outcome.next (s.withOp _ _ _) = _
  rw [ho.withOp]
  dsimp only
  rw [if_neg hc, poolChecked_ok (by simp [h8, h26, hloc, hal, thas_eq_false hfree, hfits])]

/-- POOL_CREATE of no buffers removes a pool of which none is allocated (R285). -/
theorem exec_poolCreate_none {q : Pool} (ho : Offers s r 0x20 o) (hc : (poolOfPacket o.bytes).count = 0)
    (hq : tget s.larder.pools (rd o.bytes 16 1) = some q) (hidle : s.larder.busy q = false) :
    exec (.poolCreate r) s = .next
      (((s.modLarder fun l => { l with pools := tdel l.pools (rd o.bytes 16 1) }).served 0 Code.ok 0).finish r.toNat o.id
        Code.ok) := by
  have hhas : thas s.larder.pools (rd o.bytes 16 1) = true := by rw [thas, hq]; rfl
  change Host.Outcome.next (s.withOp _ _ _) = _
  rw [ho.withOp]
  dsimp only
  rw [if_pos hc, poolChecked_ok (by simp [hhas, hq, hidle])]

end

/-! ## Allocations -/

/-- Pool `n` gives buffer `i` next: the head of its free list, or its never-used index. No rebuild is due, and neither the
buffer's record nor its link is poisoned (R277, R278). -/
structure State.NextBuf (s : State) (n : Nat) (p : Pool) (i : Nat) : Prop where
  pool : tget s.larder.pools n = some p
  built : p.rebuild = false
  next : p.head = some i ∨ p.head = none ∧ i = p.fresh ∧ p.fresh < p.first + p.count
  sound : s.recPoisoned i = false
  linked : s.poisoned (s.bufAddr p i) 8 = false

/-- The generation of a buffer's next allocation: 0 is skipped (R275). -/
def State.nextGen (s : State) (i : Nat) : W16 :=
  if (s.larder.entry i).gen = 0xFFFF then 1 else (s.larder.entry i).gen + 1

/-- The state after buffer `i` of pool `n` is allocated, and the pool has changed by `f`. -/
def State.allotted (s : State) (n i : Nat) (f : Pool → Pool) : State :=
  (s.modPool n f).setRec i { count := 1, gen := s.nextGen i, alloc := true }

theorem allocBuf_next {s : State} {n i : Nat} {p : Pool} (h : s.NextBuf n p i) (quiet : Bool) :
    ∃ f, f p = popped s p i ∧
      s.allocBuf quiet n = (s.allotted n i f, Code.ok, mkHandle n i (s.nextGen i)) := by
  obtain ⟨f, hpop, hf⟩ := popBuf_form (n := n) h.built h.next h.linked
  have hsound : (s.modPool n f).recPoisoned i = false := h.sound
  refine ⟨f, hf, ?_⟩
  simp only [State.allocBuf, rebuildPool_none h.pool h.built, h.pool, Option.bind_some, hpop, hsound, Bool.false_eq_true,
    if_false]
  rfl

/-- One allocation through a port that succeeds is all there is to do. -/
theorem allocAll_one {s t : State} {quiet : Bool} {n : Nat} {h : W64} (port : Nat)
    (ha : s.allocBuf quiet n = (t, Code.ok, h)) : s.allocAll port quiet n 1 = (t.served port Code.ok h, Code.ok, [h]) := by
  simp [State.allocAll, State.allocMany, State.allocPort, ha]

section
variable {s : State} {r : RingId} {o : Op}

/-- BUF_ALLOC of one buffer allocates the one that its pool gives next and writes its handle (R287). -/
theorem exec_bufAlloc_one {p : Pool} {i : Nat} (ho : Offers s r 0x21 o) (hal : rd o.bytes 24 8 % 8 = 0)
    (hn : rd o.bytes 18 2 = 1) (hb : rd o.bytes 20 4 ≠ 0) (hsize : rd o.bytes 20 4 ≤ 2 ^ p.log2Size) (hsup : 1 ≤ p.supply)
    (h : s.NextBuf (rd o.bytes 16 1) p i) :
    ∃ f, f p = popped s p i ∧ exec (.bufAlloc r) s = .next
      ((((s.allotted (rd o.bytes 16 1) i f).served 0 Code.ok (mkHandle (rd o.bytes 16 1) i (s.nextGen i))).dataWrite
        (rd o.bytes 24 8) (le64 (mkHandle (rd o.bytes 16 1) i (s.nextGen i)))).finish r.toNat o.id Code.ok) := by
  obtain ⟨f, hf, ha⟩ := allocBuf_next h false
  refine ⟨f, hf, ?_⟩
  change Host.Outcome.next (s.withOp _ _ _) = _
  rw [ho.withOp]
  dsimp only
  rw [if_neg (by simp [hn, hal]), if_neg hb, h.pool]
  dsimp only
  rw [hn, if_neg (Nat.not_lt.mpr hsize), rebuildPool_none h.pool h.built, h.pool,
    Option.map_some, Option.getD_some, if_neg (Nat.not_lt.mpr hsup), allocAll_one 0 ha]
  dsimp only
  rw [if_pos rfl, List.flatMap_singleton]

/-- BUF_ALLOC of 0 bytes writes null handles and touches no pool (R287). -/
theorem exec_bufAlloc_null (ho : Offers s r 0x21 o) (hal : rd o.bytes 24 8 % 8 = 0) (h1 : 1 ≤ rd o.bytes 18 2)
    (h2 : rd o.bytes 18 2 ≤ 1024) (hb : rd o.bytes 20 4 = 0) : exec (.bufAlloc r) s = .next
      ((s.dataWrite (rd o.bytes 24 8) ((List.replicate (rd o.bytes 18 2) 0).flatMap le64)).finish r.toNat o.id Code.ok) := by
  have hchecks : ¬ (rd o.bytes 18 2 = 0 || 1024 < rd o.bytes 18 2 || rd o.bytes 24 8 % 8 != 0) = true := by
    simp only [hal, bne_self_eq_false, Bool.or_false, Bool.or_eq_true, decide_eq_true_eq]
    omega
  change Host.Outcome.next (s.withOp _ _ _) = _
  rw [ho.withOp]
  dsimp only
  rw [if_neg hchecks, if_pos hb]

end

/-- What an allocation leaves in the Larder's tables: the pool as `f` changes it, the buffer's new record, all else as before. -/
theorem allotted_larder {s : State} {n i : Nat} {p : Pool} (hp : tget s.larder.pools n = some p) (f : Pool → Pool) :
    tget (s.allotted n i f).larder.pools n = some (f p) ∧
    (∀ k, k ≠ n → tget (s.allotted n i f).larder.pools k = tget s.larder.pools k) ∧
    (s.allotted n i f).larder.entry i = { count := 1, gen := s.nextGen i, alloc := true } ∧
    ∀ k, k ≠ i → (s.allotted n i f).larder.entry k = s.larder.entry k := by
  refine ⟨?_, fun k hk => tget_tmod_ne _ f hk, ?_, fun k hk => ?_⟩
  · exact (tget_tmod_self s.larder.pools n f).trans (by rw [hp]; rfl)
  · exact (entry_setRec _ i i _).trans (if_pos rfl)
  · exact (entry_setRec _ i k _).trans (if_neg hk)

/-- Settles O24: the two effects of POOL_CREATE, and the two of BUF_ALLOC. -/
theorem poolCreates : Obligations.PoolCreates := by
  unfold Obligations.PoolCreates
  refine ⟨fun s r o ho => ⟨?creates, ?removes⟩, fun s r o p i ho hal => ⟨?one, ?null⟩⟩
  case creates => exact exec_poolCreate_new ho
  case removes => exact fun q => exec_poolCreate_none ho
  case one =>
    intro hn hb hp hsize hbuilt hsup hnext hsound hlinked
    obtain ⟨f, hf, hx⟩ := exec_bufAlloc_one ho hal hn hb hsize hsup ⟨hp, hbuilt, hnext, hsound, hlinked⟩
    obtain ⟨hpool, hpools, hentry, hentries⟩ := allotted_larder (i := i) hp f
    refine ho.gives hx (State.dataWrite_ring ..) ?_
    rw [State.finish_larder, State.finish_out, State.finish_mem, State.finish_plan, State.finish_rooms,
      State.dataWrite_larder, State.dataWrite_mem, State.dataWrite_plan, State.dataWrite_rooms]
    have hout := dataWrite_out (s := s) (t := (s.allotted (rd o.bytes 16 1) i f).served 0 Code.ok
      (mkHandle (rd o.bytes 16 1) i (s.nextGen i))) rfl rfl rfl rfl (rd o.bytes 24 8)
      (le64 (mkHandle (rd o.bytes 16 1) i (s.nextGen i)))
    exact ⟨hpool.trans (congrArg some hf), hentry, hentries, hpools, hout, rfl, rfl, rfl, tget_tset_self ..,
      fun k hk => tget_tset_ne _ _ hk⟩
  case null => exact exec_bufAlloc_null ho hal

/-! ## References -/

/-- A handle that is not null names buffer `i` of pool `p`, whose record is sound (R273, R274). -/
structure State.Names (s : State) (h : W64) (p : Pool) (i : Nat) : Prop where
  nonnull : h ≠ 0
  place : s.larder.place h = some (p, i)
  sound : s.recPoisoned i = false

section
variable {s : State} {h : W64} {p : Pool} {i : Nat}

/-- An increment of an allocated buffer (R280). -/
theorem incBuf_current (hi : s.Names h p i) (hg : (s.larder.entry i).gen = handleGen h)
    (ha : (s.larder.entry i).alloc = true) {d : Nat} (hd : (s.larder.entry i).count.toNat + d < 2 ^ 32) :
    s.incBuf h d = (s.setRec i { s.larder.entry i with count := (s.larder.entry i).count + BitVec.ofNat 32 d }, Code.ok) := by
  have hover : ¬ 2 ^ 32 ≤ (s.larder.entry i).count.toNat + d := by omega
  simp only [State.incBuf, if_neg hi.nonnull, hi.place, hi.sound, hg, ha, bne_self_eq_false, Bool.not_true,
    Bool.false_eq_true, if_false, if_neg hover]

/-- A decrement that leaves a reference (R279). -/
theorem decBuf_shared (hi : s.Names h p i) (hg : (s.larder.entry i).gen = handleGen h)
    (ha : (s.larder.entry i).alloc = true) (hc : 1 < (s.larder.entry i).count.toNat) :
    s.decBuf h = (s.setRec i { s.larder.entry i with count := (s.larder.entry i).count - 1 }, Code.ok) := by
  have hmore : ¬ (s.larder.entry i).count.toNat ≤ 1 := by omega
  simp only [State.decBuf, if_neg hi.nonnull, hi.place, hi.sound, hg, ha, bne_self_eq_false, Bool.not_true,
    Bool.false_eq_true, if_false, if_neg hmore]

/-- A pool whose free list begins at a buffer just freed (R279). -/
def Pool.push (i : Nat) (p : Pool) : Pool := { p with head := some i, listed := p.listed + 1 }

/-- The state after buffer `i` of pool `n` is freed: linked before the list of `q` and its new head (R278, R279). -/
def State.freed (s : State) (n : Nat) (q : Pool) (i : Nat) : State :=
  ((s.writeLink q i q.head).setRec i { s.larder.entry i with count := 0, alloc := false }).modPool n (Pool.push i)

@[simp] theorem State.freed_ring (n : Nat) (q : Pool) : (s.freed n q i).ring = s.ring := rfl
@[simp] theorem State.freed_out (n : Nat) (q : Pool) : (s.freed n q i).out = s.out := rfl
@[simp] theorem State.freed_plan (n : Nat) (q : Pool) : (s.freed n q i).plan = s.plan := rfl
@[simp] theorem State.freed_rooms (n : Nat) (q : Pool) : (s.freed n q i).rooms = s.rooms := rfl

/-- The decrement of the last reference frees the buffer (R279). -/
theorem decBuf_last {q : Pool} (hi : s.Names h p i) (hg : (s.larder.entry i).gen = handleGen h)
    (ha : (s.larder.entry i).alloc = true) (hc : (s.larder.entry i).count = 1)
    (hq : tget s.larder.pools (handlePool h) = some q) (hbuilt : q.rebuild = false) :
    s.decBuf h = (s.freed (handlePool h) q i, Code.ok) := by
  have hlast : (s.larder.entry i).count.toNat ≤ 1 := by rw [hc]; decide
  have hgen : ((s.larder.entry i).gen != handleGen h) = false := by simpa using hg
  simp only [State.decBuf, if_neg hi.nonnull, hi.place, hi.sound, hgen, ha, Bool.not_true, Bool.false_eq_true, if_false,
    if_pos hlast, rebuildPool_none hq hbuilt, hq]
  rfl

/-- A handle of another generation is stale (R275). -/
theorem decBuf_stale (hi : s.Names h p i) (hg : (s.larder.entry i).gen ≠ handleGen h) : s.decBuf h = (s, Code.bufStale) := by
  simp only [State.decBuf, if_neg hi.nonnull, hi.place, hi.sound, bne_iff_ne.mpr hg, Bool.false_eq_true, if_false, if_true]

end

section
variable {s t : State} {act : State → W64 → State × W32} {h : W64}

/-- The only handle of a command succeeds: port 0 keeps the result (R288). -/
theorem eachHandle_one_ok (ha : act s h = (t, Code.ok)) : s.eachHandle act 0 [h] = (t.served 0 Code.ok h, Code.ok) := by
  simp [State.eachHandle, ha]

/-- The only handle of a command fails: the failure is latched at position 0 (R288, R291). -/
theorem eachHandle_one_fail {c : W32} (ha : act s h = (t, c)) (hc : c ≠ Code.ok) :
    s.eachHandle act 0 [h] = ((t.served 0 c h).larderFail 0 0 c h, c) := by
  simp [State.eachHandle, ha, hc]

end

section
variable {s t : State} {r : RingId} {o : Op} {h : W64} {c : W32}

/-- BUF_FREE of one handle (R288, R289). -/
theorem exec_bufFree_one (ho : Offers s r 0x22 o) (hh : rd64 o.bytes 64 = h) (hn : rd o.bytes 16 2 = 1)
    (hx : s.eachHandle State.decBuf 0 [h] = (t, c)) : exec (.bufFree r) s = .next (t.finish r.toNat o.id c) := by
  change Host.Outcome.next (s.withOp _ _ _) = _
  rw [ho.withOp]
  dsimp only
  rw [hn, if_neg (by decide), handlesAt_one, hh, hx]

/-- BUF_REF of one handle (R288). -/
theorem exec_bufRef_one (ho : Offers s r 0x23 o) (hh : rd64 o.bytes 64 = h) (hn : rd o.bytes 16 2 = 1)
    (hd : rd o.bytes 18 2 ≠ 0) (hx : s.eachHandle (fun s h => s.incBuf h (rd o.bytes 18 2)) 0 [h] = (t, c)) :
    exec (.bufRef r) s = .next (t.finish r.toNat o.id c) := by
  change Host.Outcome.next (s.withOp _ _ _) = _
  rw [ho.withOp]
  dsimp only
  rw [hn, if_neg (by simp [hd]), handlesAt_one, hh, hx]

end

/-! ## The link of a freed buffer -/

/-- A byte outside a write is as before. -/
theorem Memory.byte_write_outside {m : Memory} (hm : Memory.wf m = true) {a n : Nat} (bs : List Byte)
    (h : n < a ∨ a + bs.length ≤ n) : (m.writeMasked a (bs.map some)).byte n = m.byte n := by
  rw [Memory.byte_writeMasked a n _ hm]
  split
  · rfl
  · rw [List.getD_eq_default _ _ (by rw [List.length_map]; omega)]
    rfl

/-- The first bytes of a write read back. -/
theorem Memory.read_write_first {m : Memory} (hm : Memory.wf m = true) (a : Nat) (bs rest : List Byte) :
    (m.writeMasked a ((bs ++ rest).map some)).read a bs.length = bs := by
  refine List.ext_getElem (by simp [Memory.read]) fun k hk hk' => ?_
  simp only [Memory.read, List.getElem_map, List.getElem_range, Memory.byte_writeMasked _ _ _ hm]
  rw [if_neg (by omega), Nat.add_sub_cancel_left, List.map_append, List.getD_append _ _ _ _ (by simpa using hk')]
  simp [hk']

/-- What the freeing of a buffer leaves: its record and its pool, and the link in the first of the 8 bytes written (R278). -/
structure State.FreedFrom (s t : State) (n : Nat) (q : Pool) (i : Nat) : Prop where
  entry : t.larder.entry i = { s.larder.entry i with count := 0, alloc := false }
  entries : ∀ k, k ≠ i → t.larder.entry k = s.larder.entry k
  pool : tget t.larder.pools n = some { q with head := some i, listed := q.listed + 1 }
  pools : ∀ k, k ≠ n → tget t.larder.pools k = tget s.larder.pools k
  link : Memory.read t.mem.dram (s.bufAddr q i) 4 = leBytes 4 (q.head.getD 0xFFFFFFFF)
  bytes : ∀ a, a < s.bufAddr q i ∨ s.bufAddr q i + 8 ≤ a → t.mem.dram.byte a = s.mem.dram.byte a

theorem freed_from {s : State} {n i : Nat} {q : Pool} (hq : tget s.larder.pools n = some q)
    (hm : Memory.wf s.mem.dram = true) : s.FreedFrom (s.freed n q i) n q i where
  entry := (entry_setRec (s.writeLink q i q.head) i i _).trans (if_pos rfl)
  entries k hk := (entry_setRec (s.writeLink q i q.head) i k _).trans (if_neg hk)
  pool := (tget_tmod_self s.larder.pools n (Pool.push i)).trans (by rw [hq]; rfl)
  pools k hk := tget_tmod_ne s.larder.pools (Pool.push i) hk
  link := Memory.read_write_first hm (s.bufAddr q i) (leBytes 4 (q.head.getD 0xFFFFFFFF)) (leBytes 4 0)
  bytes a ha := Memory.byte_write_outside hm (leBytes 4 (q.head.getD 0xFFFFFFFF) ++ leBytes 4 0) ha

/-- LARDER_ERR after a failed request of port 0 at position `pos`: an earlier failure stays latched (R291). -/
def Larder.latch (l : Larder) (pos : Nat) (c : W32) (h : W64) : Larder :=
  if l.errValid then l
  else { l with errValid := true, errPort := 0, errPos := BitVec.ofNat 10 pos, errCode := Code.low c, errPend := h }

/-- A failed request of port 0 is latched and not logged (R291, R292). -/
theorem larderFail_host (s : State) (pos : Nat) (c : W32) (h : W64) :
    s.larderFail 0 pos c h = s.modLarder (fun l => l.latch pos c h) := by
  unfold State.larderFail
  exact if_pos rfl

theorem latch_frame (l : Larder) (pos : Nat) (c : W32) (h : W64) :
    (l.latch pos c h).recs = l.recs ∧ (l.latch pos c h).pools = l.pools ∧ (l.latch pos c h).errValid = true ∧
    (l.errValid = false → (l.latch pos c h).errCode = Code.low c) := by
  unfold Larder.latch
  split
  · next hv => exact ⟨rfl, rfl, hv, fun hf => absurd (hv.symm.trans hf) (by decide)⟩
  · exact ⟨rfl, rfl, rfl, fun _ => rfl⟩

/-- Settles O25: each command by what an increment or a decrement of its one handle does. -/
theorem bufReferences : Obligations.BufReferences := by
  unfold Obligations.BufReferences
  intro s r o h p i h0 hh hn hplace hsound hm
  have hi : s.Names h p i := ⟨h0, hplace, hsound⟩
  refine ⟨?refs, ?drops, ?frees, ?stale⟩
  case refs =>
    intro ho hd hg ha hc
    exact exec_bufRef_one ho hh hn hd (eachHandle_one_ok (incBuf_current hi hg ha hc))
  case drops =>
    intro ho hg ha hc
    exact exec_bufFree_one ho hh hn (eachHandle_one_ok (decBuf_shared hi hg ha hc))
  case frees =>
    intro q ho hg ha hc hq hbuilt
    have hx := exec_bufFree_one ho hh hn (eachHandle_one_ok (decBuf_last hi hg ha hc hq hbuilt))
    obtain ⟨hentry, hentries, hpool, hpools, hlink, hbytes⟩ := freed_from (i := i) hq hm
    refine ho.gives hx (by simp) ?_
    rw [State.finish_larder, State.finish_out, State.finish_mem, State.finish_plan, State.finish_rooms]
    exact ⟨hentry, hentries, hpool, hpools, hlink, hbytes, by simp, by simp, by simp, fun k hk => tget_tset_ne _ _ hk⟩
  case stale =>
    intro ho hg
    have hx := exec_bufFree_one ho hh hn (eachHandle_one_fail (decBuf_stale hi hg) (by decide))
    rw [larderFail_host] at hx
    obtain ⟨hrecs, hpools, hvalid, hcode⟩ := latch_frame (s.served 0 Code.bufStale h).larder 0 Code.bufStale h
    refine ho.gives hx rfl ?_
    rw [State.finish_larder, State.finish_out, State.finish_mem, State.finish_plan]
    exact ⟨hrecs, hpools, hvalid, hcode, rfl, rfl, rfl⟩

end Sys2Proof.Machine
end

section
/-!
Streams: how one opens, takes the data of a packet, and closes (R298 to R306).
-/
namespace Sys2Proof.Machine

/-! ## Opening -/

/-- The checks that STREAM_OPEN makes of packet `b` before it looks at the mesh (R299). -/
structure State.StreamOpens (s : State) (b : List Byte) : Prop where
  id : rd b 16 2 < 1024
  free : s.stream (rd b 16 2) = none
  unused : ∀ v ∈ (valuesAt b 64).drop (rd b 36 1), v = 0
  params : s.streamParamOk b = true
  graph : s.streamGraphOk b = true

/-- Stream `n` as packet `b` opens it, bound to its ring. -/
def State.openStream (u : State) (b : List Byte) (m : Option Mesh) : State :=
  ((u.modVideo fun v => { v with streams := tset v.streams (rd b 16 2) (newStream b m) }).bindRing (rd b 20 4) true).powerUp []

/-- Mesh `m` is what a handle names: none for the null handle, else that of the sound bytes in its buffer (R343). -/
def State.MeshIs (s : State) (h : W64) (m : Option Mesh) : Prop :=
  h = 0 ∧ m = none ∨ h ≠ 0 ∧ ∃ d, s.meshBytes h = some d ∧ m = some (parseMesh d)

/-- No reference is taken on the null handle. -/
theorem takeRef_null (s : State) (port : Nat) : s.takeRef port 0 = (s, Code.ok) := if_pos rfl

/-- A stream opens as its packet says, with a reference on its mesh (R299, R343). -/
theorem exec_streamOpen {s u : State} {r : RingId} {o : Op} {m : Option Mesh} (ho : Offers s r 0x50 o) (h : s.StreamOpens o.bytes)
    (hm : s.MeshIs (rd64 o.bytes 48) m) (hu : s.takeRef 0 (rd64 o.bytes 48) = (u, Code.ok)) :
    exec (.streamOpen r) s = .next ((u.openStream o.bytes m).finish r.toNat o.id Code.ok) := by
  obtain ⟨hid, hfree, hunused, hparams, hgraph⟩ := h
  change Host.Outcome.next (s.withOp _ _ _) = _
  rw [ho.withOp]
  dsimp only
  rw [if_neg (by simp [hid, hfree]), if_neg (by simpa using hunused), if_neg (by simp [hparams]), if_neg (by simp [hgraph]), hu]
  rcases hm with ⟨h0, rfl⟩ | ⟨h0, d, hd, rfl⟩
  · rw [if_pos h0]
    rfl
  · rw [if_neg h0, hd]
    rfl

/-! ## Data -/

/-- STREAM_DATA of packet `o` is taken up: it is its stream's first, its fields are in range, and its stream takes data (R300,
R302). -/
structure State.DataDue (s : State) (o : Op) (t : Stream) : Prop where
  first : s.firstOfStream (rd o.bytes 16 2) o.id = true
  id : rd o.bytes 16 2 < 1024
  place : rd o.bytes 18 1 ≤ 1
  size : rd o.bytes 20 4 ≤ 16777216
  stream : s.stream (rd o.bytes 16 2) = some t
  unclosed : t.state ≠ .closing
  accepted : t.state ≠ .refused

section
variable {s u : State} {r : RingId} {o : Op} {t : Stream}

/-- A packet that is taken up is counted if it has no bytes; otherwise its bytes are fetched and taken (R300). -/
theorem exec_streamData (ho : Offers s r 0x51 o) (h : s.DataDue o t) : exec (.streamData r) s = .next (
    let b := o.bytes
    let n := rd b 16 2
    let hbm := decide (rd b 18 1 = 1)
    if rd b 20 4 = 0 then (s.modStream n fun t => { t with empty := satAdd t.empty 1 }).finish r.toNat o.id Code.ok
    else if hbm && s.windowPoisoned (rd b 24 8) (rd b 20 4) then s.finish r.toNat o.id Code.memUe
    else s.withPayload r.toNat o hbm (rd b 24 8) (rd b 20 4) fun d s => s.takeAu r.toNat n o d) := by
  obtain ⟨hfirst, hid, hplace, hsize, hstream, hunclosed, haccepted⟩ := h
  change Host.Outcome.next (s.withOp _ _ _) = _
  rw [ho.withOp]
  dsimp only
  rw [if_neg (by simp [hfirst]), if_neg (by omega), if_neg (by simp [hplace, hsize]), hstream]
  dsimp only
  rw [if_neg (by simpa using hunclosed), if_neg (by simpa using haccepted)]

/-- The bytes of a packet from host memory are taken once they have arrived (R300). -/
theorem exec_streamData_arrived (ho : Offers s r 0x51 o) (h : s.DataDue o t) (hn : rd o.bytes 20 4 ≠ 0)
    (hl : rd o.bytes 18 1 = 0) {d : List Byte} (hd : o.payload = .arrived d) :
    exec (.streamData r) s = .next (s.takeAu r.toNat (rd o.bytes 16 2) o d) := by
  refine (exec_streamData ho h).trans (congrArg _ ?_)
  dsimp only
  rw [if_neg hn, if_neg (by simp [hl]), withPayload_arrived hd]

/-- The time that a STREAM_DATA gives its picture, 0 for none (R300). -/
def Op.pts (o : Op) : W64 := if (rd8 o.bytes 19).getLsbD 0 then rd64 o.bytes 32 else 0

/-- How a packet ends once its units are parsed: by the header that failed, or by the picture that it holds (R305, R306). -/
def State.endAu (v : State) (r n : Nat) (o : Op) (a : AuRun) (pos : W64) : Option (W32 × Nat) → State
  | some (code, off) =>
    if code = Code.vidNoBuffer then v.finish r o.id code
    else (v.refuse n code (pos + BitVec.ofNat 64 off) o.pts).finish r o.id code
  | none => (a.pic.elim v (v.takePicture n o a pos o.pts)).finish r o.id Code.ok

/-- The stream before the first unit of a packet of `d` bytes: its position counter has moved on (R301). -/
def State.countBytes (s : State) (n : Nat) (d : List Byte) : State :=
  s.modStream n fun t => { t with pos := t.pos + BitVec.ofNat 64 d.length }

/-- The state in which a packet's parsing begins. -/
def Stream.startAu (t : Stream) : AuRun := ⟨t.ctx, none, none, none, [], false⟩

theorem takeAu_eq {n : Nat} {d : List Byte} {a : AuRun} {bad : Option (W32 × Nat)} (ht : s.stream n = some t)
    (hu : (s.countBytes n d).takeUnits n t.h265 t.startAu (nalUnits d) = (u, a, bad)) (r : Nat) (o : Op) :
    s.takeAu r n o d = (u.modStream n fun t => { t with ctx := a.ctx }).endAu r n o a t.pos bad := by
  unfold State.countBytes Stream.startAu at hu
  unfold State.takeAu
  rw [ht]
  dsimp only
  rw [hu]
  rcases bad with _ | ⟨code, off⟩
  · unfold State.endAu
    cases a.pic <;> rfl
  · rfl

/-- The picture that access unit `a` of packet `o` adds to a stream (R300, R301, R303). -/
def Stream.newPic (t : Stream) (par : SeqParams) (o : Op) (a : AuRun) (pos pts : W64) (i : PicStart) : Pic :=
  { units := a.units, pos := pos, order := o.id, pts := pts, ctx := a.ctx, num := t.nextNum,
    bump := Config.bumpOrder t.h265 a.ctx, par := par, newSeq := t.newSeq, shown := t.shows par i a.recovery, phase := .ready,
    budget := 0, motion := false, faults := 0, late := false }

/-- A picture of a RUNNING stream is appended, unless it is a RASL picture to be discarded (R298, R312). -/
theorem takePicture_running {n : Nat} {i : PicStart} {par : SeqParams} (ht : s.stream n = some t) (hp : t.sps = some par)
    (hr : t.state = .running) (hi : (i.rasl && t.raslSkip) = false) (o : Op) (a : AuRun) (pos pts : W64) :
    ∃ f : Stream → Stream, s.takePicture n o a pos pts i = s.modStream n f ∧
      f t = { t with outputting := t.shows par i a.recovery, raslSkip := if i.irap then i.bla else t.raslSkip,
                     nextNum := t.nextNum + 1, newSeq := false, pics := t.pics ++ [t.newPic par o a pos pts i] } := by
  have hsync : (t.state == .syncing) = false := by rw [hr]; rfl
  unfold State.takePicture
  rw [ht]
  dsimp only
  rw [hp]
  dsimp only
  rw [hsync, if_neg (by simp), if_neg (by simp [hi])]
  exact ⟨_, rfl, by simp [Stream.newPic, hp]⟩

end

/-! ## Closing -/

/-- STREAM_CLOSE of a stream without an open view begins to close it (R302). -/
theorem exec_streamClose {s : State} {r : RingId} {o : Op} {t : Stream} (ho : Offers s r 0x52 o) (hn : rd o.bytes 16 2 < 1024)
    (hf : s.firstOfStream (rd o.bytes 16 2) o.id = true) (ht : s.stream (rd o.bytes 16 2) = some t) (hc : t.state ≠ .closing)
    (hv : ∀ v ∈ s.video.views, v.2.stream ≠ rd o.bytes 16 2) :
    exec (.streamClose r) s = .next (((s.beginOp r.toNat o.id).modStream (rd o.bytes 16 2) fun t =>
      { t with state := .closing, closer := some (r.toNat, o.id) }).settleStream (rd o.bytes 16 2)) := by
  change Host.Outcome.next (s.withOp _ _ _) = _
  rw [ho.withOp]
  dsimp only
  rw [if_neg (by omega), if_neg (by simp [hf]), ht]
  dsimp only
  rw [if_neg (by simpa using hc), if_neg (by simpa using fun a b h => hv (a, b) h)]

/-- Nothing is left of a closing stream: no picture, no frame, no refusal and no record (R302). -/
structure State.CloseDue (s : State) (n : Nat) (t : Stream) : Prop where
  stream : s.stream n = some t
  working : s.working = true
  pics : t.pics = []
  held : t.held = []
  frames : t.frames = []
  refusal : t.refusal = none
  records : s.streamOwes n t = false

/-- The buffers on which a stream holds references when nothing of it is left. -/
def Stream.buffers (t : Stream) : List W64 :=
  t.oldRefs.flatMap (·.2) ++ t.refs ++ (t.entries.filter (·.alias_)).map (·.buf) ++ [t.lastPyr, t.meshHandle]

/-- The Tracker keeps nothing of a stream but its partition. -/
def Track.forget (k : Track) (n : Nat) : Track :=
  { k with targets := tdel k.targets n, done := tdel k.done n, decisions := tdel k.decisions n }

/-- A stream goes, with its buffers, its partition and its binding (R302, R343, R352). -/
def State.removeStream (s : State) (n : Nat) (t : Stream) : State :=
  let u := (((s.dropRefs streamPort t.buffers).dropTrackPend n).releasePart n).bindRing t.ring false
  ({ u with track := u.track.forget n } : State).modVideo fun v => { v with streams := tdel v.streams n }

theorem exec_streamCloseDone {s : State} {k : StreamId} {t : Stream} {g id : Nat} (h : s.CloseDue k.toNat t)
    (hc : t.closer = some (g, id)) :
    exec (.streamCloseDone k) s = .next ((s.removeStream k.toNat t).finish g id Code.ok) := by
  obtain ⟨hstream, hworking, hpics, hheld, hframes, hrefusal, hrecords⟩ := h
  change execStreamCloseDone k s = _
  unfold execStreamCloseDone
  dsimp only
  rw [hstream]
  dsimp only
  rw [hc]
  dsimp only
  rw [if_neg (by simp [hworking, hpics, hheld, hframes, hrefusal, hrecords])]
  rfl

/-- What the removal of a stream leaves when no TRACK_POLICY waits for it. -/
structure State.StreamGone (s : State) (n : Nat) (t : Stream) (u : State) : Prop where
  gone : u.stream n = none
  others : ∀ q, q ≠ n → u.stream q = s.stream q
  part : tget u.track.parts n = none
  parts : ∀ q, q ≠ n → tget u.track.parts q = tget s.track.parts q
  ops : ∀ g, g ≠ mboxRing → u.opsOf g = s.opsOf g
  larder : u.larder = (s.dropRefs streamPort t.buffers).larder
  plan : u.plan = s.plan
  rooms : u.rooms = s.rooms
  out : u.out = s.out

theorem removeStream_gone {s : State} {n : Nat} (hp : tget s.track.pend n = none) (t : Stream) :
    s.StreamGone n t (s.removeStream n t) := by
  obtain ⟨l, m, p, r, hdrop⟩ := BufOnly.dropRefs streamPort t.buffers s
  have hpend : State.dropTrackPend { s with larder := l, mem := m, porch := p, ras := r } n =
      { s with larder := l, mem := m, porch := p, ras := r } := by
    unfold State.dropTrackPend
    rw [show tget s.track.pend n = none from hp]
  obtain ⟨m', parts, hrel, hpart, hparts⟩ := releasePart_form { s with larder := l, mem := m, porch := p, ras := r } n
  unfold State.removeStream
  rw [hdrop, hpend, hrel]
  exact {
    gone := tget_tdel_self ..
    others := fun q hq => tget_tdel_ne _ hq
    part := hpart
    parts := hparts
    ops := fun g hg => opsOf_bindRing s t.ring false hg
    larder := by rw [hdrop]; rfl
    plan := rfl
    rooms := rfl
    out := rfl }

/-- Settles O40: the opening by whether the packet names a mesh, the data by how the parsing ends, the close by its two steps. -/
theorem videoStreams : Obligations.VideoStreams := by
  unfold Obligations.VideoStreams
  intro s u r o m b n
  refine ⟨fun ho hid hfree hunused hparams hgraph hmesh => ?opens,
    fun t ho hfirst hid hplace hsize ht hunclosed haccepted => ⟨fun h0 => ?empty, fun d a bad hn hl hd => ?bytes⟩,
    fun t ho hn hf ht hc hv => exec_streamClose ho hn hf ht hc hv,
    fun k t g id p ht hc hw hpics hheld hframes hrefusal howes hpend hg hp => ?gone⟩
  case opens =>
    have h : s.StreamOpens b := ⟨hid, hfree, hunused, hparams, hgraph⟩
    rcases hmesh with ⟨h0, rfl, rfl⟩ | ⟨h0, hu, d, hd, rfl⟩
    · exact exec_streamOpen ho h (.inl ⟨h0, rfl⟩) (h0 ▸ takeRef_null u 0)
    · exact exec_streamOpen ho h (.inr ⟨h0, d, hd, rfl⟩) hu
  case empty =>
    exact (exec_streamData ho ⟨hfirst, hid, hplace, hsize, ht, hunclosed, haccepted⟩).trans (congrArg _ (if_pos h0))
  case bytes =>
    intro s0 pts v hu
    have hx := exec_streamData_arrived ho ⟨hfirst, hid, hplace, hsize, ht, hunclosed, haccepted⟩ hn hl hd
    rw [takeAu_eq ht hu] at hx
    refine ⟨fun code off hbad hcode => ?refused, fun off hbad => ?unbuffered, fun hbad hpic => ?none,
      fun i hbad hpic => ?picture, fun i par hbad hus hpic hsps hrun hrasl => ?running⟩
    case refused =>
      subst hbad
      rw [State.endAu, if_neg hcode] at hx
      exact hx
    case unbuffered =>
      subst hbad
      rw [State.endAu, if_pos rfl] at hx
      exact hx
    case none =>
      subst hbad
      rw [State.endAu, hpic] at hx
      exact hx
    case picture =>
      subst hbad
      rw [State.endAu, hpic] at hx
      exact hx
    case running =>
      subst hbad hus
      rw [State.endAu, hpic] at hx
      have htv : v.stream n = some { t with pos := t.pos + BitVec.ofNat 64 d.length, ctx := a.ctx } := by
        rw [stream_modStream, if_pos rfl, stream_modStream, if_pos rfl, ht]
        rfl
      obtain ⟨f, e, hf⟩ := takePicture_running (i := i) htv hsps hrun hrasl o a t.pos pts
      have hx' : exec (.streamData r) s = .next ((v.modStream n f).finish r.toNat o.id Code.ok) := hx.trans (by rw [← e]; rfl)
      refine ho.gives hx' rfl ⟨⟨t.newPic par o a t.pos pts i, rfl, rfl, rfl, rfl, rfl, rfl, rfl, rfl, rfl, rfl, ?_⟩,
        fun k hk => ?_, finish_video rfl r o.id _⟩
      · rw [stream_finish, stream_modStream, if_pos rfl, htv, Option.map_some, hf]
        rfl
      · rw [stream_finish, stream_modStream, if_neg hk, stream_modStream, if_neg hk, stream_modStream, if_neg hk]
  case gone =>
    have hgm := toNat_ne_mbox hg
    have hgone := removeStream_gone hpend t
    refine ⟨_, exec_streamCloseDone ⟨ht, hw, hpics, hheld, hframes, hrefusal, howes⟩ hc, ?_,
      status_ops hp hgm (hgone.ops g hgm) Code.ok, fun q hq => ⟨?_, ?_⟩, ?_, ?_, ?_, ?_, ?_⟩
    · rw [stream_finish, hgone.gone]
    · rw [stream_finish, hgone.others q hq]
    · rw [State.finish_track, hgone.parts q hq]
    · rw [State.finish_track, hgone.part]
    · rw [State.finish_plan, hgone.plan]
    · rw [State.finish_rooms, hgone.rooms]
    · rw [State.finish_out, hgone.out]
    · rw [State.finish_larder, hgone.larder]
      rfl

end Sys2Proof.Machine
end

section
/-!
Pictures on the decode pipes: how one takes a pipe, yields it to a higher class, and leaves it (R307 to R311, R449).
-/
namespace Sys2Proof.Machine

section
variable {s : State} {k : PipeId} {q w : Nat × Stream × Pic} (hs : s.working = true)
include hs

theorem exec_pictureAssign {x : Nat} (hq : s.readyPic = some q) (hx : s.pipeFor q.2.1.prio = some x) :
    exec .pictureAssign s = .next (s.assignPic x q) := by
  change execPictureAssign s = _
  unfold execPictureAssign
  rw [if_neg (by simp [hs]), hq]
  dsimp only
  rw [hx]

/-- A ready picture of a higher class that finds no idle pipe has the picture on the pipe saved (R308). -/
theorem exec_blockRowBoundary (hq : s.running k.toNat = some q) (hw : s.readyPic = some w) (hc : w.2.1.prio < q.2.1.prio)
    (hi : findNat s.pipeIdle 18 0 = none) :
    exec (.blockRowBoundary k) s = .next (s.modPic q.1 fun x => { x with phase := .saving k.toNat }) := by
  change execBlockRowBoundary k s = _
  unfold execBlockRowBoundary
  dsimp only
  rw [hq, hw]
  dsimp only
  rw [if_neg (by simp [hs, hc, hi])]

/-- A picture that is saved leaves its pipe to a ready one of a higher class, if one is there (R308). -/
theorem exec_pictureContextSaved (hq : (s.onPipe fun f => f = .saving k.toNat).head? = some q) :
    let t := s.modPic q.1 fun x => { x with phase := .suspended k.toNat }
    exec (.pictureContextSaved k) s = .next (t.readyPic.elim t fun w =>
      if w.2.1.prio < q.2.1.prio then t.assignPic k.toNat w else t) := by
  intro t
  change execPictureContextSaved k s = _
  unfold execPictureContextSaved
  dsimp only
  rw [hq]
  dsimp only
  rw [if_neg (by simp [hs])]
  cases t.readyPic <;> rfl

/-- A suspended picture takes its free pipe again when no ready one is of a higher class (R308). -/
theorem exec_pictureResume (hq : highestClass (s.suspendedOn k.toNat) = some q) (hf : s.pipeFree k.toNat = true)
    (hw : ∀ w, s.readyPic = some w → q.2.1.prio ≤ w.2.1.prio) :
    exec (.pictureResume k) s = .next (s.modPic q.1 fun x => { x with phase := .pipe k.toNat }) := by
  have hhigher : s.readyPic.any (fun w => decide (w.2.1.prio < q.2.1.prio)) = false := by
    rw [Option.any_eq_false]
    exact fun w h => by simpa using hw w h
  change execPictureResume k s = _
  unfold execPictureResume
  dsimp only
  rw [hq]
  dsimp only
  rw [hhigher, if_neg (by simp [hs, hf])]

/-- A picture within its budget is reconstructed (R310, R314). -/
theorem exec_pictureReconstructed (hq : s.running k.toNat = some q)
    (hb : q.2.2.cycles (s.decoded q.2.1 q.2.2) ≤ q.2.2.budget) :
    exec (.pictureReconstructed k) s = .next (s.reconstruct k.toNat q.1 q.2.1 q.2.2 (s.decoded q.2.1 q.2.2)) := by
  change execPictureReconstructed k s = _
  unfold execPictureReconstructed
  dsimp only
  rw [hq]
  dsimp only
  rw [if_neg (by simp [hs, hb])]

/-- A picture beyond its budget is given up (R311). -/
theorem exec_pictureAbandon (hq : s.running k.toNat = some q) (hb : q.2.2.budget < q.2.2.cycles (s.decoded q.2.1 q.2.2)) :
    exec (.pictureAbandon k) s = .next (s.abandon k.toNat q.1 q.2.1 q.2.2 true []) := by
  change execPictureAbandon k s = _
  unfold execPictureAbandon
  dsimp only
  rw [hq]
  dsimp only
  rw [if_neg (by simp [hs, hb])]

end

/-- A change of a stream's next picture changes that stream, and no other. -/
theorem stream_modPic (s : State) (n j : Nat) (f : Pic → Pic) : (s.modPic n f).stream j =
    if j = n then (s.stream j).map (fun t => { t with pics := lmod t.pics 0 f }) else s.stream j :=
  stream_modStream s n j _

theorem stream_assignPic_ne (s : State) (p : Nat) {q : Nat × Stream × Pic} {j : Nat} (h : j ≠ q.1) :
    (s.assignPic p q).stream j = s.stream j := by
  rw [State.assignPic, stream_modPic, if_neg h, stream_modStream, if_neg h]

/-- Settles O41, event by event; an assigned picture's stream has its mean and its first picture changed. -/
theorem decodePipes : Obligations.DecodePipes := by
  unfold Obligations.DecodePipes
  intro s k q w hs p
  refine ⟨fun x => exec_pictureAssign hs, exec_blockRowBoundary hs, fun hq => ?saved, exec_pictureResume hs,
    exec_pictureReconstructed hs, exec_pictureAbandon hs, fun t ht => ⟨?stream, fun j => stream_assignPic_ne s p⟩⟩
  case saved =>
    intro t
    have hx := exec_pictureContextSaved hs hq
    refine ⟨fun hw => hx.trans ?_, fun hw hc => hx.trans ?_⟩
    · rw [show State.readyPic (s.modPic q.1 _) = none from hw]
      rfl
    · rw [show State.readyPic (s.modPic q.1 _) = some w from hw]
      exact congrArg _ (if_pos hc)
  case stream =>
    rw [State.assignPic, stream_modPic, if_pos rfl, stream_modStream, if_pos rfl, ht]
    rfl

end Sys2Proof.Machine
end

section
/-!
Faults of the decode and encode pipes (R309, R463, R471), and the graphs that frames submit (R314, R315).
-/
namespace Sys2Proof.Machine

/-! ## A spare decode pipe -/

/-- An entry in the log spends no spare pipe and retires no unit. -/
theorem log_spares (s : State) (e : LogEntry) : (s.log e).ras.spDec = s.ras.spDec ∧ (s.log e).ras.retired = s.ras.retired := by
  obtain ⟨hdec, -, hretired⟩ := append_spares s.ras (e.bytes s.ras.head s.now)
  unfold State.log State.oweMsi
  simp only []
  split_ifs <;> exact ⟨hdec, hretired⟩

theorem head_lmod_zero {α : Type} (l : List α) (f : α → α) : (lmod l 0 f).head? = l.head?.map f := by
  cases l <;> rfl

/-- Without a spare a decode pipe is retired (R471). -/
theorem replacePipe_dec_none {s : State} (h : findNat s.video.decSpare.getLsbD 18 0 = none) (p : Nat) :
    s.replacePipe false p = ({ s with video := { s.video with dec := clearBit s.video.dec p }
                                      ras := { s.ras with retired := satAdd s.ras.retired 1 } }, none) := by
  have hv : s.video.sparePipe false p = ({ s.video with dec := clearBit s.video.dec p }, none) := by
    rw [Video.sparePipe, if_neg (by decide), h]
  rw [State.replacePipe, hv]

/-- Where a picture stands once spare `z` has taken the place of pipe `p`. -/
def PicPhase.moved (p z : Nat) : PicPhase → PicPhase
  | .pipe x => .pipe (if x = p then z else x)
  | .saving x => .saving (if x = p then z else x)
  | .suspended x => .suspended (if x = p then z else x)
  | .ready => .ready

/-- A stream's pictures follow to the spare. -/
def Stream.moved (p z : Nat) (t : Stream) : Stream :=
  { t with pics := t.pics.map fun x => { x with phase := x.phase.moved p z } }

theorem head_moved {t : Stream} {y : Pic} {p : Nat} (hy : t.pics.head? = some y) (hp : y.phase = .pipe p) (z : Nat) :
    (t.moved p z).pics.head? = some { y with phase := .pipe z } := by
  simp [Stream.moved, hy, hp, PicPhase.moved]

/-- What follows when spare `z` takes the place of decode pipe `p`: VIDEO_PIPES, RAS_SPARES, and the pictures on `p`. -/
structure State.DecReplaced (s : State) (p z : Nat) (u : State) : Prop where
  dec : u.video.dec = setBit (clearBit s.video.dec p) z
  decSpare : u.video.decSpare = clearBit s.video.decSpare z
  ras : u.ras = { s.ras with retired := satAdd s.ras.retired 1, spDec := s.ras.spDec - 1 }
  streams : ∀ n, u.stream n = (s.stream n).map (Stream.moved p z)
  ring : u.ring = s.ring
  mem : u.mem = s.mem
  plan : u.plan = s.plan

theorem replacePipe_dec_some {s : State} {z : Nat} (h : findNat s.video.decSpare.getLsbD 18 0 = some z) (p : Nat) :
    ∃ u, s.replacePipe false p = (u, some z) ∧ s.DecReplaced p z u := by
  have hv : s.video.sparePipe false p =
      ({ s.video with dec := setBit (clearBit s.video.dec p) z, decSpare := clearBit s.video.decSpare z }, some z) := by
    rw [Video.sparePipe, if_neg (by decide), h]
  rw [State.replacePipe, hv]
  dsimp only
  simp only [Bool.false_eq_true, if_false]
  refine ⟨_, rfl, rfl, rfl, rfl, fun n => ?_, rfl, rfl, rfl⟩
  refine Eq.trans ?_ (tget_map s.video.streams (Stream.moved p z) n)
  unfold Stream.moved PicPhase.moved
  rfl

/-! ## A decode pipe's fault -/

section
variable {s u : State} {p n : Nat} {x : Pic}

/-- The first fault of a picture: it restarts on its pipe (R463). -/
theorem decPipeFault_first (h : x.faults = 0) (t : Stream) : s.decPipeFault p n t x =
    (s.log (pipeEntry false p t.job n 1 1 Code.pipeFault)).modPic n fun x => { x with faults := x.faults + 1 } := by
  rw [State.decPipeFault, h]
  rfl

/-- The second, with a spare: it restarts on the spare (R463, R471). -/
theorem decPipeFault_spared {z : Nat} (h : x.faults = 1) (hu : s.replacePipe false p = (u, some z)) (t : Stream) :
    s.decPipeFault p n t x =
      (u.log (pipeEntry false p t.job n 2 2 Code.pipeFault)).modPic n fun x => { x with faults := x.faults + 1 } := by
  rw [State.decPipeFault, h, hu]
  rfl

/-- The second, without a spare: the picture is given up (R471). -/
theorem decPipeFault_alone (h : x.faults = 1) (hu : s.replacePipe false p = (u, none)) (t : Stream) : s.decPipeFault p n t x =
    ((u.log (pipeEntry false p t.job n 2 0 Code.pipeFault)).log (pipeEntry false p t.job n 2 3 Code.rcvNoSpare)).abandon p n t x
      false [note Code.rcvFailed] := by
  rw [State.decPipeFault, h, hu]
  rfl

/-- A fault on the spare: the picture is given up (R463). -/
theorem decPipeFault_last (h : 2 ≤ x.faults) (t : Stream) : s.decPipeFault p n t x =
    ((s.log (pipeEntry false p t.job n 3 0 Code.pipeFault)).log (pipeEntry false p t.job n 3 0 Code.rcvFailed)).abandon p n t x
      false [note Code.rcvFailed] := by
  obtain ⟨f, hf⟩ := Nat.exists_eq_add_of_le' h
  rw [State.decPipeFault, hf]
  rfl

end

/-- A fault of a decode pipe concerns the picture that runs on it (R309). -/
theorem exec_pipeFault_dec {s : State} {k : PipeId} {n : Nat} {t : Stream} {x : Pic} (hs : s.working = true)
    (hx : s.running k.toNat = some (n, t, x)) : exec (.pipeFault false k) s = .next (s.decPipeFault k.toNat n t x) := by
  change execPipeFault false k s = _
  unfold execPipeFault
  dsimp only
  rw [if_neg (by simp [hs]), if_neg (by decide), hx]

/-- A picture whose pipe was replaced, once the fault is logged, has one more fault on the spare. -/
theorem replaced_picture {s u : State} {p z n : Nat} {t : Stream} {y : Pic} (h : s.DecReplaced p z u) (e : LogEntry)
    (ht : s.stream n = some t) (hy : t.pics.head? = some y) (hp : y.phase = .pipe p) :
    ∃ v, ((u.log e).modPic n fun x => { x with faults := x.faults + 1 }).stream n = some v ∧
      v.pics.head? = some { y with phase := .pipe z, faults := y.faults + 1 } := by
  have hlog : (u.log e).stream n = some (t.moved p z) := by
    rw [State.stream, State.log_video, ← State.stream, h.streams, ht, Option.map_some]
  refine ⟨_, by rw [stream_modPic, if_pos rfl, hlog, Option.map_some], ?_⟩
  rw [head_lmod_zero, head_moved hy hp, Option.map_some]

/-! ## An encode pipe's fault -/

section
variable {s u : State} {p n : Nat} {v : View}

/-- The entry that a fault of an encode pipe makes about its view's stream (R476). -/
def State.encEntry (s : State) (p : Nat) (v : View) : Nat → Nat → W32 → LogEntry :=
  pipeEntry true p (((s.stream v.stream).map (·.job)).getD 0xFF) v.stream

/-- The first fault of an AU: it is encoded again on its pipe (R463). -/
theorem encPipeFault_first (h : v.faults = 0) : s.encPipeFault p n v =
    (s.log (s.encEntry p v 1 1 Code.pipeFault)).modView n fun w => { w with faults := w.faults + 1 } := by
  rw [State.encPipeFault, h]
  rfl

/-- The second, with a spare: it is encoded again on the spare (R463, R471). -/
theorem encPipeFault_spared {z : Nat} (h : v.faults = 1) (hu : s.replacePipe true p = (u, some z)) : s.encPipeFault p n v =
    (u.log (s.encEntry p v 2 2 Code.pipeFault)).modView n fun w => { w with faults := w.faults + 1 } := by
  rw [State.encPipeFault, h, hu]
  rfl

/-- The second, without a spare: the AU is given up (R471). -/
theorem encPipeFault_alone (h : v.faults = 1) (hu : s.replacePipe true p = (u, none)) : s.encPipeFault p n v =
    ((u.log (s.encEntry p v 2 0 Code.pipeFault)).log (s.encEntry p v 2 3 Code.rcvNoSpare)).skipAu n := by
  rw [State.encPipeFault, h, hu]
  rfl

/-- A fault on the spare: the AU is given up (R463). -/
theorem encPipeFault_last (h : 2 ≤ v.faults) : s.encPipeFault p n v =
    ((s.log (s.encEntry p v 3 0 Code.pipeFault)).log (s.encEntry p v 3 0 Code.rcvFailed)).skipAu n := by
  obtain ⟨f, hf⟩ := Nat.exists_eq_add_of_le' h
  rw [State.encPipeFault, hf]
  rfl

end

/-- A fault of an encode pipe concerns the view whose AU it works on (R309). -/
theorem exec_pipeFault_enc {s : State} {k : PipeId} {n : Nat} {v : View} (hs : s.working = true)
    (hv : s.encoding k.toNat = some (n, v)) : exec (.pipeFault true k) s = .next (s.encPipeFault k.toNat n v) := by
  change execPipeFault true k s = _
  unfold execPipeFault
  dsimp only
  rw [if_neg (by simp [hs]), if_pos rfl, hv]

/-! ## Per-frame graphs -/

/-- A new run is QUEUED as its submitter gives it (R93). -/
theorem inst_newInst_self {u : State} {n : Nat} {j : Job} (hj : u.job n = some j) (who : Submitter) (g : Nat) (v : List Nat)
    (hs : List W64) (d : Nat) : ∃ i, (u.newInst who n g v hs d).inst u.plan.nextInst = some i ∧ i.state = .queued ∧
      i.who = who ∧ i.job = n ∧ i.graph = g ∧ i.v = v ∧ i.handles = hs ∧ i.declass = d := by
  obtain ⟨js, e⟩ := newInst_form hj who g v hs d
  rw [e]
  exact ⟨_, tget_tset_self .., rfl, rfl, rfl, rfl, rfl, rfl, rfl⟩

theorem inst_newInst_ne {u : State} {n m : Nat} {j : Job} (hj : u.job n = some j) (who : Submitter) (g : Nat) (v : List Nat)
    (hs : List W64) (d : Nat) (h : m ≠ u.plan.nextInst) : (u.newInst who n g v hs d).inst m = u.inst m := by
  obtain ⟨js, e⟩ := newInst_form hj who g v hs d
  rw [e]
  exact tget_tset_ne _ _ h

section
variable {s u : State} {k : StreamId} {t : Stream} {f : FrameSt}

/-- A stream's bindings with the pyramid of a frame at the pyramid's slot (R314). -/
def Stream.bindings (t : Stream) (f : FrameSt) : List W64 := lset t.handles t.pyrSlot f.pyr

/-- The checks of R108 on the run that a frame submits. -/
def State.frameChecks (s : State) (t : Stream) (f : FrameSt) : List (Bool × W32) :=
  s.runChecks (s.jobOpen t.job) t.job t.graph t.ndims t.nslots (t.bindings f)

/-- Frame `f` of open stream `n` is the next to submit its graph (R314). -/
structure State.FrameDue (s : State) (n : Nat) (t : Stream) (f : FrameSt) : Prop where
  working : s.working = true
  stream : s.stream n = some t
  next : s.nextFrame n t = some f

/-- A run that passes its checks and takes its references is QUEUED at the class of the stream (R314, R315). -/
theorem exec_perFrameGraphSubmit_ok (h : s.FrameDue k.toNat t f) (hc : ∀ c ∈ s.frameChecks t f, c.1 = true)
    (hu : s.takeRefs 27 (t.bindings f) = (u, true)) : exec (.perFrameGraphSubmit k) s = .next
      (((u.newInst (.frame k.toNat f.k.toNat) t.job t.graph t.v (t.bindings f) t.declass).modInst u.plan.nextInst
        fun i => { i with cls := t.prio }).setFrame k.toNat f.k .running) := by
  obtain ⟨hworking, hstream, hnext⟩ := h
  unfold State.frameChecks at hc
  unfold Stream.bindings at hc hu
  change execPerFrameGraphSubmit k s = _
  unfold execPerFrameGraphSubmit
  dsimp only
  rw [hstream]
  dsimp only
  rw [hnext]
  dsimp only
  rw [if_neg (by simp [hworking]), find_none hc, hu]
  rfl

/-- The first check that fails ends the frame with its code, and its pyramid is given back (R314). -/
theorem exec_perFrameGraphSubmit_fails {c : Bool × W32} (h : s.FrameDue k.toNat t f)
    (hc : (s.frameChecks t f).find? (fun c => !c.1) = some c) : exec (.perFrameGraphSubmit k) s =
      .next ((s.dropFramePyr k.toNat f).setFrame k.toNat f.k (.ended c.2 false)) := by
  obtain ⟨hworking, hstream, hnext⟩ := h
  unfold State.frameChecks Stream.bindings at hc
  change execPerFrameGraphSubmit k s = _
  unfold execPerFrameGraphSubmit
  dsimp only
  rw [hstream]
  dsimp only
  rw [hnext]
  dsimp only
  rw [if_neg (by simp [hworking]), hc]

end

/-- Settles O42: a pipe's fault by how often its picture or AU has failed, a frame's graph by whether its checks hold. -/
theorem pipeFaultsAndFrames : Obligations.PipeFaultsAndFrames := by
  unfold Obligations.PipeFaultsAndFrames
  refine ⟨fun s k n t x hs => ?decode, fun s k n v hs hv => ?encode, fun s u k t f hs ht hf => ?frames⟩
  case decode =>
    intro p e hx
    have hexec := exec_pipeFault_dec hs hx
    refine ⟨fun h => ?first, fun z h hz => ?spared, fun h hz => ?alone, fun h => ?last⟩
    case first => exact hexec.trans (congrArg _ (decPipeFault_first h t))
    case spared =>
      obtain ⟨u, hu, hrep⟩ := replacePipe_dec_some hz p
      obtain ⟨hspares, hretired⟩ := log_spares u (e 2 2 Code.pipeFault)
      have hhead := log_head u (e 2 2 Code.pipeFault)
      have hvideo := State.log_video u (e 2 2 Code.pipeFault)
      rw [hrep.ras] at hspares hretired hhead
      exact ⟨_, hexec.trans (congrArg _ (decPipeFault_spared h hu t)), (congrArg Video.dec hvideo).trans hrep.dec,
        (congrArg Video.decSpare hvideo).trans hrep.decSpare, hspares, hretired, hhead,
        (State.log_ring u _).trans hrep.ring, (State.log_mem u _).trans hrep.mem, (State.log_plan u _).trans hrep.plan,
        fun t y => replaced_picture hrep _⟩
    case alone =>
      exact hexec.trans (congrArg _ (decPipeFault_alone h (replacePipe_dec_none hz p) t))
    case last => exact hexec.trans (congrArg _ (decPipeFault_last h t))
  case encode =>
    have hexec := exec_pipeFault_enc hs hv
    exact ⟨fun h => hexec.trans (congrArg _ (encPipeFault_first h)),
      fun z u h hu => hexec.trans (congrArg _ (encPipeFault_spared h hu)),
      fun u h hu => hexec.trans (congrArg _ (encPipeFault_alone h hu)),
      fun h => hexec.trans (congrArg _ (encPipeFault_last h))⟩
  case frames =>
    have hdue : s.FrameDue k.toNat t f := ⟨hs, ht, hf⟩
    refine ⟨fun hc hu hj => ?submitted, fun c hc => exec_perFrameGraphSubmit_fails hdue hc⟩
    obtain ⟨j, hj⟩ := hj
    obtain ⟨js, e⟩ := newInst_form hj (.frame k.toNat f.k.toNat) t.graph t.v (t.bindings f) t.declass
    obtain ⟨i, hi, hstate, hwho, hjob, hgraph, hv, hhs, hdeclass⟩ :=
      inst_newInst_self hj (.frame k.toNat f.k.toNat) t.graph t.v (t.bindings f) t.declass
    refine ⟨_, exec_perFrameGraphSubmit_ok hdue hc hu,
      ⟨{ i with cls := t.prio }, ?inst, hstate, hwho, hjob, hgraph, rfl, hv, hhs, hdeclass⟩, fun n hn => ?others, ?stream, ?rest⟩
    case inst => exact (inst_modInst ..).trans (by rw [if_pos rfl, hi, Option.map_some])
    case others => exact (inst_modInst ..).trans ((if_neg hn).trans (inst_newInst_ne hj _ _ _ _ _ hn))
    case stream => rw [e]; exact (stream_modStream ..).trans (if_pos rfl)
    case rest => rw [e]; rfl

end Sys2Proof.Machine
end

section
/-!
Capture: how a region is parsed, record by record, what a CAPTURE_DATA leaves, and how a dictionary is loaded (R328 to R341).
-/
namespace Sys2Proof.Machine

/-! ## Records -/

/-- A record lies whole at offset `pos` of region `d`: its magic, a header whose fields are in range, and room for its bytes
(R328, R332). -/
structure RecordAt (d : List Byte) (pos : Nat) : Prop where
  magic : rd d pos 4 = capMagic
  header : (capHead d pos).ok = true
  fits : pos + (capHead d pos).bytes ≤ d.length

/-- The payload of the record at offset `pos`. -/
def capPayload (d : List Byte) (pos : Nat) : List Byte := slice d (pos + 32) (capHead d pos).plen

/-- The checksum of the bytes of the record at offset `pos`: its header up to the field `crc`, and its payload (R328). -/
def capCrc (d : List Byte) (pos : Nat) : W32 := crc32c (slice d pos 28 ++ capPayload d pos)

section
variable (c : CapRun) (p : CapPacket) {d : List Byte} {pos : Nat}

/-- Without a magic, parsing goes on at the next one, and what lies before it is skipped (R332). -/
theorem CapRun.step_unmarked (h : rd d pos 4 ≠ capMagic) : c.step p d pos =
    ({ c.damage p pos dmgMagic with skipped := c.skipped + (nextMagic d d.length (pos + 8) - pos) },
      nextMagic d d.length (pos + 8)) :=
  if_pos (bne_iff_ne.mpr h)

/-- A header out of range, or a record that passes the region's end, is damaged and only its first 8 bytes are passed over
(R332). -/
theorem CapRun.step_outOfRange (hm : rd d pos 4 = capMagic)
    (h : (capHead d pos).ok = false ∨ d.length < pos + (capHead d pos).bytes) :
    c.step p d pos = (c.damage p pos dmgRange, pos + 8) := by
  unfold CapRun.step
  rw [if_neg (by simp [hm])]
  exact if_pos (by simpa using h)

/-- The rows that decide a whole record, in order: its checksum, its source, its length (R330, R332). -/
theorem CapRun.step_whole (h : RecordAt d pos) : c.step p d pos =
    (if capCrc d pos ≠ (capHead d pos).crc then c.damage p pos dmgCrc
     else if (capHead d pos).source ≠ p.source then { c with foreign := c.foreign + 1 }
     else if (capHead d pos).plen = 0 then
       { c with empty := c.empty + 1, st := c.st.modCapt (fun k => { k with empty := satAdd k.empty 1 }) }
     else c.record p pos (capHead d pos) (capPayload d pos), pos + (capHead d pos).bytes) := by
  obtain ⟨hmagic, hheader, hfits⟩ := h
  unfold CapRun.step capCrc capPayload
  rw [if_neg (by simp [hmagic])]
  dsimp only
  rw [if_neg (by simp [hheader, hfits])]
  simp only [bne_iff_ne, apply_ite (Prod.mk · (pos + (capHead d pos).bytes))]

end

/-! ## CAPTURE_DATA -/

/-- What CAPTURE_DATA of packet `b` names in a state (R331). -/
def State.capPacket (s : State) (b : List Byte) : CapPacket :=
  { source := rd b 16 2, frames := rd b 48 4, gapLimit := rd b 52 3, audio := ((s.bufOf (rd64 b 32)).getD (0, 0)).1,
    side := ((s.bufOf (rd64 b 40)).getD (0, 0)).1, sideLen := ((s.bufOf (rd64 b 40)).getD (0, 0)).2,
    dict := (s.job (rd b 55 1)).bind (·.dict) }

/-- The parse of region `d` of packet `b`, from a source that goes on, or is begun anew as the packet says (R331, R332). -/
def State.capParse (s : State) (b d : List Byte) : CapRun :=
  CapRun.run (s.capPacket b) d d.length
    { st := s, src := if (rd8 b 19).getLsbD 0 then { fmt := none, next := none } else captSource s (rd b 16 2), w := 0,
      concealed := 0, good := 0, damaged := 0, empty := 0, foreign := 0, skipped := 0, first := none, used := 0,
      sideFull := false } 0

/-- The audio buffer of packet `b` holds the packet's frames of the format that its parse of `d` ends with (R331). -/
def State.AudioFits (s : State) (b d : List Byte) : Prop :=
  ∀ f, (s.capParse b d).src.fmt = some f → 2 * f.1 * rd b 48 4 ≤ ((s.bufOf (rd64 b 32)).getD (0, 0)).2

/-- A parse whose frames fit is kept: its source, its summary in host memory, and its status (R333, R334). -/
theorem capture_eq {s : State} {o : Op} {d : List Byte} (h : s.AudioFits o.bytes d) (r : Nat) :
    s.capture r o d =
      (((s.capParse o.bytes d).st.modCapt fun k => { k with
        srcs := tset k.srcs (rd o.bytes 16 2) (s.capParse o.bytes d).src }).dataWrite (rd o.bytes 56 8)
          ((s.capParse o.bytes d).summary (rd o.bytes 48 4))).finish r o.id
            ((s.capParse o.bytes d).status (rd o.bytes 48 4)) := by
  refine if_neg fun hany => ?_
  obtain ⟨f, hf, hlt⟩ := (Option.any_eq_true ..).mp hany
  exact absurd (h f hf) (Nat.not_le.mpr (of_decide_eq_true hlt))

/-- CAPTURE_DATA of packet `o` is taken up: it is the first of its kind, its fields are legal, and its handles are null or
current (R331). -/
structure State.CaptureDue (s : State) (o : Op) : Prop where
  first : s.firstOf 0x60 o.id = true
  fields : captureOk o.bytes = true
  handles : ∀ h, h = rd64 o.bytes 32 ∨ h = rd64 o.bytes 40 → h = 0 ∨ s.larder.current h = true

/-- A region from host memory is parsed once it has arrived, by a unit that is switched on (R331, R489). -/
theorem exec_captureData_arrived {s : State} {r : RingId} {o : Op} {d : List Byte} (ho : Offers s r 0x60 o) (h : s.CaptureDue o)
    (hl : rd o.bytes 18 1 = 0) (hn : rd o.bytes 20 4 ≠ 0) (hd : o.payload = .arrived d) :
    exec (.captureData r) s = .next ((s.powerUp [domCapture]).capture r.toNat o d) := by
  obtain ⟨hfirst, hfields, hhandles⟩ := h
  have hnamed := And.intro (hhandles _ (Or.inl rfl)) (hhandles _ (Or.inr rfl))
  change Host.Outcome.next (s.withOp _ _ _) = _
  rw [ho.withOp]
  dsimp only
  rw [if_neg (by simp [hfirst]), if_neg (by simp [hfields]), if_neg (by simpa [or_iff_not_imp_left] using hnamed),
    if_neg hn, if_neg (by simp [hl]), withPayload_arrived hd]

/-! ## DICT_LOAD -/

/-- DICT_LOAD of packet `o` is taken up: its job is open, and its place and its address are legal (R339). -/
structure State.DictDue (s : State) (o : Op) : Prop where
  job : s.jobOpen (rd o.bytes 16 1) = true
  place : rd o.bytes 17 1 = 0
  aligned : rd o.bytes 24 8 % 8 = 0

/-- Image `d` of `size` bytes passes the checks of a dictionary for job `n` (R341). -/
structure State.DictSound (s : State) (n size : Nat) (d : List Byte) : Prop where
  format : dictFormat d size = true
  crc : dictCrc d = true
  space : s.dictFits n (rd d 8 4) (rd d 16 4) = true
  entries : dictEntries d = true

section
variable {s : State} {r : RingId} {o : Op}

/-- DICT_LOAD without bytes takes the job's dictionary away (R339). -/
theorem exec_dictLoad_none (ho : Offers s r 0x61 o) (h : s.DictDue o) (hn : rd o.bytes 20 4 = 0) :
    exec (.dictLoad r) s = .next (((s.powerUp [domCapture]).modJob (rd o.bytes 16 1) fun j => { j with
      dict := none }).finish r.toNat o.id Code.ok) := by
  obtain ⟨hjob, hplace, haligned⟩ := h
  change Host.Outcome.next (s.withOp _ _ _) = _
  rw [ho.withOp]
  dsimp only
  rw [if_neg (by simp [hjob]), if_neg (by simp [hplace, haligned]), if_pos hn]

/-- DICT_LOAD of a sound image that has arrived puts its dictionary in force (R339, R341). -/
theorem exec_dictLoad_sound {d : List Byte} (ho : Offers s r 0x61 o) (h : s.DictDue o) (hn : rd o.bytes 20 4 ≠ 0)
    (hd : o.payload = .arrived d) (hs : s.DictSound (rd o.bytes 16 1) (rd o.bytes 20 4) d) :
    exec (.dictLoad r) s = .next (((s.powerUp [domCapture]).modJob (rd o.bytes 16 1) fun j => { j with
      dict := some (parseDict d) }).finish r.toNat o.id Code.ok) := by
  obtain ⟨hjob, hplace, haligned⟩ := h
  obtain ⟨hformat, hcrc, hspace, hentries⟩ := hs
  have hjob' : (s.powerUp [domCapture]).jobOpen (rd o.bytes 16 1) = true := hjob
  have hspace' : (s.powerUp [domCapture]).dictFits (rd o.bytes 16 1) (rd d 8 4) (rd d 16 4) = true := hspace
  change Host.Outcome.next (s.withOp _ _ _) = _
  rw [ho.withOp]
  dsimp only
  rw [if_neg (by simp [hjob]), if_neg (by simp [hplace, haligned]), if_neg hn, if_neg (by simp [hplace]),
    withPayload_arrived hd, State.checked_ok (by simp [hjob', hformat, hcrc, hspace', hentries])]

end

/-- Settles O44: the packet by what its parse keeps, a record by the row that decides it, a dictionary by whether it has bytes. -/
theorem captures : Obligations.Captures := by
  unfold Obligations.Captures
  refine fun s r o d => ⟨?data, fun c p pos => ⟨fun hm => ?unmarked, c.step_outOfRange p, fun hm hh hf => ?whole⟩, ?dict⟩
  case data =>
    intro ho hfirst hfields hl hn hd hhandles u p c hfits
    have hdue : s.CaptureDue o := ⟨hfirst, hfields, hhandles⟩
    have haudio : u.AudioFits o.bytes d := hfits
    exact (exec_captureData_arrived ho hdue hl hn hd).trans (congrArg _ (capture_eq haudio r.toNat))
  case unmarked =>
    rw [c.step_unmarked p hm]
    exact ⟨rfl, rfl⟩
  case whole =>
    have hstep := c.step_whole p ⟨hm, hh, hf⟩
    refine ⟨fun (hsum : capCrc d pos ≠ _) => ?crc, fun (hsum : capCrc d pos = _) hsource => ?foreign,
      fun (hsum : capCrc d pos = _) hsource hlen => ?recorded⟩
    case crc => rw [hstep, if_pos hsum]
    case foreign => rw [hstep, if_neg (not_not.mpr hsum), if_pos hsource]
    case recorded =>
      rw [hstep, if_neg (not_not.mpr hsum), if_neg (not_not.mpr hsource), if_neg hlen]
      rfl
  case dict =>
    intro ho hjob hplace haligned
    have hdue : s.DictDue o := ⟨hjob, hplace, haligned⟩
    exact ⟨exec_dictLoad_none ho hdue, fun hn hd hformat hcrc hspace hentries =>
      exec_dictLoad_sound ho hdue hn hd ⟨hformat, hcrc, hspace, hentries⟩⟩

end Sys2Proof.Machine
end

section
/-!
The Tracker: how a policy comes to a stream or a job, and what the update at a frame's end does (R355 to R357, R360, R364).
-/
namespace Sys2Proof.Machine

/-! ## TRACK_POLICY -/

/-- The policy of packet `b` may come to stream `n`: the stream is open, no earlier policy waits, the fields and the slots are
legal, and the partition keeps its size unless the packet resets it (R355, R356). -/
structure State.PolicyDue (s : State) (b : List Byte) (n : Nat) (t : Stream) : Prop where
  stream : s.stream n = some t
  open_ : t.state ≠ .closing
  idle : tget s.track.pend n = none
  fields : (trackPolicyOf b).ok = true
  slots : s.trackSlotsOk t (trackPolicyOf b) = true
  size : (rd8 b 17).getLsbD 1 = false → ∀ q, tget s.track.parts n = some q → q.policy.cap = (trackPolicyOf b).cap

/-- What the packet of ring `r` asks of its stream (R355). -/
def Op.trackPend (o : Op) (r : Nat) : TrackPend :=
  { ring := r, op := o.id, enable := (rd8 o.bytes 17).getLsbD 0, reset := (rd8 o.bytes 17).getLsbD 1,
    policy := trackPolicyOf o.bytes }

section
variable {s : State} {r : RingId} {o : Op}

/-- A stream's policy is kept for the end of the frame under way, or else applied (R356). -/
theorem exec_trackPolicy_stream {t : Stream} (ho : Offers s r 0x70 o) (hk : rd o.bytes 16 1 = 0)
    (h : s.PolicyDue o.bytes (rd o.bytes 18 2) t) : exec (.trackPolicy r) s = .next (
      if t.busy then (s.beginOp r.toNat o.id).modTrack fun x =>
        { x with pend := tset x.pend (rd o.bytes 18 2) (o.trackPend r.toNat) }
      else (s.beginOp r.toNat o.id).applyPolicy (rd o.bytes 18 2) t.nextFrameNo (o.trackPend r.toNat)) := by
  obtain ⟨hstream, hopen, hidle, hfields, hslots, hsize⟩ := h
  have hcap : (rd8 o.bytes 17).getLsbD 1 = false →
      (tget s.track.parts (rd o.bytes 18 2)).all (fun q => q.policy.cap = (trackPolicyOf o.bytes).cap) = true := fun hr =>
    (Option.all_eq_true ..).mpr fun q hq => decide_eq_true (hsize hr q hq)
  change Host.Outcome.next (s.withOp _ _ _) = _
  rw [ho.withOp]
  dsimp only
  rw [if_pos hk, hstream]
  dsimp only
  rw [if_neg (by simpa using hopen), if_neg (by simp [thas_eq_false hidle]),
    if_neg (by simpa [hfields, hslots] using hcap)]
  rfl

/-- A job without a quality ring takes the one that the packet names (R355). -/
theorem exec_trackPolicy_job {j : Job} (ho : Offers s r 0x70 o) (hk : rd o.bytes 16 1 = 1)
    (hj : s.job (rd o.bytes 18 1) = some j) (hc : j.closing = none) (hq : j.qring = 0)
    (ha : s.activeRing (rd o.bytes 20 4) .metadata = true) (hn : rd o.bytes 20 4 ≠ 0) : exec (.trackPolicy r) s = .next
      (((s.bindRing (rd o.bytes 20 4) true).modJob (rd o.bytes 18 1) fun j => { j with qring := rd o.bytes 20 4 }).finish
        r.toNat o.id Code.ok) := by
  have hopen : s.jobOpen (rd o.bytes 18 1) = true := by simp [State.jobOpen, hj, hc]
  have hold : ((s.job (rd o.bytes 18 1)).map (·.qring)).getD 0 = 0 := by simp [hj, hq]
  change Host.Outcome.next (s.withOp _ _ _) = _
  rw [ho.withOp]
  dsimp only
  rw [if_neg (by simp [hk]), State.checked_ok (by simp [hk, hopen, ha]), if_pos hold, if_neg hn]

end

/-! ## TRACKER_UPDATE -/

/-- A frame in this phase is over: with the status of its instance, whose record a recovery held or not, or without an
instance (R357). -/
inductive FramePhase.EndsWith : FramePhase → Option W32 → Bool → Prop
  | ended (c : W32) (held : Bool) : (FramePhase.ended c held).EndsWith (some c) held
  | none : FramePhase.none.EndsWith Option.none false

/-- The status of a faulted frame: neither success nor a warning (R364). -/
def frameFault (c : W32) : Bool := c != 0 && Code.cls c != 1

/-- The notes of a frame that has ended, its fault among them. -/
def FrameSt.endNotes (f : FrameSt) (status : Option W32) : List Note :=
  f.notes ++ status.elim [] fun c => if frameFault c then [note c] else []

theorem FrameSt.endNotes_none (f : FrameSt) : f.endNotes none = f.notes := List.append_nil _

/-- The association block of stream `t` under a policy (R359). -/
def State.assocBlock (s : State) (t : Stream) (p : Partition) : Assoc :=
  parseAssoc (s.hbmRead (s.streamBuf t p.policy.assocSlot) 68672)

/-- A frame whose tracks only move on by their prediction (R364). -/
def State.coastFrame (s : State) (n : Nat) (t : Stream) (f : FrameSt) (held : Bool) (notes : List Note) : State :=
  (s.coast n).closeFrame n t f held true (notes.map noteRecord) []

/-- A frame whose block is rejected: it is latched, and the frame coasts with TRK_BLOCK among its notes (R360, R375). -/
def State.rejectFrame (s : State) (n : Nat) (t : Stream) (f : FrameSt) (held : Bool) (notes : List Note) : State :=
  (s.modTrack fun x => x.reject n).coastFrame n t f held (notes ++ [note Code.trkBlock])

/-- The end of a frame of a stream with a policy, by its status, the poison that the Tracker reads, and its block (R360, R364,
R464). -/
def State.trackFrame (s : State) (n : Nat) (t : Stream) (f : FrameSt) (status : Option W32) (held : Bool) (p : Partition) :
    State :=
  let at_ := s.streamBuf t p.policy.assocSlot
  let a := s.assocBlock t p
  if status.any frameFault || status.isNone then s.coastFrame n t f held (f.endNotes status)
  else if s.blockPoisoned at_ a || s.partPoisoned p || !a.ok f.k then
    (if s.blockPoisoned at_ a then s.log (blockEntry t.job n at_)
     else if s.partPoisoned p then s.log (blockEntry t.job n (s.trackAddr p 0))
     else s).rejectFrame n t f held (f.endNotes status)
  else
    let x := s.track1 n p f a
    x.1.closeFrame n t f held true ((f.endNotes status).map noteRecord ++ x.2.1) x.2.2

/-- Frame `f`, the first of stream `n`, is over, and no policy waits for its end (R356, R357). -/
structure State.UpdateDue (s : State) (n : Nat) (t : Stream) (f : FrameSt) (status : Option W32) (held : Bool) : Prop where
  stream : s.stream n = some t
  first : ∃ l, t.frames = f :: l
  working : s.working = true
  idle : tget s.track.pend n = none
  ends : f.phase.EndsWith status held

section
variable {s : State} {k : StreamId} {t : Stream} {f : FrameSt} {status : Option W32} {held : Bool} {p : Partition}

/-- An update closes the frame with its notes, or tracks it and writes the table and the next candidates (R357). -/
theorem exec_trackerUpdate (h : s.UpdateDue k.toNat t f status held) : exec (.trackerUpdate k) s = .next (
    (tget s.track.parts k.toNat).elim
      (s.closeFrame k.toNat t f (held || f.late) false ((f.endNotes status).map noteRecord) [])
      fun p => ((s.trackFrame k.toNat t f status (held || f.late) p).storeTracks k.toNat).writeCands k.toNat (f.k + 1)) := by
  obtain ⟨hstream, ⟨l, hfirst⟩, hworking, hidle, hends⟩ := h
  change execTrackerUpdate k s = _
  unfold execTrackerUpdate
  dsimp only
  rw [hstream]
  dsimp only
  rw [hfirst]
  dsimp only
  generalize hphase : f.phase = phase at hends
  cases hends <;>
  · dsimp only
    rw [if_neg (by simp [hworking]), hidle]
    cases tget s.track.parts k.toNat <;> rfl

/-- A frame of a stream without a policy ends with its notes alone. -/
theorem exec_trackerUpdate_bare (h : s.UpdateDue k.toNat t f status held) (hp : tget s.track.parts k.toNat = none) :
    exec (.trackerUpdate k) s = .next
      (s.closeFrame k.toNat t f (held || f.late) false ((f.endNotes status).map noteRecord) []) := by
  rw [exec_trackerUpdate h, hp, Option.elim_none]

/-- A frame of a stream with a policy is tracked; the table and the next candidates follow. -/
theorem exec_trackerUpdate_tracked (h : s.UpdateDue k.toNat t f status held) (hp : tget s.track.parts k.toNat = some p) :
    exec (.trackerUpdate k) s = .next
      (((s.trackFrame k.toNat t f status (held || f.late) p).storeTracks k.toNat).writeCands k.toNat (f.k + 1)) := by
  rw [exec_trackerUpdate h, hp, Option.elim_some]

variable {n : Nat} {c : W32}

/-- A faulted frame coasts (R364). -/
theorem trackFrame_faulted (h : frameFault c = true) :
    s.trackFrame n t f (some c) held p = s.coastFrame n t f held (f.endNotes (some c)) :=
  if_pos (by simp [h])

/-- A frame without an instance coasts (R364). -/
theorem trackFrame_noInstance : s.trackFrame n t f none held p = s.coastFrame n t f held (f.endNotes none) := rfl

section
variable (hc : frameFault c = false)
include hc

/-- A poisoned block is logged and rejected (R464). -/
theorem trackFrame_blockPoisoned (hb : s.blockPoisoned (s.streamBuf t p.policy.assocSlot) (s.assocBlock t p) = true) :
    s.trackFrame n t f (some c) held p = (s.log (blockEntry t.job n (s.streamBuf t p.policy.assocSlot))).rejectFrame n t f held
      (f.endNotes (some c)) := by
  unfold State.trackFrame
  dsimp only
  rw [if_neg (by simp [hc]), if_pos (by simp [hb]), if_pos hb]

variable (hb : s.blockPoisoned (s.streamBuf t p.policy.assocSlot) (s.assocBlock t p) = false)
include hb

/-- With a poisoned track entry the partition is logged and the block rejected (R464). -/
theorem trackFrame_partPoisoned (hp : s.partPoisoned p = true) : s.trackFrame n t f (some c) held p =
    (s.log (blockEntry t.job n (s.trackAddr p 0))).rejectFrame n t f held (f.endNotes (some c)) := by
  unfold State.trackFrame
  dsimp only
  rw [if_neg (by simp [hc]), if_pos (by simp [hp]), if_neg (by simp [hb]), if_pos hp]

/-- A block that does not meet R360 is rejected, and nothing is logged. -/
theorem trackFrame_illFormed (hp : s.partPoisoned p = false) (ha : (s.assocBlock t p).ok f.k = false) :
    s.trackFrame n t f (some c) held p = s.rejectFrame n t f held (f.endNotes (some c)) := by
  unfold State.trackFrame
  dsimp only
  rw [if_neg (by simp [hc]), if_pos (by simp [ha]), if_neg (by simp [hb]), if_neg (by simp [hp])]

/-- A sound block updates the tracks (R361 to R363). -/
theorem trackFrame_sound (hp : s.partPoisoned p = false) (ha : (s.assocBlock t p).ok f.k = true) :
    s.trackFrame n t f (some c) held p = (s.track1 n p f (s.assocBlock t p)).1.closeFrame n t f held true
      ((f.endNotes (some c)).map noteRecord ++ (s.track1 n p f (s.assocBlock t p)).2.1)
      (s.track1 n p f (s.assocBlock t p)).2.2 := by
  unfold State.trackFrame
  dsimp only
  rw [if_neg (by simp [hc]), if_neg (by simp [hb, hp, ha])]

end

end

/-- Settles O45: the policy by what it is for and whether a frame is under way, the update by the stream's policy and then by
the case of `State.trackFrame` that the frame falls in. -/
theorem tracking : Obligations.Tracking := by
  unfold Obligations.Tracking
  refine ⟨fun s r o ho => ⟨?stream, fun _ => exec_trackPolicy_job ho⟩,
    fun s k t f l held => ?update⟩
  case stream =>
    intro t hk hstream hopen hidle hfields hslots hsize
    have hexec := exec_trackPolicy_stream ho hk ⟨hstream, hopen, hidle, hfields, hslots, hsize⟩
    refine ⟨fun hbusy => ?waits, fun hbusy => ?applies⟩
    case waits =>
      rw [hexec, if_pos hbusy, State.modTrack, State.beginOp_track]
      rfl
    case applies =>
      rw [hexec, if_neg (by simp [hbusy])]
      rfl
  case update =>
    intro n h hstream hframes hworking hidle
    refine ⟨fun c hphase => ?ended, fun p hphase hheld hp => ?noInstance⟩
    case ended =>
      have hdue : s.UpdateDue k.toNat t f (some c) held :=
        ⟨hstream, ⟨l, hframes⟩, hworking, hidle, hphase ▸ FramePhase.EndsWith.ended c held⟩
      refine ⟨fun hp => ?bare, fun p hp => ?policy⟩
      case bare => rw [exec_trackerUpdate_bare hdue hp]; rfl
      case policy =>
        have hexec := exec_trackerUpdate_tracked hdue hp
        refine ⟨fun hbad => ?faulted, fun hbad hb => ?poisonedBlock, fun hbad hb hpart => ?poisonedPart,
          fun hbad hb hpart ha => ?illFormed, fun hbad hb hpart ha => ?sound⟩
        case faulted => rw [hexec, trackFrame_faulted hbad]; rfl
        case poisonedBlock => rw [hexec, trackFrame_blockPoisoned hbad hb]; rfl
        case poisonedPart => rw [hexec, trackFrame_partPoisoned hbad hb hpart]; rfl
        case illFormed => rw [hexec, trackFrame_illFormed hbad hb hpart ha]; rfl
        case sound => rw [hexec, trackFrame_sound hbad hb hpart ha]; rfl
    case noInstance =>
      have hdue : s.UpdateDue k.toNat t f none held :=
        ⟨hstream, ⟨l, hframes⟩, hworking, hidle, hphase ▸ hheld ▸ .none⟩
      rw [exec_trackerUpdate_tracked hdue hp, trackFrame_noInstance, FrameSt.endNotes_none]
      rfl

end Sys2Proof.Machine
end

section
/-!
Requests at the ports of the memory: what passes its regulator, what enters a queue, what waits (R380, R382, R387, R388, R395).
-/
namespace Sys2Proof.Machine

/-! ## Energy of the controllers -/

@[simp] theorem State.memEvent_mem (s : State) (k n : Nat) : (s.memEvent k n).mem = s.mem := rfl

@[simp] theorem State.portEvent_mem (s : State) (port k n : Nat) : (s.portEvent port k n).mem = s.mem := by
  unfold State.portEvent
  split <;> rfl

/-! ## Requests -/

/-- The request of a read of a block. -/
def PortReq.ofRead (block : Nat) : PortReq := { block := block, write := none, scrub := false }

/-- The request of a write of bytes from the first byte of a block on. -/
def PortReq.ofWrite (block : Nat) (w : List (Option Byte)) : PortReq := { block := block, write := some w, scrub := false }

/-! ## The regulator -/

/-- The memory after a request of `k` blocks has paid at its port (R395). -/
def Mem.paid (m : Mem) (port k : Nat) : Mem := { m with ports := lmod m.ports port (·.pay k) }

/-- The memory with one more request that waits at a port (R395). -/
def Mem.held (m : Mem) (port : Nat) (r : PortReq) : Mem :=
  { m with ports := lmod m.ports port fun p => { p with waiting := p.waiting ++ [r] } }

section
variable {m : Mem} {port : Nat} {r : PortReq} {p : MemPortState}

/-- A request behind an earlier one, or short of tokens, waits at its port. -/
theorem request_waits (hp : m.ports[port]? = some p) (h : p.waiting ≠ [] ∨ p.due r.cost ≠ some 0) :
    m.request port r = m.held port r := by
  have hstop : ¬ (p.waiting.isEmpty && decide (p.due r.cost = some 0)) = true := by
    rcases h with h | h <;> simp [h]
  unfold Mem.request
  rw [hp]
  exact if_neg hstop

/-- A request with no earlier one and enough tokens passes. -/
theorem request_passes (hp : m.ports[port]? = some p) (hw : p.waiting = []) (hd : p.due r.cost = some 0) :
    m.request port r = m.takeReq port r := by
  unfold Mem.request
  rw [hp]
  exact if_pos (by simp [hw, hd])

/-- The head of a port passes in the mclk in which the bucket holds enough. -/
theorem admitHead_passes {rest : List PortReq} {k beat : Nat} (hp : m.ports[port]? = some p) (hw : p.waiting = r :: rest)
    (hd : p.due r.cost = some k) (hk : p.at_ + k ≤ beat) : m.admitHead port beat =
      ({ m with ports := lmod m.ports port fun p => { p.pass k with waiting := rest } }).takeReq port r := by
  unfold Mem.admitHead
  rw [hp]
  dsimp only
  rw [hw]
  dsimp only
  rw [hd]
  exact if_neg (by omega)

/-- The head of a port stays while the bucket does not hold enough within the beat. -/
theorem admitHead_stays {rest : List PortReq} {beat : Nat} (hp : m.ports[port]? = some p) (hw : p.waiting = r :: rest)
    (hk : ∀ k, p.due r.cost = some k → beat < p.at_ + k) : m.admitHead port beat = m := by
  unfold Mem.admitHead
  rw [hp]
  dsimp only
  rw [hw]
  dsimp only
  cases hd : p.due r.cost with
  | none => rfl
  | some k => exact if_pos (hk k hd)

end

/-! ## The Hallway -/

section
variable {m m' : Mem} {port : Nat} {r : PortReq}

/-- With nothing before it in the Hallway a request enters a queue that has room. -/
theorem enter_accepted (hb : m.blocked r = false) (ha : m.accept port r = some m') : m.enter port r = m' := by
  simp [Mem.enter, hb, ha]

/-- Behind an earlier request in the Hallway, or before a full queue, a request stays at its stop (R382). -/
theorem enter_stops (h : m.blocked r = true ∨ m.accept port r = none) :
    m.enter port r = { m with hall := m.hall ++ [(port, r)] } := by
  rcases h with h | h <;> simp [Mem.enter, h]

/-- A read that passes pays one token and goes to its queue. -/
theorem takeReq_ofRead (m : Mem) (port block : Nat) :
    m.takeReq port (.ofRead block) = (m.paid port 1).enter port (.ofRead block) := rfl

/-- The bytes of a write that begins in a block, as the block's mask. -/
def blockMask (w : List (Option Byte)) : List (Option Byte) := (List.range 64).map fun i => w.getD i none

/-- A write within one block pays one token and goes to its queue as the block's mask. -/
theorem takeReq_ofWrite (m : Mem) (port block : Nat) {w : List (Option Byte)} (hn : 0 < w.length) (hl : w.length ≤ 64) :
    m.takeReq port (.ofWrite block w) = (m.paid port 1).enter port (.ofWrite block (blockMask w)) := by
  have hcost : (PortReq.ofWrite block w).cost = 1 := by
    change (w.length + (64 - 1)) / 64 = 1
    omega
  have hblocks : (PortReq.ofWrite block w).blocks = [.ofWrite block (blockMask w)] := by
    change (cutBlocks (PortReq.ofWrite block w).cost w).zipIdx.map _ = _
    rw [hcost]
    rfl
  rw [Mem.takeReq, hblocks, hcost]
  rfl

end

/-! ## Reads and writes at their queues -/

/-- Bytes of the write-queue entry of a block; none without an entry. -/
def Mem.queued (m : Mem) (block : Nat) : List (Option Byte) := ((m.entry block).map (·.data)).getD []

/-- A read of a port, as its queue takes it (R388). -/
def Mem.portRead (m : Mem) (port block : Nat) : MemRead :=
  { port := port, block := block, at_ := (m.pc (pcOf block)).clk, use := .port, data := m.dram.read (64 * block) 64
    bad := m.poison.contains block, fwd := m.queued block, retry := false, fresh := false }

section
variable {m : Mem} {port block : Nat}

/-- A full entry serves the read (R388). -/
theorem acceptRead_served (h : fullMask (m.queued block) = true) : m.acceptRead port block .port = some { m with
    fwdFull := satAdd m.fwdFull 1
    given := m.given ++ [{ port := port, block := block, at_ := (m.pc (pcOf block)).clk, data := m.read (64 * block) 64
                           bad := false }] } := if_pos h

/-- Without a full entry the read joins its queue while there is room. -/
theorem acceptRead_queued (h : fullMask (m.queued block) = false) (hl : (m.pc (pcOf block)).rq.length < 64) :
    m.acceptRead port block .port =
      some (m.modPc (pcOf block) fun p => { p with rq := p.rq ++ [m.portRead port block] }) :=
  (if_neg (by simpa [Mem.queued] using h)).trans (if_neg (Nat.not_le.mpr hl))

/-- Without a full entry and without room a read is not accepted (R382). -/
theorem acceptRead_full (h : fullMask (m.queued block) = false) (hl : 64 ≤ (m.pc (pcOf block)).rq.length) :
    m.acceptRead port block .port = none :=
  (if_neg (by simpa [Mem.queued] using h)).trans (if_pos hl)

variable {d : List (Option Byte)}

/-- The first write of a block joins the queue while there is room. -/
theorem acceptWrite_queued (h : m.entry block = none) (hl : (m.pc (pcOf block)).wq.length < 64) : m.acceptWrite block d =
    some ((m.modPc (pcOf block) fun p => { p with wq := p.wq ++
      [{ block := block, data := d, reading := false, filled := none }] }).behind block) := by
  unfold Mem.acceptWrite
  rw [h]
  exact if_neg (Nat.not_le.mpr hl)

/-- A later write of a block merges into its entry (R387). -/
theorem acceptWrite_merges {e : MemWrite} (h : m.entry block = some e) : m.acceptWrite block d =
    some ((m.modPc (pcOf block) fun p => { p with wq := p.wq.map fun w =>
      if w.block = block then { w with data := mergeMask d w.data } else w }).behind block) := by
  unfold Mem.acceptWrite
  rw [h]

/-- The first write of a block is not accepted by a full queue (R382). -/
theorem acceptWrite_full (h : m.entry block = none) (hl : 64 ≤ (m.pc (pcOf block)).wq.length) :
    m.acceptWrite block d = none := by
  unfold Mem.acceptWrite
  rw [h]
  exact if_pos hl

end

/-! ## The commands -/

section
variable {s : State} {port : MemPort} {a : Nat} {d : List (Option Byte)}

/-- Before training the memory takes no request (R380). -/
theorem exec_memReadRequest_untrained (h : s.mem.trained = false) : exec (.memReadRequest port a) s = .next s :=
  if_pos (by simp [h])

theorem exec_memWriteRequest_untrained (h : s.mem.trained = false) : exec (.memWriteRequest port a d) s = .next s :=
  if_pos (by simp [h])

section
variable (ht : s.mem.trained = true) (hp : port.toNat < 24)
include ht hp

/-- A read beyond the capacity faults (R380). -/
theorem exec_memReadRequest_beyond (ha : s.mem.blocks ≤ a / 64) :
    exec (.memReadRequest port a) s = .fault .noSuchAddress :=
  (if_neg (by simpa [ht] using hp)).trans (if_pos ha)

/-- A read within the capacity is a request of one block at its port. -/
theorem exec_memReadRequest (ha : a / 64 < s.mem.blocks) : exec (.memReadRequest port a) s = .next
    { s.portEvent port.toNat 5 1 with
      mem := s.mem.request port.toNat (.ofRead (a / 64)) } := by
  change execMemReadRequest port a s = _
  unfold execMemReadRequest State.modMem
  rw [if_neg (by simpa [ht] using hp), if_neg (Nat.not_le.mpr ha), State.portEvent_mem]
  rfl

variable (hd : d ≠ [])
include hd

/-- A write that ends beyond the capacity faults (R380). -/
theorem exec_memWriteRequest_beyond (ha : s.mem.blocks * 64 < a + d.length) :
    exec (.memWriteRequest port a d) s = .fault .noSuchAddress :=
  (if_neg (by simpa [ht, hd] using hp)).trans (if_pos ha)

/-- A write within the capacity is a request of the blocks from its first one at its port. -/
theorem exec_memWriteRequest (ha : a + d.length ≤ s.mem.blocks * 64) : exec (.memWriteRequest port a d) s = .next
    { s.portEvent port.toNat 6 (ceilDiv (List.replicate (a % 64) none ++ d).length 64) with
      mem := s.mem.request port.toNat (.ofWrite (a / 64) (List.replicate (a % 64) none ++ d)) } := by
  change execMemWriteRequest port a d s = _
  unfold execMemWriteRequest State.modMem
  dsimp only
  rw [if_neg (by simpa [ht, hd] using hp), if_neg (Nat.not_lt.mpr ha), State.portEvent_mem]
  rfl

end

end

/-- Settles O46: every request is `Mem.request` at its port; where it passes, `Mem.enter` and the queue's acceptance say what
becomes of it. -/
theorem memPorts : Obligations.MemPorts := by
  unfold Obligations.MemPorts
  intro s port a d p hport hp b n held paid w blk old u v busy
  refine ⟨due_zero p, fun ht => ⟨exec_memReadRequest_untrained ht, exec_memWriteRequest_untrained ht⟩,
    fun ht => exec_memReadRequest_beyond ht hport, fun ht => exec_memWriteRequest_beyond ht hport,
    fun ht ha => ?read, fun ht hd ha => ?write, fun r rest k hw hdue hk => ?headPasses, fun r rest hw hk => ?headStays⟩
  case read =>
    rw [exec_memReadRequest ht hport ha]
    refine ⟨fun h => by rw [request_waits (r := .ofRead (a / 64)) hp h]; rfl, fun hw hdue => ?_⟩
    rw [request_passes (r := .ofRead (a / 64)) hp hw hdue, takeReq_ofRead]
    refine ⟨fun hfree hfull => ?served, fun hfree hpart hroom => ?queued, fun h => ?stopped⟩
    all_goals refine congrArg (fun m => Host.Outcome.next { u with mem := m }) ?_
    case served => exact enter_accepted hfree (acceptRead_served hfull)
    case queued => exact enter_accepted hfree (acceptRead_queued hpart hroom)
    case stopped => exact enter_stops (h.imp id fun ⟨hpart, hroom⟩ => acceptRead_full hpart hroom)
  case write =>
    rw [exec_memWriteRequest ht hport hd ha]
    refine ⟨fun h => by rw [request_waits (r := .ofWrite b w) hp h]; rfl,
      fun hw hdue => by rw [request_passes (r := .ofWrite b w) hp hw hdue]; rfl, fun hone => ?_⟩
    have hlength : w.length = a % 64 + d.length := by simp [w]
    have hd' : 0 < d.length := List.length_pos_iff.mpr hd
    change (_ → _ → _ → s.mem.takeReq port.toNat (.ofWrite b w) = _) ∧
      (∀ e, _ → _ → s.mem.takeReq port.toNat (.ofWrite b w) = _) ∧ (_ → s.mem.takeReq port.toNat (.ofWrite b w) = _)
    rw [takeReq_ofWrite s.mem port.toNat b (by omega) (by omega)]
    refine ⟨fun hfree hnone hroom => ?queued, fun e hfree hentry => ?merged, fun h => ?stopped⟩
    case queued => exact enter_accepted hfree (acceptWrite_queued hnone hroom)
    case merged => exact enter_accepted hfree (acceptWrite_merges hentry)
    case stopped => exact enter_stops (h.imp id fun ⟨hnone, hroom⟩ => acceptWrite_full hnone hroom)
  case headPasses => exact congrArg (fun m => Host.Outcome.next { s with mem := m }) (admitHead_passes hp hw hdue hk)
  case headStays => exact congrArg (fun m => Host.Outcome.next { s with mem := m }) (admitHead_stays hp hw hk)

end Sys2Proof.Machine
end

section
/-!
One mclk of a pseudo-channel: which command it issues, and that no reader sees a difference (R383, R386 to R389).
-/
namespace Sys2Proof.Machine

/-! ## What readers see -/

/-- A write queue of pseudo-channel `n` holds one entry to a block, each a mask of a block of its own. -/
structure Pc.SoundQueue (p : Pc) (n : Nat) : Prop where
  distinct : p.wq.Pairwise fun x y => x.block ≠ y.block
  own : ∀ w ∈ p.wq, pcOf w.block = n ∧ w.data.length = 64

/-- A pseudo-channel that nothing has used has no queued write, so what holds of the listed ones holds of every one. -/
theorem pc_soundQueue {m : Mem} (h : ∀ n p, tget m.pcs n = some p → p.wq.Pairwise (fun x y => x.block ≠ y.block) ∧
    ∀ w ∈ p.wq, pcOf w.block = n ∧ w.data.length = 64) (n : Nat) : (m.pc n).SoundQueue n := by
  unfold Mem.pc tgetD
  cases hp : tget m.pcs n with
  | none => exact ⟨.nil, fun w hw => nomatch hw⟩
  | some p => exact ⟨(h n p hp).1, (h n p hp).2⟩

/-- `u` shows every reader what `m` does, with a sound DRAM, the same Hallway and the same clock of pseudo-channel `n`. -/
structure Mem.Keeps (m u : Mem) (n : Nat) : Prop where
  byte : ∀ a, u.byte a = m.byte a
  wf : Memory.wf u.dram = true
  hall : u.hall = m.hall
  clk : (u.pc n).clk = (m.pc n).clk

/-- A change of a pseudo-channel that leaves its write queue and its clock. -/
theorem keeps_modPc {m : Mem} {n : Nat} (hd : Memory.wf m.dram = true) (f : Pc → Pc) (hw : (f (m.pc n)).wq = (m.pc n).wq)
    (hc : (f (m.pc n)).clk = (m.pc n).clk) : m.Keeps (m.modPc n f) n where
  byte := (same_modPc m n f (by rw [hw])).byte
  wf := hd
  hall := rfl
  clk := by rw [pc_modPc, hc]

/-- The mark of a parity error on a pseudo-channel set or cleared (R378). -/
def Mem.markRetry (m : Mem) (n : Nat) (b : Bool) : Mem := m.modPc n fun p => { p with retrying := b }

theorem pc_markRetry (m : Mem) (n : Nat) (b : Bool) : (m.markRetry n b).pc n = { m.pc n with retrying := b } := pc_modPc ..

theorem keeps_markRetry {m : Mem} (n : Nat) (b : Bool) (hd : Memory.wf m.dram = true) : m.Keeps (m.markRetry n b) n :=
  keeps_modPc hd _ rfl rfl

/-- An issued command, the mark of a parity error cleared. -/
theorem keeps_issue {m : Mem} {n : Nat} {c : PcChoice} (ps : Nat) (hd : Memory.wf m.dram = true)
    (hq : (m.pc n).SoundQueue n) (hc : (m.pc n).choose m = some c) :
    m.Keeps ((m.markRetry n false).issue n ps c) n ∧ (((m.markRetry n false).issue n ps c).pc n).retrying = false := by
  have hpc := pc_markRetry m n false
  have hmark := keeps_markRetry n false hd
  obtain ⟨hbyte, hwf, hhall, hclk, hretrying⟩ := issue_keeps (n := n) ps hmark.wf (by rw [hpc]; exact hq.distinct)
    (by rw [hpc]; exact hq.own) (by rw [hpc]; exact fun w hw => choose_write hc hw)
  exact ⟨⟨fun a => (hbyte a).trans (hmark.byte a), hwf, hhall.trans hmark.hall, hclk.trans hmark.clk⟩,
    hretrying.trans (by rw [hpc])⟩

/-! ## Commands -/

/-- A bank whose REFpb lasts until an mclk (R386). -/
def Bank.refreshed (k : Bank) (busyTo : Nat) : Bank := { k with debt := k.debt - 1, busyTo := busyTo }

/-- A bank whose RFMpb lasts until an mclk (R390). -/
def Bank.relieved (k : Bank) (busyTo : Nat) : Bank :=
  { k with rfm := false, forced := false, actCount := 0, busyTo := busyTo }

section
variable {c : PcChoice} (m : Mem) (n ps : Nat)

/-- The column command of a queued read sends it on its way (R383). -/
theorem issue_columnRead {e : MemRead} (h : c.cmd = .column) (hr : c.read = some e) : m.issue n ps c = m.modPc n fun p =>
    { p.burstOn m c.bank true true with rq := p.rq.erase e, flight := p.flight ++ [e] } := by
  unfold Mem.issue
  rw [h]
  dsimp only
  unfold Mem.column
  rw [hr]

/-- A REFpb pays one of the bank's debts and occupies it (R386). -/
theorem issue_refresh (h : c.cmd = .refresh) :
    ((m.issue n ps c).pc n).bank c.bank = ((m.pc n).bank c.bank).refreshed ((m.pc n).clk + tRfc ps) ∧
      ((m.issue n ps c).pc n).lastRef = some (m.pc n).clk := by
  unfold Mem.issue
  rw [h]
  dsimp only
  rw [pc_modPc]
  exact ⟨bank_modBank (m.pc n) c.bank (·.refreshed ((m.pc n).clk + tRfc ps)), rfl⟩

/-- An RFMpb clears the bank's count and occupies it (R390). -/
theorem issue_rfm (h : c.cmd = .rfm) :
    ((m.issue n ps c).pc n).bank c.bank = ((m.pc n).bank c.bank).relieved ((m.pc n).clk + tRfc ps) := by
  unfold Mem.issue
  rw [h]
  dsimp only
  rw [pc_modPc]
  exact bank_modBank (m.pc n) c.bank (·.relieved ((m.pc n).clk + tRfc ps))

end

/-! ## The mclk -/

section
variable {s : State} {n : Nat}

/-- The second burst of the last command takes the mclk (R378). -/
theorem pcCommand_burst {x : Burst} (h : (s.mem.pc n).burst = some x) :
    s.pcCommand n = s.modMem fun m => m.modPc n fun p => p.burstEnd m x := by
  unfold State.pcCommand
  dsimp only
  rw [h]

variable (hb : (s.mem.pc n).burst = none)
include hb

/-- Nothing is issued. -/
theorem pcCommand_idle (h : (s.mem.pc n).choose s.mem = none) : s.pcCommand n = s := by
  unfold State.pcCommand
  dsimp only
  rw [hb, h]

variable {c : PcChoice} (hc : (s.mem.pc n).choose s.mem = some c)
include hc

/-- A parity error keeps the command from its effect (R378, R398). -/
theorem pcCommand_parity (h : (s.mem.pc n).retrying = false ∧ Config.parityError s.free = true) : s.pcCommand n =
    ({ s with free := s.free + 1, mem := s.mem.markRetry n true } : State).log
      { status := Code.memParity, unit := 4, index := n } := by
  unfold State.pcCommand
  dsimp only
  rw [hb, hc]
  exact if_pos (by simp [h])

/-- The command takes effect, and enters the model energy (R493). -/
theorem pcCommand_issue (h : (s.mem.pc n).retrying = true ∨ Config.parityError s.free = false) : s.pcCommand n =
    ({ s with free := if (s.mem.pc n).retrying then s.free else s.free + 1 }.memEvent 7 c.cmd.counts).modMem fun m =>
      (m.markRetry n false).issue n s.pwr.pstate.toNat c := by
  unfold State.pcCommand
  dsimp only
  rw [hb, hc]
  exact if_neg (by rcases h with h | h <;> simp [h])

end

/-- A command changes the memory, the number of free values drawn, the energy account, the log and what the link reports. -/
theorem pcCommand_form (s : State) (n : Nat) : ∃ m f w r p,
    s.pcCommand n = { s with mem := m, free := f, pwr := w, ras := r, porch := p } := by
  unfold State.pcCommand
  dsimp only
  split
  · exact ⟨_, _, _, _, _, rfl⟩
  · exact ⟨_, _, _, _, _, rfl⟩
  · split
    · obtain ⟨p, r, hlog⟩ := log_form' (({ s with free := s.free + 1 }).modMem fun m =>
        m.modPc n fun p => { p with retrying := true }) { status := Code.memParity, unit := 4, index := n }
      exact ⟨_, _, _, _, _, hlog⟩
    · exact ⟨_, _, _, _, _, rfl⟩

/-- The memory after a command that a parity error kept from its effect. -/
theorem pcCommand_parity_mem {s : State} {n : Nat} {c : PcChoice} (hb : (s.mem.pc n).burst = none)
    (hc : (s.mem.pc n).choose s.mem = some c) (h : (s.mem.pc n).retrying = false ∧ Config.parityError s.free = true) :
    (s.pcCommand n).mem = s.mem.markRetry n true := by
  rw [pcCommand_parity hb hc h, State.log_mem]

/-- Whatever a pseudo-channel does in its mclk, readers see no difference (R387, R388). -/
theorem pcCommand_keeps {s : State} {n : Nat} (hd : Memory.wf s.mem.dram = true) (hq : (s.mem.pc n).SoundQueue n) :
    s.mem.Keeps (s.pcCommand n).mem n := by
  cases hb : (s.mem.pc n).burst with
  | some x => rw [pcCommand_burst hb]; exact keeps_modPc hd _ rfl rfl
  | none =>
    cases hc : (s.mem.pc n).choose s.mem with
    | none => rw [pcCommand_idle hb hc]; exact ⟨fun _ => rfl, hd, rfl, rfl⟩
    | some c =>
      by_cases h : (s.mem.pc n).retrying = false ∧ Config.parityError s.free = true
      · rw [pcCommand_parity_mem hb hc h]
        exact keeps_markRetry n true hd
      · rw [pcCommand_issue hb hc (by simpa [imp_iff_not_or] using h)]
        exact (keeps_issue _ hd hq hc).1

/-- The clock of a pseudo-channel advances, and its drain goes on or ends (R383). -/
def Mem.endMclk (m : Mem) (n : Nat) (drains : Bool) : Mem :=
  m.modPc n fun q => { q with clk := q.clk + 1, draining := drains && decide (m.wqLo.toNat < q.wq.length) }

theorem pc_endMclk (m : Mem) (n : Nat) (drains : Bool) : (m.endMclk n drains).pc n = { m.pc n with
    clk := (m.pc n).clk + 1, draining := drains && decide (m.wqLo.toNat < (m.pc n).wq.length) } := pc_modPc ..

theorem byte_endMclk (m : Mem) (n : Nat) (drains : Bool) (a : Nat) : (m.endMclk n drains).byte a = m.byte a :=
  (same_modPc m n _ rfl).byte a

section
variable {s : State} {k : PcId}

/-- A pseudo-channel that has had its mclk of the beat does nothing more (R377). -/
theorem exec_pcCommandIssue_done (h : s.mem.base + s.pwr.beatMclk ≤ (s.mem.pc k.toNat).clk) :
    exec (.pcCommandIssue k) s = .next s :=
  congrArg Host.Outcome.next (if_pos (by simp [h]))

/-- Otherwise it issues its command, and the Hallway takes the room that the command made (R382). -/
theorem exec_pcCommandIssue (ht : s.mem.trained = true) (h : (s.mem.pc k.toNat).clk < s.mem.base + s.pwr.beatMclk) :
    exec (.pcCommandIssue k) s = .next ((s.pcCommand k.toNat).modMem fun m =>
      (m.endMclk k.toNat ((s.mem.pc k.toNat).drains s.mem)).leaveHall) :=
  congrArg Host.Outcome.next (if_neg (by simp [ht, h]))

end

/-- Settles O47: `pcCommand_keeps` says that no reader sees a difference; what the mclk does follows from the case of
`State.pcCommand` that it falls in. -/
theorem pcCommandsKeepContents : Obligations.PcCommandsKeepContents := by
  unfold Obligations.PcCommandsKeepContents
  intro s k ht hd hwq n p
  refine ⟨exec_pcCommandIssue_done, fun hclk => ⟨_, exec_pcCommandIssue ht hclk, _, rfl, ?_⟩⟩
  have hq := pc_soundQueue hwq n
  obtain ⟨hbyte, hwf, hhall, hkept⟩ := pcCommand_keeps hd hq
  have hpc := pc_endMclk (s.pcCommand n).mem n (p.drains s.mem)
  refine ⟨hhall, ?frame, by rw [hpc, ← hkept], fun a => (byte_endMclk ..).trans (hbyte a), hwf, fun x hb => ?burst,
    fun hb hc => ?idle, fun c hb hc => ⟨fun hparity => ?parity, fun hissue => ?issue⟩⟩
  case frame =>
    obtain ⟨m, f, w, r, q, hform⟩ := pcCommand_form s n
    rw [hform]
    rfl
  case burst =>
    rw [hpc, pcCommand_burst hb, State.modMem_mem, pc_modPc]
    exact ⟨rfl, rfl, rfl, rfl, rfl⟩
  case idle =>
    rw [hpc, pcCommand_idle hb hc]
    exact ⟨rfl, rfl, rfl⟩
  case parity =>
    have hhead : (s.pcCommand n).ras.head = s.ras.head + 1 := by rw [pcCommand_parity hb hc hparity]; exact log_head _ _
    rw [hpc, pcCommand_parity_mem hb hc hparity, pc_markRetry]
    exact ⟨rfl, rfl, rfl, rfl, rfl, rfl, hhead⟩
  case issue =>
    rw [hpc, pcCommand_issue hb hc hissue]
    refine ⟨(keeps_issue _ hd hq hc).2, fun hcmd => ?plain, fun e hcmd hread => ?read,
      fun hcmd => ?refresh, fun hcmd => ?rfm⟩
    case plain =>
      obtain ⟨⟨hdram, hpoison, -, -⟩, -, -, hwq, hrq⟩ :=
        issue_plain (s.mem.markRetry n false) n s.pwr.pstate.toNat c hcmd
      rw [pc_markRetry] at hwq hrq
      exact ⟨hdram, hpoison, hwq, hrq⟩
    case read =>
      rw [State.modMem_mem, State.memEvent_mem, issue_columnRead _ _ _ hcmd hread, pc_modPc, pc_markRetry]
      exact ⟨rfl, rfl, rfl, rfl, rfl⟩
    case refresh =>
      obtain ⟨hbank, hlast⟩ := issue_refresh (s.mem.markRetry n false) n s.pwr.pstate.toNat hcmd
      rw [pc_markRetry] at hbank hlast
      exact ⟨congrArg (·.debt) hbank, congrArg (·.busyTo) hbank, hlast⟩
    case rfm =>
      have hbank := issue_rfm (s.mem.markRetry n false) n s.pwr.pstate.toNat hcmd
      rw [pc_markRetry] at hbank
      exact ⟨congrArg (·.rfm) hbank, congrArg (·.actCount) hbank, congrArg (·.busyTo) hbank⟩

end Sys2Proof.Machine
end

section
/-!
Reads that come back from the DRAM, and the patrol scrub (R388, R392 to R394).
-/
namespace Sys2Proof.Machine

/-! ## What a log entry leaves -/

/-- A command that changes the memory, logs an entry and changes the memory once more leaves all but the memory, the log and
what the link reports. -/
theorem gives_log_modMem {c : Instr} {s : State} {m : Mem} {x : LogEntry} {g : Mem → Mem}
    (h : exec c s = .next ((({ s with mem := m } : State).log x).modMem g)) : Gives c s fun t =>
      t.mem = g m ∧ t.ras.head = s.ras.head + 1 ∧ t = { s with mem := t.mem, ras := t.ras, porch := t.porch } := by
  refine ⟨_, h, by rw [State.modMem_mem, State.log_mem], log_head _ _, ?_⟩
  obtain ⟨p, r, hlog⟩ := log_form' { s with mem := m } x
  rw [hlog]
  rfl

/-! ## Uncorrectable reads -/

theorem latchUe_ueValid (m : Mem) (pc : Nat) (code : W32) (block : Nat) : (m.latchUe pc code block).ueValid = true := by
  unfold Mem.latchUe
  split
  case isTrue h => exact h
  case isFalse => rfl

/-- An empty latch takes the code and the address (R397). -/
theorem latchUe_empty {m : Mem} (h : m.ueValid = false) (pc : Nat) (code : W32) (block : Nat) :
    m.latchUe pc code block = { m with ueValid := true, uePc := BitVec.ofNat 7 pc, ueCode := Code.low code
                                       uePend := BitVec.ofNat 64 (64 * block) } := if_neg (by simp [h])

theorem mem_ifContains {α : Type} [BEq α] [LawfulBEq α] (l : List α) (a : α) :
    a ∈ if l.contains a then l else l ++ [a] := by
  split
  case isTrue h => exact List.contains_iff_mem.mp h
  case isFalse => simp

/-- The row of a block: its pseudo-channel, bank and row (R381). -/
def Mem.rowAt (m : Mem) (pc block : Nat) : Nat × Nat × Nat :=
  (pc, bankOf (pageOf m.ecc block), rowOf (pageOf m.ecc block))

/-- The memory after a block was uncorrectable twice: latched, poisoned, its row queued for repair (R393). -/
def Mem.failed (m : Mem) (pc block : Nat) : Mem :=
  { m.latchUe pc Code.memUe block with
    poison := if m.poison.contains block then m.poison else m.poison ++ [block]
    repairs := if m.repairs.contains (m.rowAt pc block) then m.repairs else m.repairs ++ [m.rowAt pc block] }

theorem failRead_eq (s : State) (block pc : Nat) : s.failRead block pc =
    ({ s with mem := s.mem.failed pc block } : State).log
      { status := Code.memUe, unit := 4, index := pc, addr := 64 * block } := rfl

theorem failed_dram (m : Mem) (pc block : Nat) : (m.failed pc block).dram = m.dram := by
  unfold Mem.failed Mem.latchUe
  split <;> rfl

theorem failed_given (m : Mem) (pc block : Nat) : (m.failed pc block).given = m.given := by
  unfold Mem.failed Mem.latchUe
  split <;> rfl

/-! ## Reads whose check passes -/

section
variable {s : State} {e : MemRead} {data : List Byte} {d : Decoded} {n : Nat}

/-- A clean read changes nothing. -/
theorem passRead_clean (hd : d = .clean) (h : e.retry = false) : s.passRead e data d n = s := by
  subst hd
  exact if_neg (by simp [h])

/-- A corrected read is written back, counted and logged (R393). -/
theorem passRead_fixed {p : Nat} {v : Byte} (hd : d = .fixed p v) (h : e.retry = false) : s.passRead e data d n =
    ({ s with mem := { s.mem.writeBack e data with ce := satAdd s.mem.ce 1 } } : State).log
      { status := Code.memCe, unit := 4, index := n, addr := 64 * e.block } := by
  subst hd
  exact if_neg (by simp [h])

/-- A re-read that is clean is latched and logged (R393). -/
theorem passRead_reread (hd : d = .clean) (h : e.retry = true) : s.passRead e data d n =
    ({ s with mem := s.mem.latchUe n Code.memUeRetry e.block } : State).log
      { status := Code.memUeRetry, unit := 4, index := n, addr := 64 * e.block } := by
  subst hd
  exact if_pos h

end

/-- A read of a port is given with the bytes of the write entry that it found (R388). -/
theorem deliverRead_port {e : MemRead} (m : Mem) (h : e.use = .port) (data : List Byte) (bad : Bool) :
    m.deliverRead e data bad = { m with
      given := m.given ++ [{ port := e.port, block := e.block, at_ := e.at_, data := mergeBytes e.fwd data, bad := bad }]
      fwdPartial := if e.fwd = [] then m.fwdPartial else satAdd m.fwdPartial 1 } := by
  unfold Mem.deliverRead
  rw [h]
  simp only [List.isEmpty_iff]

/-! ## MEM_READ_RETURN -/

/-- The oldest read of pseudo-channel `n` is `e`, and its second burst has been issued (R378). -/
structure State.Returns (s : State) (n : Nat) (e : MemRead) (rest : List MemRead) : Prop where
  oldest : (s.mem.pc n).flight = e :: rest
  ended : rest = [] → ∀ x, (s.mem.pc n).burst = some x → x.read = false

/-- The state once the oldest read has left the DRAM. -/
def State.landRead (s : State) (n : Nat) (rest : List MemRead) : State :=
  s.modMem fun m => m.modPc n fun p => { p with flight := rest }

section
variable {s : State} {k : PcId} {errors : List (Nat × Byte)} {e : MemRead} {rest : List MemRead}
  (h : s.Returns k.toNat e rest)
include h

/-- A read that returns is judged by its check and by whether it is the second one (R392, R393). -/
theorem exec_memReadReturn : exec (.memReadReturn k errors) s = .next (
    let d := e.decode s.mem.ecc errors
    let data := e.result errors d
    let u := s.landRead k.toNat rest
    if d = .bad then
      if e.retry then (u.failRead e.block k.toNat).modMem (·.deliverRead e data true)
      else (u.memEvent 7 1).modMem fun m => m.modPc k.toNat fun p => { p with rq := { e with retry := true } :: p.rq }
    else (u.passRead e data d k.toNat).modMem (·.deliverRead e data false)) := by
  obtain ⟨holdest, hended⟩ := h
  have hcome : ¬ (rest.isEmpty && (s.mem.pc k.toNat).burst.any (·.read)) = true := by
    simp only [Bool.and_eq_true, List.isEmpty_iff, Option.any_eq_true, not_and, not_exists]
    exact fun hr x hx => by simp [hended hr x hx]
  change execMemReadReturn k errors s = _
  unfold execMemReadReturn
  dsimp only
  rw [holdest]
  dsimp only
  rw [if_neg hcome]
  rfl

/-- A read that the check passes is delivered. -/
theorem exec_memReadReturn_passes (hd : e.decode s.mem.ecc errors ≠ .bad) : exec (.memReadReturn k errors) s = .next (
    ((s.landRead k.toNat rest).passRead e (e.result errors (e.decode s.mem.ecc errors)) (e.decode s.mem.ecc errors)
      k.toNat).modMem (·.deliverRead e (e.result errors (e.decode s.mem.ecc errors)) false)) :=
  (exec_memReadReturn h).trans (congrArg Host.Outcome.next (if_neg hd))

variable (hd : e.decode s.mem.ecc errors = .bad)
include hd

/-- An uncorrectable read is queued once more, before all others. -/
theorem exec_memReadReturn_again (hr : e.retry = false) : exec (.memReadReturn k errors) s = .next (
    ((s.landRead k.toNat rest).memEvent 7 1).modMem fun m =>
      m.modPc k.toNat fun p => { p with rq := { e with retry := true } :: p.rq }) :=
  (exec_memReadReturn h).trans (congrArg Host.Outcome.next ((if_pos hd).trans (if_neg (by simp [hr]))))

/-- The second time it fails, and is delivered as poison. -/
theorem exec_memReadReturn_fails (hr : e.retry = true) : exec (.memReadReturn k errors) s = .next (
    ((s.landRead k.toNat rest).failRead e.block k.toNat).modMem
      (·.deliverRead e (e.result errors (e.decode s.mem.ecc errors)) true)) :=
  (exec_memReadReturn h).trans (congrArg Host.Outcome.next ((if_pos hd).trans (if_pos hr)))

end

/-! ## PATROL_SCRUB -/

/-- The patrol goes to the next block and leaves the contents (R394). -/
theorem nextScrub_parts (m : Mem) : m.nextScrub.scrubAt = (m.scrubAt + 1) % m.blocks ∧ m.nextScrub.dram = m.dram ∧
    m.nextScrub.poison = m.poison := by
  unfold Mem.nextScrub
  dsimp only
  split <;> exact ⟨rfl, rfl, rfl⟩

/-- When its turn has come, the read of the patrol's block sets out through port 23. -/
theorem exec_patrolScrub {s : State} (ht : s.mem.trained = true) (h : s.scrubDue = true) : exec (.patrolScrub ()) s = .next
    ((s.portEvent 23 5 1).modMem fun m => (m.request 23 { block := m.scrubAt, write := none, scrub := true }).nextScrub) :=
  congrArg Host.Outcome.next (if_neg (by simp [ht, h]))

theorem exec_patrolScrub_notDue {s : State} (h : s.scrubDue = false) : exec (.patrolScrub ()) s = .next s :=
  congrArg Host.Outcome.next (if_pos (by simp [h]))

/-- Settles O48: a read that returns by the decoder's report and by whether it is the second one, the patrol by whether its turn
has come. -/
theorem memReads : Obligations.MemReads := by
  unfold Obligations.MemReads
  intro s k errors e rest n d data page u gave
  refine ⟨fun holdest hended => ?returns, fun ht hdue => ?scrub, exec_patrolScrub_notDue⟩
  case returns =>
    have hreturns : s.Returns k.toNat e rest := ⟨holdest, hended⟩
    have hpasses (hd : d ≠ .bad) : exec (.memReadReturn k errors) s =
        .next ((u.passRead e data d n).modMem (·.deliverRead e data false)) := exec_memReadReturn_passes hreturns hd
    refine ⟨fun hd hr => ?clean, fun p v hd hr => ?fixed, fun hd hr => ?reread,
      fun hd hr => exec_memReadReturn_again hreturns hd hr, fun hd hr hport => ?failed, fun hport => ?delivered⟩
    case clean => rw [hpasses (by rw [hd]; nofun), passRead_clean hd hr]; rfl
    case fixed =>
      have hexec := hpasses (by rw [hd]; nofun)
      rw [passRead_fixed hd hr] at hexec
      exact gives_log_modMem hexec
    case reread =>
      have hexec := hpasses (by rw [hd]; nofun)
      rw [passRead_reread hd hr] at hexec
      exact gives_log_modMem hexec
    case failed =>
      have hexec := exec_memReadReturn_fails hreturns hd hr
      rw [failRead_eq] at hexec
      obtain ⟨t, hexec, hmem, hhead, hframe⟩ := gives_log_modMem (s := s) hexec
      have hgiven := deliverRead_port (u.mem.failed n e.block) hport data true
      refine ⟨t, hexec, ?given, ?valid, fun hempty => ?latch, ?row, ?poison, ?dram, hhead, hframe⟩
      all_goals rw [hmem.trans hgiven]
      case given => exact congrArg (· ++ _) (failed_given u.mem n e.block)
      case valid => exact latchUe_ueValid ..
      case latch =>
        have hlatch := latchUe_empty (m := u.mem) hempty n Code.memUe e.block
        exact ⟨congrArg (·.ueCode) hlatch, congrArg (·.uePend) hlatch⟩
      case row => exact mem_ifContains ..
      case poison => exact mem_ifContains ..
      case dram => exact failed_dram ..
    case delivered => exact deliverRead_port u.mem hport data false
  case scrub =>
    refine ⟨_, exec_patrolScrub ht hdue, rfl, ?_⟩
    rw [State.modMem_mem, State.portEvent_mem]
    obtain ⟨p, q, h, g, f, hform⟩ := memRequest_form s.mem 23 { block := s.mem.scrubAt, write := none, scrub := true }
    rw [hform]
    exact nextScrub_parts _

end Sys2Proof.Machine
end

section
/-!
The upkeep of the memory: refresh, idle timers, temperatures, lane marks and the repair of rows (R384, R386, R390, R393, R396).
-/
namespace Sys2Proof.Machine

section
variable {s : State} {k : PcId} {b : BankId}

/-! ## Banks -/

/-- A count that has reached the threshold forces an RFMpb, once (R390). -/
theorem exec_activationThreshold
    (ht : s.mem.nr.thresh.toNat ≤ ((s.mem.pc k.toNat).bank b.toNat).actCount.toNat)
    (hf : ((s.mem.pc k.toNat).bank b.toNat).forced = false) : exec (.activationThreshold k b) s = .next { s with
      mem := { s.mem.modPc k.toNat fun p => p.modBank b.toNat fun q => { q with rfm := true, forced := true } with
        nrForced := satAdd s.mem.nrForced 1 } } := by
  change execActivationThreshold k b s = _
  unfold execActivationThreshold State.modMem
  dsimp only
  rw [if_neg (by simp [hf, Nat.not_lt.mpr ht])]

/-- At the end of a tREFI the bank owes one REFpb more (R386). -/
theorem exec_refreshInterval (ht : s.mem.trained = true) (hb : b.toNat < 48)
    (hp : s.passed (((s.mem.pc k.toNat).bank b.toNat).refAt.getD s.mem.served) (s.mem.tRefi k.toNat) = true) :
    exec (.refreshInterval k b) s = .next (s.modMem fun m => m.modPc k.toNat fun p => p.modBank b.toNat fun q =>
      { q with debt := satAdd q.debt 1, refAt := some (((s.mem.pc k.toNat).bank b.toNat).refAt.getD s.mem.served +
          BitVec.ofNat 64 (s.mem.tRefi k.toNat)) }) :=
  congrArg Host.Outcome.next (if_neg (by simp [ht, hp, hb]))

/-- A bank whose idle timer has run out is closed (R384). -/
theorem exec_pageIdleTimeout {t : Nat} (hi : ((s.mem.pc k.toNat).bank b.toNat).idleAt = some t)
    (ht : t ≤ (s.mem.pc k.toNat).clk) : exec (.pageIdleTimeout k b) s = .next (s.modMem fun m =>
      m.modPc k.toNat fun p => p.modBank b.toNat Bank.closed) := by
  change execPageIdleTimeout k b s = _
  unfold execPageIdleTimeout State.modMem
  dsimp only
  rw [hi]
  dsimp only
  rw [if_neg (Nat.not_lt.mpr ht)]

/-! ## Stacks and lanes -/

/-- Each stack's temperature is taken while the device is not OFF (R386). -/
theorem exec_memTempUpdate {v : W32} (h : s.glb.dev ≠ .off) :
    exec (.memTempUpdate v) s = .next { s with mem := { s.mem with temp := v } } :=
  congrArg Host.Outcome.next (if_neg (by simpa using h))

/-- A lane not yet marked is marked for the next start (R396). -/
theorem exec_laneParityLimit {l : BitVec 6} (ht : s.mem.trained = true)
    (hl : (spareOf k.toNat l.toNat, l.toNat) ∉ s.mem.laneMarks) : exec (.laneParityLimit k l) s = .next { s with
      mem := { s.mem with laneMarks := s.mem.laneMarks ++ [(spareOf k.toNat l.toNat, l.toNat)] } } :=
  congrArg Host.Outcome.next (if_neg (by simpa [ht] using hl))

/-! ## Soft row repair -/

/-- The first queued row is taken: its bank is closed and held while a spare is left, else the refusal is logged (R396). -/
theorem exec_softRowRepair {n bank row : Nat} {rest : List (Nat × Nat × Nat)} (hr : s.mem.repairs = (n, bank, row) :: rest)
    (hh : ((s.mem.pc n).bank bank).held = none) (ht : s.mem.trained = true) : exec .softRowRepair s = .next (
    let u : State := { s with mem := { s.mem with repairs := rest } }
    if Config.spareRows ≤ tgetD s.mem.rows (64 * n + bank) 0 then
      u.log { status := Code.memNoSpare, unit := 4, index := n, addr := row }
    else u.modMem fun m => m.modPc n fun p => p.modBank bank fun q => { q.closed with held := some p.clk }) := by
  change execSoftRowRepair s = _
  unfold execSoftRowRepair
  rw [hr]
  dsimp only
  rw [if_neg (by simp [hh, ht])]
  rfl

/-- After the repair's time the row is replaced, its bank released, and the repair logged (R396). -/
theorem exec_rowRepairDone {t : Nat} (hh : ((s.mem.pc k.toNat).bank b.toNat).held = some t)
    (ht : t + tRepair s.pwr.pstate.toNat ≤ (s.mem.pc k.toNat).clk) : exec (.rowRepairDone k b) s = .next (
      ({ s with mem := { s.mem.modPc k.toNat fun p => p.modBank b.toNat fun q => { q with held := none } with
        rows := tup s.mem.rows (64 * k.toNat + b.toNat) 0 (· + 1) } } : State).log
          { status := Code.memRowSpared, unit := 4, index := k.toNat, addr := b.toNat }) := by
  change execRowRepairDone k b s = _
  unfold execRowRepairDone
  dsimp only
  rw [hh]
  dsimp only
  rw [if_neg (Nat.not_lt.mpr ht)]
  rfl

end

/-- Settles O49: every event in the state that the spec gives it. -/
theorem memUpkeep : Obligations.MemUpkeep := by
  unfold Obligations.MemUpkeep
  intro s k b n q set last
  refine ⟨exec_activationThreshold, exec_refreshInterval, fun t => exec_pageIdleTimeout, fun v => exec_memTempUpdate,
    fun l => exec_laneParityLimit, fun row rest hr hh ht => ?repair, fun t => exec_rowRepairDone⟩
  case repair =>
    have hexec := exec_softRowRepair hr hh ht
    exact ⟨fun hspare => hexec.trans (congrArg Host.Outcome.next (if_neg (Nat.not_le.mpr hspare))),
      fun hnone => hexec.trans (congrArg Host.Outcome.next (if_pos hnone))⟩

end Sys2Proof.Machine
end

section
/-!
What the Porch logs: host-interface codes, the events of the link, and requests that the device does not take (R399, R407, R421 to
R423).
-/
namespace Sys2Proof.Machine

/-! ## PORCH_ERR -/

/-- A host-interface code is logged, stays latched unless an earlier one is, and leaves all but the Porch and the log (R422,
R423). -/
theorem porchErr_latches (s : State) (c : W32) (r : Option Nat) : (s.porchErr c r).porch.errValid = true ∧
    (s.porchErr c r).porch.errCode = (if s.porch.errValid then s.porch.errCode else Code.low c) ∧
    (s.porchErr c r).ras.head = s.ras.head + 1 ∧
    s.porchErr c r = { s with porch := (s.porchErr c r).porch, ras := (s.porchErr c r).ras } := by
  obtain ⟨ow, u, k, dv, sx, p, b, h⟩ := porchErr_form s c r
  rw [h]
  exact ⟨rfl, rfl, append_head _ _, rfl⟩

/-- A host-interface code leaves what PORCH_LINK shows. -/
theorem porchErr_link (s : State) (c : W32) (r : Option Nat) : (s.porchErr c r).porch.up = s.porch.up ∧
    (s.porchErr c r).porch.rate = s.porch.rate ∧ (s.porchErr c r).porch.width = s.porch.width ∧
    (s.porchErr c r).porch.recoveries = s.porch.recoveries := by
  obtain ⟨ow, u, k, dv, sx, p, b, h⟩ := porchErr_form s c r
  rw [h]
  exact ⟨rfl, rfl, rfl, rfl⟩

/-! ## The link -/

/-- The Porch of a link that has trained (R399). -/
def Porch.trained (p : Porch) (rate : BitVec 4) (width : BitVec 5) (flit : Bool) : Porch :=
  { p with up := true, rate := rate, width := width, flit := flit }

section
variable {s : State} {rate : BitVec 4} {width : BitVec 5} {flit : Bool}

/-- In a mode in which it can train, the link comes up, and one below 64.0 GT/s or x16 is reported (R399, R500). -/
theorem exec_linkUp (hd : s.glb.dev ≠ .off) (hu : s.porch.up = false) (hp : s.pins.perst = false)
    (hm : linkMode rate width flit = true) : exec (.linkUp rate width flit) s = .next (
      let u := s.modPorch (·.trained rate width flit)
      if rate.toNat < 6 || width.toNat < 16 then u.porchErr Code.linkDegraded none else u) :=
  congrArg Host.Outcome.next (if_neg (by simp [dev_off hd, hu, hp, hm]))

theorem exec_linkUp_degraded (hd : s.glb.dev ≠ .off) (hu : s.porch.up = false) (hp : s.pins.perst = false)
    (hm : linkMode rate width flit = true) (hlow : rate.toNat < 6 ∨ width.toNat < 16) : exec (.linkUp rate width flit) s =
      .next ((s.modPorch (·.trained rate width flit)).porchErr Code.linkDegraded none) :=
  (exec_linkUp hd hu hp hm).trans (congrArg Host.Outcome.next (if_pos (by simpa using hlow)))

/-- A retrain in service is counted and logged (R421). -/
theorem exec_linkRecovery (h : s.porch.up = true) : exec .linkRecovery s =
    .next ((s.modPorch (fun p => { p with recoveries := satAdd p.recoveries 1 })).porchErr Code.linkRecovery none) :=
  congrArg Host.Outcome.next (if_neg (by simp [h]))

/-- The data of a poisoned write go nowhere: it is noted in configuration space and logged (R421). -/
theorem exec_hostPoisonedWrite (h : s.regsUp = true) :
    exec .hostPoisonedWrite s = .next ((s.modPorch (·.rxPoison false)).porchErr Code.rxPoison none) :=
  congrArg Host.Outcome.next (if_neg (by simp [h]))

end

/-- A poisoned write sets the bit of a poisoned TLP in AER (R421). -/
theorem rxPoison_aerUnc (p : Porch) : (p.rxPoison false).cfg.aerUnc.getLsbD 12 = true := by
  change (setBit p.cfg.aerUnc aerPoison).getLsbD 12 = true
  rw [getLsbD_setBit]
  simp [aerPoison]

/-- Settles O10: each event by its equation, and by what a host-interface code latches and leaves. -/
theorem linkEvents : Obligations.LinkEvents := by
  unfold Obligations.LinkEvents
  intro s rate width flit
  refine ⟨fun hd hu hp => exec_linkUp hd hu hp (by decide), fun hd hu hp hm hlow => ?degraded, fun h => ?recovery,
    fun h => ?poisoned⟩
  case degraded =>
    obtain ⟨hvalid, hcode, hhead, hframe⟩ := porchErr_latches (s.modPorch (·.trained rate width flit)) Code.linkDegraded none
    obtain ⟨hup, hrate, hwidth, -⟩ := porchErr_link (s.modPorch (·.trained rate width flit)) Code.linkDegraded none
    exact ⟨_, exec_linkUp_degraded hd hu hp hm hlow, hup, hrate, hwidth, hvalid, hcode, hhead, hframe⟩
  case recovery =>
    obtain ⟨hvalid, hcode, hhead, hframe⟩ :=
      porchErr_latches (s.modPorch fun p => { p with recoveries := satAdd p.recoveries 1 }) Code.linkRecovery none
    obtain ⟨-, -, -, hcount⟩ :=
      porchErr_link (s.modPorch fun p => { p with recoveries := satAdd p.recoveries 1 }) Code.linkRecovery none
    exact ⟨_, exec_linkRecovery h, hcount, hvalid, hcode, hhead, hframe⟩
  case poisoned =>
    obtain ⟨hvalid, hcode, hhead, hframe⟩ := porchErr_latches (s.modPorch (·.rxPoison false)) Code.rxPoison none
    exact ⟨_, exec_hostPoisonedWrite h, porchErr_unc _ _ _ 12 (rxPoison_aerUnc s.porch), hvalid, hcode, hhead, hframe⟩

/-! ## Requests that the device does not take -/

/-- The place in AER of an error for which a TLP is discarded (PRESUMED, log entry 123). -/
def aerBit : TlpError → Nat
  | .malformed => aerMalformed
  | .ecrc => aerEcrc
  | .flowControl => aerFcp
  | .dataLink => aerDlp
  | .overflow => aerOverflow

section
variable {s : State}

/-- A request that configuration space does not support is answered so; one to memory only while Memory Space Enable is 0
(R421). -/
theorem exec_unsupportedRequest (h : s.cfgUp = true) {k : UrKind} (hk : k = .memory → s.porch.cfg.mse = false) :
    exec (.unsupportedRequest k) s = .next { s with
      porch := s.porch.aerUnc aerUnsupported, out := s.out ++ [.unsupported] } := by
  have hmem : (k == .memory && s.porch.cfg.mse) = false := by
    cases k
    case memory => exact hk rfl
    all_goals rfl
  exact congrArg Host.Outcome.next (if_neg (by simp [h, hmem]))

/-- A discarded TLP leaves only its bit in AER (R421). -/
theorem exec_malformedTlp (h : s.cfgUp = true) (e : TlpError) :
    exec (.malformedTlp e) s = .next { s with porch := s.porch.aerUnc (aerBit e) } := by
  cases e <;> exact congrArg Host.Outcome.next (if_neg (by simp [h]))

/-- A read of a bad size or alignment returns zeros and is logged (R407). -/
theorem exec_barAccess (h : s.regsUp = true) {o n : Nat} (hbad : (n ≠ 4 ∧ n ≠ 8) ∨ o % n ≠ 0) :
    exec (.barAccess o n) s = .next ((s.answers n 0).porchErr Code.barAccess none) := by
  have hcond : ¬ (!s.regsUp || ((decide (n = 4) || decide (n = 8)) && decide (o % n = 0))) = true := by
    simp only [h, Bool.not_true, Bool.false_or, Bool.and_eq_true, Bool.or_eq_true, decide_eq_true_eq]
    omega
  exact congrArg Host.Outcome.next ((if_neg hcond).trans (by rw [reply_eq h]))

end

/-- Settles O11: each kind of error by its place in AER, and the bad read by what a host-interface code latches and leaves. -/
theorem refusedRequests : Obligations.RefusedRequests := by
  unfold Obligations.RefusedRequests
  intro s k e x o n
  refine ⟨fun h hk => exec_unsupportedRequest h hk, fun h hx => ⟨?discarded, rfl⟩, fun h hbad => ?access⟩
  case discarded =>
    have hbit : x = aerBit e := by
      simp only [List.mem_cons, Prod.mk.injEq, List.not_mem_nil, or_false] at hx
      obtain ⟨rfl, rfl⟩ | ⟨rfl, rfl⟩ | ⟨rfl, rfl⟩ | ⟨rfl, rfl⟩ | ⟨rfl, rfl⟩ := hx <;> rfl
    rw [hbit]
    exact exec_malformedTlp h e
  case access =>
    obtain ⟨hvalid, hcode, -, hframe⟩ := porchErr_latches (s.answers n 0) Code.barAccess none
    have hout : (s.answers n 0).out = s.out ++ [.cpl (List.replicate n 0) false] := by
      simp only [State.answers, leBytes_zero]
    exact ⟨_, exec_barAccess h hbad, (State.porchErr_out ..).trans hout, hvalid, hcode, by
      rw [State.porchErr_out]; exact hframe⟩

end Sys2Proof.Machine
end

section
/-!
Configuration space, and the loss of the host (R401, R405, R414, R415).
-/
namespace Sys2Proof.Machine

section
variable {s : State}

/-- A size that BAR4/5 reports is taken while Memory Space Enable is 0; it counts from 2^20 B (R405). -/
theorem exec_barSizeWrite (h : s.cfgUp = true) (hm : s.porch.cfg.mse = false) {k : BitVec 6} (h8 : 8 ≤ k.toNat)
    (h17 : k.toNat ≤ 17) : exec (.barSizeWrite k) s =
      .next (s.modCfg fun c => { c with barLog2 := k.toNat + 20, bar4 := 0 }) := by
  have hsize : s.barSize k.toNat = s.modCfg fun c => { c with barLog2 := k.toNat + 20, bar4 := 0 } := by
    refine if_neg ?_
    simp only [hm, Bool.false_or, Bool.or_eq_true, decide_eq_true_eq]
    omega
  exact congrArg Host.Outcome.next ((if_pos h).trans hsize)

/-! ## CONFIGURATION_WRITE -/

/-- The error bits are those of Status, in bytes 6 and 7, and of registers from 0x5A up; a write elsewhere leaves them. -/
theorem cfgErrors_out {o k : Nat} (v : Nat) (h : o + k ≤ 0x5A) (hst : o + k ≤ 6 ∨ 8 ≤ o) : s.cfgErrors (o, k, v) = s := by
  unfold State.cfgErrors
  dsimp only
  iterate 8 rw [cfgReg_out _ o k _ _ _ _ _ (by omega)]

/-- The control registers of the capabilities lie from 0x44 up. -/
theorem cfgControls_out {o k : Nat} (v : Nat) (h : o + k ≤ 0x44) : s.cfgControls (o, k, v) = s := by
  unfold State.cfgControls
  dsimp only
  iterate 7 rw [cfgReg_out _ o k _ _ _ _ _ (by omega)]

theorem bmeSet_on (h : s.porch.cfg.bme = true) : s.bmeSet = s := if_pos h

theorem bmeClear_off (h : s.porch.cfg.bme = false) : s.bmeClear = s := if_pos (by simp [h])

/-- Outside D3hot a write of the Command register that leaves Bus Master Enable takes the other bits (R401). -/
theorem cfgCommand_sameBme (hd : s.porch.cfg.d3 = false) {v : W32} (hb : s.porch.cfg.bme = v.getLsbD 2) :
    s.cfgCommand (v.toNat % 256 ^ 2) = s.modCfg fun c =>
      { c with mse := v.getLsbD 1, per := v.getLsbD 6, serr := v.getLsbD 8, intDis := v.getLsbD 10 } := by
  simp only [State.cfgCommand, field_bit v 1 (by decide), field_bit v 2 (by decide), field_bit v 6 (by decide),
    field_bit v 8 (by decide), field_bit v 10 (by decide)]
  rw [if_neg (by simp [hd])]
  cases hon : v.getLsbD 2
  · exact (if_neg Bool.false_ne_true).trans (bmeClear_off (hb.trans hon))
  · exact (if_pos rfl).trans (bmeSet_on (hb.trans hon))

/-- A write of the two bytes of the Command register reaches no other register. -/
theorem exec_configurationWrite_command (h : s.cfgUp = true) (v : W32) :
    exec (.configurationWrite 4 2 v) s = .next (s.cfgCommand (v.toNat % 256 ^ 2)) := by
  refine congrArg Host.Outcome.next ((if_neg (by simp [h])).trans ?_)
  dsimp only
  rw [cfgReg_out _ 4 2 _ 0x10 8 _ _ (by decide), cfgReg_out _ 4 2 _ 0x18 8 _ _ (by decide),
    cfgReg_out _ 4 2 _ 0x20 8 _ _ (by decide), cfgReg_out _ 4 2 _ 0x3C 1 _ _ (by decide),
    cfgErrors_out _ (by decide) (by decide), cfgControls_out _ (by decide), cfgReg_same _ _ 4 2 _ _ (by decide)]

/-- A write of the Interrupt Line reaches no other register. -/
theorem exec_configurationWrite_intLine (h : s.cfgUp = true) (v : W32) : exec (.configurationWrite 0x3C 1 v) s =
    .next (s.modCfg fun c => { c with intLine := BitVec.ofNat 8 v.toNat }) := by
  have hbyte : BitVec.ofNat 8 (v.toNat % 256 ^ 1) = BitVec.ofNat 8 v.toNat := BitVec.eq_of_toNat_eq (by simp)
  refine congrArg Host.Outcome.next ((if_neg (by simp [h])).trans ?_)
  dsimp only
  rw [cfgReg_out _ 0x3C 1 _ 0x10 8 _ _ (by decide), cfgReg_out _ 0x3C 1 _ 0x18 8 _ _ (by decide),
    cfgReg_out _ 0x3C 1 _ 0x20 8 _ _ (by decide), cfgReg_same _ _ 0x3C 1 _ _ (by decide),
    cfgErrors_out _ (by decide) (by decide), cfgControls_out _ (by decide), cfgReg_out _ 0x3C 1 _ 4 2 _ _ (by decide), hbyte]

/-! ## HOST_LOSS -/

/-- A latch of PORCH_ERR leaves all but PORCH_ERR (R423). -/
theorem porchLatch_form (s : State) (c : W32) (r : Option Nat) : ∃ v e p, s.porchLatch c r =
    s.modPorch fun q => { q with errValid := v, errCode := e, errPend := p } := by
  unfold State.porchLatch
  split
  · exact ⟨_, _, _, rfl⟩
  · exact ⟨_, _, _, rfl⟩

/-- Once the hold has lasted as long as it may, the host is lost, and that is FATAL (R415). -/
theorem exec_hostLoss (hh : s.porch.held = true) (hl : s.porch.lost = false)
    (hms : s.porch.hostlossMs.toNat ≤ s.porch.holdMs.toNat) : exec .hostLoss s = .next (
      ((s.modPorch fun p => { p with lost := true }).porchLatch Code.hostLoss none).fatal
        { status := Code.hostLoss, unit := 9 }) :=
  congrArg Host.Outcome.next (if_neg (by simp [hh, hl, Nat.not_lt.mpr hms]))

end

/-- Settles O13: the size, the two registers that a write reaches alone, and what a FATAL code leaves of a device that serves. -/
theorem configurationAndHostLoss : Obligations.ConfigurationAndHostLoss := by
  unfold Obligations.ConfigurationAndHostLoss
  intro s k v
  refine ⟨fun h hm h8 h17 => exec_barSizeWrite h hm h8 h17, fun h hd hb => ?command,
    fun h => exec_configurationWrite_intLine h v, fun hh hl hms hdev => ?loss⟩
  case command => exact (exec_configurationWrite_command h v).trans (congrArg Host.Outcome.next (cfgCommand_sameBme hd hb))
  case loss =>
    have hexec := exec_hostLoss hh hl hms
    obtain ⟨x, c, p, hlatch⟩ := porchLatch_form (s.modPorch fun p => { p with lost := true }) Code.hostLoss none
    rw [hlatch] at hexec
    obtain ⟨ow, u, k, dv, sx, b, views, hfatal⟩ := fatal_form
      (s := (s.modPorch fun p => { p with lost := true }).modPorch fun q => { q with errValid := x, errCode := c, errPend := p })
      hdev { status := Code.hostLoss, unit := 9 }
    rw [hfatal] at hexec
    exact ⟨_, hexec, rfl, rfl, rfl, rfl, rfl, rfl, rfl, rfl, rfl, rfl, rfl⟩

end Sys2Proof.Machine
end

section
/-!
The messages of the interrupts: INTx, and the MSI-X vectors that owe one (R416 to R419).
-/
namespace Sys2Proof.Machine

section
variable {s : State}

/-- A pending bit that the pin does not show yet asserts it (R419). -/
theorem exec_intxAssert (hs : s.silent = false) (hp : s.porch.intx ≠ 0) (hd : s.porch.cfg.intDis = false)
    (ha : s.porch.inta = false) : exec .intxAssert s = .next { s with
      porch := { s.porch with inta := true }, out := s.out ++ [.inta true] } :=
  congrArg Host.Outcome.next (if_pos (by rw [bne_iff_ne.mpr hp, hd, ha, hs]; rfl))

/-- A pin that no pending bit keeps up any more is released (R419). -/
theorem exec_intxDeassert (hs : s.silent = false) (hp : s.porch.intx = 0 ∨ s.porch.cfg.intDis = true)
    (ha : s.porch.inta = true) : exec .intxDeassert s = .next { s with
      porch := { s.porch with inta := false }, out := s.out ++ [.inta false] } := by
  have hdrop : (decide (s.porch.intx = 0) || s.porch.cfg.intDis) = true := by rwa [Bool.or_eq_true, decide_eq_true_eq]
  exact congrArg Host.Outcome.next (if_pos (by rw [hdrop, ha, hs]; rfl))

/-- The Porch once the message that vector `v` owed has been taken up. -/
def Porch.taken (p : Porch) (v : Nat) : Porch := { p with owed := clearBit p.owed v }

/-- A vector that owes a message, where INTx does not stand in for it, has it taken up (R417). -/
theorem exec_msixMessage {x : VectorId} (hs : s.silent = false) (ho : s.porch.owed.getLsbD x.toNat = true)
    (hi : s.intxMode = false) : exec (.msixMessage x) s = .next ((s.modPorch (·.taken x.toNat)).postMsi x.toNat) :=
  congrArg Host.Outcome.next ((if_neg (by simp [ho, hs])).trans (if_neg (by simp [hi])))

/-- The message of a masked vector is left pending (R417). -/
theorem postMsi_masked {v : Nat} (hi : s.intxMode = false)
    (hm : s.porch.cfg.funcMask = true ∨ (s.porch.entry v).masked = true) :
    s.postMsi v = s.modPorch fun p => { p with pba := setBit p.pba v } :=
  (if_neg (by simp [hi])).trans (if_pos (by simpa using hm))

end

/-- Settles O14: the pin by its two conditions, a vector's message by whether it is masked. -/
theorem interrupts : Obligations.Interrupts := by
  unfold Obligations.Interrupts
  intro s x hs
  refine ⟨exec_intxAssert hs, exec_intxDeassert hs, fun ho hc he => ?vector⟩
  have hi : s.intxMode = false := by simp [State.intxMode, hc, he]
  have hexec := exec_msixMessage hs ho hi
  refine ⟨fun hm => ?masked, fun hf hm hb ha => ?sent⟩
  case masked => exact hexec.trans (congrArg Host.Outcome.next (postMsi_masked (s := s.modPorch (·.taken x.toNat)) hi hm))
  case sent =>
    exact hexec.trans (congrArg Host.Outcome.next (postMsi_sends (t := s.modPorch (·.taken x.toNat)) hi hf hm hb hs ha))

end Sys2Proof.Machine
end

section
/-!
Device reads: whose data a completion brings, and the first failure of a read (R411 to R414).
-/
namespace Sys2Proof.Machine

/-! ## After a completion -/

/-- A read request that is issued, or waits for a tag, leaves the mailbox. -/
theorem issueRead_hearth (s : State) (w : ReadFor) (a : W64) (n o : Nat) (g : Bool) :
    (s.issueRead w a n o g).hearth = s.hearth := by
  unfold State.issueRead
  split <;> rfl

/-- Requests that are given the tags that came free leave the mailbox. -/
theorem pumpReads_hearth (s : State) : s.pumpReads.hearth = s.hearth := by
  unfold State.pumpReads
  split
  · rfl
  · refine foldl_keeps (g := State.hearth) (fun t h => ?_) _ _
    cases h with
    | read w a n off again => exact issueRead_hearth ..
    | write => rfl
    | msi => rfl

/-- With no action waiting for the mailbox and no request for a tag, nothing follows a completion or a timeout. -/
theorem pumpReads_afterMbox_none {t : State} (ha : t.hearth.actionWaits = none) (hb : t.porch.backlog = []) :
    t.pumpReads.afterMbox = t := by
  rw [pumpReads_none hb, afterMbox_none ha]

section
variable {s : State} {r : DevRead} (hfind : s.porch.reads.find? (fun q => q.tag == r.tag) = some r)
include hfind

/-! ## Completions -/

/-- The completion of a stale read is discarded (R414). -/
theorem readCompletion_stale (h : r.stale = true) (st : CplStatus) (d : List Byte) :
    s.readCompletion r.tag st d = s.modPorch (·.dropRead r.tag) := by
  unfold State.readCompletion
  rw [hfind]
  exact if_pos h

theorem readCompletion_good (h : r.stale = false) (d : List Byte) :
    s.readCompletion r.tag .sc d = (s.modPorch (·.dropRead r.tag)).takePiece r d := by
  unfold State.readCompletion
  rw [hfind]
  exact if_neg (by simp [h])

/-- The first poisoned completion is noted and counted, and the read goes out again (R412, R421). -/
theorem readCompletion_poisoned (h : r.stale = false) (hg : r.again = false) (d : List Byte) :
    s.readCompletion r.tag .poisoned d = ((s.modPorch (·.rxPoison true)).modPorch
      fun p => { p with retryPoison := satAdd p.retryPoison 1 }).retryRead r := by
  unfold State.readCompletion
  rw [hfind]
  exact (if_neg (by simp [h])).trans (if_neg (by simp [hg]))

/-- The first time that its timer runs out is noted and counted, and the read goes out again (R411, R412). -/
theorem readTimeout_first (h : r.stale = false) (hg : r.again = false) (ht : s.passed r.issued r.timer = true) :
    s.readTimeout r.tag = ((s.modPorch (·.aerUnc aerTimeout)).modPorch
      fun p => { p with retryTimeout := satAdd p.retryTimeout 1 }).retryRead r := by
  unfold State.readTimeout
  rw [hfind]
  exact (if_neg (by simp [h, ht])).trans (if_neg (by simp [hg]))

end

/-! ## The data of a read -/

/-- The only piece of a read is the whole of it, whatever its offset. -/
theorem joinParts_one (w : ReadFor) (o : Nat) (d : List Byte) : joinParts [(w, o, d)] = d := by
  simp [joinParts]

/-- Nothing else of what is read is outstanding, waiting, held or kept. -/
structure Porch.Alone (p : Porch) (w : ReadFor) : Prop where
  reads : ∀ q ∈ p.reads, q.what = w → q.stale = true
  backlog : p.backlog = []
  queue : ∀ h ∈ p.queue, h.isFor w = false
  parts : ∀ x ∈ p.parts, x.1 ≠ w

theorem Porch.Alone.awaits {p : Porch} {w : ReadFor} (h : p.Alone w) : p.awaits w = false := by
  have hreads : p.reads.any (fun q => q.what == w && !q.stale) = false := by
    simpa using h.reads
  have hqueue : p.queue.any (·.isFor w) = false := by simpa using h.queue
  unfold Porch.awaits
  rw [hreads, hqueue, h.backlog]
  rfl

/-- The data of a read's only request go to what it was issued for, cut or filled to the read's length (R399). -/
theorem takePiece_only {s : State} {r : DevRead} (h : s.porch.Alone r.what) (d : List Byte) :
    s.takePiece r d = s.deliverRead r.what (padTo r.len d) := by
  have hmine : s.porch.parts.filter (fun x => x.1 == r.what) = [] := by
    simpa [List.filter_eq_nil_iff] using h.parts
  have hothers : s.porch.parts.filter (fun x => x.1 != r.what) = s.porch.parts := by
    simpa [List.filter_eq_self] using h.parts
  unfold State.takePiece
  dsimp only
  rw [if_neg (by simp [h.awaits]), hmine, hothers, List.nil_append, joinParts_one]
  rfl

/-- Where nothing is recorded, the payload of a packet is given to it (R479). -/
theorem deliverRead_payload {s : State} (h : s.ras.recording = none) (g id : Nat) (d : List Byte) :
    s.deliverRead (.payload g id) d = s.modOp g id fun o => { o with payload := .arrived d } := by
  unfold State.deliverRead
  dsimp only
  rw [record_none h]

/-- The data of the one request of a payload read go to the packet (R412). -/
theorem readCompletion_payload {s : State} {r : DevRead} (hfind : s.porch.reads.find? (fun q => q.tag == r.tag) = some r)
    (hstale : r.stale = false) (halone : (s.porch.dropRead r.tag).Alone r.what) {g id : Nat} (hwhat : r.what = .payload g id)
    (hrec : s.ras.recording = none) (d : List Byte) : s.readCompletion r.tag .sc d =
      (s.modPorch (·.dropRead r.tag)).modOp g id fun o => { o with payload := .arrived (padTo r.len d) } := by
  rw [readCompletion_good hfind hstale, takePiece_only (s := s.modPorch (·.dropRead r.tag)) halone, hwhat,
    deliverRead_payload (s := s.modPorch (·.dropRead r.tag)) hrec]

/-! ## The first failure of a read -/

/-- `t` is `s` once the read `r` has given up its tag and gone out again under a new one (R412). -/
def State.Reissued (s t : State) (r : DevRead) : Prop :=
  t.porch.abandoned = s.porch.abandoned ++ [(r.tag, r.what.ring)] ∧
  t.out = s.out ++ [.read s.porch.nextTag r.addr r.len] ∧
  (∃ n : DevRead, t.porch.reads = s.porch.reads.filter (fun q => q.tag != r.tag) ++ [n] ∧ n.tag = s.porch.nextTag ∧
    n.what = r.what ∧ n.addr = r.addr ∧ n.len = r.len ∧ n.off = r.off ∧ n.again = true ∧ n.stale = false ∧
    n.issued = s.now) ∧
  t = { s with porch := t.porch, out := t.out, ras := t.ras }

/-- Requests go out at once, and no action or request waits for the end of a read. -/
structure State.Reissues (s : State) (r : DevRead) : Prop where
  found : s.porch.reads.find? (fun q => q.tag == r.tag) = some r
  fresh : r.stale = false
  first : r.again = false
  running : s.glb.stopped = false
  hosted : s.porch.lost = false
  master : s.porch.cfg.bme = true
  backlog : s.porch.backlog = []
  fits : s.porch.reads.length ≤ 512
  action : s.hearth.actionWaits = none

/-- The Porch with the error bits that a failure leaves in configuration space (R401, R421). -/
def Porch.noted (p : Porch) (u : W32) (d x : W16) : Porch :=
  { p with cfg := { p.cfg with aerUnc := u, devStatus := d, status := x } }

/-- However a failure has been noted in the error bits and counted, the read gives up its tag and goes out again, and nothing
follows. -/
theorem retryRead_reissued {s : State} {r : DevRead} (h : s.Reissues r) (u : W32) (d x a b : W16) :
    let noted := s.modPorch fun p => { p.noted u d x with retryPoison := a, retryTimeout := b }
    let t := (noted.retryRead r).pumpReads.afterMbox
    t.porch.retryPoison = a ∧ t.porch.retryTimeout = b ∧ s.Reissued t r := by
  intro noted t
  obtain ⟨_, _, _, _, _, _, _, _, _, _, hretry⟩ := retryRead_form (s := noted) (r := r) h.running h.hosted h.master
    (drop_tag_lt h.found 512 h.fits)
  have ht : t = noted.retryRead r :=
    pumpReads_afterMbox_none (by rw [hretry]; exact h.action) (by rw [hretry]; exact h.backlog)
  rw [ht, hretry]
  exact ⟨rfl, rfl, rfl, rfl, ⟨_, rfl, rfl, rfl, rfl, rfl, rfl, rfl, rfl, rfl⟩, rfl⟩

/-- A poisoned completion sends the read out again (R412). -/
theorem exec_deviceReadCompletion_poisoned {s : State} {r : DevRead} (h : s.Reissues r) (data : List Byte) :
    Gives (.deviceReadCompletion r.tag .poisoned data) s fun t => t.porch.retryPoison = satAdd s.porch.retryPoison 1 ∧
      t.porch.retryTimeout = s.porch.retryTimeout ∧ s.Reissued t r := by
  refine ⟨_, congrArg (fun t : State => Host.Outcome.next t.pumpReads.afterMbox)
    (readCompletion_poisoned h.found h.fresh h.first data), ?_⟩
  obtain ⟨u, d, x, hnoted⟩ := rxPoison_form s.porch true
  have hmod : s.modPorch (·.rxPoison true) = s.modPorch (·.noted u d x) := congrArg (fun p => { s with porch := p }) hnoted
  rw [hmod]
  exact retryRead_reissued h u d x _ _

/-- A timer that has run out sends the read out again (R411, R412). -/
theorem exec_completionTimeout {s : State} {r : DevRead} (h : s.Reissues r) (ht : s.passed r.issued r.timer = true) :
    Gives (.completionTimeout r.tag) s fun t => t.porch.retryTimeout = satAdd s.porch.retryTimeout 1 ∧
      t.porch.retryPoison = s.porch.retryPoison ∧ s.Reissued t r := by
  refine ⟨_, congrArg (fun t : State => Host.Outcome.next t.pumpReads.afterMbox)
    (readTimeout_first h.found h.fresh h.first ht), ?_⟩
  obtain ⟨u, d, x, hnoted⟩ := aerUnc_form s.porch aerTimeout
  have hmod : s.modPorch (·.aerUnc aerTimeout) = s.modPorch (·.noted u d x) :=
    congrArg (fun p => { s with porch := p }) hnoted
  rw [hmod]
  obtain ⟨hpoison, htimeout, hagain⟩ := retryRead_reissued h u d x s.porch.retryPoison (satAdd s.porch.retryTimeout 1)
  exact ⟨htimeout, hpoison, hagain⟩

/-- Settles O15: a stale completion, the data of a payload read, and the two first failures, which go out again alike. -/
theorem deviceReads : Obligations.DeviceReads := by
  unfold Obligations.DeviceReads
  intro s tag r d hfind haction rest
  obtain rfl := find_tag hfind
  refine ⟨fun hstale => ?stale, fun g id hwhat hstale _ hback hrec hreads hqueue hparts => ?data,
    fun hstale hagain hstop hlost hbme hback hlen => ?failed⟩
  case stale =>
    have hwaits : (s.modPorch (·.dropRead r.tag)).pumpReads.hearth.actionWaits = none := by
      rw [pumpReads_hearth]; exact haction
    calc exec (.deviceReadCompletion r.tag .sc d) s
        = .next (s.modPorch (·.dropRead r.tag)).pumpReads.afterMbox :=
          congrArg (fun t : State => Host.Outcome.next t.pumpReads.afterMbox) (readCompletion_stale hfind hstale _ _)
      _ = .next (s.modPorch (·.dropRead r.tag)).pumpReads := congrArg _ (afterMbox_none hwaits)
  case data =>
    have hgiven := readCompletion_payload hfind hstale ⟨hreads, hback, hqueue, hparts⟩ hwhat hrec d
    have hdone : (s.readCompletion r.tag .sc d).pumpReads.afterMbox = s.readCompletion r.tag .sc d :=
      pumpReads_afterMbox_none (by rw [hgiven, modOp_actionWaits]; exact haction)
        (by rw [hgiven, State.modOp_porch]; exact hback)
    exact congrArg Host.Outcome.next (hdone.trans hgiven)
  case failed =>
    have h : s.Reissues r := ⟨hfind, hstale, hagain, hstop, hlost, hbme, hback, hlen, haction⟩
    exact ⟨exec_deviceReadCompletion_poisoned h d, exec_completionTimeout h⟩

end Sys2Proof.Machine
end

section
/-!
The window of BAR4/5 below V (R404, R406, R407).
-/
namespace Sys2Proof.Machine

section
variable {s : State} {o : Nat}

/-- A read of bytes below V, none of them poisoned, returns them and no more (R406). -/
theorem exec_windowRead (h : s.regsUp = true) {n : Nat} (hbar : o + n ≤ 2 ^ s.porch.cfg.barLog2) (hv : o + n ≤ s.vBytes)
    (hp : s.poisoned o n = false) :
    exec (.windowRead o n) s = .next { s with out := s.out ++ [.cpl (s.hbmRead o n) false] } := by
  have hlow : min n (s.vBytes - o) = n := by omega
  refine congrArg Host.Outcome.next ((if_neg (by simp [h, hbar])).trans ?_)
  dsimp only
  rw [hlow, hp, Nat.sub_self, List.replicate_zero, List.append_nil, Bool.false_and, if_neg Bool.false_ne_true,
    if_neg (Nat.not_lt.mpr hv)]

/-- A write that ends below V is written as it is (R406). -/
theorem exec_windowWrite (h : s.regsUp = true) {d : List (Option Byte)} (hbar : o + d.length ≤ 2 ^ s.porch.cfg.barLog2)
    (hv : o + d.length ≤ s.vBytes) : exec (.windowWrite o d) s = .next (s.hbmWriteMasked o d) := by
  have htake : d.take (s.vBytes - o) = d := List.take_of_length_le (by omega)
  refine congrArg Host.Outcome.next ((if_neg (by simp [h, hbar])).trans ?_)
  dsimp only
  rw [htake, if_neg (Nat.not_lt.mpr hv)]

end

/-- An enabled byte of a masked write is stored at the address it names. -/
theorem byte_writeMasked_enabled {m : Memory} (h : Memory.wf m = true) {o a : Nat} {d : List (Option Byte)} {b : Byte}
    (ha : o ≤ a) (hb : d[a - o]? = some (some b)) : (m.writeMasked o d).byte a = b := by
  rw [Memory.byte_writeMasked _ _ _ h, if_neg (Nat.not_lt.mpr ha), List.getD_eq_getElem?_getD, hb]
  rfl

/-- Outside its range and at bytes not enabled, a masked write leaves memory as it was. -/
theorem byte_writeMasked_other {m : Memory} (h : Memory.wf m = true) {o a : Nat} {d : List (Option Byte)}
    (ha : a < o ∨ o + d.length ≤ a ∨ d[a - o]? = some none) : (m.writeMasked o d).byte a = m.byte a := by
  rw [Memory.byte_writeMasked _ _ _ h]
  split
  case isTrue => rfl
  case isFalse hge =>
    have hnone : d.getD (a - o) none = none := by
      rw [List.getD_eq_getElem?_getD]
      obtain hlt | hend | hoff := ha
      · exact absurd hlt hge
      · rw [List.getElem?_eq_none (by omega)]; rfl
      · rw [hoff]; rfl
    rw [hnone]
    rfl

/-- Settles O16: the bytes read, and each byte of memory after a write by whether the write enables it. -/
theorem windowAccess : Obligations.WindowAccess := by
  unfold Obligations.WindowAccess
  intro s o n d h hwf
  refine ⟨exec_windowRead h, fun hbar hv => ⟨_, exec_windowWrite h hbar hv, fun a ha _ b hb => ?enabled, fun a ha => ?other,
    Memory.writeMasked_wf o d hwf, rfl⟩⟩
  case enabled => exact byte_writeMasked_enabled hwf ha hb
  case other => exact byte_writeMasked_other hwf ha

end Sys2Proof.Machine
end

section
/-!
A device that is OFF stays OFF until its supplies come up (R498, R525, R526).
-/
namespace Sys2Proof.Machine

/-! ## What OFF looks at -/

/-- The parts of the state that `State.Dark` speaks of. -/
def State.work (s : State) :=
  (s.glb.dev, s.hearth.start, s.hearth.mbox, s.pins.pgIn, s.pending, s.plan, s.ring.ctx, s.video.streams, s.video.views,
    s.seqs.ents, s.track.parts, s.fab.cfg, s.ras.replay)

theorem State.Dark.congr {s t : State} (h : s.Dark) (e : t.work = s.work) : t.Dark := by
  simp only [State.work, Prod.mk.injEq] at e
  obtain ⟨hdev, hstart, hmbox, hpg, hpend, hplan, hctx, hstr, hview, hents, hparts, hcfg, hrep⟩ := e
  exact ⟨hdev ▸ h.dev, hstart ▸ h.start, hmbox ▸ h.mbox, hpg ▸ h.pgIn, hpend ▸ h.pending, hplan ▸ h.plan, hctx ▸ h.ctx,
    hstr ▸ h.streams, hview ▸ h.views, hents ▸ h.ents, hparts ▸ h.parts, hcfg ▸ h.cfg, hrep ▸ h.replay⟩

theorem append_replay (r : Ras) (b : List Byte) : (r.append b).replay = r.replay := by
  unfold Ras.append
  dsimp only
  split
  · rfl
  · split <;> rfl

/-! ## Operations that keep a device OFF -/

section
variable {s : State} (h : s.Dark)
include h

theorem State.Dark.modMem (f : Mem → Mem) : (s.modMem f).Dark := h.congr rfl
theorem State.Dark.modPorch (f : Porch → Porch) : (s.modPorch f).Dark := h.congr rfl
theorem State.Dark.modPwr (f : Pwr → Pwr) : (s.modPwr f).Dark := h.congr rfl
theorem State.Dark.modRoom (n : Nat) (f : Room → Room) : (s.modRoom n f).Dark := h.congr rfl
theorem State.Dark.memEvent (k n : Nat) : (s.memEvent k n).Dark := h.congr rfl
theorem State.Dark.modRing (r : Nat) (f : RingCtx → RingCtx) : (s.modRing r f).Dark :=
  h.congr (by simp [State.work, h.ctx, tmod])

theorem State.Dark.log (e : LogEntry) : (s.log e).Dark := by
  obtain ⟨_, _, _, _, _, b, hlog⟩ := log_form s e
  rw [hlog]
  exact h.congr (by simp only [State.work, append_replay])

theorem State.Dark.porchLatch (c : W32) (r : Option Nat) : (s.porchLatch c r).Dark := by
  unfold State.porchLatch
  split
  · exact h
  · exact h.congr rfl

theorem State.Dark.porchErr (c : W32) (r : Option Nat) : (s.porchErr c r).Dark := (h.porchLatch c r).log _

/-- A code of class FATAL is logged and stops nothing that runs. -/
theorem State.Dark.fatal (e : LogEntry) : (s.fatal e).Dark := by
  rw [State.fatal, if_neg (by simp [h.dev])]
  exact h.log _

theorem State.Dark.portEvent (p k n : Nat) : (s.portEvent p k n).Dark := by
  unfold State.portEvent
  split
  · exact h
  · exact h.memEvent k n

theorem State.Dark.issueRead (w : ReadFor) (a : W64) (n o : Nat) (g : Bool) : (s.issueRead w a n o g).Dark := by
  unfold State.issueRead
  split <;> exact h.congr rfl

theorem State.Dark.readPiece (w : ReadFor) (a : W64) (n o : Nat) (g : Bool) : (s.readPiece w a n o g).Dark :=
  h.congr (by simp [State.work])

theorem State.Dark.dataWrite (a : Nat) (b : List Byte) : (s.dataWrite a b).Dark := h.congr (by simp [State.work])

theorem State.Dark.record (k : Nat) (b : List Byte) : (s.record k b).Dark := by
  unfold State.record
  split
  · exact h
  · dsimp only
    split
    · exact h
    · split
      · exact (h.dataWrite _ _).congr rfl
      · split
        · exact (h.dataWrite _ _).congr rfl
        · exact h.congr rfl

theorem State.Dark.pumpReads : s.pumpReads.Dark := by
  unfold State.pumpReads
  split
  · exact h
  · refine List.foldlRecOn _ _ (h.modPorch _) fun t ht w _ => ?_
    cases w with
    | write a d o => exact ht
    | read w a n o g => exact ht.issueRead w a n o g
    | msi v => exact ht

theorem State.Dark.rebuildPool (n : Nat) : (s.rebuildPool n).Dark := by
  unfold State.rebuildPool
  split
  case h_1 => exact h
  case h_2 p _ =>
    split
    · exact h
    · dsimp only
      obtain ⟨m, hm⟩ := thread_form p (((List.range (p.fresh - p.first)).map (p.first + ·)).filter
        (fun i => !(s.larder.entry i).alloc)) s
      rw [hm]
      exact h.congr rfl

end

/-! ## Units at rest -/

section
variable {s : State} (h : s.Dark)
include h

theorem State.Dark.regsUp : s.regsUp = false := by simp [State.regsUp, h.dev]
theorem State.Dark.cfgUp : s.cfgUp = false := by simp [State.cfgUp, h.dev]
theorem State.Dark.working : s.working = false := by simp [State.working, h.dev]
theorem State.Dark.serving : s.serving = false := by simp [State.serving, h.dev]
theorem State.Dark.silent : s.silent = true := by simp [State.silent, h.dev]
theorem State.Dark.inst (n : Nat) : s.inst n = none := by simp [State.inst, h.plan, Plan.reset]
theorem State.Dark.job (n : Nat) : s.job n = none := by simp [State.job, h.plan, Plan.reset]
theorem State.Dark.ringCtx (r : Nat) : s.ringCtx r = none := by simp [State.ringCtx, h.ctx]
theorem State.Dark.stream (n : Nat) : s.stream n = none := by simp [State.stream, h.streams]
theorem State.Dark.view (n : Nat) : s.view n = none := by simp [State.view, h.views]
theorem State.Dark.onPipe (f : PicPhase → Bool) : s.onPipe f = [] := by simp [State.onPipe, h.streams]
theorem State.Dark.running (p : Nat) : s.running p = none := by simp [State.running, h.onPipe]

theorem State.Dark.opsOf (r : Nat) : s.opsOf r = [] := by
  unfold State.opsOf
  rw [h.mbox, h.ringCtx]
  split <;> rfl

/-- No ring and no mailbox offers a packet. -/
theorem State.Dark.withOp (src : Src) (op : Nat) (f : Op → State → State) : s.withOp src op f = s := by
  simp [State.withOp, State.nextOp, h.opsOf]

/-- No graph run has a task. -/
theorem State.Dark.withTask (n k : Nat) (f : TaskCtx → State) : s.withTask n k f = s := by
  simp [State.withTask, State.taskCtx, h.inst]

/-- The registers do not respond to reads. -/
theorem State.Dark.read (t : State) : (if !s.regsUp then s else t) = s := by simp [h.regsUp]

/-- The registers do not respond to writes. -/
theorem State.Dark.write (f : State → State) : s.hostWriteReg f = s := by simp [State.hostWriteReg, h.regsUp]

/-- No packet is there to finish. -/
theorem State.Dark.finish (r id : Nat) (c : W32) : (s.finish r id c).Dark := by
  simpa [State.finish, State.finishOp, State.findOp, h.opsOf] using h

theorem State.Dark.finishMbox (c : W32) : (s.finishMbox c).Dark := by simpa [State.finishMbox, h.mbox] using h

theorem State.Dark.modOp (r id : Nat) (f : Op → Op) : (s.modOp r id f).Dark := by
  unfold State.modOp
  split
  · exact h.congr (by simp [State.work, h.mbox])
  · exact h.modRing _ _

theorem State.Dark.applyAction (a : Byte) : s.applyAction a = s := by simp [State.applyAction, h.dev]

theorem State.Dark.afterMbox : s.afterMbox.Dark := by
  unfold State.afterMbox
  split
  case h_1 a _ _ =>
    have hw : (s.modHearth (fun h => { h with actionWaits := none })).Dark := h.congr rfl
    exact (hw.applyAction a).symm ▸ hw
  case h_2 => exact h

end

/-! ## Completions of device reads -/

section
variable {s : State} (h : s.Dark)
include h

theorem State.Dark.deliverRead (w : ReadFor) (d : List Byte) : (s.deliverRead w d).Dark := by
  cases w with
  | slot r => exact h.modRing _ _
  | rest r => exact h.modRing _ _
  | payload r id => exact (h.record 3 d).modOp _ _ _
  | mailbox => exact h.congr (by simp [State.deliverRead, State.work, h.mbox])

theorem State.Dark.takePiece (r : DevRead) (d : List Byte) : (s.takePiece r d).Dark := by
  unfold State.takePiece
  dsimp only
  split
  · exact h.modPorch _
  · exact (h.modPorch _).deliverRead _ _

theorem State.Dark.readFailed (r : DevRead) (c : W32) : (s.readFailed r c).Dark := by
  have ht : (s.modPorch (·.dropWhat r.what)).Dark := h.modPorch _
  unfold State.readFailed
  dsimp only
  split
  · exact ht.modRing _ _
  · exact ht.modRing _ _
  · exact (ht.modRing _ _).finish _ _ _
  · exact ht.finishMbox _

theorem State.Dark.readRejected (r : DevRead) : (s.readRejected r).Dark := by
  have ht : (s.modPorch (·.dropWhat r.what)).Dark := h.modPorch _
  unfold State.readRejected
  dsimp only
  split
  · exact ht.modRing _ _
  · exact ht.modRing _ _
  · exact ht.finish _ _ _
  · exact ht.finishMbox _

theorem State.Dark.retryRead (r : DevRead) : (s.retryRead r).Dark :=
  ((h.modPorch _).porchErr _ _).readPiece _ _ _ _ _

theorem State.Dark.readCompletion (tag : Nat) (st : CplStatus) (d : List Byte) : (s.readCompletion tag st d).Dark := by
  unfold State.readCompletion
  split
  case h_1 r _ =>
    split
    · exact h.modPorch _
    · cases st with
      | sc => exact (h.modPorch _).takePiece r d
      | ur => exact ((h.modPorch _).porchErr _ _).readRejected r
      | ca => exact ((h.modPorch _).porchErr _ _).readRejected r
      | poisoned =>
        dsimp only
        split
        · exact (((h.modPorch _).modPorch _).porchErr _ _).readFailed r _
        · exact ((h.modPorch _).modPorch _).retryRead r
  case h_2 =>
    dsimp only
    split
    · exact ((h.modPorch _).modPorch _).porchErr _ _
    · exact h.modPorch _

theorem State.Dark.readTimeout (tag : Nat) : (s.readTimeout tag).Dark := by
  unfold State.readTimeout
  split
  case h_1 => exact h
  case h_2 r _ =>
    split
    · exact h
    · dsimp only
      split
      · exact (((h.modPorch _).modPorch _).porchErr _ _).readFailed r _
      · exact ((h.modPorch _).modPorch _).retryRead r

end

/-! ## The memory controllers -/

section
variable {s : State} (h : s.Dark)
include h

theorem State.Dark.failRead (b n : Nat) : (s.failRead b n).Dark := (h.modMem _).log _

theorem State.Dark.passRead (e : MemRead) (b : List Byte) (d : Decoded) (n : Nat) : (s.passRead e b d n).Dark := by
  unfold State.passRead
  have hfix : (match d with
    | .fixed _ _ =>
      (s.modMem (fun m => { m.writeBack e b with ce := satAdd m.ce 1 })).log
        { status := Code.memCe, unit := 4, index := n, addr := 64 * e.block }
    | _ => s).Dark := by
    cases d with
    | fixed p v => exact (h.modMem _).log _
    | _ => exact h
  dsimp only
  split
  · exact (hfix.modMem _).log _
  · exact hfix

theorem State.Dark.pcCommand (n : Nat) : (s.pcCommand n).Dark := by
  unfold State.pcCommand
  dsimp only
  split
  · exact h.modMem _
  · exact h
  · have hfree (k : Nat) : ({ s with free := k } : State).Dark := h.congr rfl
    split
    · exact ((hfree _).modMem _).log _
    · exact ((hfree _).memEvent _ _).modMem _

end

/-! ## Retirements at the rate limit -/

section
variable {s : State} (h : s.Dark)
include h

/-- A position is lost; nothing runs on it. -/
theorem State.Dark.loseRoom (n : Nat) : (s.loseRoom n).Dark := by
  have hi : s.plan.insts = [] := by rw [h.plan]; rfl
  unfold State.loseRoom
  simp only [hi, List.filter_nil, List.flatMap_nil, List.foldl_nil]
  exact h.congr rfl

theorem State.Dark.substitute {n : Nat} {t : State} {b : Bool} (ht : s.substitute n = some (t, b)) : t.Dark := by
  unfold State.substitute at ht
  split at ht
  · exact absurd ht (by simp)
  · obtain ⟨rfl, -⟩ := Prod.mk.inj (Option.some.inj ht)
    exact h.congr rfl

theorem State.Dark.retireRoom (n : Nat) : (s.retireRoom n).Dark := by
  have hnone (f : Nat × Job → Bool) : s.plan.jobs.find? f = none := by rw [h.plan]; rfl
  have hras : ({ s with ras := { s.ras with cntRoom := tdel s.ras.cntRoom (s.physOf n) } } : State).Dark := h.congr rfl
  unfold State.retireRoom
  dsimp only
  rw [hnone]
  split
  · exact h
  · split
    case h_1 t lost ht => exact (hras.substitute ht).log _
    case h_2 => exact ((hras.log _).log _).loseRoom n

end
/-! ## Every command -/

theorem State.Dark.ite {c : Prop} [Decidable c] {t u : State} (ht : t.Dark) (hu : u.Dark) : (if c then t else u).Dark :=
  ite_ind State.Dark (fun _ => ht) (fun _ => hu)

theorem State.Dark.jobOfSpan {s : State} (h : s.Dark) (span : W32) : s.jobOfSpan span = none := by
  simp [State.jobOfSpan, h.job]

/-- Where the command answers a next state, the device is OFF there. -/
def KeepsOff (c : Instr) (s : State) : Prop := ∀ t, exec c s = .next t → t.Dark

theorem keepsOff_of {c : Instr} {s u : State} (e : exec c s = .next u) (hu : u.Dark) : KeepsOff c s :=
  fun _ ht => Host.Outcome.next.inj (e.symm.trans ht) ▸ hu

theorem keepsOff_same {c : Instr} {s u : State} (h : s.Dark) (e : exec c s = .next u) (hu : u = s) : KeepsOff c s :=
  keepsOff_of e (hu ▸ h)

/-- The supplies going down leave no work (R498, R532). -/
theorem State.goOff_dark (s : State) (h : Instr.pgInAssert ∉ s.pending) :
    ({ s.goOff with pins := { s.goOff.pins with pgIn := false } } : State).Dark :=
  ⟨rfl, rfl, rfl, rfl, h, rfl, rfl, rfl, rfl, rfl, rfl, rfl, rfl⟩

section
variable {s : State} (h : s.Dark)
include h

theorem State.Dark.perstAssert : KeepsOff .perstAssert s := by
  refine keepsOff_of rfl ?_
  dsimp only
  rw [if_pos (by simp [h.dev])]
  exact h.congr rfl

/-- Without supplies, PERST# going up starts nothing (R498). -/
theorem State.Dark.perstDeassert : KeepsOff .perstDeassert s := by
  refine keepsOff_of rfl (.ite (h.congr rfl) ?_)
  rw [if_pos (by simp [h.dev]), if_neg (by simp [h.pgIn])]
  exact h.congr rfl

theorem State.Dark.rateRetirement (unit : LadderUnit) : KeepsOff (.rateRetirement unit) s := by
  cases unit with
  | room n => exact keepsOff_of rfl (h.retireRoom _)
  | decPipe p => exact keepsOff_same h rfl (if_pos (by simp [h.working]))
  | encPipe p => exact keepsOff_same h rfl (if_pos (by simp [h.working]))
  | attic k => exact keepsOff_same h rfl (if_pos (by simp [h.working]))

theorem State.Dark.memReadRequest (p : MemPort) (a : Nat) : KeepsOff (.memReadRequest p a) s := by
  intro t ht
  dsimp only [exec, execMemReadRequest] at ht
  split at ht
  · exact Host.Outcome.next.inj ht ▸ h
  · split at ht
    · exact absurd ht (by simp)
    · exact Host.Outcome.next.inj ht ▸ (h.portEvent _ _ _).modMem _

theorem State.Dark.memWriteRequest (p : MemPort) (a : Nat) (d : List (Option Byte)) : KeepsOff (.memWriteRequest p a d) s := by
  intro t ht
  dsimp only [exec, execMemWriteRequest] at ht
  split at ht
  · exact Host.Outcome.next.inj ht ▸ h
  · split at ht
    · exact absurd ht (by simp)
    · exact Host.Outcome.next.inj ht ▸ (h.portEvent _ _ _).modMem _

theorem State.Dark.memReadReturn (pc : PcId) (errors : List (Nat × Byte)) : KeepsOff (.memReadReturn pc errors) s := by
  refine keepsOff_of rfl ?_
  dsimp only
  split
  · exact h
  · exact .ite h (.ite (.ite (((h.modMem _).failRead _ _).modMem _) (((h.modMem _).memEvent _ _).modMem _))
      (((h.modMem _).passRead _ _ _ _).modMem _))

theorem State.Dark.softRowRepair : KeepsOff .softRowRepair s := by
  refine keepsOff_of rfl ?_
  split
  · exact h
  · exact .ite h (.ite ((h.modMem _).log _) ((h.modMem _).modMem _))

theorem State.Dark.rowRepairDone (pc : PcId) (bank : BankId) : KeepsOff (.rowRepairDone pc bank) s := by
  refine keepsOff_of rfl ?_
  dsimp only
  split
  · exact h
  · exact .ite h ((h.modMem _).log _)

theorem State.Dark.pstateStepBegin : KeepsOff .pstateStepBegin s := by
  refine keepsOff_of rfl ?_
  split
  · exact h.modPwr _
  · exact h

theorem State.Dark.pstateStepEnd : KeepsOff .pstateStepEnd s := by
  refine keepsOff_of rfl ?_
  split
  · exact .ite h (h.modPwr _)
  · exact h

theorem State.Dark.keepsOff (c : Instr) (hc : c ≠ .pgInAssert) : KeepsOff c s := by
  cases c with
  | pgInAssert => exact absurd rfl hc
  | pgInDeassert => exact keepsOff_of rfl (s.goOff_dark h.pending)
  | ringCreate | ringDestroy | poolCreate | bufAlloc | bufFree | bufRef | graphLoad | graphUnload | graphRun | jobOpen | jobClose
  | jobPreempt | seqJoin | seqLeave | stepPolicy | streamOpen | streamData | streamClose | viewOpen | viewClose | captureData
  | dictLoad | trackPolicy | fabricJoin | collectiveCfg | recordStart | recordStop | replay =>
    exact keepsOff_same h rfl (h.withOp _ _ _)
  | nop | configure | query => exact keepsOff_of rfl ((h.withOp _ _ _).symm ▸ h).afterMbox
  | prefetchStart | taskStart | taskBodyEnd | taskCommit | roomFault | fabLate | ladderStep | tileClaim | claimRoundServe
  | tileClaimResend => exact keepsOff_same h rfl (h.withTask _ _ _)
  | msixVectorUnmask | intxPendClear | blockKeyWrite | adminRingsEnable | adminRingsDisable | ringSelWrite | seqSelWrite
  | larderPoolSelWrite | videoStreamSelWrite | captSrcSelWrite | trackSelWrite | fabPortSelWrite | rasLogSelWrite | roomActClear
  | roomQeventClear | viewCidxWrite | videoEgressWrite | mailboxGo | restartWarm | restartCold | drain | resume | maintEnter
  | maintExit | override => exact keepsOff_same h rfl (h.write _)
  | roomQclipSnapshot | ringOrphanRead | ringFaultRead | ringFaultInfoRead | planSlipRead | planRefuseRead | planDuptileRead
  | planPreemptRead | seqPauseEvtRead | seqSkipRead | seqStepErrRead
  | larderErrRead | larderDfreeRead | videoRefuseRead | videoSlowRead | videoConcealRead | videoViewDropRead | captCntRead
  | captDamageRead | trackDropRead | trackQdropRead | trackRejectRead | memFwdRead | memCeRead | memUeRead | memRegWaitRead
  | porchLinkRead | porchErrRead | porchRetryRead | fabErrRead | fabDropRead | rasLogLostRead | rasReplanRead | pwrDroopRead
  | hearthMboxStatRead | roomStoreRead | roomSatRead | roomFaultRead | hostPoisonedWrite => exact keepsOff_same h rfl (h.read _)
  | thermtripComparator | supplyFault | linkDown | droopDetect | modelDeviation | powerIntervalEnd | thermalSample | pllLossOfLock
  | hearthCrosscheckFail | memTempUpdate | laneRetrainDone | laneFailure | linkRekey | authComplete | authFail | frameTransmit
  | replayTimer | retryExhausted | lossOfLock | creditStall | slowRecovery | hostileDetect =>
    exact keepsOff_same h rfl (if_pos (by simp [h.dev]))
  | linkUp | admission | pipeFault | pictureAssign | larderRequest | domainFail | stepBuild | packetDispatch | busMasterEnableClear
  | busMasterEnableSet | configurationWrite | unsupportedRequest | malformedTlp | msixMessage | windowRead | windowWrite
  | barAccess => exact keepsOff_same h rfl (if_pos (by simp [h.dev, h.working, h.serving, h.cfgUp, h.regsUp, h.silent]))
  | powerStateWrite | barSizeWrite | intxAssert | intxDeassert | drainComplete =>
    exact keepsOff_same h rfl (if_neg (by simp [h.dev, h.cfgUp, h.silent]))
  | ringDestroyDone | metadataRecordWrite | packetFetch => exact keepsOff_same h rfl (by simp [h.ringCtx, State.fetch, State.writeMeta])
  | completionRecordWrite => exact keepsOff_same h rfl (by simp [h.opsOf])
  | jobCloseDone | jobResumeRestore | victimFreeze | switchStart | switchComplete | roomsReturn | stepCollect =>
    exact keepsOff_same h rfl (by simp [h.job])
  | preemptRequest | atticParity => exact keepsOff_same h rfl (by simp [h.inst, State.atticReader])
  | streamCloseDone | perFrameGraphSubmit | trackerUpdate => exact keepsOff_same h rfl (by simp [h.stream])
  | viewCloseDone | viewAuEncode => exact keepsOff_same h rfl (by simp [h.view])
  | blockRowBoundary | pictureAbandon | pictureReconstructed => exact keepsOff_same h rfl (by simp [h.running])
  | pictureContextSaved | pictureResume => exact keepsOff_same h rfl (by simp [h.onPipe, State.suspendedOn, highestClass])
  | spanFreeze | spanFreezeCut | spanThaw => exact keepsOff_same h rfl (by rw [h.jobOfSpan])
  | admissionComplete | entryReservation | semHoldLimit =>
    exact keepsOff_same h rfl (by simp [h.plan, Plan.reset, State.inOrder, firstInst])
  | spanConfigTimeout => exact keepsOff_same h rfl (by simp [h.cfg])
  | replayPacket => exact keepsOff_same h rfl (by simp [h.replay])
  | coldStart | warmStart | startStepFail | startComplete => exact keepsOff_same h rfl (by simp [h.start])
  | portSignalDetect | trainingLock => exact keepsOff_same h rfl (by simp [State.stepPort, h.dev])
  | portNoSignalTimeout | trainingTimeout => exact keepsOff_same h rfl (by simp [State.stepPort, h.dev])
  | frameReceive => exact keepsOff_same h rfl (by simp [State.receive, h.dev, settle_none h.cfg])
  | doorbellWrite => exact keepsOff_same h (if_pos (by simp [h.regsUp])) rfl
  | registerWrite => exact keepsOff_same h (if_pos (by simp [h.regsUp])) rfl
  | nakReceive p n => exact keepsOff_same h rfl (by cases (s.port p.toNat).place n <;> simp [h.dev])
  | transportGapTimeout src vc =>
    exact keepsOff_same h rfl (by cases tget s.fab.rx (tripleKey src vc.toNat) <;> simp [h.dev])
  | perstAssert => exact h.perstAssert
  | perstDeassert => exact h.perstDeassert
  | deviceReadCompletion => exact keepsOff_of rfl (h.readCompletion _ _ _).pumpReads.afterMbox
  | completionTimeout => exact keepsOff_of rfl (h.readTimeout _).pumpReads.afterMbox
  | hostLoss => exact keepsOff_of rfl (.ite h (((h.modPorch _).porchLatch _ _).fatal _))
  | linkRecovery => exact keepsOff_of rfl (.ite h ((h.modPorch _).porchErr _ _))
  | rateRetirement unit => exact h.rateRetirement unit
  | larderFreelistRebuild => exact keepsOff_of rfl (h.rebuildPool _)
  | memReadRequest p a => exact h.memReadRequest p a
  | memWriteRequest p a d => exact h.memWriteRequest p a d
  | memReadReturn pc errors => exact h.memReadReturn pc errors
  | softRowRepair => exact h.softRowRepair
  | rowRepairDone pc bank => exact h.rowRepairDone pc bank
  | portAdmit | activationThreshold | pageIdleTimeout => exact keepsOff_of rfl (h.modMem _)
  | pcCommandIssue => exact keepsOff_of rfl (.ite h ((h.pcCommand _).modMem _))
  | refreshInterval | laneParityLimit => exact keepsOff_of rfl (.ite h (h.modMem _))
  | patrolScrub => exact keepsOff_of rfl (.ite h ((h.portEvent _ _ _).modMem _))
  | pstateStepBegin => exact h.pstateStepBegin
  | pstateStepEnd => exact h.pstateStepEnd
  | droopEnd => exact keepsOff_of rfl (h.modPwr _)
  | domainOffTimer d => exact keepsOff_of rfl (.ite h (.ite (h.congr rfl) (h.modPwr _)))
  | rateWindowEnd => exact keepsOff_of rfl (.ite h (h.congr rfl))

theorem State.Dark.tick : s.tick = s := if_pos (by simp [h.dev])

end

/-- Settles O58: without a command no beat counts, and every command but PG_IN_ASSERT, which does not wait, keeps the device OFF. -/
theorem offStaysOff : Obligations.OffStaysOff := by
  unfold Obligations.OffStaysOff
  intro s t h hstep
  unfold step at hstep
  split at hstep
  case h_1 => exact Host.Outcome.next.inj hstep ▸ h.tick.symm ▸ h
  case h_2 c rest hp =>
    obtain ⟨hc, hrest⟩ := List.ne_and_not_mem_of_not_mem_cons (hp ▸ h.pending)
    exact State.Dark.keepsOff (s := { s with pending := rest }) { h with pending := hrest } c hc.symm t hstep

/-- Settles O59. -/
theorem resetIsOff : Obligations.ResetIsOff := by
  unfold Obligations.ResetIsOff
  exact ⟨⟨rfl, rfl, rfl, rfl, by simp [State.reset], rfl, rfl, rfl, rfl, rfl, rfl, rfl, rfl⟩, rfl,
    fun s h => ⟨_, rfl, s.goOff_dark h⟩⟩

/-- Settles O60: a command stands at the front of the queue. -/
theorem stepRunsFrontCommand : Obligations.StepRunsFrontCommand := by
  unfold Obligations.StepRunsFrontCommand
  intro c rest s
  rfl

end Sys2Proof.Machine
end

section
/-!
Ports of the fabric: training, authentication, stalls, and the frames of a port that leaves UP (R425 to R435, R442).
-/
namespace Sys2Proof.Machine

/-- The state with port `p` replaced. -/
def State.setPort (s : State) (p : Nat) (q : Port) : State := { s with fab := { s.fab with ports := s.fab.ports.set p q } }

theorem fabErr_fab (s : State) (port : Nat) (code : W32) (ctx : Nat) : (s.fabErr port code ctx).fab = (if s.fab.errValid then s.fab
    else { s.fab with errValid := true, errPort := BitVec.ofNat 3 port, errCode := Code.low code }) := by
  unfold State.fabErr
  rw [State.log_fab]
  split <;> rfl

theorem fabErr_head (s : State) (port : Nat) (code : W32) (ctx : Nat) : (s.fabErr port code ctx).ras.head = s.ras.head + 1 := by
  unfold State.fabErr
  rw [log_head]
  split <;> rfl

theorem FabOnly.eq {s t : State} (h : FabOnly s t) : t = { s with fab := t.fab, ras := t.ras, porch := t.porch } := by
  obtain ⟨f, p, r, rfl⟩ := h
  rfl

section
variable {s : State} {p : PortId} {q : Port} (hd : s.glb.dev ≠ .off) (hq : s.fab.ports[p.toNat]? = some q)

/-- A command that needs a live device and a condition on its port, and then changes the port alone. -/
theorem guarded_modPort (hd : s.glb.dev ≠ .off) (hq : s.fab.ports[p.toNat]? = some q) {c : Bool} (hc : c = false) (f : Port → Port) :
    (if s.glb.dev == .off || c then s else s.modPort p.toNat f) = s.setPort p.toNat (f q) := by
  rw [dev_off hd, hc, if_neg (by simp), modPort_eq hq]
  rfl

theorem linked_iff : q.linked = true ↔ q.state = .up ∨ q.state = .slow := by simp [Port.linked]

/-! ## Training -/

include hd hq

theorem exec_portSignalDetect (h : q.state = .down) :
    exec (.portSignalDetect p) s = .next (s.setPort p.toNat { q with state := .training, since := s.now }) :=
  congrArg Host.Outcome.next (stepPort_eq hd hq h id)

theorem exec_portNoSignalTimeout (h : q.state = .down) (ht : s.passed q.since (100 * 150000) = true) :
    exec (.portNoSignalTimeout p) s = .next (s.setPort p.toNat { q with since := s.now }) := by
  have hstood : s.stood p.toNat 100 = true := by rw [State.stood, port_eq hq]; exact ht
  refine congrArg Host.Outcome.next ((if_pos hstood).trans ?_)
  rw [stepPort_eq hd hq h id, ← h]
  rfl

theorem exec_trainingLock (h : q.state = .training) :
    exec (.trainingLock p) s = .next (s.setPort p.toNat { q with state := .auth, since := s.now }) :=
  congrArg Host.Outcome.next (stepPort_eq hd hq h id)

theorem exec_trainingTimeout (h : q.state = .training) (ht : s.passed q.since (50 * 150000) = true) :
    exec (.trainingTimeout p) s = .next (s.setPort p.toNat
      { q with state := .down, since := s.now, fails := satAdd q.fails 1, retrain := false }) := by
  have hstood : s.stood p.toNat 50 = true := by rw [State.stood, port_eq hq]; exact ht
  exact congrArg Host.Outcome.next ((if_pos hstood).trans (stepPort_eq hd hq h _))

omit hd in
theorem exec_trainingTimeout_early (ht : ¬ s.passed q.since (50 * 150000) = true) : exec (.trainingTimeout p) s = .next s := by
  have hstood : ¬ s.stood p.toNat 50 = true := by rw [State.stood, port_eq hq]; exact ht
  exact congrArg Host.Outcome.next (if_neg hstood)

theorem exec_laneFailure_spare (h : q.state ∈ [PortState.training, .auth, .up, .slow]) (hsp : q.spared = false) :
    exec (.laneFailure p) s = .next
      ((s.setPort p.toNat { q with spared := true, retrain := true }).fabErr p.toNat Code.laneSpared 0) := by
  have hlive : (q.linked || q.state == .training || q.state == .auth) = true := by
    simp only [List.mem_cons, List.not_mem_nil, or_false] at h
    obtain h | h | h | h := h <;> simp [Port.linked, h]
  simp only [exec, execLaneFailure, port_eq hq, dev_off hd, hlive, hsp, modPort_eq hq]
  rfl

theorem exec_laneRetrainDone : exec (.laneRetrainDone p) s = .next (s.setPort p.toNat { q with retrain := false }) := by
  refine congrArg Host.Outcome.next ((if_neg (by simp [dev_off hd])).trans (modPort_eq hq _))

/-! ## Keys and stalls -/

theorem exec_linkRekey (h : q.state = .up ∨ q.state = .slow) :
    exec (.linkRekey p) s = .next (s.setPort p.toNat { q with reauth := true }) :=
  congrArg Host.Outcome.next (guarded_modPort hd hq (by rw [port_eq hq, linked_of h]; rfl) _)

omit hd hq in
theorem stalled_iff {v : Nat} : s.stalled q v = true ↔
    q.credits.getD v 0 = 0 ∧ s.passed (q.zeroAt.getD v 0) (s.fab.stallMs.toNat * 150000) = true := by
  rw [State.stalled, Bool.and_eq_true, decide_eq_true_iff]
  rfl

theorem exec_creditStall {vc : Vc} (h : q.state = .up) (hs : s.stalled q vc.toNat = true) : exec (.creditStall p vc) s = .next
    ((s.setPort p.toNat { q with state := .slow, since := s.now }).fabErr p.toNat Code.routeAlt 0) := by
  simp only [exec, execCreditStall, port_eq hq, dev_off hd, h, hs, modPort_eq hq]
  rfl

theorem exec_slowRecovery (h : q.state = .slow) (hs : ∀ v, v < 4 → ¬ s.stalled q v = true)
    (hb : s.passed q.backAt (10 * ticksPerMs) = true) :
    exec (.slowRecovery p) s = .next (s.setPort p.toNat { q with state := .up, since := s.now }) := by
  have hany : (List.range 4).any (s.stalled q) = false := by
    rw [List.any_eq_false]
    exact fun v hv => hs v (List.mem_range.mp hv)
  have hguard : (s.glb.dev == .off || (s.port p.toNat).state != .slow || (List.range 4).any (s.stalled (s.port p.toNat)) ||
      !s.passed (s.port p.toNat).backAt (10 * ticksPerMs)) = false := by
    rw [port_eq hq, dev_off hd, h, hany, hb]
    rfl
  refine congrArg Host.Outcome.next ((if_neg (by rw [hguard]; exact Bool.false_ne_true)).trans (modPort_eq hq _))

theorem exec_authComplete_again {h : Hello} (hl : q.state = .up ∨ q.state = .slow) (hr : q.reauth = true) :
    exec (.authComplete p h) s = .next (s.setPort p.toNat { q with
      partner := h.addr, partnerPort := h.port, partnerSerial := h.serial, partnerTable := h.tableCrc
      keyed := true, reauth := false, txWraps := 0 }) := by
  simp only [exec, execAuthComplete, port_eq hq, dev_off hd, linked_of hl, hr, modPort_eq hq]
  rfl

end

/-! ## A port comes UP -/

/-- Frames that came by port `n` no longer hold a place in its receive buffer. -/
def Port.forget (n : Nat) (x : Port) : Port :=
  { x with queue := x.queue.map (fun e => if e.table = n then { e with owes := false } else e) }

theorem forget_frames (n : Nat) (x : Port) : (x.forget n).queue.map (·.frame) = x.queue.map (·.frame) := by
  rw [Port.forget, List.map_map]
  refine List.map_congr_left fun e _ => ?_
  simp only [Function.comp_apply]
  split <;> rfl

/-- The HELLO that goes out first. -/
def State.helloFrame (s : State) (p : Nat) (dst : Byte) : Queued :=
  { table := 8, owes := false, frame := { s.fab.frame ftCtrl vcControl dst [] (.hello (s.hello p)) with ttl := 15 } }

/-- A port that has authenticated. -/
def State.upPort (s : State) (p : Nat) (h : Hello) (q : Port) : Port :=
  { ((q.forget p).fresh [s.helloFrame p h.addr]).meet h with state := .up, since := s.now }

theorem exec_authComplete_up {s : State} {p : PortId} {q : Port} {h : Hello} (hd : s.glb.dev ≠ .off)
    (hq : s.fab.ports[p.toNat]? = some q) (ha : q.state = .auth) : exec (.authComplete p h) s = .next
      { s with fab := { s.fab with
          ports := (s.fab.ports.map (Port.forget p.toNat)).set p.toNat (s.upPort p.toNat h q) } } := by
  have hlinked : q.linked = false := by simp [Port.linked, ha]
  have hq' : (s.modFab (fun f => { f with ports := f.ports.map (Port.forget p.toNat) })).fab.ports[p.toNat]? =
      some (q.forget p.toNat) := by simp [hq]
  simp only [exec, execAuthComplete, port_eq hq, dev_off hd, hlinked, ha]
  exact congrArg Host.Outcome.next (modPort_eq hq' _)

/-! ## A port leaves UP -/

section
variable {s : State} {p : PortId} {q : Port} (hd : s.glb.dev ≠ .off) (hq : s.fab.ports[p.toNat]? = some q)

/-- The state in which port `p` has left UP for good, before its frames are rerouted. -/
def State.gonePort (s : State) (p : Nat) (q : Port) (dest : PortState) (erase : Bool) : State :=
  s.setPort p { q with
    state := dest, since := s.now, keyed := q.keyed && !erase, reauth := false, retrain := false, unacked := [], queue := []
    resends := 0 }

omit hd in
include hq in
/-- A command whose guard is met takes its port down and reports it. -/
theorem guarded_takeDown {t : State} {g : Bool} (hg : g = false) (dest : PortState) (erase : Bool) (code : W32) :
    (if g then t else (s.takeDown p.toNat dest erase).fabErr p.toNat code 0) =
      ((s.gonePort p.toNat q dest erase).reroute (q.unacked ++ q.queue)).fabErr p.toNat code 0 := by
  rw [hg, if_neg Bool.false_ne_true, takeDown_eq hq]
  rfl

include hd hq

theorem exec_lossOfLock (h : q.state = .up ∨ q.state = .slow) : exec (.lossOfLock p) s = .next
    (((s.gonePort p.toNat q .down false).reroute (q.unacked ++ q.queue)).fabErr p.toNat Code.linkPortDown 0) :=
  congrArg Host.Outcome.next (guarded_takeDown hq (by rw [port_eq hq, dev_off hd, linked_of h]; rfl) _ _ _)

theorem exec_retryExhausted (h : q.state = .up ∨ q.state = .slow) (hr : 8 ≤ q.resends) (hu : q.unacked ≠ []) :
    exec (.retryExhausted p) s = .next
      (((s.gonePort p.toNat q .down false).reroute (q.unacked ++ q.queue)).fabErr p.toNat Code.linkPortDown 0) := by
  have hlimit : decide (q.resends < resendLimit) = false := decide_eq_false (Nat.not_lt.mpr hr)
  have hempty : q.unacked.isEmpty = false := List.isEmpty_eq_false_iff.mpr hu
  exact congrArg Host.Outcome.next
    (guarded_takeDown hq (by rw [port_eq hq, dev_off hd, linked_of h, hlimit, hempty]; rfl) _ _ _)

theorem exec_laneFailure_second (hsp : q.spared = true)
    (h : (q.state = .up ∨ q.state = .slow) ∨ q.state = .training ∨ q.state = .auth) : exec (.laneFailure p) s = .next
      (((s.gonePort p.toNat q .failed true).reroute (q.unacked ++ q.queue)).fabErr p.toNat Code.linkPortDown 0) := by
  have hlive : (q.linked || q.state == .training || q.state == .auth) = true := by
    obtain h | h | h := h
    · simp [linked_of h]
    · simp [h]
    · simp [h]
  refine congrArg Host.Outcome.next ((if_neg ?_).trans (guarded_takeDown hq ?_ _ _ _))
  · rw [port_eq hq, dev_off hd, hlive]
    exact Bool.false_ne_true
  · rw [port_eq hq, hsp]
    rfl

theorem exec_authFail (h : q.state = .auth ∨ (q.state = .up ∨ q.state = .slow) ∧ q.reauth = true) :
    exec (.authFail p) s = .next
      (((s.gonePort p.toNat q .quarantined true).reroute (q.unacked ++ q.queue)).fabErr p.toNat Code.partnerQuarantined 0) := by
  have hlive : (q.state == .auth || (q.linked && q.reauth)) = true := by
    obtain h | ⟨h, hr⟩ := h
    · simp [h]
    · simp [linked_of h, hr]
  exact congrArg Host.Outcome.next (guarded_takeDown hq (by rw [port_eq hq, dev_off hd, hlive]; rfl) _ _ _)

theorem exec_hostileDetect {cause : HostileCause} (h : q.state = .up ∨ q.state = .slow) (hc : s.hostile q cause = true) :
    exec (.hostileDetect p cause) s = .next
      (((s.gonePort p.toNat q .quarantined true).reroute (q.unacked ++ q.queue)).fabErr p.toNat Code.partnerQuarantined 0) :=
  congrArg Host.Outcome.next (guarded_takeDown hq (by rw [port_eq hq, dev_off hd, linked_of h, hc]; rfl) _ _ _)

end

/-- A frame without a route is dropped. -/
theorem reroute_lost {s : State} {e : Queued} (hp : s.fab.pick (s.fab.route1 e.table e.frame.dst) = none) (ho : e.owes = false) :
    s.reroute [e] =
      ({ s with fab := { s.fab with route := satAdd s.fab.route 1 } }).fabErr 0 Code.pathLost e.frame.dst.toNat := by
  simp only [State.reroute, hp, ho, Bool.false_eq_true, if_false]
  rfl

theorem up_port_queue {s : State} {p : PortId} {i : Nat} {x u : Port} (hi : i ≠ p.toNat) (hx : s.fab.ports[i]? = some x) :
    ∃ y, ((s.fab.ports.map (Port.forget p.toNat)).set p.toNat u)[i]? = some { x with queue := y } ∧
      y.map (·.frame) = x.queue.map (·.frame) := by
  rw [List.getElem?_set_ne hi.symm, List.getElem?_map, hx]
  exact ⟨_, rfl, forget_frames p.toNat x⟩

/-- Settles O50: each event by its own equation above, and rerouting by the port its frames go to. -/
theorem fabricPorts : Obligations.FabricPorts := by
  unfold Obligations.FabricPorts
  refine ⟨fun s p q hd hq => ⟨fun h => exec_portSignalDetect hd hq h, fun h ht => exec_portNoSignalTimeout hd hq h ht,
    fun h => exec_trainingLock hd hq h, fun h ht => exec_trainingTimeout hd hq h ht, fun ht => exec_trainingTimeout_early hq ht,
    fun h hsp => exec_laneFailure_spare hd hq h hsp, exec_laneRetrainDone hd hq, fun h => exec_linkRekey hd hq h,
    fun vc h hs => exec_creditStall hd hq h (stalled_iff.mpr hs),
    fun h hs hb => exec_slowRecovery hd hq h (fun v hv hst => hs v hv (stalled_iff.mp hst)) hb,
    fun h hl hr => exec_authComplete_again hd hq hl hr, fun h ha => ⟨_, exec_authComplete_up hd hq ha, ?up, ?others, rfl⟩⟩,
    fun s port code ctx => ⟨fabErr_fab s port code ctx, fabErr_head s port code ctx, (FabOnly.fabErr s port code ctx).eq⟩,
    fun s p q hd hq => ⟨fun h => exec_lossOfLock hd hq h, fun h hr hu => exec_retryExhausted hd hq h hr hu,
      fun hsp h => exec_laneFailure_second hd hq hsp ?lanes, fun h => exec_authFail hd hq h,
      fun h hf => exec_hostileDetect hd hq h hf, fun h ht => exec_hostileDetect hd hq h (decide_eq_true ht),
      fun h hn => exec_hostileDetect hd hq h (decide_eq_true hn)⟩,
    fun s fs r x alt hx hp => reroute_one fs s r x alt hx hp, fun s e hp ho => reroute_lost hp ho⟩
  case up =>
    have hlen : p.toNat < (s.fab.ports.map (Port.forget p.toNat)).length := by
      rw [List.length_map]
      exact (List.getElem?_eq_some_iff.mp hq).1
    exact ⟨s.upPort p.toNat h q, s.helloFrame p.toNat h.addr, List.getElem?_set_self hlen, rfl, rfl, rfl, rfl, rfl, rfl, rfl,
      rfl, rfl, rfl, rfl, rfl, rfl, rfl, rfl, rfl, rfl, rfl, rfl, rfl, rfl, rfl, rfl⟩
  case others => exact fun i x hi hx => up_port_queue hi hx
  case lanes => exact h

end Sys2Proof.Machine
end

section
/-!
Frames that leave a port of the fabric (R428 to R431).
-/
namespace Sys2Proof.Machine

theorem frameEnergy_form (s : State) (e : Queued) : ∃ w, s.frameEnergy e = { s with pwr := w } ∧ w.aclk = s.pwr.aclk := by
  unfold State.frameEnergy
  dsimp only
  split <;> exact ⟨_, rfl, rfl⟩

/-- A port after the first sending of entry `e`, which has left its queue. -/
def Port.sentFirst (q : Port) (vc : Nat) (e : Queued) (rest : List Queued) (now : W64) : Port :=
  let f := q.stamp vc { e.frame with lseq := q.txSeq }
  let c := q.credits.getD vc 0 - 1
  { q with
    queue := rest, unacked := q.unacked ++ [{ e with frame := f }], sent := q.sent ++ [f]
    txSeq := q.txSeq + 1, txWraps := if q.txSeq = 0xFFFFFFFF then q.txWraps + 1 else q.txWraps
    owed := lmod q.owed vc (fun n => n - min 255 n)
    credits := if e.frame.ftype = ftData then lset q.credits vc c else q.credits
    zeroAt := if e.frame.ftype = ftData ∧ c = 0 then lset q.zeroAt vc now else q.zeroAt
    progressAt := if q.unacked = [] then now else q.progressAt }

/-- What the model does to the port, as one record. -/
theorem sentFirst_eq {q : Port} {e : Queued} (ho : e.owes = false) (vc : Nat) (rest : List Queued) (now : W64) :
    (let f := q.stamp vc { e.frame with lseq := q.txSeq }
     let x := q.paid vc
     let x := if f.ftype = ftData then x.takeCredit vc now else x
     let x := if x.unacked.isEmpty then { x with progressAt := now } else x
     { x with queue := rest, unacked := x.unacked ++ [{ e with owes := false, frame := f }], sent := x.sent ++ [f]
              txSeq := x.txSeq + 1, txWraps := if x.txSeq = 0xFFFFFFFF then x.txWraps + 1 else x.txWraps }) =
      q.sentFirst vc e rest now := by
  obtain ⟨table, owes, frame⟩ := e
  subst ho
  dsimp only [Port.sentFirst, Port.paid, Port.takeCredit, Port.stamp]
  simp only [List.isEmpty_iff]
  by_cases hdata : frame.ftype = ftData
  · simp only [hdata, if_true, true_and]
    by_cases hu : q.unacked = []
    · simp only [hu, if_true]
    · simp only [hu, if_false]
  · simp only [hdata, if_false, false_and]
    by_cases hu : q.unacked = []
    · simp only [hu, if_true]
    · simp only [hu, if_false]

section
variable {s : State} {p : PortId} {q : Port}

/-- An entry that holds a place in a receive buffer gives it back and goes out as one that holds none. -/
theorem sendFirst_owes {e : Queued} (ho : e.owes = true) (n vc : Nat) (rest : List Queued) : s.sendFirst n vc e rest =
    (s.leaveBuffer e.table vc).sendFirst n vc { e with owes := false } rest := by
  simp only [State.sendFirst, ho, if_true, Bool.false_eq_true, if_false]
  rfl

theorem modPort_setPort {n : Nat} (hq : s.fab.ports[n]? = some q) (f : Port → Port) : s.modPort n f = s.setPort n (f q) :=
  modPort_eq hq f

theorem sendFirst_eq (hq : s.fab.ports[p.toNat]? = some q) {e : Queued} (ho : e.owes = false) (vc : Nat) (rest : List Queued) :
    s.sendFirst p.toNat vc e rest =
      (if e.frame.ftype = ftData then s.frameEnergy e else s).setPort p.toNat (q.sentFirst vc e rest s.now) := by
  obtain ⟨w, hw, hclk⟩ := frameEnergy_form s e
  have hnow : (if e.frame.ftype = ftData then s.frameEnergy e else s).now = s.now := by
    split
    · rw [hw]
      exact hclk
    · rfl
  have hq' : (if e.frame.ftype = ftData then s.frameEnergy e else s).fab.ports[p.toNat]? = some q := by
    split
    · rw [hw]
      exact hq
    · exact hq
  simp only [State.sendFirst, ho, Bool.false_eq_true, if_false]
  rw [modPort_setPort hq', hnow]
  exact congrArg _ (sentFirst_eq ho vc rest s.now)

section
variable (hd : s.glb.dev ≠ .off) (hq : s.fab.ports[p.toNat]? = some q) (ho : q.open_ = true)
include hd hq ho

theorem exec_frameTransmit_first {vc : Vc} {e : Queued} {rest : List Queued} (ht : takeVc vc.toNat q.queue = some (e, rest))
    (hroom : q.unacked.length < 512) (hcr : e.frame.ftype = ftData → q.credits.getD vc.toNat 0 ≠ 0) :
    exec (.frameTransmit p vc) s = .next (s.sendFirst p.toNat vc.toNat e rest) := by
  have hstop : ¬ (decide (retryDepth ≤ q.unacked.length) ||
      decide (e.frame.ftype = ftData) && decide (q.credits.getD vc.toNat 0 = 0)) = true := by
    simp only [Bool.or_eq_true, Bool.and_eq_true, decide_eq_true_eq, not_or, not_and]
    exact ⟨Nat.not_le.mpr hroom, hcr⟩
  simp only [exec, execFrameTransmit, port_eq hq, dev_off hd, ho, ht]
  exact congrArg Host.Outcome.next (if_neg hstop)

theorem exec_frameTransmit_idle {vc : Vc} (hnone : q.queue = []) : exec (.frameTransmit p vc) s =
    .next (s.setPort p.toNat { q.paid vc.toNat with
      sent := q.sent ++ [q.stamp vc.toNat (s.fab.frame ftIdle vc.toNat q.partner [] .none)] }) := by
  simp only [exec, execFrameTransmit, port_eq hq, dev_off hd, ho, hnone, takeVc]
  exact congrArg Host.Outcome.next (modPort_setPort hq _)

theorem exec_replayTimer (hun : q.unacked ≠ []) (hre : q.resends < resendLimit) (ht : s.passed q.progressAt 300 = true) :
    exec (.replayTimer p) s = .next (s.setPort p.toNat (q.resend s.now)) := by
  have hguard : (s.glb.dev == .off || !(s.port p.toNat).open_ || (s.port p.toNat).unacked.isEmpty ||
      decide (resendLimit ≤ (s.port p.toNat).resends) || !s.passed (s.port p.toNat).progressAt (2 * ticksPerUs)) = false := by
    rw [port_eq hq, dev_off hd, ho, List.isEmpty_eq_false_iff.mpr hun, decide_eq_false (Nat.not_le.mpr hre)]
    exact congrArg (!·) ht
  exact congrArg Host.Outcome.next ((if_neg (by rw [hguard]; exact Bool.false_ne_true)).trans (modPort_setPort hq _))

theorem exec_nakReceive {e : Queued} {pre post : List Queued} (hun : q.unacked = pre ++ e :: post)
    (hp : ∀ x ∈ pre, x.frame.lseq ≠ e.frame.lseq) (hre : pre = [] → q.resends < resendLimit) :
    exec (.nakReceive p e.frame.lseq) s = .next (s.setPort p.toNat ((q.acked pre.length s.now).resend s.now)) := by
  have hopen : (q.acked pre.length s.now).open_ = true := by
    unfold Port.acked
    split <;> exact ho
  have hlimit : (q.acked pre.length s.now).resends < resendLimit := by
    unfold Port.acked
    split
    case isTrue h => exact hre (List.length_eq_zero_iff.mp h)
    case isFalse => exact Nat.zero_lt_succ 7
  have hguard : (s.glb.dev == .off || !(q.acked pre.length s.now).open_ ||
      decide (resendLimit ≤ (q.acked pre.length s.now).resends)) = false := by
    rw [dev_off hd, hopen, decide_eq_false (Nat.not_le.mpr hlimit)]
    rfl
  simp only [exec, execNakReceive, port_eq hq, place_at q e pre post hun hp]
  exact congrArg Host.Outcome.next ((if_neg (by rw [hguard]; exact Bool.false_ne_true)).trans (modPort_setPort hq _))

omit hd hq ho in
/-- The retry buffer begins anew at the frame that a NAK names. -/
theorem acked_resend {e : Queued} {pre post : List Queued} (hun : q.unacked = pre ++ e :: post) (now : W64) :
    (q.acked pre.length now).resend now = { q with
      unacked := e :: post, sent := q.sent ++ (e :: post).map (·.frame), resent := satAdd q.resent (post.length + 1)
      resends := if pre = [] then q.resends + 1 else 1, progressAt := now } := by
  by_cases hpre : pre = []
  · subst hpre
    simp only [Port.acked, Port.resend, List.length_nil, if_true, hun, List.nil_append, List.length_map, List.length_cons]
  · simp only [Port.acked, Port.resend, List.length_eq_zero_iff, hpre, if_false, hun, List.drop_left, List.length_map, List.length_cons]

end

end
end Sys2Proof.Machine
end

section
/-!
Frames that arrive at a port of the fabric (R430 to R435).
-/
namespace Sys2Proof.Machine

/-! ## What delivery leaves alone -/

/-- A step of delivery on a device without a span configuration in progress: the ports stay. -/
def Delivers (s t : State) : Prop :=
  FabOnly s t ∧ (s.fab.cfg = none → t.fab.ports = s.fab.ports ∧ t.fab.cfg = none)

theorem Delivers.refl (s : State) : Delivers s s := ⟨FabOnly.refl s, fun h => ⟨rfl, h⟩⟩

theorem Delivers.trans {s t u : State} (a : Delivers s t) (b : Delivers t u) : Delivers s u := by
  refine ⟨a.1.trans b.1, fun h => ?_⟩
  obtain ⟨hp, hc⟩ := a.2 h
  obtain ⟨hp', hc'⟩ := b.2 hc
  exact ⟨hp'.trans hp, hc'⟩

/-- A change of the fabric's other parts. -/
theorem Delivers.modFab (s : State) {f : Fab → Fab} (hp : (f s.fab).ports = s.fab.ports) (hc : (f s.fab).cfg = s.fab.cfg) :
    Delivers s (s.modFab f) := ⟨FabOnly.modFab s f, fun h => ⟨hp, hc.trans h⟩⟩

theorem Delivers.fabErr (s : State) (port : Nat) (code : W32) (ctx : Nat) : Delivers s (s.fabErr port code ctx) := by
  refine ⟨FabOnly.fabErr s port code ctx, fun h => ?_⟩
  rw [fabErr_fab]
  split <;> exact ⟨rfl, h⟩

theorem Delivers.dropFrame (s : State) : Delivers s s.dropFrame := Delivers.modFab s rfl rfl

theorem Delivers.spanReport (s : State) (a : Byte) (x y : W32) : Delivers s (s.spanReport a x y) := by
  refine ⟨FabOnly.spanReport s a x y, fun h => ?_⟩
  rw [State.spanReport, h]
  exact ⟨rfl, h⟩

theorem Delivers.accept (s : State) (f : Frame) : Delivers s (s.accept f) := by
  unfold State.accept
  refine ite_ind _ (fun _ => ite_ind _ (fun _ => ?_) (fun _ => Delivers.refl s)) (fun _ => ?_)
  · exact (Delivers.dropFrame s).trans (Delivers.fabErr ..)
  · cases f.ctrl
    case none => exact Delivers.refl s
    case hello => exact Delivers.refl s
    case spanCrc => exact Delivers.spanReport ..
    all_goals exact Delivers.modFab s rfl rfl

theorem Delivers.drainHeld (n : Nat) : ∀ (s : State) (k : Nat), Delivers s (State.drainHeld n s k) := by
  induction n with
  | zero => exact fun s k => Delivers.refl s
  | succ n ih =>
    intro s k
    unfold State.drainHeld
    split
    · exact Delivers.refl s
    · split
      · exact Delivers.refl s
      · exact ((Delivers.modFab s rfl rfl).trans (Delivers.accept _ _)).trans (ih _ _)

theorem Delivers.endTriple (s : State) (k : Nat) : Delivers s (s.endTriple k) :=
  (Delivers.modFab s rfl rfl).trans (Delivers.fabErr ..)

theorem Delivers.transport (s : State) (f : Frame) : Delivers s (s.transport f) := by
  unfold State.transport
  dsimp only
  refine ite_ind _ (fun _ => Delivers.refl s) (fun _ => ite_ind _ (fun _ => ?_) (fun _ => ite_ind _ (fun _ => ?_)
    (fun _ => ite_ind _ (fun _ => ite_ind _ (fun _ => ?_) (fun _ => ?_)) (fun _ => ?_))))
  · exact ((Delivers.modFab s rfl rfl).trans (Delivers.accept _ _)).trans (Delivers.drainHeld ..)
  · exact Delivers.modFab s rfl rfl
  · exact Delivers.modFab s rfl rfl
  · exact Delivers.modFab s rfl rfl
  · exact Delivers.endTriple ..

/-! ## Order within a triple (R432) -/

/-- The triple that a frame belongs to. -/
def State.tripleOf (s : State) (f : Frame) : Triple :=
  tgetD s.fab.rx (tripleKey f.src (f.vc.toNat % 4)) { expect := 0, held := [], ended := false }

theorem drainHeld_of_held_nil (n : Nat) {s : State} {k : Nat} {t : Triple} (ht : tget s.fab.rx k = some t) (hheld : t.held = []) :
    State.drainHeld (n + 1) s k = s := by
  simp only [State.drainHeld, ht, hheld, List.find?_nil]

section
variable {s : State} {f : Frame} (hlive : (s.tripleOf f).ended = false)
include hlive

/-- The next frame of a triple that holds none: nothing else is delivered. -/
theorem transport_next (hplain : f.ctrl = .none) (hseal : frameSealed f = false)
    (hd : (frameTseq f - (s.tripleOf f).expect).toNat = 0) (hheld : (s.tripleOf f).held = []) :
    s.transport f = s.modFab (fun x => { x with
      rx := tset x.rx (tripleKey f.src (f.vc.toNat % 4)) { s.tripleOf f with expect := (s.tripleOf f).expect + 1 } }) := by
  have haccept : ∀ t : State, t.accept f = t := fun t => by simp [State.accept, State.expected, hplain, hseal]
  refine (if_neg (by rw [← State.tripleOf, hlive]; exact Bool.false_ne_true)).trans ((if_pos hd).trans ?_)
  exact (congrArg (State.drainHeld 64 · _) (haccept _)).trans (drainHeld_of_held_nil 63 (tget_tset_self ..) hheld)

theorem transport_behind (hd : 2 ^ 31 ≤ (frameTseq f - (s.tripleOf f).expect).toNat) :
    s.transport f = s.modFab (fun x => { x with dup := satAdd x.dup 1 }) := by
  refine (if_neg (by rw [← State.tripleOf, hlive]; exact Bool.false_ne_true)).trans ((if_neg ?_).trans (if_pos hd))
  rw [← State.tripleOf]
  omega

theorem transport_ahead (h0 : 0 < (frameTseq f - (s.tripleOf f).expect).toNat)
    (hd : (frameTseq f - (s.tripleOf f).expect).toNat ≤ 64) (hnew : ∀ h ∈ (s.tripleOf f).held, h.1 ≠ frameTseq f) :
    s.transport f = s.modFab (fun x => { x with
      rx := tset x.rx (tripleKey f.src (f.vc.toNat % 4))
        { s.tripleOf f with held := (s.tripleOf f).held ++ [(frameTseq f, s.now, f)] } }) := by
  have hany : ¬ (s.tripleOf f).held.any (fun h => h.1 == frameTseq f) = true := by
    simp only [List.any_eq_true, beq_iff_eq, not_exists, not_and]
    exact hnew
  refine (if_neg (by rw [← State.tripleOf, hlive]; exact Bool.false_ne_true)).trans ((if_neg ?_).trans ((if_neg ?_).trans
    ((if_pos hd).trans (if_neg hany))))
  · rw [← State.tripleOf]
    omega
  · rw [← State.tripleOf]
    omega

theorem transport_lost (hd : 64 < (frameTseq f - (s.tripleOf f).expect).toNat)
    (hb : (frameTseq f - (s.tripleOf f).expect).toNat < 2 ^ 31) :
    s.transport f = s.endTriple (tripleKey f.src (f.vc.toNat % 4)) := by
  refine (if_neg (by rw [← State.tripleOf, hlive]; exact Bool.false_ne_true)).trans ((if_neg ?_).trans ((if_neg ?_).trans
    (if_neg ?_)))
  all_goals
    rw [← State.tripleOf]
    omega

end

/-! ## A frame on the link (R430) -/

/-- The NAK that a port sends: it names the lseq that the port expects. -/
def State.nakFrame (s : State) (q : Port) : Frame :=
  { s.fab.frame ftNak vcControl q.partner (le32 q.rxSeq) .none with ack := BitVec.ofNat 16 (q.rxSeq - 1).toNat }

/-- A port that has taken a frame in its turn. -/
def Port.taken (q : Port) (f : Frame) (stallMs : Nat) (now : W64) : Port :=
  { q.hear f stallMs now with rxSeq := q.rxSeq + 1, tagRetry := false }

/-- A DATA frame taken stands in the receive buffer. -/
def Port.takenData (q : Port) (f : Frame) (stallMs : Nat) (now : W64) : Port :=
  { q.taken f stallMs now with rxHeld := lmod q.rxHeld (f.vc.toNat % 4) (· + 1) }

section
variable {s : State} {p : PortId} {q : Port} {f : Frame} (hd : s.glb.dev ≠ .off) (hq : s.fab.ports[p.toNat]? = some q)
  (hl : q.state = .up ∨ q.state = .slow) (ha : q.reauth = false) (hc : s.fab.cfg = none)

section
include hd hq hl ha

theorem exec_frameReceive (check : FrameCheck) : exec (.frameReceive p check f) s = .next (match check with
    | .fecBad => s.sendNak p.toNat
    | .tagBad => (s.modPort p.toNat (fun x =>
        { x with tagfail := satAdd x.tagfail 1, tagRetry := true,
                 tagTimes := lastSecond s.now x.tagTimes ++ (if x.tagRetry then [s.now] else []) })).sendNak p.toNat
    | .good => s.goodFrame p.toNat f).settleSpan := by
  have hguard : (s.glb.dev == .off || !(s.port p.toNat).linked || (s.port p.toNat).reauth) = false := by
    rw [port_eq hq, dev_off hd, linked_of hl, ha]
    rfl
  exact congrArg (fun t => Host.Outcome.next (State.settleSpan t)) (if_neg (by rw [hguard]; exact Bool.false_ne_true))

include hc

theorem exec_frameReceive_fecBad : exec (.frameReceive p .fecBad f) s =
    .next (s.setPort p.toNat { q with sent := q.sent ++ [s.nakFrame q] }) := by
  rw [exec_frameReceive hd hq hl ha]
  exact congrArg Host.Outcome.next ((congrArg State.settleSpan (modPort_setPort hq _)).trans (settle_none hc))

theorem exec_frameReceive_tagBad : exec (.frameReceive p .tagBad f) s = .next (s.setPort p.toNat { q with
    sent := q.sent ++ [s.nakFrame q], tagfail := satAdd q.tagfail 1, tagRetry := true
    tagTimes := lastSecond s.now q.tagTimes ++ (if q.tagRetry then [s.now] else []) }) := by
  rw [exec_frameReceive hd hq hl ha]
  exact congrArg Host.Outcome.next ((congrArg State.settleSpan ((modPort_modPort hq _ _).trans (modPort_setPort hq _))).trans
    (settle_none hc))

omit hc in
/-- A good frame that leaves no span configuration in progress. -/
theorem exec_frameReceive_good {t : State} (h : s.goodFrame p.toNat f = t) (ht : t.fab.cfg = none) :
    exec (.frameReceive p .good f) s = .next t := by
  rw [exec_frameReceive hd hq hl ha]
  exact congrArg Host.Outcome.next ((congrArg State.settleSpan h).trans (settle_none ht))

end

omit hd hq hl ha hc in
theorem arrive_fabOnly (s : State) (p : Nat) (f : Frame) : FabOnly s (s.arrive p f) := by
  unfold State.arrive
  refine ite_ind _ (fun _ => FabOnly.routeFrame ..) (fun _ => ite_ind _ (fun _ => ?_) (fun _ => FabOnly.routeFrame ..))
  exact FabOnly.trans (ite_ind _ (fun _ => FabOnly.leaveBuffer ..) (fun _ => FabOnly.refl s)) (FabOnly.dropFrame _)

section
variable (hr : frameReserved f = false)
include hq hr

theorem goodFrame_idle (h1 : f.ftype ≠ ftData) (h4 : f.ftype ≠ ftCtrl) :
    s.goodFrame p.toNat f = s.setPort p.toNat (q.hear f s.fab.stallMs.toNat s.now) := by
  simp only [State.goodFrame, hr, Bool.false_eq_true, if_false, h1, h4, decide_false, Bool.or_self]
  exact modPort_setPort hq _

theorem goodFrame_skip (hty : f.ftype = ftData ∨ f.ftype = ftCtrl) (hseq : f.lseq ≠ q.rxSeq) :
    s.goodFrame p.toNat f = s.setPort p.toNat (q.acked (q.ackCount f.ack) s.now) := by
  have hcarries : (decide (f.ftype = ftData) || decide (f.ftype = ftCtrl)) = true := by simpa using hty
  simp only [State.goodFrame, hr, Bool.false_eq_true, if_false, hcarries, if_true, port_eq hq, bne_iff_ne.mpr hseq]
  exact modPort_setPort hq _

theorem goodFrame_control (hty : f.ftype = ftCtrl) (hseq : f.lseq = q.rxSeq) :
    s.goodFrame p.toNat f = (s.setPort p.toNat (q.taken f s.fab.stallMs.toNat s.now)).control p.toNat f := by
  obtain ⟨hseqs, -, -, -⟩ := hear_keeps q f s.fab.stallMs.toNat s.now
  have hdata : ¬ ftCtrl = ftData := by decide
  simp only [State.goodFrame, hr, Bool.false_eq_true, if_false, hty, decide_true, Bool.or_true, if_true, port_eq hq, hseq,
    bne_self_eq_false, modPort_setPort hq, hdata, hseqs]
  rfl

theorem goodFrame_data (hty : f.ftype = ftData) (hseq : f.lseq = q.rxSeq) (hi : s.plan.insts = []) :
    s.goodFrame p.toNat f = (s.setPort p.toNat (q.takenData f s.fab.stallMs.toNat s.now)).arrive p.toNat f := by
  obtain ⟨hseqs, hheld, -, -⟩ := hear_keeps q f s.fab.stallMs.toNat s.now
  have hctrl : ¬ ftData = ftCtrl := by decide
  simp only [State.goodFrame, hr, Bool.false_eq_true, if_false, hty, decide_true, Bool.true_or, if_true, port_eq hq, hseq,
    bne_self_eq_false, modPort_setPort hq, hctrl, hheld, hseqs]
  refine moreFaces_none ?_
  rw [(arrive_fabOnly _ _ _).eq]
  exact hi

end

section
include hq

/-- A port replaced and then changed. -/
theorem setPort_modPort (a : Port) (g : Port → Port) : (s.setPort p.toNat a).modPort p.toNat g = s.setPort p.toNat (g a) := by
  rw [← modPort_setPort hq (fun _ => a), modPort_modPort hq, modPort_setPort hq]

theorem port_setPort (a : Port) : (s.setPort p.toNat a).port p.toNat = a := by
  refine port_eq ?_
  exact List.getElem?_set_self (List.getElem?_eq_some_iff.mp hq).1

theorem control_forged {a : Port} (hsrc : f.src ≠ a.partner) :
    (s.setPort p.toNat a).control p.toNat f = s.setPort p.toNat { a with forged := true } := by
  rw [State.control, port_setPort hq, if_pos (bne_iff_ne.mpr hsrc), setPort_modPort hq]

theorem control_hello {a : Port} {h : Hello} (hsrc : f.src = a.partner) (hf : f.ctrl = .hello h) :
    (s.setPort p.toNat a).control p.toNat f = s.setPort p.toNat (a.meet h) := by
  rw [State.control, port_setPort hq, hsrc, if_neg (by simp), hf]
  exact setPort_modPort hq a _

end

/-! ## Arrival (R434) -/

section
variable {n : Nat} (hty : f.ftype = ftData)
include hty

omit hd hq hl ha hc

theorem arrive_here (hlocal : (s.fab.route1 n f.dst).getLsbD 15 = true) :
    s.arrive n f = (s.leaveBuffer n (f.vc.toNat % 4)).transport f := by
  simp only [State.arrive, State.routeFrame, State.deliver, hlocal, hty, decide_true, if_true]

theorem arrive_spent (hlocal : (s.fab.route1 n f.dst).getLsbD 15 = false) (httl : f.ttl = 0) :
    s.arrive n f = (s.leaveBuffer n (f.vc.toNat % 4)).dropFrame := by
  simp only [State.arrive, hlocal, hty, httl, decide_true, if_true, Bool.false_eq_true, if_false]

theorem arrive_onward {r : Nat} {alt : Bool} (hlocal : (s.fab.route1 n f.dst).getLsbD 15 = false) (httl : f.ttl ≠ 0)
    (hpick : s.fab.pick (s.fab.route1 n f.dst) = some (r, alt)) :
    s.arrive n f = s.enqueue r { table := n, owes := true, frame := { f with
      ttl := f.ttl - 1, fflags := if alt then f.fflags ||| 1 else f.fflags } } := by
  simp only [State.arrive, State.routeFrame, hlocal, hty, httl, hpick, decide_true, Bool.false_eq_true, if_false]
  cases alt <;> rfl

end

include hq in
/-- The receive buffer of a port gives a place back. -/
theorem leaveBuffer_setPort (a : Port) (vc : Nat) : ∃ u, (s.setPort p.toNat a).leaveBuffer p.toNat vc = s.setPort p.toNat u ∧
    u.rxSeq = a.rxSeq ∧ u.tagRetry = a.tagRetry ∧ u.state = a.state := by
  refine ⟨_, setPort_modPort hq a _, ?_⟩
  split <;> exact ⟨rfl, rfl, rfl⟩

end

/-! ## A gap that stays (R432) -/

theorem endTriple_at {s : State} {key : Nat} {u : Triple} (hu : tget s.fab.rx key = some u) :
    s.endTriple key = ({ s with fab := { s.fab with rx := tset s.fab.rx key { u with held := [], ended := true } } }).fabErr 0
      Code.pathLost (key / 4) := by
  simp only [State.endTriple, State.modFab, tgetD, hu, Option.getD_some]

theorem exec_transportGapTimeout {s : State} {src : Byte} {vc : Vc} {u : Triple} (hd : s.glb.dev ≠ .off)
    (hu : tget s.fab.rx (4 * src.toNat + vc.toNat) = some u) (hlive : u.ended = false)
    (hlate : ∃ h ∈ u.held, s.passed h.2.1 (100 * ticksPerUs) = true) :
    exec (.transportGapTimeout src vc) s = .next (({ s with fab := { s.fab with
      rx := tset s.fab.rx (4 * src.toNat + vc.toNat) { u with held := [], ended := true } } }).fabErr 0 Code.pathLost src.toNat) := by
  have hguard : (s.glb.dev == .off || u.ended || !u.held.any (fun h => s.passed h.2.1 (100 * ticksPerUs))) = false := by
    rw [dev_off hd, hlive, List.any_eq_true.mpr hlate]
    rfl
  have hsrc : (4 * src.toNat + vc.toNat) / 4 = src.toNat := by omega
  have hend := endTriple_at hu
  rw [hsrc] at hend
  simp only [exec, execTransportGapTimeout, tripleKey, hu, hguard]
  exact congrArg Host.Outcome.next hend

end Sys2Proof.Machine
end

section
/-!
The frames of the fabric, as one statement (R428 to R434).
-/
namespace Sys2Proof.Machine

section
variable {s : State} {p : PortId} {q : Port} {f : Frame} (hd : s.glb.dev ≠ .off) (hq : s.fab.ports[p.toNat]? = some q)
  (hl : q.state = .up ∨ q.state = .slow) (ha : q.reauth = false) (hc : s.fab.cfg = none) (hr : frameReserved f = false)
  (hty : f.ftype = ftData) (hseq : f.lseq = q.rxSeq) (hi : s.plan.insts = [])
include hd hq hl ha hc hr hty hseq hi

/-- A DATA frame for this device comes in its turn: the transport layer takes it, and the port's buffer is free of it. -/
theorem exec_frameReceive_here (hlocal : (s.fab.route1 p.toNat f.dst).getLsbD 15 = true) :
    ∃ u, exec (.frameReceive p .good f) s = .next ((s.setPort p.toNat u).transport f) ∧
      u.rxSeq = q.rxSeq + 1 ∧ u.tagRetry = false ∧ u.state = q.state := by
  obtain ⟨-, -, hstate, -⟩ := hear_keeps q f s.fab.stallMs.toNat s.now
  obtain ⟨u, hu, hrx, htag, hst⟩ := leaveBuffer_setPort hq (q.takenData f s.fab.stallMs.toNat s.now) (f.vc.toNat % 4)
  refine ⟨u, exec_frameReceive_good hd hq hl ha ?_ ?_, hrx, htag, hst.trans hstate⟩
  · have hhere := arrive_here (s := s.setPort p.toNat (q.takenData f s.fab.stallMs.toNat s.now)) hty hlocal
    rw [goodFrame_data hq hr hty hseq hi, hhere, hu]
  · exact ((Delivers.transport (s.setPort p.toNat u) f).2 hc).2

theorem exec_frameReceive_spent (hlocal : (s.fab.route1 p.toNat f.dst).getLsbD 15 = false) (httl : f.ttl = 0) :
    exec (.frameReceive p .good f) s = .next
      (((s.setPort p.toNat (q.takenData f s.fab.stallMs.toNat s.now)).leaveBuffer p.toNat (f.vc.toNat % 4)).dropFrame) :=
  exec_frameReceive_good hd hq hl ha ((goodFrame_data hq hr hty hseq hi).trans (arrive_spent hty hlocal httl)) hc

theorem exec_frameReceive_onward {r : Nat} {alt : Bool} (hlocal : (s.fab.route1 p.toNat f.dst).getLsbD 15 = false)
    (httl : f.ttl ≠ 0) (hpick : s.fab.pick (s.fab.route1 p.toNat f.dst) = some (r, alt)) :
    exec (.frameReceive p .good f) s = .next
      ((s.setPort p.toNat (q.takenData f s.fab.stallMs.toNat s.now)).enqueue r { table := p.toNat, owes := true, frame := { f with
        ttl := f.ttl - 1, fflags := if alt then f.fflags ||| 1 else f.fflags } }) := by
  obtain ⟨-, -, hstate, -⟩ := hear_keeps q f s.fab.stallMs.toNat s.now
  have hpick' := (pick_set (y := q.takenData f s.fab.stallMs.toNat s.now) hq hstate (s.fab.route1 p.toNat f.dst)).trans hpick
  have honward := arrive_onward (s := s.setPort p.toNat (q.takenData f s.fab.stallMs.toNat s.now)) hty hlocal httl hpick'
  exact exec_frameReceive_good hd hq hl ha ((goodFrame_data hq hr hty hseq hi).trans honward) hc

end

/-- The end of a triple: it is marked, and PATH_LOST latched. -/
theorem endTriple_fab (s : State) (key : Nat) : (s.endTriple key).fab.rx = tset s.fab.rx key
      { tgetD s.fab.rx key { expect := 0, held := [], ended := false } with held := [], ended := true } ∧
    (s.endTriple key).fab.errValid = true ∧
    (s.fab.errValid = false → (s.endTriple key).fab.errCode = Code.low Code.pathLost) := by
  rw [State.endTriple, fabErr_fab]
  cases hv : s.fab.errValid
  · rw [if_neg (by rw [State.modFab, hv]; exact Bool.false_ne_true)]
    exact ⟨rfl, rfl, fun _ => rfl⟩
  · rw [if_pos (by rw [State.modFab]; exact hv)]
    exact ⟨rfl, hv, fun h => absurd h (by simp)⟩

/-- Settles O51: each frame event, with the port it leaves. -/
theorem fabricFrames : Obligations.FabricFrames := by
  refine ⟨fun s p q hd hq hl hkey hre hau hix => ?_, fun s p q f hd hq hl ha hc => ?_⟩
  · have ho := open_of hl hkey hre hau hix
    refine ⟨fun vc e pre post hqu hpre hvc hroom hcr => ⟨?_, fun h => sendFirst_owes h .., fun h => sendFirst_eq hq h ..⟩,
      fun vc hnone => ⟨_, exec_frameTransmit_idle hd hq ho hnone, _, rfl, rfl, rfl, rfl, rfl⟩, fun hun hlim ht => ?_,
      fun e pre post hun hpre hlim => ?_⟩
    · exact exec_frameTransmit_first hd hq ho (by rw [hqu, takeVc_at vc.toNat e post hvc pre hpre]) hroom hcr
    · rw [exec_replayTimer hd hq ho hun hlim ht, Port.resend, List.length_map]
      rfl
    · rw [exec_nakReceive hd hq ho hun hpre hlim, acked_resend hun]
      rfl
  · refine ⟨⟨_, exec_frameReceive_fecBad hd hq hl ha hc, _, ⟨rfl, rfl, rfl, rfl⟩, rfl⟩,
      ⟨_, exec_frameReceive_tagBad hd hq hl ha hc, _, ⟨rfl, rfl, rfl, rfl⟩, rfl⟩, fun hr => ⟨?_, ?_, ?_, ?_, ?_⟩,
      fun src vc u hu hlive hlate => exec_transportGapTimeout hd hu hlive hlate⟩
    · exact fun h1 h4 => exec_frameReceive_good hd hq hl ha (goodFrame_idle hq hr h1 h4) hc
    · exact fun hty hseq => exec_frameReceive_good hd hq hl ha (goodFrame_skip hq hr hty hseq) hc
    · intro hty hseq hsrc
      obtain ⟨-, -, -, hpart⟩ := hear_keeps q f s.fab.stallMs.toNat s.now
      exact exec_frameReceive_good hd hq hl ha ((goodFrame_control hq hr hty hseq).trans
        (control_forged hq (hpart.symm ▸ hsrc))) hc
    · intro h hty hseq hsrc hf
      obtain ⟨-, -, -, hpart⟩ := hear_keeps q f s.fab.stallMs.toNat s.now
      exact exec_frameReceive_good hd hq hl ha ((goodFrame_control hq hr hty hseq).trans
        (control_hello hq (hsrc.trans hpart.symm) hf)) hc
    · intro hty hseq hi
      refine ⟨fun hlocal hplain hseal hlive => ?_, exec_frameReceive_spent hd hq hl ha hc hr hty hseq hi,
        fun r alt => exec_frameReceive_onward hd hq hl ha hc hr hty hseq hi⟩
      obtain ⟨u, hexec, hrx, htag, hst⟩ := exec_frameReceive_here hd hq hl ha hc hr hty hseq hi hlocal
      obtain ⟨honly, hkeep⟩ := Delivers.transport (s.setPort p.toNat u) f
      have hlive' : ((s.setPort p.toNat u).tripleOf f).ended = false := hlive
      refine ⟨_, hexec, honly.eq, ⟨u, ?_, hrx, htag, hst⟩, fun h0 hheld => ?_, fun hb => ?_, fun h0 h64 hnew => ?_,
        fun h64 hb => ?_⟩
      · rw [(hkeep hc).1]
        exact List.getElem?_set_self (List.getElem?_eq_some_iff.mp hq).1
      · rw [transport_next hlive' hplain hseal h0 hheld]
        exact ⟨rfl, rfl⟩
      · rw [transport_behind hlive' hb]
        exact ⟨rfl, rfl⟩
      · rw [transport_ahead hlive' h0 h64 hnew]
        exact ⟨rfl, rfl⟩
      · rw [transport_lost hlive' h64 hb]
        exact endTriple_fab ..

end Sys2Proof.Machine
end

section
/-!
FABRIC_JOIN: what it does to the ports (R426, R436).
-/
namespace Sys2Proof.Machine

/-! ## Changing several entries of a list -/

theorem getElem?_foldl_lmod {α : Type} (f : Nat → α → α) (ps : List Nat) (hn : ps.Nodup) (l : List α) (k : Nat) :
    (ps.foldl (fun l i => lmod l i (f i)) l)[k]? = if k ∈ ps then (l[k]?).map (f k) else l[k]? := by
  induction ps generalizing l with
  | nil => simp
  | cons i ps ih =>
    obtain ⟨hi, hn⟩ := List.nodup_cons.mp hn
    rw [List.foldl_cons, ih hn, getElem?_lmod]
    by_cases hk : k = i
    · simp [hk, hi]
    · simp [hk]

theorem length_lmod {α : Type} : ∀ (l : List α) (i : Nat) (f : α → α), (lmod l i f).length = l.length
  | [], _, _ => rfl
  | _ :: _, 0, _ => rfl
  | _ :: r, i + 1, f => congrArg (· + 1) (length_lmod r i f)

theorem length_foldl_lmod {α : Type} (f : Nat → α → α) (ps : List Nat) (l : List α) :
    (ps.foldl (fun l i => lmod l i (f i)) l).length = l.length := by
  exact foldl_keeps (g := List.length) (fun l i => length_lmod l i (f i)) ps l

/-- Several ports changed, each in its way. -/
theorem foldl_modPort (f : Nat → Port → Port) (ps : List Nat) (s : State) : ps.foldl (fun s i => s.modPort i (f i)) s =
    { s with fab := { s.fab with ports := ps.foldl (fun l i => lmod l i (f i)) s.fab.ports } } := by
  induction ps generalizing s with
  | nil => rfl
  | cons i ps ih => exact ih (s.modPort i (f i))

/-! ## Ports that hold no frames -/

/-- No port holds a frame. -/
def State.idlePorts (s : State) : Prop := ∀ q ∈ s.fab.ports, q.unacked = [] ∧ q.queue = []

/-- A port that FABRIC_JOIN disables. -/
def Port.off (q : Port) (now : W64) : Port :=
  if q.state = .failed then q else { q with
    state := .disabled, since := now, keyed := false, reauth := false, retrain := false, unacked := [], queue := []
    resends := 0 }

theorem idle_at {s : State} (h : s.idlePorts) (i : Nat) : (s.port i).unacked = [] ∧ (s.port i).queue = [] := by
  rw [State.port, Fab.port, List.getD_eq_getElem?_getD]
  cases hq : s.fab.ports[i]? with
  | none => exact ⟨rfl, rfl⟩
  | some q => exact h q (List.mem_of_getElem? hq)

/-- A change that brings no frames leaves the ports without any. -/
theorem idle_modPort {s : State} (h : s.idlePorts) (i : Nat) {f : Port → Port}
    (hf : ∀ q : Port, q.unacked = [] → q.queue = [] → (f q).unacked = [] ∧ (f q).queue = []) : (s.modPort i f).idlePorts := by
  intro q hq
  obtain ⟨k, hk⟩ := List.getElem?_of_mem hq
  have hk' : (lmod s.fab.ports i f)[k]? = some q := hk
  rw [getElem?_lmod] at hk'
  split at hk'
  · obtain ⟨x, hx, rfl⟩ := Option.map_eq_some_iff.mp hk'
    obtain ⟨hu, hw⟩ := h x (List.mem_of_getElem? hx)
    exact hf x hu hw
  · exact h q (List.mem_of_getElem? hk')

theorem lmod_congr {α : Type} {f g : α → α} : ∀ {l : List α} {i : Nat}, (∀ a, l[i]? = some a → f a = g a) → lmod l i f = lmod l i g
  | [], _, _ => rfl
  | a :: r, 0, h => congrArg (· :: r) (h a rfl)
  | a :: r, i + 1, h => congrArg (a :: ·) (lmod_congr (l := r) (i := i) fun b hb => h b hb)

theorem lmod_id {α : Type} : ∀ (l : List α) (i : Nat), lmod l i id = l
  | [], _ => rfl
  | _ :: _, 0 => rfl
  | a :: r, i + 1 => congrArg (a :: ·) (lmod_id r i)

theorem modPort_id (s : State) (i : Nat) : s.modPort i id = s :=
  congrArg (fun l => { s with fab := { s.fab with ports := l } }) (lmod_id s.fab.ports i)

theorem modPort_congr {s : State} {i : Nat} {f g : Port → Port} (h : ∀ q, s.fab.ports[i]? = some q → f q = g q) :
    s.modPort i f = s.modPort i g := by
  rw [State.modPort, State.modPort, State.modFab, State.modFab, lmod_congr h]

theorem off_keeps_idle {now : W64} (q : Port) (hu : q.unacked = []) (hw : q.queue = []) :
    (q.off now).unacked = [] ∧ (q.off now).queue = [] := by
  unfold Port.off
  split
  · exact ⟨hu, hw⟩
  · exact ⟨rfl, rfl⟩

theorem disablePort_idle {s : State} (h : s.idlePorts) (i : Nat) : s.disablePort i = s.modPort i (Port.off · s.now) := by
  obtain ⟨hu, hw⟩ := idle_at h i
  unfold State.disablePort
  split
  case isTrue hf =>
    have hkeep : s.modPort i (Port.off · s.now) = s.modPort i id := modPort_congr fun q hq => by
      rw [port_eq hq] at hf
      exact if_pos (beq_iff_eq.mp hf)
    rw [hkeep, modPort_id]
  case isFalse hf =>
    rw [State.takeDown, hu, hw]
    refine modPort_congr fun q hq => ?_
    rw [port_eq hq] at hf
    rw [Port.off, if_neg (fun h => hf (beq_iff_eq.mpr h)), Bool.not_true, Bool.and_false]

theorem foldl_disablePort_idle (ps : List Nat) (s : State) (h : s.idlePorts) :
    ps.foldl State.disablePort s = ps.foldl (fun t i => t.modPort i (Port.off · s.now)) s := by
  induction ps generalizing s with
  | nil => rfl
  | cons i ps ih =>
    rw [List.foldl_cons, List.foldl_cons, disablePort_idle h, ih _ (idle_modPort h i off_keeps_idle)]
    rfl

/-- Emptying a port that holds nothing. -/
theorem foldl_clear_idle (ps : List Nat) (s : State) (h : s.idlePorts) :
    ps.foldl (fun (t : State) i => t.modPort i (fun x => { x with unacked := [], queue := [] })) s = s := by
  induction ps with
  | nil => rfl
  | cons i ps ih =>
    have hkeep : s.modPort i (fun x => { x with unacked := [], queue := [] }) = s.modPort i id := modPort_congr fun q hq => by
      obtain ⟨hu, hw⟩ := h q (List.mem_of_getElem? hq)
      cases q
      cases hu
      cases hw
      rfl
    rw [List.foldl_cons, hkeep, modPort_id]
    exact ih

theorem disablePorts_idle {s : State} (h : s.idlePorts) (ps : List Nat) : s.disablePorts ps =
    { s with fab := { s.fab with ports := ps.foldl (fun l i => lmod l i (Port.off · s.now)) s.fab.ports } } := by
  have hnone : ps.flatMap (fun p => (s.port p).unacked ++ (s.port p).queue) = [] := by
    rw [List.flatMap_eq_nil_iff]
    intro i _
    rw [(idle_at h i).1, (idle_at h i).2]
    rfl
  rw [State.disablePorts, hnone]
  refine Eq.trans ?_ (foldl_modPort (fun _ => (Port.off · s.now)) ps s)
  rw [← foldl_disablePort_idle ps s h]
  exact congrArg (List.foldl State.disablePort · ps) (foldl_clear_idle ps s h)

/-- A LEAVE on ports without frames: every port but a FAILED one is disabled. -/
theorem disablePorts_all {s : State} (h : s.idlePorts) (hlen : s.fab.ports.length = 8) : s.disablePorts (List.range 8) =
    { s with fab := { s.fab with ports := s.fab.ports.map (Port.off · s.now) } } := by
  have hports : (List.range 8).foldl (fun l i => lmod l i (Port.off · s.now)) s.fab.ports =
      s.fab.ports.map (Port.off · s.now) := by
    refine List.ext_getElem? fun k => ?_
    rw [getElem?_foldl_lmod (fun _ => (Port.off · s.now)) _ List.nodup_range, List.getElem?_map]
    split
    case isTrue => rfl
    case isFalse hk =>
      rw [List.getElem?_eq_none (by rw [List.mem_range] at hk; omega)]
      rfl
  rw [disablePorts_idle h, hports]

/-! ## A JOIN -/

/-- The anchor that a FABRIC_JOIN names. -/
def joinAnchor (b : List Byte) : List Byte := if rd b 21 1 = 1 then slice b 64 49 else []

/-- What a JOIN does to port `i` when it enables it, and otherwise first leaves as it is. -/
def joinPort (b : List Byte) (fresh : Bool) (now : W64) (i : Nat) (q : Port) : Port :=
  if (rd8 b 18).getLsbD i then q.join ((rd8 b 19).getLsbD i) fresh now else q

/-- The ports after a JOIN. -/
def State.joinedPorts (s : State) (b : List Byte) : List Port :=
  ((List.range 8).filter (fun i => !(rd8 b 18).getLsbD i)).foldl (fun l i => lmod l i (Port.off · s.now))
    ((List.range 8).foldl (fun l i => lmod l i (joinPort b (joinAnchor b != s.fab.anchor) s.now i)) s.fab.ports)

theorem length_joinedPorts (s : State) (b : List Byte) : (s.joinedPorts b).length = s.fab.ports.length :=
  (length_foldl_lmod (fun _ => (Port.off · s.now)) _ _).trans (length_foldl_lmod _ _ _)

theorem getElem?_joinedPorts {s : State} (hlen : s.fab.ports.length = 8) (b : List Byte) {i : Nat} {q : Port}
    (hq : s.fab.ports[i]? = some q) : (s.joinedPorts b)[i]? = some (if (rd8 b 18).getLsbD i
      then q.join ((rd8 b 19).getLsbD i) (joinAnchor b != s.fab.anchor) s.now else q.off s.now) := by
  have hi : i < 8 := hlen ▸ (List.getElem?_eq_some_iff.mp hq).1
  rw [State.joinedPorts, getElem?_foldl_lmod (fun _ => (Port.off · s.now)) _ (List.nodup_range.filter _),
    getElem?_foldl_lmod _ _ List.nodup_range, if_pos (List.mem_range.mpr hi), hq]
  rw [Option.map_some, joinPort]
  cases hon : (rd8 b 18).getLsbD i
  · rw [if_pos (by rw [List.mem_filter, hon]; exact ⟨List.mem_range.mpr hi, rfl⟩)]
    rfl
  · rw [if_neg (by rw [List.mem_filter, hon]; exact fun h => Bool.false_ne_true h.2)]
    rfl

theorem join_keeps_idle {u n : Bool} {now : W64} (q : Port) (hu : q.unacked = []) (hw : q.queue = []) :
    (q.join u n now).unacked = [] ∧ (q.join u n now).queue = [] := by
  unfold Port.join
  split
  case h_2 => split <;> exact ⟨hu, hw⟩
  all_goals exact ⟨hu, hw⟩

theorem joinPort_keeps_idle {b : List Byte} {n : Bool} {now : W64} (i : Nat) (q : Port) (hu : q.unacked = []) (hw : q.queue = []) :
    (joinPort b n now i q).unacked = [] ∧ (joinPort b n now i q).queue = [] := by
  unfold joinPort
  split
  · exact join_keeps_idle q hu hw
  · exact ⟨hu, hw⟩

theorem idle_foldl_modPort {f : Nat → Port → Port}
    (hf : ∀ i (q : Port), q.unacked = [] → q.queue = [] → (f i q).unacked = [] ∧ (f i q).queue = []) (ps : List Nat) :
    ∀ s : State, s.idlePorts → (ps.foldl (fun s i => s.modPort i (f i)) s).idlePorts := by
  induction ps with
  | nil => exact fun s h => h
  | cons i ps ih => exact fun s h => ih _ (idle_modPort h i (hf i))

/-- The ports that a JOIN enables, one after the other. -/
theorem foldl_joinPort (b : List Byte) (n : Bool) (ps : List Nat) (s : State) : ps.foldl (fun (s : State) p =>
      if (rd8 b 18).getLsbD p then s.modPort p (fun x => x.join ((rd8 b 19).getLsbD p) n s.now) else s) s =
    ps.foldl (fun t i => t.modPort i (joinPort b n s.now i)) s := by
  induction ps generalizing s with
  | nil => rfl
  | cons i ps ih =>
    have hstep : (if (rd8 b 18).getLsbD i then s.modPort i (fun x => x.join ((rd8 b 19).getLsbD i) n s.now) else s) =
        s.modPort i (joinPort b n s.now i) := by
      unfold joinPort
      split
      · rfl
      · exact (modPort_id s i).symm
    rw [List.foldl_cons, hstep, ih]
    rfl

theorem join_idle {s : State} (h : s.idlePorts) (b d : List Byte) : s.join b d = { s with fab := { s.fab with
    joined := true, addr := rd8 b 17, anchor := joinAnchor b, tables := parseTables d, ports := s.joinedPorts b } } := by
  have hidle := idle_foldl_modPort (joinPort_keeps_idle (b := b) (n := joinAnchor b != s.fab.anchor) (now := s.now)) (List.range 8)
    (s.modFab fun f => { f with joined := true, addr := rd8 b 17, anchor := joinAnchor b, tables := parseTables d }) h
  have hfold := foldl_joinPort b (joinAnchor b != s.fab.anchor) (List.range 8)
    (s.modFab fun f => { f with joined := true, addr := rd8 b 17, anchor := joinAnchor b, tables := parseTables d })
  have hdisable := disablePorts_idle hidle ((List.range 8).filter fun p => !(rd8 b 18).getLsbD p)
  refine (congrArg (State.disablePorts · ((List.range 8).filter fun p => !(rd8 b 18).getLsbD p)) hfold).trans
    (hdisable.trans ?_)
  rw [foldl_modPort]
  rfl

end Sys2Proof.Machine
end

section
/-!
FABRIC_JOIN and COLLECTIVE_CFG as packets, and the end of a span's configuration (R436, R437).
-/
namespace Sys2Proof.Machine

/-! ## FABRIC_JOIN -/

/-- Another port's partner has the address already (R433). -/
theorem addrTaken_iff {s : State} (hlen : s.fab.ports.length = 8) (a : Byte) :
    (List.range 8).any (fun p => (s.port p).linked && decide ((s.port p).partner = a)) = true ↔
      ∃ q ∈ s.fab.ports, (q.state = .up ∨ q.state = .slow) ∧ q.partner = a := by
  simp only [List.any_eq_true, List.mem_range, Bool.and_eq_true, decide_eq_true_eq, linked_iff]
  constructor
  · rintro ⟨i, hi, hq⟩
    have hget : s.fab.ports[i]? = some s.fab.ports[i] := List.getElem?_eq_getElem (by omega)
    rw [port_eq hget] at hq
    exact ⟨_, List.getElem_mem _, hq⟩
  · rintro ⟨q, hmem, hq⟩
    obtain ⟨i, hi⟩ := List.getElem?_of_mem hmem
    refine ⟨i, hlen ▸ (List.getElem?_eq_some_iff.mp hi).1, ?_⟩
    rw [port_eq hi]
    exact hq

section
variable {s : State} {r : RingId} {o : Op} (ho : Offers s r 0x80 o)

/-- The checks of FABRIC_JOIN in order (R436). -/
def State.joinChecks (s : State) (b : List Byte) : List (Bool × W32) :=
  [(s.joinParamOk b, Code.fabParam), (s.fab.spans.isEmpty, Code.fabBusy),
   (decide (rd b 16 1 = 1) || !(List.range 8).any (fun p => (s.port p).linked && (s.port p).partner = rd8 b 17), Code.fabAddr)]

include ho

theorem exec_fabricJoin_fail {c : Bool × W32} (hc : (s.joinChecks o.bytes).find? (fun c => !c.1) = some c) :
    exec (.fabricJoin r) s = .next (s.finish r.toNat o.id c.2) := by
  refine congrArg Host.Outcome.next ((ho.withOp _).trans ?_)
  dsimp only
  rw [← State.joinChecks, hc]

theorem exec_fabricJoin_pass (hc : (s.joinChecks o.bytes).find? (fun c => !c.1) = none) : exec (.fabricJoin r) s = .next (
    if rd o.bytes 16 1 = 1 then
      ((s.disablePorts (List.range 8)).modFab (fun f => { f with joined := false })).finish r.toNat o.id Code.ok
    else if decide (rd o.bytes 20 1 = 1) && s.windowPoisoned (rd o.bytes 24 8) 4608 then s.finish r.toNat o.id Code.memUe
    else s.withPayload r.toNat o (decide (rd o.bytes 20 1 = 1)) (rd o.bytes 24 8) 4608
      (fun d s => ((s.join o.bytes d).powerUp []).finish r.toNat o.id Code.ok)) := by
  refine congrArg Host.Outcome.next ((ho.withOp _).trans ?_)
  dsimp only
  rw [← State.joinChecks, hc]
  simp only [decide_eq_true_eq]


theorem exec_fabricJoin_param (h : s.joinParamOk o.bytes = false) :
    exec (.fabricJoin r) s = .next (s.finish r.toNat o.id Code.fabParam) :=
  exec_fabricJoin_fail ho (c := (false, Code.fabParam)) (by simp [State.joinChecks, h])

theorem exec_fabricJoin_busy (h : s.joinParamOk o.bytes = true) (hs : s.fab.spans ≠ []) :
    exec (.fabricJoin r) s = .next (s.finish r.toNat o.id Code.fabBusy) :=
  exec_fabricJoin_fail ho (c := (false, Code.fabBusy)) (by simp [State.joinChecks, h, hs])

section
variable (h : s.joinParamOk o.bytes = true) (hs : s.fab.spans = []) (hlen : s.fab.ports.length = 8)
include h hs

theorem exec_fabricJoin_leave (hleave : rd o.bytes 16 1 = 1) : exec (.fabricJoin r) s = .next
    (((s.disablePorts (List.range 8)).modFab (fun f => { f with joined := false })).finish r.toNat o.id Code.ok) := by
  rw [exec_fabricJoin_pass ho (by simp [State.joinChecks, h, hs, hleave]), if_pos hleave]

include hlen

theorem exec_fabricJoin_taken (hleave : ¬ rd o.bytes 16 1 = 1)
    (ht : ∃ q ∈ s.fab.ports, (q.state = .up ∨ q.state = .slow) ∧ q.partner = rd8 o.bytes 17) :
    exec (.fabricJoin r) s = .next (s.finish r.toNat o.id Code.fabAddr) := by
  refine exec_fabricJoin_fail ho (c := (false, Code.fabAddr)) ?_
  rw [State.joinChecks, (addrTaken_iff hlen _).mpr ht, h, hs, decide_eq_false hleave]
  rfl

omit ho in
theorem joinChecks_join
    (ht : ¬ ∃ q ∈ s.fab.ports, (q.state = .up ∨ q.state = .slow) ∧ q.partner = rd8 o.bytes 17) :
    (s.joinChecks o.bytes).find? (fun c => !c.1) = none := by
  rw [State.joinChecks, Bool.eq_false_iff.mpr (fun ha => ht ((addrTaken_iff hlen _).mp ha)), h, hs, Bool.not_false, Bool.or_true]
  rfl

/-- The routing tables come from host memory. -/
theorem exec_fabricJoin_host {d : List Byte} (hleave : ¬ rd o.bytes 16 1 = 1)
    (ht : ¬ ∃ q ∈ s.fab.ports, (q.state = .up ∨ q.state = .slow) ∧ q.partner = rd8 o.bytes 17)
    (hhbm : rd o.bytes 20 1 = 0) (hp : o.payload = .arrived d) :
    exec (.fabricJoin r) s = .next (((s.join o.bytes d).powerUp []).finish r.toNat o.id Code.ok) := by
  rw [exec_fabricJoin_pass ho (joinChecks_join h hs hlen ht), if_neg hleave, hhbm, if_neg (by simp), withPayload_arrived hp]

/-- The routing tables come from the window. -/
theorem exec_fabricJoin_window {d : List Byte} (hleave : ¬ rd o.bytes 16 1 = 1)
    (ht : ¬ ∃ q ∈ s.fab.ports, (q.state = .up ∨ q.state = .slow) ∧ q.partner = rd8 o.bytes 17)
    (hhbm : rd o.bytes 20 1 = 1) (hp : o.payload = .unread) (hw : s.windowPoisoned (rd o.bytes 24 8) 4608 = false)
    (hb : s.windowBytes (rd o.bytes 24 8) 4608 = d) :
    exec (.fabricJoin r) s = .next ((((s.record 3 d).join o.bytes d).powerUp []).finish r.toNat o.id Code.ok) := by
  rw [exec_fabricJoin_pass ho (joinChecks_join h hs hlen ht), if_neg hleave, hhbm, hw, if_neg (by simp), State.withPayload, hp,
    ← hb]
  rfl

end
end

/-! ## COLLECTIVE_CFG -/

section
variable {s : State} {r : RingId} {o : Op} (ho : Offers s r 0x81 o)

/-- The checks of R437 on a span that is to be removed. -/
def State.removeChecks (s : State) (id : W32) : List (Bool × W32) :=
  [(id != 0, Code.fabParam), (thas s.fab.spans id.toNat && (s.spanJob id).isNone, Code.spanId)]

/-- The checks of R437 on a new span. -/
def State.spanChecks (s : State) (b : List Byte) : List (Bool × W32) :=
  [(rd32 b 16 != 0 && s.spanParamOk b, Code.fabParam),
   (!thas s.fab.spans (rd32 b 16).toNat && decide (s.fab.spans.length < 64), Code.spanId),
   (s.topologyOk (s.spanOfPacket b), Code.spanTopology)]

include ho

theorem exec_collectiveCfg_wait (hc : s.fab.cfg ≠ none) : exec (.collectiveCfg r) s = .next s :=
  congrArg Host.Outcome.next ((ho.withOp _).trans (if_pos (Option.isSome_iff_ne_none.mpr hc)))

variable (hc : s.fab.cfg = none)
include hc

theorem exec_collectiveCfg_remove (hr : (rd8 o.bytes 23).getLsbD 0 = true) : exec (.collectiveCfg r) s = .next
    (s.checked r.toNat o (s.removeChecks (rd32 o.bytes 16))
      (fun s => s.modFab (fun f => { f with spans := tdel f.spans (rd32 o.bytes 16).toNat }))) :=
  congrArg Host.Outcome.next ((ho.withOp _).trans ((if_neg (by rw [hc]; exact Bool.false_ne_true)).trans (if_pos hr)))

theorem exec_collectiveCfg_new (hr : ¬ (rd8 o.bytes 23).getLsbD 0 = true) : exec (.collectiveCfg r) s = .next
    (match (s.spanChecks o.bytes).find? (fun c => !c.1) with
      | some c => s.finish r.toNat o.id c.2
      | none => s.beginSpan r.toNat o (s.spanOfPacket o.bytes)) :=
  congrArg Host.Outcome.next ((ho.withOp _).trans ((if_neg (by rw [hc]; exact Bool.false_ne_true)).trans (if_neg hr)))

theorem exec_collectiveCfg_fail (hr : ¬ (rd8 o.bytes 23).getLsbD 0 = true) {c : Bool × W32}
    (h : (s.spanChecks o.bytes).find? (fun c => !c.1) = some c) :
    exec (.collectiveCfg r) s = .next (s.finish r.toNat o.id c.2) := by
  rw [exec_collectiveCfg_new ho hc hr, h]

/-- A span that exists and that no open job names is removed. -/
theorem exec_collectiveCfg_removed (hr : (rd8 o.bytes 23).getLsbD 0 = true) (hid : rd32 o.bytes 16 ≠ 0)
    (hk : thas s.fab.spans (rd32 o.bytes 16).toNat = true) (hj : s.spanJob (rd32 o.bytes 16) = none) :
    exec (.collectiveCfg r) s = .next (({ s with fab := { s.fab with
      spans := tdel s.fab.spans (rd32 o.bytes 16).toNat } }).finish r.toNat o.id Code.ok) := by
  rw [exec_collectiveCfg_remove ho hc hr, State.checked_ok]
  · rfl
  · rw [State.removeChecks, bne_iff_ne.mpr hid, hk, hj]
    simp

theorem exec_collectiveCfg_kept (hr : (rd8 o.bytes 23).getLsbD 0 = true) (hid : rd32 o.bytes 16 ≠ 0)
    (h : thas s.fab.spans (rd32 o.bytes 16).toNat = false ∨ s.spanJob (rd32 o.bytes 16) ≠ none) :
    exec (.collectiveCfg r) s = .next (s.finish r.toNat o.id Code.spanId) := by
  have hfails : (thas s.fab.spans (rd32 o.bytes 16).toNat && (s.spanJob (rd32 o.bytes 16)).isNone) = false := by
    obtain h | h := h
    · rw [h]
      rfl
    · rw [Option.isNone_eq_false_iff.mpr (Option.isSome_iff_ne_none.mpr h), Bool.and_false]
  rw [exec_collectiveCfg_remove ho hc hr, State.checked_fail (c := (false, Code.spanId))]
  rw [State.removeChecks, bne_iff_ne.mpr hid, hfails]
  rfl

theorem exec_collectiveCfg_param
    (h : rd32 o.bytes 16 = 0 ∨ ¬ (rd8 o.bytes 23).getLsbD 0 = true ∧ s.spanParamOk o.bytes = false) :
    exec (.collectiveCfg r) s = .next (s.finish r.toNat o.id Code.fabParam) := by
  by_cases hr : (rd8 o.bytes 23).getLsbD 0 = true
  · have hid : rd32 o.bytes 16 = 0 := h.resolve_right fun h => h.1 hr
    rw [exec_collectiveCfg_remove ho hc hr, State.checked_fail (c := (false, Code.fabParam))]
    simp [State.removeChecks, hid]
  · refine exec_collectiveCfg_fail ho hc hr (c := (false, Code.fabParam)) ?_
    obtain h | ⟨-, h⟩ := h <;> simp [State.spanChecks, h]

variable (hr : ¬ (rd8 o.bytes 23).getLsbD 0 = true) (hid : rd32 o.bytes 16 ≠ 0) (hp : s.spanParamOk o.bytes = true)
include hr hid hp

theorem exec_collectiveCfg_id (h : thas s.fab.spans (rd32 o.bytes 16).toNat = true ∨ 64 ≤ s.fab.spans.length) :
    exec (.collectiveCfg r) s = .next (s.finish r.toNat o.id Code.spanId) := by
  refine exec_collectiveCfg_fail ho hc hr (c := (false, Code.spanId)) ?_
  have hfails : (!thas s.fab.spans (rd32 o.bytes 16).toNat && decide (s.fab.spans.length < 64)) = false := by
    obtain h | h := h
    · rw [h]
      rfl
    · rw [decide_eq_false (Nat.not_lt.mpr h), Bool.and_false]
  rw [State.spanChecks, hfails, hp, bne_iff_ne.mpr hid]
  rfl

variable (hk : thas s.fab.spans (rd32 o.bytes 16).toNat = false) (hl : s.fab.spans.length < 64)
include hk hl

theorem exec_collectiveCfg_topology (ht : s.topologyOk (s.spanOfPacket o.bytes) = false) :
    exec (.collectiveCfg r) s = .next (s.finish r.toNat o.id Code.spanTopology) := by
  refine exec_collectiveCfg_fail ho hc hr (c := (false, Code.spanTopology)) ?_
  rw [State.spanChecks, hp, bne_iff_ne.mpr hid, hk, decide_eq_true hl, ht]
  rfl

theorem exec_collectiveCfg_begin (ht : s.topologyOk (s.spanOfPacket o.bytes) = true) :
    exec (.collectiveCfg r) s = .next (s.beginSpan r.toNat o (s.spanOfPacket o.bytes)) := by
  rw [exec_collectiveCfg_new ho hc hr, State.spanChecks, hp, bne_iff_ne.mpr hid, hk, decide_eq_true hl, ht]
  rfl

end

/-! ## The exchange of a span's CRC -/

/-- What a frame of the exchange leaves alone: the spans, the configuration in progress and the routing tables. -/
def KeepsCfg (s t : State) : Prop :=
  t.fab.spans = s.fab.spans ∧ t.fab.cfg = s.fab.cfg ∧ t.fab.tables = s.fab.tables ∧ t.fab.addr = s.fab.addr

theorem KeepsCfg.fabErr (s : State) (port : Nat) (code : W32) (ctx : Nat) : KeepsCfg s (s.fabErr port code ctx) := by
  rw [KeepsCfg, fabErr_fab]
  split <;> exact ⟨rfl, rfl, rfl, rfl⟩

/-- A frame for another device is queued on a port, or dropped. -/
theorem KeepsCfg.sendCtrl {s : State} {d : Byte} (hd : (s.fab.route1 8 d).getLsbD 15 = false) (c : Ctrl) :
    KeepsCfg s (s.sendCtrl d c) := by
  unfold State.sendCtrl State.sendData State.routeFrame
  dsimp only
  rw [if_neg (by exact (hd ▸ Bool.false_ne_true))]
  split
  · exact KeepsCfg.fabErr _ ..
  · exact ⟨rfl, rfl, rfl, rfl⟩

theorem KeepsCfg.sendAll (c : Ctrl) (ds : List Byte) (s : State) (h : ∀ d ∈ ds, (s.fab.route1 8 d).getLsbD 15 = false) :
    KeepsCfg s (ds.foldl (fun s d => s.sendCtrl d c) s) := by
  induction ds generalizing s with
  | nil => exact ⟨rfl, rfl, rfl, rfl⟩
  | cons d ds ih =>
    obtain ⟨hs, hc, ht, ha⟩ := KeepsCfg.sendCtrl (h d List.mem_cons_self) c
    obtain ⟨hs', hc', ht', ha'⟩ := ih (s.sendCtrl d c) fun e he => by
      rw [Fab.route1, ht]
      exact h e (List.mem_cons_of_mem _ he)
    exact ⟨hs'.trans hs, hc'.trans hc, ht'.trans ht, ha'.trans ha⟩

/-- An exchange that another member has yet to report in goes on. -/
theorem settleSpan_waits {s : State} {c : SpanCfg} (hc : s.fab.cfg = some c) (hsame : ∀ r ∈ c.reports, r.2 = c.span.crc)
    (hw : ∃ d ∈ c.span.members, d ≠ s.fab.addr ∧ thas c.reports d.toNat = false) : s.settleSpan = s := by
  have hany : c.reports.any (fun r => r.2 != c.span.crc) = false := by
    rw [List.any_eq_false]
    exact fun r hr => by simp [hsame r hr]
  have hall : c.span.members.all (fun d => decide (d = s.fab.addr) || thas c.reports d.toNat) = false := by
    rw [List.all_eq_false]
    obtain ⟨d, hd, hne, hno⟩ := hw
    exact ⟨d, hd, by simp [hne, hno]⟩
  rw [State.settleSpan, hc]
  dsimp only
  rw [hany, hall]
  rfl

theorem endSpanCfg_ok (s : State) (c : SpanCfg) : s.endSpanCfg c Code.ok =
    ({ s with fab := { s.fab with cfg := none, spans := tset s.fab.spans c.id.toNat c.span } }).finish c.ring c.op Code.ok := rfl

theorem endSpanCfg_fail (s : State) (c : SpanCfg) {code : W32} (h : code ≠ Code.ok) : s.endSpanCfg c code =
    ({ s with fab := { s.fab with cfg := none, spans := s.fab.spans } }).finish c.ring c.op code := by
  rw [State.endSpanCfg, State.modFab, if_neg h]

theorem settleSpan_differs {s : State} {c : SpanCfg} (hc : s.fab.cfg = some c) (h : ∃ r ∈ c.reports, r.2 ≠ c.span.crc) :
    s.settleSpan = s.endSpanCfg c Code.spanMismatch := by
  have hany : c.reports.any (fun r => r.2 != c.span.crc) = true := by
    rw [List.any_eq_true]
    obtain ⟨r, hr, hne⟩ := h
    exact ⟨r, hr, bne_iff_ne.mpr hne⟩
  rw [State.settleSpan, hc]
  exact if_pos hany

theorem settleSpan_complete {s : State} {c : SpanCfg} (hc : s.fab.cfg = some c) (hsame : ∀ r ∈ c.reports, r.2 = c.span.crc)
    (h : ∀ d ∈ c.span.members, d = s.fab.addr ∨ thas c.reports d.toNat = true) : s.settleSpan = s.endSpanCfg c Code.ok := by
  have hany : c.reports.any (fun r => r.2 != c.span.crc) = false := by
    rw [List.any_eq_false]
    exact fun r hr => by simp [hsame r hr]
  have hall : c.span.members.all (fun d => decide (d = s.fab.addr) || thas c.reports d.toNat) = true := by
    rw [List.all_eq_true]
    exact fun d hd => by simpa using h d hd
  rw [State.settleSpan, hc]
  dsimp only
  rw [hany, hall]
  rfl

/-- The CRC goes out to the other members, and the exchange waits for theirs. -/
theorem exchange_waits {s : State} {c : SpanCfg} (x : Ctrl) (hc : s.fab.cfg = some c) (hr : c.reports = [])
    (hm : ∃ d ∈ c.span.members, d ≠ s.fab.addr)
    (hroute : ∀ d ∈ c.span.members, d ≠ s.fab.addr → (s.fab.route1 8 d).getLsbD 15 = false) :
    KeepsCfg s ((c.span.members.filter (· != s.fab.addr)).foldl (fun s d => s.sendCtrl d x) s).settleSpan := by
  have hkeeps := KeepsCfg.sendAll x (c.span.members.filter (· != s.fab.addr)) s fun d hd => by
    obtain ⟨hmem, hne⟩ := List.mem_filter.mp hd
    exact hroute d hmem (bne_iff_ne.mp hne)
  obtain ⟨-, hcfg, -, haddr⟩ := id hkeeps
  rw [settleSpan_waits (hcfg.trans hc)]
  · exact hkeeps
  · simp [hr]
  · obtain ⟨d, hd, hne⟩ := hm
    rw [haddr, hr]
    exact ⟨d, hd, hne, rfl⟩

/-- A new configuration is in progress, without a report. -/
theorem beginSpan_begins {s : State} {r : RingId} {o : Op} {p : Span} (he : s.fab.early = [])
    (hm : ∃ d ∈ p.members, d ≠ s.fab.addr) (hroute : ∀ d ∈ p.members, d ≠ s.fab.addr → (s.fab.route1 8 d).getLsbD 15 = false) :
    (s.beginSpan r.toNat o p).fab.spans = s.fab.spans ∧ (s.beginSpan r.toNat o p).fab.cfg = some
      { id := rd32 o.bytes 16, span := p, ring := r.toNat, op := o.id, at_ := s.now, reports := [] } := by
  obtain ⟨g, hg⟩ := beginOp_ring s r o.id
  unfold State.beginSpan
  rw [hg, he]
  obtain ⟨hspans, hcfg, -, -⟩ := exchange_waits (s := ({ s with ring := g } : State).modFab fun f => { f with
    early := f.early.filter (fun e => e.2.1 != rd32 o.bytes 16)
    cfg := some { id := rd32 o.bytes 16, span := p, ring := r.toNat, op := o.id, at_ := s.now, reports := [] } })
    (.spanCrc (rd32 o.bytes 16) p.crc) rfl rfl hm hroute
  exact ⟨hspans, hcfg⟩

theorem exec_spanConfigTimeout_late {s : State} {c : SpanCfg} (hc : s.fab.cfg = some c) (ht : s.passed c.at_ (100 * ticksPerMs) = true) :
    exec .spanConfigTimeout s = .next (s.endSpanCfg c Code.spanTimeout) := by
  simp only [exec, execSpanConfigTimeout, hc, ht, if_true]

theorem exec_spanConfigTimeout_early {s : State} {c : SpanCfg} (hc : s.fab.cfg = some c)
    (ht : s.passed c.at_ (100 * ticksPerMs) = false) : exec .spanConfigTimeout s = .next s := by
  simp only [exec, execSpanConfigTimeout, hc, ht, Bool.false_eq_true, if_false]

/-! ## The statement -/

/-- A port that a JOIN enables, in each of its states (R426, R436). -/
theorem join_cases {q : Port} {unquar n : Bool} {now : W64} :
    (q.state = .disabled → q.join unquar n now = { q with state := .down, since := now }) ∧
    (q.state = .quarantined → q.join unquar n now = if unquar then { q with state := .down, since := now } else q) ∧
    (q.state = .failed ∨ q.state = .down ∨ q.state = .training ∨ q.state = .auth → q.join unquar n now = q) ∧
    (q.state = .up ∨ q.state = .slow → q.join unquar n now = { q with reauth := q.reauth || n }) := by
  refine ⟨fun h => ?_, fun h => ?_, fun h => ?_, fun h => ?_⟩
  · rw [Port.join, h]
  · rw [Port.join, h]
  · obtain h | h | h | h := h <;> rw [Port.join, h]
  · obtain h | h := h <;> rw [Port.join, h]

/-- Settles O52: FABRIC_JOIN's checks and ports, COLLECTIVE_CFG's checks, and the end of its exchange. -/
theorem fabricJoinsAndSpans : Obligations.FabricJoinsAndSpans := by
  refine ⟨fun s r o ho => ?_, fun s r o ho => ?_, fun _ _ _ _ => rfl, fun s c hc => ?_⟩
  · intro b leave taken off anchor hlen
    refine ⟨exec_fabricJoin_param ho, exec_fabricJoin_busy ho, fun h hs => exec_fabricJoin_taken ho h hs hlen,
      exec_fabricJoin_leave ho, fun d h hs hleave ht => ⟨exec_fabricJoin_host ho h hs hlen hleave ht,
        exec_fabricJoin_window ho h hs hlen hleave ht⟩, fun hidle => ⟨disablePorts_all hidle hlen, fun d => ?_⟩⟩
    refine ⟨s.joinedPorts b, join_idle hidle b d, (length_joinedPorts s b).trans hlen, fun i q hq => ?_⟩
    refine ⟨_, getElem?_joinedPorts hlen b hq, fun hoff => ?_, fun hon => ?_⟩
    · rw [hoff]
      rfl
    · rw [if_pos hon]
      obtain ⟨h1, h2, h3, h4⟩ := join_cases (q := q) (unquar := (rd8 b 19).getLsbD i) (n := joinAnchor b != s.fab.anchor) (now := s.now)
      refine ⟨h1, h2, h3, fun h => (h4 h).trans ?_⟩
      have hn : (joinAnchor b != s.fab.anchor) = decide (joinAnchor b ≠ s.fab.anchor) := by
        rw [Bool.eq_iff_iff, bne_iff_ne, decide_eq_true_iff]
      rw [hn]
      rfl
  · intro b id remove p
    exact ⟨exec_collectiveCfg_wait ho, fun hc => ⟨exec_collectiveCfg_removed ho hc, exec_collectiveCfg_kept ho hc,
      exec_collectiveCfg_param ho hc, fun hr hid hp => ⟨exec_collectiveCfg_id ho hc hr hid hp,
        exec_collectiveCfg_topology ho hc hr hid hp, fun hk hl ht => ⟨exec_collectiveCfg_begin ho hc hr hid hp hk hl ht,
          beginSpan_begins⟩⟩⟩⟩
  · have hmismatch := endSpanCfg_fail s c (code := Code.spanMismatch) (by decide)
    have htimeout := endSpanCfg_fail s c (code := Code.spanTimeout) (by decide)
    exact ⟨fun h => (settleSpan_differs hc h).trans hmismatch,
      fun hsame => ⟨fun h => settleSpan_complete hc hsame h, settleSpan_waits hc hsame⟩,
      fun ht => (exec_spanConfigTimeout_late hc ht).trans (congrArg Host.Outcome.next htimeout), exec_spanConfigTimeout_early hc⟩

end Sys2Proof.Machine
end

section
/-!
The actions of HEARTH_ACTION and the end of a drain (R498, R502, R506, R510, R511, R514).
-/
namespace Sys2Proof.Machine

/-- The state in which an armed write of HEARTH_ACTION takes effect. -/
def State.disarmed (s : State) (a : Byte) : State :=
  { s with glb := { s.glb with armed := clearBit s.glb.armed 14 }, hearth := { s.hearth with action := a } }

section
variable {s : State} (hd : s.glb.dev ≠ .off)

/-! ## The write -/

section
variable (hu : s.regsUp = true) (hl : s.porch.low = none) (a : Byte)
include hu hl

theorem hearthAction_unarmed (h : s.glb.armed.getLsbD 14 = false) : s.hearthAction a = s :=
  (hostWriteReg_low hu hl _).trans (if_pos (by rw [h]; rfl))

theorem hearthAction_busy (h : s.glb.armed.getLsbD 14 = true) (hm : s.hearth.mbox ≠ none) : s.hearthAction a = { s with
    glb := { s.glb with armed := clearBit s.glb.armed 14 }, hearth := { s.hearth with action := a, actionWaits := some a } } :=
  (hostWriteReg_low hu hl _).trans ((if_neg (by rw [h]; exact Bool.false_ne_true)).trans
    (if_pos (Option.isSome_iff_ne_none.mpr hm)))

theorem hearthAction_applies (h : s.glb.armed.getLsbD 14 = true) (hm : s.hearth.mbox = none) :
    s.hearthAction a = (s.disarmed a).applyAction a :=
  (hostWriteReg_low hu hl _).trans ((if_neg (by rw [h]; exact Bool.false_ne_true)).trans
    (if_neg (by rw [State.modHearth, State.modGlobal, hm]; exact Bool.false_ne_true)))

end

/-! ## What each action does -/

include hd

theorem applyAction_drain : s.applyAction actDrain =
    if s.glb.dev == .serving || s.glb.dev == .maintenance then
      (((s.setResult Code.ok).modGlobal (fun g => { g with drainFrom := g.dev })).closeViews).setDev .draining
    else s.setResult Code.actionState := by
  rw [State.applyAction, if_neg (by rw [dev_off hd]; exact Bool.false_ne_true), if_neg (by decide), if_neg (by decide), if_pos rfl]

theorem applyAction_resume : s.applyAction actResume =
    if s.glb.dev == .held && s.glb.reason == .drained then (s.setResult Code.ok).setDev s.glb.drainFrom
    else s.setResult Code.actionState := by
  rw [State.applyAction, if_neg (by rw [dev_off hd]; exact Bool.false_ne_true), if_neg (by decide), if_neg (by decide),
    if_neg (by decide), if_pos rfl]

theorem applyAction_maintEnter : s.applyAction actMaintEnter =
    if (s.glb.dev == .held && s.glb.reason == .drained) || (s.glb.dev == .held && s.glb.reason == .unconfigured) then
      (if s.glb.layout.isNone then (s.setResult Code.ok).applyLayout s.defaultLayout [] else s.setResult Code.ok).setDev .maintenance
    else s.setResult Code.actionState := by
  rw [State.applyAction, if_neg (by rw [dev_off hd]; exact Bool.false_ne_true), if_neg (by decide), if_neg (by decide),
    if_neg (by decide), if_neg (by decide), if_pos rfl]

theorem applyAction_maintExit : s.applyAction actMaintExit =
    if s.glb.dev != .maintenance then s.setResult Code.actionState
    else if s.glb.maint then s.setResult Code.maintStrap
    else (s.setResult Code.ok).setDev .serving := by
  rw [State.applyAction, if_neg (by rw [dev_off hd]; exact Bool.false_ne_true), if_neg (by decide), if_neg (by decide),
    if_neg (by decide), if_neg (by decide), if_neg (by decide), if_pos rfl]

theorem applyAction_override : s.applyAction actOverride =
    if !(s.glb.dev == .held && s.glb.reason == .fwMismatch) then s.setResult Code.actionState
    else if !s.part.debug then s.setResult Code.fwLocked
    else ((s.setResult Code.ok).modGlobal (fun g => { g with dev := .starting, reason := .none, cause := 0, override := true })).modHearth
      (fun h => { h with start := some (false, .overridden) }) := by
  rw [State.applyAction, if_neg (by rw [dev_off hd]; exact Bool.false_ne_true), if_neg (by decide), if_neg (by decide),
    if_neg (by decide), if_neg (by decide), if_neg (by decide), if_neg (by decide), if_pos rfl]


/-! ## Where each action takes effect -/

omit hd in
theorem heldFor_iff {u : State} (w : HeldReason) : (u.glb.dev == .held && u.glb.reason == w) = true ↔ u.glb.dev = .held ∧ u.glb.reason = w := by
  rw [Bool.and_eq_true, beq_iff_eq, beq_iff_eq]

theorem drain_serving (h : s.glb.dev = .serving ∨ s.glb.dev = .maintenance) : s.applyAction actDrain =
    (((s.setResult Code.ok).modGlobal (fun g => { g with drainFrom := g.dev })).closeViews).setDev .draining := by
  rw [applyAction_drain hd, if_pos (by rw [Bool.or_eq_true, beq_iff_eq, beq_iff_eq]; exact h)]

theorem drain_refused (h : ¬ (s.glb.dev = .serving ∨ s.glb.dev = .maintenance)) :
    s.applyAction actDrain = s.setResult Code.actionState := by
  rw [applyAction_drain hd, if_neg (by rw [Bool.or_eq_true, beq_iff_eq, beq_iff_eq]; exact h)]

theorem resume_drained (h : s.glb.dev = .held ∧ s.glb.reason = .drained) :
    s.applyAction actResume = (s.setResult Code.ok).setDev s.glb.drainFrom := by
  rw [applyAction_resume hd, if_pos ((heldFor_iff _).mpr h)]

theorem resume_refused (h : ¬ (s.glb.dev = .held ∧ s.glb.reason = .drained)) :
    s.applyAction actResume = s.setResult Code.actionState := by
  rw [applyAction_resume hd, if_neg (mt (heldFor_iff _).mp h)]

theorem maintEnter_held (h : (s.glb.dev = .held ∧ s.glb.reason = .drained) ∨ s.glb.dev = .held ∧ s.glb.reason = .unconfigured) :
    s.applyAction actMaintEnter =
      (if s.glb.layout.isNone then (s.setResult Code.ok).applyLayout s.defaultLayout [] else s.setResult Code.ok).setDev .maintenance := by
  rw [applyAction_maintEnter hd, if_pos (by rw [Bool.or_eq_true, heldFor_iff, heldFor_iff]; exact h)]

theorem maintEnter_refused (hdr : ¬ (s.glb.dev = .held ∧ s.glb.reason = .drained))
    (hun : ¬ (s.glb.dev = .held ∧ s.glb.reason = .unconfigured)) : s.applyAction actMaintEnter = s.setResult Code.actionState := by
  rw [applyAction_maintEnter hd, if_neg (by rw [Bool.or_eq_true, heldFor_iff, heldFor_iff]; exact not_or.mpr ⟨hdr, hun⟩)]

theorem maintExit_free (h : s.glb.dev = .maintenance) (hm : s.glb.maint = false) :
    s.applyAction actMaintExit = (s.setResult Code.ok).setDev .serving := by
  rw [applyAction_maintExit hd, if_neg (by rw [h]; decide), if_neg (by rw [hm]; exact Bool.false_ne_true)]

theorem maintExit_strapped (h : s.glb.dev = .maintenance) (hm : s.glb.maint = true) :
    s.applyAction actMaintExit = s.setResult Code.maintStrap := by
  rw [applyAction_maintExit hd, if_neg (by rw [h]; decide), if_pos hm]

theorem maintExit_refused (h : s.glb.dev ≠ .maintenance) : s.applyAction actMaintExit = s.setResult Code.actionState := by
  rw [applyAction_maintExit hd, if_pos (bne_iff_ne.mpr h)]

theorem override_refused (h : ¬ (s.glb.dev = .held ∧ s.glb.reason = .fwMismatch)) :
    s.applyAction actOverride = s.setResult Code.actionState := by
  rw [applyAction_override hd, if_pos (by rw [Bool.eq_false_iff.mpr (mt (heldFor_iff _).mp h)]; rfl)]

theorem override_locked (h : s.glb.dev = .held ∧ s.glb.reason = .fwMismatch) (hf : s.part.debug = false) :
    s.applyAction actOverride = s.setResult Code.fwLocked := by
  rw [applyAction_override hd, if_neg (by rw [(heldFor_iff _).mpr h]; decide), if_pos (by rw [hf]; rfl)]

theorem override_debug (h : s.glb.dev = .held ∧ s.glb.reason = .fwMismatch) (hf : s.part.debug = true) :
    s.applyAction actOverride =
      ((s.setResult Code.ok).modGlobal (fun g => { g with dev := .starting, reason := .none, cause := 0, override := true })).modHearth
        (fun h => { h with start := some (false, .overridden) }) := by
  rw [applyAction_override hd, if_neg (by rw [(heldFor_iff _).mpr h]; decide), if_neg (by rw [hf]; decide)]

end

theorem regsUp_of {s : State} (hd : s.glb.dev ≠ .off) (hp : s.porch.up = true) (hm : s.porch.cfg.mse = true) : s.regsUp = true := by
  rw [State.regsUp, bne_iff_ne.mpr hd, hp, hm]
  rfl

theorem exec_drainComplete_quiet {s : State} (h : s.glb.dev = .draining) (hq : s.quiet = true) : exec .drainComplete s =
    .next { s with glb := { s.glb with dev := .held, reason := .drained, cause := 0 } } :=
  congrArg Host.Outcome.next (if_pos (by rw [h, hq]; rfl))

theorem exec_drainComplete_waits {s : State} (h : s.glb.dev ≠ .draining ∨ s.quiet = false) : exec .drainComplete s = .next s := by
  refine congrArg Host.Outcome.next (if_neg ?_)
  rw [Bool.and_eq_true, beq_iff_eq, not_and]
  exact fun hdr hq => h.elim (· hdr) fun h => Bool.false_ne_true (h.symm.trans hq)

/-- A layout comes into force where no Strongroom is preserved. -/
theorem applyLayout_plain {s : State} (h : s.hearth.preserved = none) (l : Layout) (b : List Byte) : s.applyLayout l b =
    { s with glb := { s.glb with layout := some l }, hearth := { s.hearth with lastLayout := some l, blob := b } } := by
  simp only [State.applyLayout, h]

/-- The commands that write HEARTH_ACTION, with the action each writes. -/
theorem exec_action (s : State) :
    ∀ x ∈ [(Instr.restartWarm, 1#8), (.restartCold, 2), (.drain, 3), (.resume, 4), (.maintEnter, 5), (.maintExit, 6), (.override, 7)],
      exec x.1 s = .next (s.hearthAction x.2) := by
  simp only [List.forall_mem_cons]
  exact ⟨rfl, rfl, rfl, rfl, rfl, rfl, rfl, fun x hx => absurd hx List.not_mem_nil⟩

/-- Settles O57: the write of an action, then what each action does in each state. -/
theorem actions : Obligations.Actions := by
  refine ⟨fun s hd hp hm hl x hx => ?_, fun s hd hp hm ha hb hl => ?_⟩
  · have hu := regsUp_of hd hp hm
    rw [exec_action s x hx]
    exact ⟨fun h => congrArg _ (hearthAction_unarmed hu hl x.2 h), fun h hb => congrArg _ (hearthAction_busy hu hl x.2 h hb)⟩
  · intro took goes drained fresh stuck
    have put : ∀ {a : Byte} {t : State}, (s.disarmed a).applyAction a = t → (Host.Outcome.next (s.hearthAction a) : Outcome) = .next t :=
      fun h => congrArg _ ((hearthAction_applies (regsUp_of hd hp hm) hl _ ha hb).trans h)
    refine ⟨fun h => put (drain_serving hd h), fun h => put (drain_refused hd h), fun h => put (resume_drained hd h),
      fun h => put (resume_refused hd h), fun h hlay => put ?_, fun h hlay hpre => put ?_,
      fun h1 h2 => put (maintEnter_refused hd h1 h2), fun h h' => put (maintExit_free hd h h'),
      fun h h' => put (maintExit_strapped hd h h'), fun h => put (maintExit_refused hd h), fun h h' => put (override_debug hd h h'),
      fun h h' => put (override_locked hd h h'), fun h => put (override_refused hd h), exec_drainComplete_quiet,
      exec_drainComplete_waits⟩
    · refine (maintEnter_held (s := s.disarmed 5) hd h).trans (congrArg (State.setDev · .maintenance) (if_neg ?_))
      exact mt Option.isNone_iff_eq_none.mp hlay
    · refine (maintEnter_held (s := s.disarmed 5) hd (.inr h)).trans (congrArg (State.setDev · .maintenance) ((if_pos ?_).trans ?_))
      · exact Option.isNone_iff_eq_none.mpr hlay
      · exact applyLayout_plain (s := (s.disarmed 5).setResult Code.ok) hpre _ _

end Sys2Proof.Machine
end

section
/-!
CONFIGURE (R507 to R511).
-/
namespace Sys2Proof.Machine

/-- Two scrubs inside a range leave every byte outside it. -/
theorem byte_scrub_scrub (m : Mem) {lo a b hi x : Nat} (ha : a ≤ hi) (hb : lo ≤ b) (hx : x < lo ∨ hi ≤ x) :
    ((m.scrub lo a).scrub b hi).dram.byte x = m.dram.byte x := by
  refine (Memory.byte_zero _ ?_).trans (Memory.byte_zero _ ?_) <;> omega

/-- The state with a layout in force, and memory with contents `d` and poison `p`. -/
def State.withLayout (s : State) (l : Layout) (blob : List Byte) (d : Memory) (p : List Nat) : State := { s with
  glb := { s.glb with layout := some l }, hearth := { s.hearth with lastLayout := some l, preserved := none, blob := blob }
  mem := { s.mem with dram := d, poison := p } }

/-- A layout comes into force: of the memory only a preserved Strongroom's range may change (R509). -/
theorem applyLayout_form (s : State) (l : Layout) (blob : List Byte) : ∃ d p,
    s.applyLayout l blob = s.withLayout l blob d p ∧
    (∀ a, (∀ q, s.hearth.preserved = some q → a < q.1 * 2 ^ 20 ∨ (q.1 + q.2) * 2 ^ 20 ≤ a) → d.byte a = s.mem.dram.byte a) ∧
    (s.hearth.preserved = none → ({ s.mem with dram := d, poison := p } : Mem) = s.mem) := by
  unfold State.applyLayout
  cases hp : s.hearth.preserved with
  | none => exact ⟨s.mem.dram, s.mem.poison, rfl, fun _ _ => rfl, fun _ => rfl⟩
  | some q =>
    refine ⟨_, _, rfl, fun a ha => ?_, fun h => absurd h (by simp)⟩
    have hout := ha q rfl
    exact byte_scrub_scrub s.mem (by omega) (by omega) hout

/-- The body of CONFIGURE on a packet of the mailbox that passes every check. -/
theorem exec_configure {s : State} {o : Op} {b : List Byte} (hm : s.hearth.mbox = some o) (h1 : o.started = false) (h2 : o.fin = none)
    (h3 : o.opcode = 0x02) (hlen : rd o.bytes 16 4 = 128) (hal : rd o.bytes 24 8 % 64 = 0) (hd : s.glb.dev = .held)
    (hr : s.glb.reason = .unconfigured) (hp : o.payload = .arrived b) (hc : ∀ c ∈ s.blobChecks b, c.1 = true) :
    exec (.configure .mailbox) s = .next (((s.applyLayout { win := rd b 12 4, strong := rd b 16 4, save := rd b 20 4 } b).setDev
      (if (s.applyLayout { win := rd b 12 4, strong := rd b 16 4, save := rd b 20 4 } b).glb.maint then .maintenance else .serving)).finish
      mboxRing o.id Code.ok).afterMbox := by
  refine congrArg (fun t => Host.Outcome.next (State.afterMbox t)) ((withOp_mbox hm h1 h2 h3 _).trans ?_)
  refine (if_neg ?_).trans ((if_neg ?_).trans ?_)
  · rw [(heldFor_iff _).mpr ⟨hd, hr⟩]
    decide
  · rw [hlen, hal]
    decide
  · rw [withPayload_arrived hp, State.checked_ok hc]
    rfl

/-- Settles O20: the checks pass, the layout comes into force, and the packet completes. -/
theorem configures : Obligations.Configures := by
  intro s o b hw hm h1 h2 h3 hlen hal hd hr hp hc
  obtain ⟨d, p, happly, hbyte, hmem⟩ := applyLayout_form s { win := rd b 12 4, strong := rd b 16 4, save := rd b 20 4 } b
  have hexec := exec_configure hm h1 h2 h3 hlen hal hd hr hp hc
  rw [happly] at hexec
  obtain ⟨c, hcpl, hfin⟩ := finish_mbox (o := o) (s := (s.withLayout { win := rd b 12 4, strong := rd b 16 4, save := rd b 20 4 } b d p).setDev
    (if s.glb.maint then .maintenance else .serving)) hm Code.ok
  have hend := hexec.trans (congrArg Host.Outcome.next ((congrArg State.afterMbox hfin).trans (afterMbox_none hw)))
  exact ⟨_, hend, rfl, rfl, rfl, rfl, rfl, hcpl, rfl, hbyte, hmem, rfl⟩

end Sys2Proof.Machine
end

section
/-!
Recordings and replays (R477 to R480).
-/
namespace Sys2Proof.Machine

/-! ## Entries -/

theorem length_padTo (n : Nat) (b : List Byte) : (padTo n b).length = n := by
  simp only [padTo, slice, List.drop_zero, List.length_append, List.length_take, List.length_replicate]
  omega

theorem length_recState (s : State) : s.recState.length = 20 := by
  simp [State.recState, le64, leBytes_length]

theorem length_recEntry (kind : Nat) (beat : W64) (body : List Byte) :
    (recEntry kind beat body).length = 16 * ceilDiv (16 + body.length) 16 := length_padTo _ _

theorem length_stateEntry (s : State) (beat : W64) : (recEntry 1 beat s.recState).length = 48 := by
  rw [length_recEntry, length_recState]
  rfl

/-- The state with another recovery unit. -/
def State.setRas (s : State) (x : Ras) : State := { s with ras := x }

/-- A data write depends on the recovery unit only through the replay in progress, and leaves it as it is. -/
theorem dataWrite_setRas {s : State} {x : Ras} (h : x.replay = s.ras.replay) (a : Nat) (b : List Byte) :
    (s.setRas x).dataWrite a b = (s.dataWrite a b).setRas x := by
  have hsilent : (s.setRas x).silent = s.silent := by rw [State.silent, State.silent, State.setRas, h]
  unfold State.dataWrite State.hostWrite
  rw [hsilent]
  by_cases hnone : (s.silent || b.isEmpty) = true
  · rw [if_pos hnone, if_pos hnone]
  · rw [if_neg hnone, if_neg hnone]
    by_cases hb : s.porch.cfg.bme = true
    · rw [if_pos hb]
      exact if_pos hb
    · rw [if_neg hb]
      exact if_neg hb

/-- An entry that fits is written behind the others. -/
theorem record_fits {s : State} {x : Recording} {kind : Nat} {body : List Byte} (hr : s.ras.recording = some x)
    (hf : x.full = false) (hfit : x.used + (recEntry kind s.plan.beat body).length ≤ x.size) :
    s.record kind body = (s.dataWrite (x.addr.toNat + x.used) (recEntry kind s.plan.beat body)).setRas { s.ras with
      recording := some { x with used := x.used + (recEntry kind s.plan.beat body).length, entries := x.entries + 1 }
      recMib := satNat 30 ((x.used + (recEntry kind s.plan.beat body).length) / 1048576) } := by
  simp only [State.record, hr, hf, Bool.false_eq_true, if_false, hfit, if_true, State.dataWrite_ras, State.setRas]

/-- A recording that has just begun. -/
def Recording.fresh (a : W64) (size : Nat) : Recording := { addr := a, size := size, used := 0, entries := 0, full := false }

/-- The STATE entry opens a recording of at least 1 MiB. -/
theorem record_state (s : State) (a : W64) {size : Nat} (hs : 2 ^ 20 ≤ size) :
    (s.setRas { s.ras with recording := some (.fresh a size), recMib := 0 }).record 1 s.recState =
      (s.dataWrite a.toNat (recEntry 1 s.plan.beat s.recState)).setRas { s.ras with recMib := 0, recording := some {
          addr := a, size := size, used := (recEntry 1 s.plan.beat s.recState).length, entries := 1, full := false } } := by
  have hlen := length_stateEntry s s.plan.beat
  have hfit : 0 + (recEntry 1 s.plan.beat s.recState).length ≤ size := by omega
  have hmib : satNat 30 ((0 + (recEntry 1 s.plan.beat s.recState).length) / 1048576) = 0 := by rw [hlen]; decide
  have hwrite := dataWrite_setRas (s := s) (x := { s.ras with recording := some (.fresh a size), recMib := 0 }) rfl
  rw [record_fits (s := s.setRas { s.ras with recording := some (.fresh a size), recMib := 0 }) (x := .fresh a size) rfl rfl hfit,
    hwrite]
  dsimp only [Recording.fresh, State.setRas]
  rw [hmib, Nat.zero_add]
  rfl

/-! ## RECORD_START and RECORD_STOP -/

theorem recRange_iff (b : List Byte) : recRange b = true ↔
    rd b 16 8 % 4096 = 0 ∧ rd b 24 8 % 4096 = 0 ∧ 2 ^ 20 ≤ rd b 24 8 ∧ rd b 24 8 ≤ 2 ^ 40 := decide_eq_true_iff

theorem noObjects_iff (s : State) : s.noObjects = true ↔
    s.plan.jobs = [] ∧ s.larder.pools = [] ∧ s.video.streams = [] ∧ s.video.views = [] ∧ s.fab.spans = [] := by
  simp only [State.noObjects, Bool.and_eq_true, List.isEmpty_iff, and_assoc]

section
variable {s : State} {r : RingId} {o : Op}

/-- The checks of RECORD_START in order (R477). -/
def State.recordChecks (s : State) (b : List Byte) : List (Bool × W32) :=
  [(recRange b, Code.recParam), (s.glb.dev == .serving && s.noObjects && s.ras.recording.isNone, Code.recState)]

theorem mayRecord_iff : (s.glb.dev == .serving && s.noObjects && s.ras.recording.isNone) = true ↔ s.glb.dev = .serving ∧
    (s.plan.jobs = [] ∧ s.larder.pools = [] ∧ s.video.streams = [] ∧ s.video.views = [] ∧ s.fab.spans = []) ∧
    s.ras.recording = none := by
  rw [Bool.and_eq_true, Bool.and_eq_true, beq_iff_eq, noObjects_iff, Option.isNone_iff_eq_none, and_assoc]

theorem exec_recordStart (ho : Offers s r 0xF0 o) : exec (.recordStart r) s = .next (s.checked r.toNat o (s.recordChecks o.bytes)
    (fun s => (s.modRas (fun x => { x with
      recording := some (.fresh (rd64 o.bytes 16) (rd o.bytes 24 8)), recMib := 0 })).record 1 s.recState)) :=
  congrArg Host.Outcome.next (ho.withOp _)

theorem exec_recordStart_range (ho : Offers s r 0xF0 o) (h : ¬ recRange o.bytes = true) :
    exec (.recordStart r) s = .next (s.finish r.toNat o.id Code.recParam) := by
  rw [exec_recordStart ho, State.checked_fail (c := (false, Code.recParam))]
  rw [State.recordChecks, Bool.eq_false_iff.mpr h]
  rfl

theorem exec_recordStart_state (ho : Offers s r 0xF0 o) (h : recRange o.bytes = true)
    (hs : ¬ (s.glb.dev == .serving && s.noObjects && s.ras.recording.isNone) = true) :
    exec (.recordStart r) s = .next (s.finish r.toNat o.id Code.recState) := by
  rw [exec_recordStart ho, State.checked_fail (c := (false, Code.recState))]
  rw [State.recordChecks, h, Bool.eq_false_iff.mpr hs]
  rfl

theorem exec_recordStart_begins (ho : Offers s r 0xF0 o) (h : recRange o.bytes = true)
    (hs : (s.glb.dev == .serving && s.noObjects && s.ras.recording.isNone) = true) :
    exec (.recordStart r) s = .next (({ s.dataWrite (rd64 o.bytes 16).toNat (recEntry 1 s.plan.beat s.recState) with ras := { s.ras with
      recMib := 0, recording := some {
        addr := rd64 o.bytes 16, size := rd o.bytes 24 8, used := (recEntry 1 s.plan.beat s.recState).length, entries := 1
        full := false } } }).finish r.toNat o.id Code.ok) := by
  obtain ⟨-, -, hsize, -⟩ := (recRange_iff _).mp h
  rw [exec_recordStart ho, State.checked_ok]
  · exact congrArg (fun t => Host.Outcome.next (State.finish t r.toNat o.id Code.ok)) (record_state s _ hsize)
  · simp only [State.recordChecks, List.forall_mem_cons]
    exact ⟨h, hs, fun c hc => absurd hc List.not_mem_nil⟩

theorem exec_recordStop_none (ho : Offers s r 0xF1 o) (h : s.ras.recording = none) :
    exec (.recordStop r) s = .next (s.finish r.toNat o.id Code.recState) := by
  refine congrArg Host.Outcome.next ((ho.withOp _).trans ?_)
  rw [h]

/-- The END entry is written, and the recording is over. -/
theorem exec_recordStop_end (ho : Offers s r 0xF1 o) {x : Recording} (h : s.ras.recording = some x) (hf : x.full = false) :
    exec (.recordStop r) s = .next (({ s.dataWrite (x.addr.toNat + x.used) (recEntry 5 s.plan.beat (leBytes 4 (x.entries + 1))) with
      ras := { s.ras with recording := none } }).finish r.toNat o.id Code.ok) := by
  refine congrArg Host.Outcome.next ((ho.withOp _).trans ?_)
  simp only [h, hf, Bool.false_eq_true, if_false, State.modRas, State.dataWrite_ras]

theorem exec_recordStop_full (ho : Offers s r 0xF1 o) {x : Recording} (h : s.ras.recording = some x) (hf : x.full = true) :
    exec (.recordStop r) s = .next (({ s with ras := { s.ras with recording := none } }).finish r.toNat o.id Code.recFull) := by
  refine congrArg Host.Outcome.next ((ho.withOp _).trans ?_)
  simp only [h, hf, if_true, State.modRas]

/-! ## REPLAY -/

theorem exec_replay_range (ho : Offers s r 0xF2 o) (h : ¬ recRange o.bytes = true) :
    exec (.replay r) s = .next (s.finish r.toNat o.id Code.recParam) :=
  congrArg Host.Outcome.next ((ho.withOp _).trans (if_pos (by rw [Bool.eq_false_iff.mpr h]; rfl)))

theorem mayReplay_iff : (s.glb.dev != .maintenance || !s.plan.jobs.isEmpty || s.ras.replay.isSome) = false ↔
    s.glb.dev = .maintenance ∧ s.plan.jobs = [] ∧ s.ras.replay = none := by
  rw [Bool.or_eq_false_iff, Bool.or_eq_false_iff, bne_eq_false_iff_eq, Bool.not_eq_false', List.isEmpty_iff,
    Option.isSome_eq_false_iff, Option.isNone_iff_eq_none, and_assoc]

theorem exec_replay_state (ho : Offers s r 0xF2 o) (h : recRange o.bytes = true)
    (hs : ¬ (s.glb.dev = .maintenance ∧ s.plan.jobs = [] ∧ s.ras.replay = none)) :
    exec (.replay r) s = .next (s.finish r.toNat o.id Code.recState) :=
  congrArg Host.Outcome.next ((ho.withOp _).trans ((if_neg (by rw [h]; exact Bool.false_ne_true)).trans
    (if_pos (Bool.not_eq_false _ |>.mp (mt mayReplay_iff.mp hs)))))

theorem exec_replay_reads (ho : Offers s r 0xF2 o) (h : recRange o.bytes = true)
    (hs : s.glb.dev = .maintenance ∧ s.plan.jobs = [] ∧ s.ras.replay = none) : exec (.replay r) s =
    .next (s.withPayload r.toNat o false (rd o.bytes 16 8) (rd o.bytes 24 8) (fun b s =>
      if rd b 0 1 != 1 || slice b 16 16 != le64 (s.dkey s.video.conceal) ++ le64 s.mem.nrSeed then
        s.finish r.toNat o.id Code.replayState
      else
        (s.beginOp r.toNat o.id).modRas (fun x =>
          { x with recMib := 0,
                   replay := some { ring := r.toNat, op := o.id, bytes := b, pos := rd b 4 4, base := none, running := [],
                                    results := [] } }))) :=
  congrArg Host.Outcome.next ((ho.withOp _).trans ((if_neg (by rw [h]; exact Bool.false_ne_true)).trans
    (if_neg (by rw [mayReplay_iff.mpr hs]; exact Bool.false_ne_true))))

end
end Sys2Proof.Machine
end

section
/-!
REPLAY and REPLAY_PACKET (R480).
-/
namespace Sys2Proof.Machine

section
variable {s : State} {r : RingId} {o : Op} (ho : Offers s r 0xF2 o) (h : recRange o.bytes = true)
  (hs : s.glb.dev = .maintenance ∧ s.plan.jobs = [] ∧ s.ras.replay = none)
include ho h hs

theorem exec_replay_unread (hp : o.payload = .unread) : exec (.replay r) s = .next ((s.modOp r.toNat o.id (fun o => { o with
    payload := .waiting })).hostRead (.payload r.toNat o.id) (rd64 o.bytes 16) (rd o.bytes 24 8)) := by
  rw [exec_replay_reads ho h hs, State.withPayload, hp]
  dsimp only
  rw [if_neg Bool.false_ne_true, if_neg (ringId_ne_mbox r)]
  rfl

theorem exec_replay_differs {d : List Byte} (hp : o.payload = .arrived d)
    (hd : ¬ (rd d 0 1 = 1 ∧ slice d 16 16 = le64 (s.dkey s.video.conceal) ++ le64 s.mem.nrSeed)) :
    exec (.replay r) s = .next (s.finish r.toNat o.id Code.replayState) := by
  rw [exec_replay_reads ho h hs, withPayload_arrived hp, if_pos]
  rw [Bool.or_eq_true, bne_iff_ne, bne_iff_ne]
  exact not_and_or.mp hd

theorem exec_replay_begins {d : List Byte} (hp : o.payload = .arrived d)
    (hd : rd d 0 1 = 1 ∧ slice d 16 16 = le64 (s.dkey s.video.conceal) ++ le64 s.mem.nrSeed) :
    exec (.replay r) s = .next { s.beginOp r.toNat o.id with ras := { s.ras with
      recMib := 0, replay := some {
        ring := r.toNat, op := o.id, bytes := d, pos := rd d 4 4, base := none, running := [], results := [] } } } := by
  obtain ⟨g, hg⟩ := beginOp_ring s r o.id
  obtain ⟨hkind, hstate⟩ := hd
  rw [exec_replay_reads ho h hs, withPayload_arrived hp, hkind, hstate, bne_self_eq_false, bne_self_eq_false, hg]
  rfl

end

/-! ## REPLAY_PACKET -/

section
variable {s : State} {p : Replay} (hp : s.ras.replay = some p)

/-- The recovery unit with the replay gone on to `q`. -/
def State.keptReplay (s : State) (q : Replay) : Ras := { s.ras with replay := some q, recMib := satNat 30 (q.pos / 1048576) }

theorem endReplay_ok (s : State) (p : Replay) : s.endReplay p Code.ok =
    ({ s with ras := { s.ras with replay := none } }).finish p.ring p.op Code.ok := rfl

theorem endReplay_mismatch (s : State) (p : Replay) : s.endReplay p Code.replayMismatch =
    (({ s with ras := { s.ras with replay := none } }).log {
      status := Code.replayMismatch, unit := 11, addr := p.pos }).finish p.ring p.op Code.replayMismatch := by
  rw [State.endReplay, if_neg (by decide)]
  rfl

include hp

theorem exec_replayPacket_end (h : rd p.bytes (p.pos + 4) 4 = 0 ∨ p.bytes.length ≤ p.pos) :
    exec .replayPacket s = .next (s.endReplay p Code.replayMismatch) := by
  simp only [exec, execReplayPacket, hp]
  rw [if_pos (by simpa using h)]

variable (hin : ¬ (decide (rd p.bytes (p.pos + 4) 4 = 0) || decide (p.bytes.length ≤ p.pos)) = true)
include hin

theorem exec_replayPacket_done (hk : rd p.bytes p.pos 1 = 5) : exec .replayPacket s = .next (s.endReplay p Code.ok) := by
  simp only [exec, execReplayPacket, hp, hk]
  rw [if_neg hin]

theorem exec_replayPacket_skip (h2 : rd p.bytes p.pos 1 ≠ 2) (h4 : rd p.bytes p.pos 1 ≠ 4) (h5 : rd p.bytes p.pos 1 ≠ 5) :
    exec .replayPacket s = .next { s with ras := s.keptReplay { p with pos := p.pos + rd p.bytes (p.pos + 4) 4 } } := by
  simp only [exec, execReplayPacket, hp]
  rw [if_neg hin]
  rfl

theorem exec_replayPacket_waits (hk : rd p.bytes p.pos 1 = 4) (hr : p.results = []) : exec .replayPacket s = .next s := by
  simp only [exec, execReplayPacket, hp, hk, hr]
  rw [if_neg hin]

theorem exec_replayPacket_result (hk : rd p.bytes p.pos 1 = 4) {got : Nat × Nat × W32} {rest : List (Nat × Nat × W32)} (hr : p.results = got :: rest) :
    exec .replayPacket s = .next (if got.2.2 = rd32 p.bytes (p.pos + 24) then { s with
        ras := s.keptReplay { p with pos := p.pos + rd p.bytes (p.pos + 4) 4, results := rest } }
      else s.endReplay p Code.replayMismatch) := by
  simp only [exec, execReplayPacket, hp, hk, hr]
  rw [if_neg hin]
  rfl


/-! ## A PACKET entry -/

/-- The bytes of the recorded packet. -/
def Replay.packet (p : Replay) : List Byte := slice p.bytes (p.pos + 20) (rd p.bytes (p.pos + 4) 4 - 20)

/-- PLAN_BEAT at the first PACKET, and its recorded beat; the first PACKET sets them. -/
def State.replayBase (s : State) (p : Replay) : W64 × W64 := p.base.getD (s.plan.beat, rd64 p.bytes (p.pos + 8))

/-- The entry's beat has not come yet. -/
def State.replayEarly (s : State) (p : Replay) : Prop :=
  (s.plan.beat - (s.replayBase p).1).toNat < (rd64 p.bytes (p.pos + 8) - (s.replayBase p).2).toNat

/-- The recorded packet in execution; its payload, where the recording holds one, has arrived. -/
def State.replayOp (s : State) (p : Replay) : Op :=
  let o := mkOp s.ring.nextOp { idx := 0, bytes := p.packet, bell := s.now, fault := 0 }
  match nextPayload p.bytes p.bytes.length (p.pos + rd p.bytes (p.pos + 4) 4) with
  | some d => { o with payload := .arrived d }
  | none => o

/-- The ring on which the packet is dispatched: the recorded one, where it is active. -/
def State.replayTarget (s : State) (p : Replay) : Nat :=
  if s.activeRing (rd p.bytes (p.pos + 16) 4) .command then rd p.bytes (p.pos + 16) 4 else p.ring

omit hp hin in
theorem replayOp_fields (s : State) (p : Replay) :
    (s.replayOp p).bytes = p.packet ∧ (s.replayOp p).fin = none ∧ (s.replayOp p).id = s.ring.nextOp := by
  unfold State.replayOp
  dsimp only
  split <;> exact ⟨rfl, rfl, rfl⟩

/-- The state with the recorded packet in execution on a ring. -/
def State.replayed (s : State) (p : Replay) (ring : Nat) : State := { s with
  ring := { s.ring with nextOp := s.ring.nextOp + 1, ctx := tmod s.ring.ctx ring (fun c => { c with ops := c.ops ++ [s.replayOp p] }) }
  ras := s.keptReplay { p with pos := p.pos + rd p.bytes (p.pos + 4) 4, base := some (s.replayBase p) } }

variable (hk : rd p.bytes p.pos 1 = 2)
include hk

theorem exec_replayPacket_early (h : s.replayEarly p) : exec .replayPacket s = .next s := by
  simp only [exec, execReplayPacket, hp, hk]
  rw [if_neg hin]
  exact congrArg Host.Outcome.next (if_pos h)

theorem exec_replayPacket_dispatch (h : ¬ s.replayEarly p) : exec .replayPacket s =
    .next (match packetFault s.glb.compat (rd p.bytes (p.pos + 16) 4 = 0) p.packet with
      | some code => (s.replayed p (s.replayTarget p)).finish (s.replayTarget p) s.ring.nextOp code
      | none => s.replayed p (s.replayTarget p)) := by
  simp only [exec, execReplayPacket, hp, hk]
  rw [if_neg hin]
  exact congrArg Host.Outcome.next (if_neg h)

omit hp hin hk in
theorem replayTarget_active (ha : s.activeRing (rd p.bytes (p.pos + 16) 4) .command = true) :
    s.replayTarget p = rd p.bytes (p.pos + 16) 4 := if_pos ha

omit hp hin hk in
/-- The packet stands behind the others of its ring. -/
theorem opsOf_replayed {ring : Nat} (hring : ring ≠ mboxRing) (ha : s.activeRing ring .command = true) :
    (s.replayed p ring).opsOf ring = s.opsOf ring ++ [s.replayOp p] := by
  unfold State.activeRing at ha
  simp only [State.opsOf, if_neg hring, State.replayed, State.ringCtx, tget_tmod_self]
  cases hc : tget s.ring.ctx ring with
  | none => simp [State.ringCtx, hc] at ha
  | some c => rfl

end

/-! ## The statement -/

/-- A recorded packet that a check refuses completes at once. -/
theorem replayed_refused {s : State} {p : Replay} {ring : Nat} (hring : ring ≠ mboxRing) (ha : s.activeRing ring .command = true)
    (code : W32) : ((s.replayed p ring).finish ring s.ring.nextOp code).statusOf ring s.ring.nextOp = some code := by
  obtain ⟨-, -, hid⟩ := replayOp_fields s p
  have hmem : s.replayOp p ∈ (s.replayed p ring).opsOf ring := by
    rw [opsOf_replayed hring ha]
    exact List.mem_append_right _ (List.mem_singleton.mpr rfl)
  have hstat := State.statusOf_finish hmem hring code
  rw [hid] at hstat
  exact hstat

/-- Settles O55: RECORD_START, RECORD_STOP, REPLAY, and REPLAY_PACKET by the kind of the next entry. -/
theorem recordAndReplay : Obligations.RecordAndReplay := by
  intro s r o b good bare
  have hgood : recRange b = true ↔ good := recRange_iff b
  refine ⟨fun ho => ⟨fun h => exec_recordStart_range ho (mt hgood.mp h),
      fun h hs => exec_recordStart_state ho (hgood.mpr h) (mt mayRecord_iff.mp hs),
      fun h hd hb hr => exec_recordStart_begins ho (hgood.mpr h) (mayRecord_iff.mpr ⟨hd, hb, hr⟩)⟩,
    fun ho => ⟨exec_recordStop_none ho, fun x hx => ⟨exec_recordStop_end ho hx, exec_recordStop_full ho hx⟩⟩,
    fun ho => ⟨fun h => exec_replay_range ho (mt hgood.mp h), fun h hs => exec_replay_state ho (hgood.mpr h) hs,
      fun h hd hj hr => ⟨exec_replay_unread ho (hgood.mpr h) ⟨hd, hj, hr⟩, fun d hp =>
        ⟨exec_replay_differs ho (hgood.mpr h) ⟨hd, hj, hr⟩ hp, exec_replay_begins ho (hgood.mpr h) ⟨hd, hj, hr⟩ hp⟩⟩⟩,
    fun p hp => ?_⟩
  intro n kind fails kept
  have hmis := endReplay_mismatch s p
  refine ⟨fun h => (exec_replayPacket_end hp h).trans (congrArg Host.Outcome.next hmis), fun hlen hn => ?_⟩
  have hin : ¬ (decide (rd p.bytes (p.pos + 4) 4 = 0) || decide (p.bytes.length ≤ p.pos)) = true := by
    simpa using ⟨hn, hlen⟩
  refine ⟨fun hk => ⟨exec_replayPacket_early hp hin hk, fun hdue hring ha => ?_⟩,
    fun hk => ⟨exec_replayPacket_waits hp hin hk, fun got rest hr => ⟨fun hsame => ?_, fun hdiff => ?_⟩⟩,
    exec_replayPacket_done hp hin, exec_replayPacket_skip hp hin⟩
  · have hbox : rd p.bytes (p.pos + 16) 4 ≠ mboxRing := Nat.ne_of_lt hring
    have hexec := exec_replayPacket_dispatch hp hin hk (Nat.not_lt.mpr hdue)
    rw [replayTarget_active ha] at hexec
    refine ⟨fun hok => ?_, fun code hbad _ => ?_⟩
    · rw [show packetFault s.glb.compat (rd p.bytes (p.pos + 16) 4 = 0) p.packet = none from hok] at hexec
      exact ⟨_, hexec, rfl, ⟨_, opsOf_replayed hbox ha, replayOp_fields s p⟩, rfl⟩
    · rw [show packetFault s.glb.compat (rd p.bytes (p.pos + 16) 4 = 0) p.packet = some code from hbad] at hexec
      exact ⟨_, hexec, State.finish_ras .., replayed_refused hbox ha code⟩
  · exact (exec_replayPacket_result hp hin hk hr).trans (congrArg Host.Outcome.next (if_pos hsame))
  · exact (exec_replayPacket_result hp hin hk hr).trans (congrArg Host.Outcome.next ((if_neg hdiff).trans hmis))

end Sys2Proof.Machine
end

section
/-!
Fatal codes, failovers and the power domains (R473, R474, R488, R489).
-/
namespace Sys2Proof.Machine

/-! ## Fatal codes (R474) -/

/-- The device is past its start and not yet HELD. -/
def State.inService (s : State) : Prop := s.glb.dev = .serving ∨ s.glb.dev = .maintenance ∨ s.glb.dev = .draining

theorem inService_iff (s : State) : (s.glb.dev == .serving || s.glb.dev == .maintenance || s.glb.dev == .draining) = true ↔ s.inService := by
  rw [Bool.or_eq_true, Bool.or_eq_true, beq_iff_eq, beq_iff_eq, beq_iff_eq, or_assoc]
  rfl

/-- The state after a fatal code in service. -/
def State.fell (s : State) (code : W32) : Global :=
  { s.glb with dev := .held, reason := .fatal, cause := Code.low code, stopped := true }

theorem fatal_inService {s : State} (h : s.inService) (e : LogEntry) : ∃ p r v,
    s.fatal e = { s with porch := p, ras := r, video := v, glb := s.fell e.status } ∧ r.head = s.ras.head + 1 := by
  obtain ⟨p, r, hlog⟩ := log_form' s { e with action := 5 }
  have hhead := log_head s { e with action := 5 }
  rw [hlog] at hhead
  refine ⟨p, r, s.closeViews.video, ?_, hhead⟩
  unfold State.fatal
  rw [hlog]
  exact if_pos ((inService_iff s).mpr h)

theorem fatal_otherwise {s : State} (h : ¬ s.inService) (e : LogEntry) : s.fatal e = s.log { e with action := 5 } := by
  refine if_neg ?_
  rw [State.log_glb]
  exact mt (inService_iff s).mp h

theorem not_inService {s : State} (h : s.glb.dev = .starting ∨ s.glb.dev = .held) : ¬ s.inService := by
  rintro (h' | h' | h') <;> rw [h'] at h <;> exact absurd h (by decide)

/-! ## Failovers (R473) -/

section
variable {s : State} (hd : s.glb.dev ≠ .off)
include hd

theorem exec_pllLossOfLock_spare (h : s.ras.spPll = 1) : exec .pllLossOfLock s = .next (({ s with
    ras := { s.ras with spPll := 0 }, pwr := { s.pwr with spareActive := !s.pwr.spareActive } }).log
      { status := Code.pllFailover, unit := 7, action := 4 }) :=
  congrArg Host.Outcome.next ((if_neg (by rw [dev_off hd]; exact Bool.false_ne_true)).trans (if_pos h))

theorem exec_pllLossOfLock_lost (h : s.ras.spPll = 0) :
    exec .pllLossOfLock s = .next (s.fatal { status := Code.clockLost, unit := 7 }) :=
  congrArg Host.Outcome.next ((if_neg (by rw [dev_off hd]; exact Bool.false_ne_true)).trans (if_neg (by rw [h]; decide)))

theorem exec_hearthCrosscheckFail_standby (h : s.hearth.standby = true) : exec .hearthCrosscheckFail s = .next (({ s with
    hearth := { s.hearth with standby := false } }).log { status := Code.hearthFailover, unit := 6, action := 4 }) :=
  congrArg Host.Outcome.next ((if_neg (by rw [dev_off hd]; exact Bool.false_ne_true)).trans (if_pos h))

theorem exec_hearthCrosscheckFail_lost (h : s.hearth.standby = false) :
    exec .hearthCrosscheckFail s = .next (s.fatal { status := Code.hearthLost, unit := 6 }) :=
  congrArg Host.Outcome.next ((if_neg (by rw [dev_off hd]; exact Bool.false_ne_true)).trans
    (if_neg (by rw [h]; exact Bool.false_ne_true)))

end

/-- A command whose fatal code stops the device. -/
theorem gives_fatal {s : State} {c : Instr} {e : LogEntry} (hc : exec c s = .next (s.fatal e)) (h : s.inService) :
    Gives c s (fun t => t.glb.dev = .held ∧ t.glb.reason = .fatal ∧ t.glb.stopped = true ∧ t.glb.cause = Code.low e.status ∧
      t.ras.head = s.ras.head + 1 ∧ t.mem = s.mem ∧ t.plan = s.plan) := by
  obtain ⟨p, r, v, hf, hhead⟩ := fatal_inService h e
  rw [hf] at hc
  exact ⟨_, hc, rfl, rfl, rfl, rfl, hhead, rfl, rfl⟩

/-! ## DOMAIN_OFF_TIMER (R489) -/

section
variable {s : State} {d : Nat}

theorem exec_domainOffTimer_stays (h : s.pwr.domains.getLsbD d = false ∨ s.domainNeeded d = true) :
    exec (.domainOffTimer d) s = .next s := by
  refine congrArg Host.Outcome.next (if_pos ?_)
  obtain h | h := h <;> simp [h]

theorem exec_domainOffTimer_untimed (h : (tget s.pwr.idle d).any (fun t => s.passed t ticksPerMs) = false) :
    exec (.domainOffTimer d) s = .next s := by
  refine congrArg Host.Outcome.next (if_pos ?_)
  rw [h, Bool.not_false, Bool.or_true]

theorem exec_domainOffTimer_off (hd : d < 41) (hon : s.pwr.domains.getLsbD d = true) (hn : s.domainNeeded d = false) {t0 : W64}
    (hi : tget s.pwr.idle d = some t0) (ht : s.passed t0 ticksPerMs = true) : exec (.domainOffTimer d) s = .next (
      if d < 16 then (s.modPwr (fun w => { w with domains := clearBit w.domains d, idle := tdel w.idle d })).groupOff d
      else s.modPwr (fun w => { w with domains := clearBit w.domains d, idle := tdel w.idle d })) := by
  refine congrArg Host.Outcome.next (if_neg ?_)
  rw [hon, hn, hi, Option.any_some, ht, decide_eq_false (Nat.not_le.mpr hd)]
  decide

/-- A Room whose group goes off holds nothing. -/
def Room.emptied (x : Room) : Room := { x with store := [], lines := [], acc0 := [], acc1 := [], half := false }

theorem tget_groupOff (t : Tab Room) (c : Nat → Prop) [DecidablePred c] (k : Nat) :
    tget (t.map (fun p => if c p.1 then (p.1, p.2.emptied) else p)) k = (tget t k).map (fun x => if c k then x.emptied else x) := by
  induction t with
  | nil => rfl
  | cons p t ih =>
    obtain ⟨i, x⟩ := p
    by_cases hi : i = k
    · subst hi
      by_cases hc : c i <;> simp [tget, hc]
    · by_cases hc : c i <;> simp [tget, hc, hi, ih]

end

/-! ## DOMAIN_FAIL (R489) -/

theorem exec_domainFail_at {s : State} {d n : Nat} {o : Op} {before after : Tab RingCtx} {ctx : RingCtx} (hw : s.working = true)
    (hd : d < 41) (hoff : s.pwr.domains.getLsbD d = false) (hctx : s.ring.ctx = before ++ (n, ctx) :: after)
    (hbefore : ∀ x ∈ before, s.wouldPower x.1 d = none) (hn : s.wouldPower n d = some o) :
    exec (.domainFail d) s = .next (s.finish n o.id Code.domainFail) := by
  have hnone : before.findSome? (fun c => (s.wouldPower c.1 d).map (fun o => (c.1, o))) = none := by
    rw [List.findSome?_eq_none_iff]
    exact fun x hx => by rw [hbefore x hx, Option.map_none]
  have hfind : s.ring.ctx.findSome? (fun c => (s.wouldPower c.1 d).map (fun o => (c.1, o))) = some (n, o) := by
    rw [hctx, List.findSome?_append, hnone, Option.none_or, List.findSome?_cons, hn, Option.map_some]
  refine congrArg Host.Outcome.next ((if_neg ?_).trans ?_)
  · rw [hw, hoff, decide_eq_false (Nat.not_le.mpr hd)]
    decide
  · rw [hfind]

end Sys2Proof.Machine
end

section
/-!
THERMAL_SAMPLE (R495, R532) and the statement on heat and spares.
-/
namespace Sys2Proof.Machine

/-! ## The highest reading -/

theorem byteMax_cases (bs : List Byte) : ∀ a : Byte,
    a.toNat ≤ (bs.foldl (fun a b => if a.toNat < b.toNat then b else a) a).toNat ∧
    (∀ b ∈ bs, b.toNat ≤ (bs.foldl (fun a b => if a.toNat < b.toNat then b else a) a).toNat) ∧
    (bs.foldl (fun a b => if a.toNat < b.toNat then b else a) a = a ∨
      bs.foldl (fun a b => if a.toNat < b.toNat then b else a) a ∈ bs) := by
  induction bs with
  | nil => exact fun a => ⟨Nat.le_refl _, fun b hb => absurd hb List.not_mem_nil, .inl rfl⟩
  | cons b bs ih =>
    intro a
    obtain ⟨hge, hall, hmem⟩ := ih (if a.toNat < b.toNat then b else a)
    have hstep : a.toNat ≤ (if a.toNat < b.toNat then b else a).toNat ∧ b.toNat ≤ (if a.toNat < b.toNat then b else a).toNat := by
      split <;> omega
    rw [List.foldl_cons]
    refine ⟨hstep.1.trans hge, List.forall_mem_cons.mpr ⟨hstep.2.trans hge, hall⟩, ?_⟩
    obtain hsame | hmem := hmem
    · rw [hsame]
      split
      · exact .inr List.mem_cons_self
      · exact .inl rfl
    · exact .inr (List.mem_cons_of_mem _ hmem)

theorem le_byteMax {b : Byte} {bs : List Byte} (h : b ∈ bs) : b.toNat ≤ (byteMax bs).toNat := (byteMax_cases bs 0).2.1 b h

theorem byteMax_mem {bs : List Byte} (h : bs ≠ []) : byteMax bs ∈ bs := by
  obtain ⟨-, hall, hzero | hmem⟩ := byteMax_cases bs 0
  · obtain ⟨b, hb⟩ := List.exists_mem_of_ne_nil bs h
    have hb0 : b = 0 := by
      have hle : b.toNat ≤ (0 : Byte).toNat := hzero ▸ hall b hb
      exact BitVec.eq_of_toNat_eq (Nat.le_zero.mp hle)
    have hmax : byteMax bs = 0 := hzero
    rw [hmax, ← hb0]
    exact hb
  · exact hmem

theorem byteMax_lt {bs : List Byte} {n : Nat} (hn : 0 < n) (h : ∀ b ∈ bs, b.toNat < n) : (byteMax bs).toNat < n := by
  by_cases he : bs = []
  · rw [he]
    exact hn
  · exact h _ (byteMax_mem he)

/-! ## The sample -/

/-- A log entry under a condition. -/
theorem log_if (s : State) (c : Bool) (e : LogEntry) : ∃ p r, (if c then s.log e else s) = { s with porch := p, ras := r } ∧
    r.head = s.ras.head + (if c then 1 else 0) := by
  cases c
  · exact ⟨s.porch, s.ras, rfl, (BitVec.add_zero _).symm⟩
  · obtain ⟨p, r, hlog⟩ := log_form' s e
    have hhead := log_head s e
    rw [hlog] at hhead
    exact ⟨p, r, hlog, hhead⟩

/-- The first entry of an episode at the throttle limit. -/
def State.noteThrottle (s : State) (hot : Bool) : State :=
  if hot && !s.pwr.thermEp then s.log { status := Code.thermThrottle, addr := s.pwr.intBeat.toNat } else s

/-- The first entry of an episode at the stacks' limit. -/
def State.noteStack (s : State) (hot : Bool) : State :=
  if hot && !s.pwr.hbmEp then s.log { status := Code.hbmHot, addr := s.pwr.intBeat.toNat } else s

/-- A state after a trip. -/
def State.tripped (s : State) : State := { s.fatal { status := Code.thermTrip } with
  pwr := { (s.fatal { status := Code.thermTrip }).pwr with domains := (s.fatal { status := Code.thermTrip }).pwr.domains &&& ~~~tripMask }
  pins := { (s.fatal { status := Code.thermTrip }).pins with thermtrip := true } }

/-- The end of a sample: the episodes are noted, and a die at 110 °C trips. -/
def State.sampleEnd (s : State) (th hh trip : Bool) : State :=
  if trip then State.tripped { s with pwr := { s.pwr with thermEp := th, hbmEp := hh } }
  else { s with pwr := { s.pwr with thermEp := th, hbmEp := hh } }

/-- The state with the temperatures read. -/
def State.sampled (s : State) (die : List Byte) (temps : W32) : State :=
  { s with pwr := { s.pwr with dieMax := byteMax die, hbmMax := byteMax (le32 temps) } }

theorem exec_thermalSample_eq {s : State} (hd : s.glb.dev ≠ .off) (die : List Byte) (temps : W32) : exec (.thermalSample die temps) s =
    .next ((((s.sampled die temps).noteThrottle (Nat.ble s.pwr.throttle.toNat (byteMax die).toNat)).noteStack
      (Nat.ble 95 (byteMax (le32 temps)).toNat)).sampleEnd (Nat.ble s.pwr.throttle.toNat (byteMax die).toNat)
        (Nat.ble 95 (byteMax (le32 temps)).toNat) (Nat.ble 110 (byteMax die).toNat)) :=
  congrArg Host.Outcome.next (if_neg (by rw [dev_off hd]; exact Bool.false_ne_true))

/-- The readings and episodes after a sample. -/
def Pwr.read (w : Pwr) (die : List Byte) (temps : W32) : Pwr := { w with
  dieMax := byteMax die, hbmMax := byteMax (le32 temps)
  thermEp := Nat.ble w.throttle.toNat (byteMax die).toNat, hbmEp := Nat.ble 95 (byteMax (le32 temps)).toNat }

theorem exec_thermalSample {s : State} (hd : s.glb.dev ≠ .off) (die : List Byte) (temps : W32) : ∃ p r,
    exec (.thermalSample die temps) s = .next (if Nat.ble 110 (byteMax die).toNat
      then State.tripped { s with pwr := s.pwr.read die temps, porch := p, ras := r }
      else { s with pwr := s.pwr.read die temps, porch := p, ras := r }) ∧
    r.head = s.ras.head + (if Nat.ble s.pwr.throttle.toNat (byteMax die).toNat && !s.pwr.thermEp then 1 else 0) +
      (if Nat.ble 95 (byteMax (le32 temps)).toNat && !s.pwr.hbmEp then 1 else 0) := by
  obtain ⟨p, r, hlog, hhead⟩ := log_if (s.sampled die temps) (Nat.ble s.pwr.throttle.toNat (byteMax die).toNat && !s.pwr.thermEp)
    { status := Code.thermThrottle, addr := s.pwr.intBeat.toNat }
  obtain ⟨p', r', hlog', hhead'⟩ := log_if { s.sampled die temps with porch := p, ras := r }
    (Nat.ble 95 (byteMax (le32 temps)).toNat && !s.pwr.hbmEp) { status := Code.hbmHot, addr := s.pwr.intBeat.toNat }
  have hwarm : (s.sampled die temps).noteThrottle (Nat.ble s.pwr.throttle.toNat (byteMax die).toNat) = _ := hlog
  have hstack : State.noteStack { s.sampled die temps with porch := p, ras := r } (Nat.ble 95 (byteMax (le32 temps)).toNat) = _ := hlog'
  refine ⟨p', r', ?_, ?_⟩
  · rw [exec_thermalSample_eq hd, hwarm, hstack]
    rfl
  · rw [hhead', hhead]
    rfl

/-! ## A trip (R495) -/

/-- Every domain of the mask goes off, and no other. -/
theorem getLsbD_untripped (x : BitVec 41) {i : Nat} (hi : i < 41) : (x &&& ~~~tripMask).getLsbD i =
    (x.getLsbD i && (decide (16 ≤ i ∧ i < 24) || decide (38 ≤ i))) := by
  have hmask : ∀ i < 41, (~~~tripMask).getLsbD i = (decide (16 ≤ i ∧ i < 24) || decide (38 ≤ i)) := by decide
  rw [BitVec.getLsbD_and, hmask i hi]

theorem tripped_pins (s : State) : s.tripped.pins = { s.pins with thermtrip := true } ∧
    s.tripped.pwr = { s.pwr with domains := s.pwr.domains &&& ~~~tripMask } := by
  by_cases h : s.inService
  · obtain ⟨p, r, v, hf, -⟩ := fatal_inService h { status := Code.thermTrip }
    rw [State.tripped, hf]
    exact ⟨rfl, rfl⟩
  · obtain ⟨p, r, hlog⟩ := log_form' s { status := Code.thermTrip, action := 5 }
    rw [State.tripped, fatal_otherwise h, hlog]
    exact ⟨rfl, rfl⟩

theorem tripped_glb {s : State} (h : s.inService) : s.tripped.glb.dev = .held ∧ s.tripped.glb.reason = .fatal ∧
    s.tripped.glb.stopped = true ∧ s.tripped.glb.cause = Code.low Code.thermTrip := by
  obtain ⟨p, r, v, hf, -⟩ := fatal_inService h { status := Code.thermTrip }
  rw [State.tripped, hf]
  exact ⟨rfl, rfl, rfl, rfl⟩

/-- What the readings are, and when an episode goes on. -/
theorem read_facts (w : Pwr) (die : List Byte) (temps : W32) :
    (∀ b ∈ die, b.toNat ≤ (w.read die temps).dieMax.toNat) ∧ (die ≠ [] → (w.read die temps).dieMax ∈ die) ∧
    (∀ b ∈ le32 temps, b.toNat ≤ (w.read die temps).hbmMax.toNat) ∧ (w.read die temps).hbmMax ∈ le32 temps ∧
    ((w.read die temps).thermEp = true ↔ w.throttle.toNat ≤ (w.read die temps).dieMax.toNat) ∧
    ((w.read die temps).hbmEp = true ↔ 95 ≤ (w.read die temps).hbmMax.toNat) := by
  have hstacks : le32 temps ≠ [] := by simp [le32, leBytes]
  exact ⟨fun b => le_byteMax, byteMax_mem, fun b => le_byteMax, byteMax_mem hstacks, .of_eq Nat.ble_eq,
    .of_eq Nat.ble_eq⟩

/-- A group's Rooms hold nothing after it has gone off; those of other groups are as they were. -/
theorem domainOff_facts (s : State) {d : Nat} {t : State} (ht : t = if d < 16
      then (s.modPwr (fun w => { w with domains := clearBit w.domains d, idle := tdel w.idle d })).groupOff d
      else s.modPwr (fun w => { w with domains := clearBit w.domains d, idle := tdel w.idle d })) :
    (∀ i, t.pwr.domains.getLsbD i = (s.pwr.domains.getLsbD i && decide (i ≠ d))) ∧
    (∀ k, tget t.rooms k = (tget s.rooms k).map (fun x => if d < 16 ∧ groupOf s.part.e k = d
      then { x with store := [], lines := [], acc0 := [], acc1 := [], half := false } else x)) ∧
    t = { s with pwr := { s.pwr with domains := t.pwr.domains, idle := tdel s.pwr.idle d }, rooms := t.rooms } := by
  have hbits : ∀ i, (clearBit s.pwr.domains d).getLsbD i = (s.pwr.domains.getLsbD i && decide (i ≠ d)) := fun i => by
    rw [getLsbD_clearBit, decide_not]
  by_cases hd : d < 16
  · rw [if_pos hd] at ht
    subst ht
    refine ⟨hbits, fun k => ?_, rfl⟩
    simp only [hd, true_and]
    exact tget_groupOff s.rooms (fun k => groupOf s.part.e k = d) k
  · rw [if_neg hd] at ht
    subst ht
    refine ⟨hbits, fun k => ?_, rfl⟩
    simp only [hd, false_and, if_false, Option.map_id']
    rfl

/-! ## The statement -/

/-- One more entry exactly where an episode begins. -/
theorem episode_count (new old : Bool) :
    (if new && !old then 1 else 0 : W32) = if new = true ∧ old = false then 1 else 0 := by
  cases new <;> cases old <;> rfl

/-- Settles O54: the sample, the domains that go off or fail, and the failovers. -/
theorem heatAndSpares : Obligations.HeatAndSpares := by
  refine ⟨fun s die temps hd => ⟨?_, ?_⟩, fun s => ⟨fun d hd hon hneed => ⟨fun t0 hi => ⟨fun ht => ?_, fun ht => ?_⟩, fun hi => ?_⟩,
    fun d h => exec_domainOffTimer_stays h, fun d n o before after ctx hw hd hoff hctx hb hn =>
      exec_domainFail_at hw hd hoff hctx hb hn, fun hd => ?_⟩⟩
  · exact congrArg Host.Outcome.next (if_neg (by rw [dev_off hd]; exact Bool.false_ne_true))
  · obtain ⟨p, r, hexec, hhead⟩ := exec_thermalSample hd die temps
    obtain ⟨hdie, hdmem, hhbm, hhmem, hth, hhh⟩ := read_facts s.pwr die temps
    by_cases htrip : 110 ≤ (byteMax die).toNat
    · rw [if_pos (Nat.ble_eq.mpr htrip)] at hexec
      obtain ⟨hpins, hpwr⟩ := tripped_pins { s with pwr := s.pwr.read die temps, porch := p, ras := r }
      refine ⟨_, hexec, ?_⟩
      dsimp only
      rw [hpwr]
      refine ⟨hdie, hdmem, hhbm, hhmem, hth, hhh, fun h => absurd htrip (Nat.not_le.mpr (byteMax_lt (by decide) h)), fun b _ _ =>
        ⟨hpins, rfl, fun i hi => getLsbD_untripped _ hi,
        tripped_glb (s := { s with pwr := s.pwr.read die temps, porch := p, ras := r })⟩⟩
    · rw [if_neg (mt Nat.ble_eq.mp htrip)] at hexec
      refine ⟨_, hexec, hdie, hdmem, hhbm, hhmem, hth, hhh, fun _ => ⟨rfl, hhead.trans ?_⟩, fun b hb h =>
        absurd (h.trans (le_byteMax hb)) htrip⟩
      rw [episode_count, episode_count]
      rfl
  · exact exec_domainOffTimer_untimed (by rw [hi]; exact ht)
  · have hexec := exec_domainOffTimer_off hd hon hneed hi ht
    exact ⟨_, hexec, domainOff_facts s rfl⟩
  · exact exec_domainOffTimer_untimed (by rw [hi]; rfl)
  · refine ⟨exec_pllLossOfLock_spare hd, exec_hearthCrosscheckFail_standby hd, fun h => ?_, fun h => ?_⟩
    · have hlost := exec_pllLossOfLock_lost hd h
      exact ⟨gives_fatal hlost, fun h => hlost.trans (congrArg Host.Outcome.next (fatal_otherwise (not_inService h) _))⟩
    · have hlost := exec_hearthCrosscheckFail_lost hd h
      exact ⟨gives_fatal hlost, fun h => hlost.trans (congrArg Host.Outcome.next (fatal_otherwise (not_inService h) _))⟩

end Sys2Proof.Machine
end

section
/-!
The beginning of a start, and the supplies (R426, R498 to R501, R524 to R526, R534).
-/
namespace Sys2Proof.Machine

/-! ## What a start clears -/

theorem tget_foldl_tset {α : Type} (a : α) (k : Nat) (l : List Nat) (t : Tab α) :
    tget (l.foldl (fun t n => tset t n a) t) k = if k ∈ l then some a else tget t k := by
  induction l generalizing t with
  | nil => simp
  | cons n l ih =>
    rw [List.foldl_cons, ih]
    by_cases hk : k = n
    · subst hk
      simp
    · simp [hk, tget_tset_ne]

/-- A port at a start: only a FAILED one of a warm start keeps its state (R426). -/
theorem atStart_state (warm : Bool) (q : Port) :
    (q.atStart warm).state = if (!warm) = false ∧ q.state = .failed then .failed else .disabled := by
  unfold Port.atStart
  cases warm
  · rfl
  · by_cases hf : q.state = .failed <;> simp [hf, Port.reset]

theorem ports_atStart (f : Fab) (warm : Bool) {i : Nat} {q : Port} (hq : f.ports[i]? = some q) :
    (f.atStart warm).ports[i]? = some (q.atStart warm) := by
  rw [Fab.atStart, List.getElem?_map, hq]
  rfl

/-- The contents of the stacks stay. -/
theorem atStart_dram (m : Mem) (aon : Bool) : (m.atStart aon).dram = m.dram := by cases aon <;> rfl

theorem startsCold_eq (s : State) (asked : Bool) : s.startsCold asked =
    (asked || s.hearth.nextCold || !s.hearth.aonValid || decide (s.hearth.fails ≠ 0)) := by
  have hfails : (s.hearth.fails != 0) = decide (s.hearth.fails ≠ 0) := by
    rw [Bool.eq_iff_iff, bne_iff_ne, decide_eq_true_iff]
  rw [State.startsCold, hfails]

theorem startsCold_asked (s : State) : s.startsCold true = true := rfl

/-! ## The commands that begin one -/

section
variable {s : State}

theorem exec_perstDeassert_powered (hd : s.glb.dev = .off) (hp : s.pins.perst = true) (hg : s.pins.pgIn = true) :
    exec .perstDeassert s = .next (State.beginStart { s with pins := { s.pins with perst := false } } true) := by
  simp only [exec, execPerstDeassert, hd, hp, hg]
  rfl

theorem exec_perstDeassert_unpowered (hd : s.glb.dev = .off) (hg : s.pins.pgIn = false) :
    exec .perstDeassert s = .next { s with pins := { s.pins with perst := false } } := by
  simp only [exec, execPerstDeassert, hd, hg]
  cases s.pins.perst <;> rfl

theorem exec_perstDeassert_waiting (hd : s.glb.dev = .starting) (hp : s.pins.perst = true) (hs : s.hearth.start = none) :
    exec .perstDeassert s = .next (State.beginStart { s with pins := { s.pins with perst := false } } false) := by
  simp only [exec, execPerstDeassert, hd, hp, hs]
  rfl

theorem exec_linkDown_begins (hd : s.glb.dev ≠ .off) (hu : s.porch.up = true) :
    exec .linkDown s = .next (s.resetFunction.beginStart false) :=
  congrArg Host.Outcome.next (if_neg (by rw [dev_off hd, hu]; exact Bool.false_ne_true))

theorem exec_linkDown_ignored (h : s.glb.dev = .off ∨ s.porch.up = false) : exec .linkDown s = .next s := by
  refine congrArg Host.Outcome.next (if_pos ?_)
  obtain h | h := h <;> simp [h]

theorem applyAction_restartWarm (hd : s.glb.dev ≠ .off) : s.applyAction actRestartWarm = (s.setResult Code.ok).beginStart false :=
  (if_neg (by rw [dev_off hd]; exact Bool.false_ne_true)).trans (if_pos rfl)

theorem applyAction_restartCold (hd : s.glb.dev ≠ .off) : s.applyAction actRestartCold = (s.setResult Code.ok).beginStart true :=
  (if_neg (by rw [dev_off hd]; exact Bool.false_ne_true)).trans ((if_neg (by decide)).trans (if_pos rfl))

section
variable (hd : s.glb.dev ≠ .off) (hu : s.regsUp = true) (hl : s.porch.low = none) (ha : s.glb.armed.getLsbD 14 = true)
  (hm : s.hearth.mbox = none)
include hd hu hl ha hm

theorem exec_restartWarm_begins : exec .restartWarm s = .next (((s.disarmed actRestartWarm).setResult Code.ok).beginStart false) :=
  congrArg Host.Outcome.next ((hearthAction_applies hu hl _ ha hm).trans
    (applyAction_restartWarm (s := s.disarmed actRestartWarm) hd))

theorem exec_restartCold_begins : exec .restartCold s = .next (((s.disarmed actRestartCold).setResult Code.ok).beginStart true) :=
  congrArg Host.Outcome.next ((hearthAction_applies hu hl _ ha hm).trans
    (applyAction_restartCold (s := s.disarmed actRestartCold) hd))

end

/-! ## Supplies and PERST# -/

theorem exec_perstAssert_off (hd : s.glb.dev = .off) : exec .perstAssert s = .next { s with pins := { s.pins with perst := true } } :=
  congrArg Host.Outcome.next (if_pos (by rw [hd]; rfl))

/-- The state in which a start waits for PERST#. -/
def State.perstHeld (s : State) : State :=
  let u := (State.resetFunction { s with pins := { s.pins with perst := true } }).clearUnits true
  { u with glb := { u.glb with dev := .starting }, hearth := { u.hearth with start := none } }

theorem exec_perstAssert_live (hd : s.glb.dev ≠ .off) : exec .perstAssert s = .next s.perstHeld :=
  congrArg Host.Outcome.next (if_neg (by rw [dev_off hd]; exact Bool.false_ne_true))

theorem exec_supplyFault_live (hd : s.glb.dev ≠ .off) : exec .supplyFault s = .next (s.fatal { status := Code.supplyFault }) :=
  congrArg Host.Outcome.next (if_neg (by rw [dev_off hd]; exact Bool.false_ne_true))

theorem exec_supplyFault_off (hd : s.glb.dev = .off) : exec .supplyFault s = .next s :=
  congrArg Host.Outcome.next (if_pos (by rw [hd]; rfl))

end
end Sys2Proof.Machine
end

section
/-!
The steps of a start: COLD_START, WARM_START, START_COMPLETE and START_STEP_FAIL (R498 to R506).
-/
namespace Sys2Proof.Machine

/-! ## Entries of the RAS log during a start -/

/-- `t` is `s` with `n` more entries in its log, and free values drawn. -/
def Logs (s t : State) (n : W32) : Prop :=
  ∃ f p l k, t = { s with free := f, porch := p, ras := { s.ras with log := l, head := s.ras.head + n, lost := k } }

theorem Logs.refl (s : State) : Logs s s 0 :=
  ⟨s.free, s.porch, s.ras.log, s.ras.lost, by rw [show s.ras.head + 0 = s.ras.head from BitVec.add_zero _]⟩

theorem Logs.trans {s t u : State} {m n : W32} (a : Logs s t m) (b : Logs t u n) : Logs s u (m + n) := by
  obtain ⟨f, p, l, k, rfl⟩ := a
  obtain ⟨f', p', l', k', rfl⟩ := b
  exact ⟨f', p', l', k', by simp only [BitVec.add_assoc]⟩

theorem append_form (r : Ras) (b : List Byte) : ∃ l k, r.append b = { r with log := l, head := r.head + 1, lost := k } := by
  unfold Ras.append
  dsimp only
  split
  · exact ⟨_, _, rfl⟩
  · split <;> exact ⟨_, _, rfl⟩

theorem Logs.log (s : State) (e : LogEntry) : Logs s (s.log e) 1 := by
  obtain ⟨ow, u, k, dv, sx, b, h⟩ := log_form s e
  obtain ⟨l, x, hb⟩ := append_form s.ras b
  rw [h, hb]
  exact ⟨s.free, _, l, x, rfl⟩

theorem Logs.draw {s t : State} {n : W32} (h : Logs s.draw.1 t n) : Logs s t n := by
  obtain ⟨f, p, l, k, rfl⟩ := h
  exact ⟨f, p, l, k, rfl⟩

/-- The on-die counts are four entries. -/
theorem Logs.logOnDie (s : State) : Logs s s.logOnDie 4 :=
  (((Logs.log _ _).draw.trans (Logs.log _ _).draw).trans (Logs.log _ _).draw).trans (Logs.log _ _).draw

/-! ## START_COMPLETE -/

theorem exec_startComplete_passed {s : State} {w : Bool} (h : s.hearth.start = some (w, .passed)) : exec .startComplete s = .next { s with
    hearth := { s.hearth with start := none, fails := 0, aonValid := s.hearth.aonValid || !w }
    glb := { s.glb with dev := .held, reason := .unconfigured, cause := 0 } } := by
  simp only [exec, execStartComplete, h]
  rfl

theorem exec_startComplete_ignored {s : State} (h : ∀ w, s.hearth.start ≠ some (w, .passed)) : exec .startComplete s = .next s := by
  unfold exec execStartComplete
  dsimp only
  split
  · exact absurd ‹_› (h _)
  · rfl

/-! ## START_STEP_FAIL -/

/-- The state that has noted a failed step. -/
def State.stepFailed (s : State) (c : W32) : State :=
  (s.log { status := c, unit := 6, action := if Code.cls c = 4 then 5 else 0 }).modHearth
    (fun h => { h with lastFail := Code.low c, start := none })

/-- The failed step counts. -/
def State.failedAgain (s : State) (c : W32) : State := (s.stepFailed c).modHearth (fun h => { h with fails := satAdd s.hearth.fails 1 })

theorem stepFailed_kept (s : State) (c : W32) :
    (s.stepFailed c).hearth.lastFail = Code.low c ∧ (s.stepFailed c).hearth.fails = s.hearth.fails := by
  rw [State.stepFailed, State.modHearth, State.log_hearth]
  exact ⟨rfl, rfl⟩

theorem failedAgain_kept (s : State) (c : W32) :
    (s.failedAgain c).hearth.lastFail = Code.low c ∧ (s.failedAgain c).hearth.fails = satAdd s.hearth.fails 1 :=
  ⟨(stepFailed_kept s c).1, rfl⟩

theorem failedAgain_head (s : State) (c : W32) : (s.failedAgain c).ras.head = s.ras.head + 1 := log_head s _

theorem exec_startStepFail {s : State} {w : Bool} {c : W32} (h : s.hearth.start = some (w, .failed c)) :
    exec (.startStepFail (Code.low c)) s = .next (
      if c = Code.fwCompat then (s.stepFailed c).hold .fwMismatch c
      else if Code.cls c = 4 then (s.failedAgain c).hold .fatal c
      else if s.hearth.fails.toNat < 2 then (s.failedAgain c).beginStart true
      else ((s.failedAgain c).log { status := Code.startGiveup, unit := 6, action := 5 }).hold .giveup Code.startGiveup) := by
  simp only [exec, execStartStepFail, h]
  exact congrArg Host.Outcome.next (if_neg (by rw [bne_self_eq_false]; exact Bool.false_ne_true))

/-- Where each failed step leads. -/
theorem startStepFail_leads {s : State} {w : Bool} {c : W32} (h : s.hearth.start = some (w, .failed c)) :
    Gives (.startStepFail (Code.low c)) s (fun t => t.hearth.lastFail = Code.low c ∧
      (c = Code.fwCompat → t.glb.dev = .held ∧ t.glb.reason = .fwMismatch ∧ t.hearth.fails = s.hearth.fails) ∧
      (c ≠ Code.fwCompat → t.hearth.fails = satAdd s.hearth.fails 1 ∧
        (Code.cls c = 4 → t.glb.dev = .held ∧ t.glb.reason = .fatal ∧ t.glb.cause = Code.low c) ∧
        (Code.cls c ≠ 4 → s.hearth.fails.toNat < 2 → t.glb.dev = .starting ∧ t.hearth.start = some (false, .begin)) ∧
        (Code.cls c ≠ 4 → 2 ≤ s.hearth.fails.toNat → t.glb.dev = .held ∧ t.glb.reason = .giveup ∧
          t.ras.head = s.ras.head + 2))) := by
  refine ⟨_, exec_startStepFail h, ?_⟩
  obtain ⟨hlast, hfails⟩ := stepFailed_kept s c
  obtain ⟨hlast', hfails'⟩ := failedAgain_kept s c
  by_cases hc : c = Code.fwCompat
  · rw [if_pos hc]
    exact ⟨hlast, fun _ => ⟨rfl, rfl, hfails⟩, fun h => absurd hc h⟩
  rw [if_neg hc]
  by_cases hcls : Code.cls c = 4
  · rw [if_pos hcls]
    exact ⟨hlast', fun h => absurd h hc, fun _ => ⟨hfails', fun _ => ⟨rfl, rfl, rfl⟩, fun h => absurd hcls h,
      fun h => absurd hcls h⟩⟩
  rw [if_neg hcls]
  by_cases hn : s.hearth.fails.toNat < 2
  · rw [if_pos hn]
    exact ⟨hlast', fun h => absurd h hc, fun _ => ⟨hfails', fun h => absurd h hcls, fun _ _ => ⟨rfl, rfl⟩,
      fun _ h => absurd hn (Nat.not_lt.mpr h)⟩⟩
  · rw [if_neg hn]
    have hlog := State.log_hearth (s := s.failedAgain c) { status := Code.startGiveup, unit := 6, action := 5 }
    refine ⟨(congrArg Hearth.lastFail hlog).trans hlast', fun h => absurd h hc, fun _ =>
      ⟨(congrArg Hearth.fails hlog).trans hfails', fun h => absurd h hcls, fun _ h => absurd h hn, fun _ _ => ⟨rfl, rfl, ?_⟩⟩⟩
    refine (log_head (s.failedAgain c) _).trans ?_
    rw [failedAgain_head, BitVec.add_assoc]
    rfl

end Sys2Proof.Machine
end

section
/-!
The steps of a cold start (R471, R499, R500, R503 to R506).
-/
namespace Sys2Proof.Machine

section
variable {s : State} {x : ColdStartResult}

/-! ## Fuse load -/

/-- The state after fuse load, spare mapping and self-test. -/
def State.fused (s : State) (x : ColdStartResult) : State := { s.sampleStraps with
  glb := { s.sampleStraps.glb with grid := fuseGrid s.part.e (s.part.goodRooms &&& x.rooms) }, rooms := []
  ras := { s.ras with spPll := if bit x.pll0 + bit x.pll1 = 2 then 1 else 0, retired := 0, rows := [] }
  pwr := { s.pwr with spareActive := !x.pll0 } }

theorem fuseLoad_fails (h : gridOk s.part.e (s.part.goodRooms &&& x.rooms) = false ∨ x.sram = false) : s.fuseLoad x = none := by
  refine if_pos ?_
  obtain h | h := h <;> simp [h]

theorem fuseLoad_passes (hg : gridOk s.part.e (s.part.goodRooms &&& x.rooms) = true) (hs : x.sram = true) :
    s.fuseLoad x = some (s.fused x) :=
  if_neg (by rw [hg, hs]; decide)

theorem exec_coldStart_unfused (hb : s.hearth.start = some (false, .begin)) (h : s.fuseLoad x = none) :
    exec (.coldStart x) s = .next (s.sampleStraps.phase (.failed Code.startSram)) := by
  simp only [exec, execColdStart, hb, h]

theorem exec_coldStart_refused (hb : s.hearth.start = some (false, .begin)) {u t : State} {c : W32} (h : s.fuseLoad x = some u)
    (hf : u.firmware x = (t, some c)) : exec (.coldStart x) s = .next (t.phase (.failed c)) := by
  simp only [exec, execColdStart, hb, h, hf]

theorem exec_coldStart_tail (hb : s.hearth.start = some (false, .begin)) {u t : State} (h : s.fuseLoad x = some u)
    (hf : u.firmware x = (t, none)) : exec (.coldStart x) s = .next (t.coldTail x) := by
  simp only [exec, execColdStart, hb, h, hf]

/-! ## Firmware -/

/-- The slot with the newer release, slot A where they are equal, and the other one (R503). -/
def newerSlot (x : ColdStartResult) : List FlashImage := if slotRank x.slotA < slotRank x.slotB then x.slotB else x.slotA
def olderSlot (x : ColdStartResult) : List FlashImage := if slotRank x.slotA < slotRank x.slotB then x.slotA else x.slotB

/-- The images that a cold start settles on. -/
def settledImages (x : ColdStartResult) : List FwImage :=
  (if slotOk (newerSlot x) then newerSlot x else olderSlot x).map FlashImage.kept

theorem slot_newer : (if decide (slotRank x.slotA < slotRank x.slotB) then x.slotB else x.slotA) = newerSlot x := by
  unfold newerSlot
  split <;> simp_all

theorem slot_older : (if !decide (slotRank x.slotA < slotRank x.slotB) then x.slotB else x.slotA) = olderSlot x := by
  unfold olderSlot
  by_cases hr : slotRank x.slotA < slotRank x.slotB <;> simp [hr]

theorem chooseSlot_none (h1 : slotOk (newerSlot x) = false) (h2 : slotOk (olderSlot x) = false) :
    chooseSlot x.slotA x.slotB = none := by
  simp only [chooseSlot, slot_newer, slot_older, h1, h2, Bool.false_eq_true, if_false]

/-- The newer slot where it authenticates, and otherwise the other one, as second choice. -/
theorem chooseSlot_some (h : slotOk (newerSlot x) = true ∨ slotOk (olderSlot x) = true) : ∃ b,
    chooseSlot x.slotA x.slotB = some (b, !slotOk (newerSlot x)) ∧
    (if b then x.slotB else x.slotA).map FlashImage.kept = settledImages x := by
  cases hn : slotOk (newerSlot x)
  · have ho : slotOk (olderSlot x) = true := h.resolve_left (by rw [hn]; exact Bool.false_ne_true)
    refine ⟨!decide (slotRank x.slotA < slotRank x.slotB), ?_, ?_⟩
    · simp only [chooseSlot, slot_newer, slot_older, hn, ho, Bool.false_eq_true, if_false, if_true, Bool.not_false]
    · rw [slot_older, settledImages, hn, if_neg Bool.false_ne_true]
  · refine ⟨decide (slotRank x.slotA < slotRank x.slotB), ?_, ?_⟩
    · simp only [chooseSlot, slot_newer, hn, if_true, Bool.not_true]
    · rw [slot_newer, settledImages, hn, if_pos rfl]

/-- The state that has taken the settled images into force. -/
def State.withImages (s : State) (b : Bool) (im : List FwImage) : State :=
  { s with hearth := { s.hearth with slotB := b, images := im, mismatch := mismatches im } }

theorem firmware_none (h1 : slotOk (newerSlot x) = false) (h2 : slotOk (olderSlot x) = false) :
    s.firmware x = (s, some Code.fwAuth) := by
  simp only [State.firmware, chooseSlot_none h1 h2]

/-- The images are in force, and a second choice is logged (R504). -/
theorem firmware_some (h : slotOk (newerSlot x) = true ∨ slotOk (olderSlot x) = true) : ∃ b t,
    s.firmware x = (t, if (mismatches (settledImages x)).isEmpty then none else some Code.fwCompat) ∧
    Logs (s.withImages b (settledImages x)) t (if slotOk (newerSlot x) then 0 else 1) := by
  obtain ⟨b, hb, him⟩ := chooseSlot_some h
  refine ⟨b, if !slotOk (newerSlot x) then (s.withImages b (settledImages x)).log { status := Code.fwSlot, unit := 6 }
    else s.withImages b (settledImages x), ?_, ?_⟩
  · simp only [State.firmware, hb, him]
    rfl
  · cases slotOk (newerSlot x)
    · exact Logs.log _ _
    · exact Logs.refl _

/-! ## The tail of a cold start -/

theorem coldTail_untrained (h : x.train = false) : s.coldTail x = s.phase (.failed Code.memTrain) :=
  if_pos (by rw [h]; rfl)

/-- The lanes that a cold start maps out: the marked ones, and those that its training finds. -/
def laneFindings (s : State) (x : ColdStartResult) : List (Nat × Nat) :=
  s.mem.laneMarks ++ x.lanes.map (fun l => (spareOf l.1.toNat l.2.toNat, l.2.toNat))

theorem coldTail_noSpare (ht : x.train = true) (h : x.memSpare = false ∨ (s.remapLanes (laneFindings s x)).2 = false) :
    s.coldTail x = (s.remapLanes (laneFindings s x)).1.phase (.failed Code.memNoSpare) := by
  refine (if_neg (by rw [ht]; decide)).trans (if_pos ?_)
  show (!x.memSpare || !(s.remapLanes (laneFindings s x)).2) = true
  obtain h | h := h <;> simp [h]

/-- The end of a cold start whose memory has trained. -/
def State.coldEnd (s : State) (x : ColdStartResult) : State :=
  let s := (s.modMem (fun m => m.coldStart x.entropy s.now)).logOnDie
  let s := s.coldUnits x
  let s := if s.hearth.funcReset && s.porch.cfg.barLog2 != 28 then
      s.modPorch (fun p => { p with cfg := { p.cfg with barLog2 := 28, bar4 := 0 } })
    else s
  (s.modHearth (fun h => { h with funcReset := false, startMs := 1800 })).phase .passed

theorem coldTail_passes (ht : x.train = true) (hm : x.memSpare = true) (hl : (s.remapLanes (laneFindings s x)).2 = true) :
    s.coldTail x = (s.remapLanes (laneFindings s x)).1.coldEnd x := by
  refine (if_neg (by rw [ht]; decide)).trans (if_neg ?_)
  show ¬ (!x.memSpare || !(s.remapLanes (laneFindings s x)).2) = true
  rw [hm, hl]
  decide

/-- What a passed cold start leaves. -/
theorem coldEnd_facts {q : Bool} {ph : StartPhase} (hs : s.hearth.start = some (q, ph)) :
    (s.coldEnd x).hearth.start = some (q, .passed) ∧ (s.coldEnd x).hearth.images = s.hearth.images ∧
    (s.coldEnd x).mem = s.mem.coldStart x.entropy s.now ∧ (s.coldEnd x).hearth.startMs = 1800 ∧ (s.coldEnd x).glb = s.glb ∧
    (s.coldEnd x).rooms = s.rooms ∧ (s.coldEnd x).ras.retired = s.ras.retired ∧ (s.coldEnd x).ras.rows = s.ras.rows ∧
    (s.coldEnd x).ras.head = s.ras.head + 4 := by
  obtain ⟨f, p, l, k, hlog⟩ := Logs.logOnDie (s.modMem (fun m => m.coldStart x.entropy s.now))
  have hstart : s.hearth.start.map (fun q => (q.1, StartPhase.passed)) = some (q, .passed) := by rw [hs]; rfl
  unfold State.coldEnd
  rw [hlog]
  dsimp only
  split <;> exact ⟨hstart, rfl, rfl, rfl, rfl, rfl, rfl, rfl, rfl⟩

/-! ## Lanes -/

theorem remapLanes_keeps (l : List (Nat × Nat)) (s : State) :
    (s.remapLanes l).1.hearth = s.hearth ∧ (s.remapLanes l).1.mem.dram = s.mem.dram := by
  induction l generalizing s with
  | nil => exact ⟨rfl, rfl⟩
  | cons a l ih =>
    obtain ⟨k, lane⟩ := a
    unfold State.remapLanes
    split
    · split
      · exact ih s
      · exact ⟨rfl, rfl⟩
    · obtain ⟨hh, hm⟩ := ih ((s.modMem (fun m => { m with lanes := tset m.lanes k lane })).log
        { status := Code.memLaneSpared, unit := 4, index := k, addr := lane })
      rw [State.log_hearth] at hh
      rw [State.log_mem] at hm
      exact ⟨hh, hm⟩

theorem remapLanes_fresh {k lane : Nat} (h : tget s.mem.lanes k = none) : s.remapLanes [(k, lane)] =
    (((s.modMem (fun m => { m with lanes := tset m.lanes k lane })).log
      { status := Code.memLaneSpared, unit := 4, index := k, addr := lane }).modMem (fun m => { m with laneMarks := [] }), true) := by
  simp only [State.remapLanes, h]

theorem remapLanes_known {k lane : Nat} (h : tget s.mem.lanes k = some lane) :
    s.remapLanes [(k, lane)] = (s.modMem (fun m => { m with laneMarks := [] }), true) := by
  simp only [State.remapLanes, h, if_true]

theorem remapLanes_second {k lane other : Nat} (h : tget s.mem.lanes k = some other) (hne : other ≠ lane) :
    s.remapLanes [(k, lane)] = (s, false) := by
  simp only [State.remapLanes, h, hne, if_false]

end
end Sys2Proof.Machine
end

section
/-!
The steps of a warm start (R501).
-/
namespace Sys2Proof.Machine

theorem Memory.byte_zero_inside (m : Memory) {lo hi a : Nat} (h : lo ≤ a ∧ a < hi) : (m.zero lo hi).byte a = 0 := by
  induction m with
  | nil => rfl
  | cons e r ih =>
    obtain ⟨k, b⟩ := e
    by_cases hk : k < lo ∨ hi ≤ k
    · have hkeep : Memory.zero ((k, b) :: r) lo hi = (k, b) :: Memory.zero r lo hi := by
        obtain hk | hk := hk <;> simp [Memory.zero, hk]
      rw [hkeep]
      exact (if_neg (by omega)).trans ih
    · have hdrop : Memory.zero ((k, b) :: r) lo hi = Memory.zero r lo hi := by
        obtain ⟨h1, h2⟩ := not_or.mp hk
        simp [Memory.zero, h1, h2]
      rw [hdrop]
      exact ih

theorem byte_zero_eq (m : Memory) (lo hi a : Nat) : (m.zero lo hi).byte a = if lo ≤ a ∧ a < hi then 0 else m.byte a := by
  split
  · exact Memory.byte_zero_inside m ‹_›
  · exact Memory.byte_zero m (by omega)

section
variable {s : State} {x : WarmStartResult} (hb : s.hearth.start = some (true, .begin))

/-- The end of a warm start whose checks have passed. -/
def State.warmEnd (s : State) (x : WarmStartResult) : State :=
  let s := (s.modMem (fun m => m.warmStart x.entropy s.now)).logOnDie
  let s := s.modHearth (fun h => { h with funcReset := false, startMs := 112 })
  s.warmScrub.phase .passed

/-- A layout's scrub ends with the device regions, and begins with the Strongroom where that is not preserved. -/
def scrubFrom (l : Layout) (preserve : Bool) : Nat := if preserve then (l.win + l.strong) * 2 ^ 20 else l.win * 2 ^ 20
def scrubTo (l : Layout) : Nat := (l.win + l.strong + l.save + 1344) * 2 ^ 20

theorem warmEnd_facts {q : Bool} {ph : StartPhase} (hs : s.hearth.start = some (q, ph)) {l : Layout} (hl : s.hearth.lastLayout = some l) :
    (s.warmEnd x).hearth.start = some (q, .passed) ∧ (s.warmEnd x).hearth.preserve = false ∧ (s.warmEnd x).glb = s.glb ∧
    (s.warmEnd x).mem.dram = s.mem.dram.zero (scrubFrom l s.hearth.preserve) (scrubTo l) := by
  obtain ⟨f, p, g, k, hlog⟩ := Logs.logOnDie (s.modMem (fun m => m.warmStart x.entropy s.now))
  have hstart : s.hearth.start.map (fun q => (q.1, StartPhase.passed)) = some (q, .passed) := by rw [hs]; rfl
  unfold State.warmEnd
  rw [hlog]
  simp only [State.modHearth, State.warmScrub, State.modMem, hl, State.phase]
  exact ⟨hstart, trivial, trivial, rfl⟩

include hb

theorem exec_warmStart_train (h : x.train = false) :
    exec (.warmStart x) s = .next (s.sampleStraps.phase (.failed Code.memTrainStale)) := by
  simp only [exec, execWarmStart, hb, h]
  rfl

theorem exec_warmStart_quick (ht : x.train = true) (h : x.quick = false) :
    exec (.warmStart x) s = .next (s.sampleStraps.phase (.failed Code.startQuick)) := by
  simp only [exec, execWarmStart, hb, ht, h]
  rfl

theorem exec_warmStart_hashes (ht : x.train = true) (hq : x.quick = true) (h : x.hashes = false) :
    exec (.warmStart x) s = .next (s.sampleStraps.phase (.failed Code.fwHash)) := by
  simp only [exec, execWarmStart, hb, ht, hq, h]
  rfl

theorem exec_warmStart_passes (ht : x.train = true) (hq : x.quick = true) (hh : x.hashes = true) (hm : s.mem.laneMarks = []) :
    exec (.warmStart x) s = .next ((s.sampleStraps.modMem (fun m => { m with laneMarks := [] })).warmEnd x) := by
  have hm' : s.sampleStraps.mem.laneMarks = [] := hm
  simp only [exec, execWarmStart, hb, ht, hq, hh, hm', State.remapLanes]
  rfl

end

/-- A phase of a start that is under way. -/
theorem phase_start {s : State} {w : Bool} {ph : StartPhase} (h : s.hearth.start = some (w, ph)) (p : StartPhase) :
    (s.phase p).hearth.start = some (w, p) := by
  rw [State.phase, State.modHearth, h]
  rfl

end Sys2Proof.Machine
end

section
/-!
Starts, as one statement (R498 to R506, R524 to R526, R532, R534).
-/
namespace Sys2Proof.Machine

theorem laneFindings_congr {s u : State} (h : u.mem = s.mem) (x : ColdStartResult) : laneFindings u x = laneFindings s x := by
  rw [laneFindings, laneFindings, h]

/-- A compatible cold start of `s` stands at the training of its memory. -/
structure Trains (s : State) (x : ColdStartResult) (u : State) : Prop where
  start : u.hearth.start = some (false, .begin)
  images : u.hearth.images = settledImages x
  mem : u.mem = s.mem
  rooms : u.rooms = []
  retired : u.ras.retired = 0
  rows : u.ras.rows = []
  grid : u.glb.grid = fuseGrid s.part.e (s.part.goodRooms &&& x.rooms)
  maint : u.glb.maint = s.pins.strapMaint
  compat : u.glb.compat = s.pins.strapCompat
  head : u.ras.head = s.ras.head + (if slotOk (newerSlot x) then 0 else 1)

section
variable {s : State} {x : ColdStartResult} (hb : s.hearth.start = some (false, .begin))
  (hg : gridOk s.part.e (s.part.goodRooms &&& x.rooms) = true) (hs : x.sram = true)
include hb hg hs

/-- No slot authenticates. -/
theorem coldStart_fwAuth (h1 : slotOk (newerSlot x) = false) (h2 : slotOk (olderSlot x) = false) : Gives (.coldStart x) s (fun t =>
    t.hearth.start = some (false, .failed Code.fwAuth) ∧ t.mem = s.mem) :=
  ⟨_, exec_coldStart_refused hb (fuseLoad_passes hg hs) (firmware_none h1 h2), phase_start hb _, rfl⟩

variable (hslot : slotOk (newerSlot x) = true ∨ slotOk (olderSlot x) = true)
include hslot

/-- The images in force are not compatible with each other or with the device. -/
theorem coldStart_fwCompat (h : mismatches (settledImages x) ≠ []) : Gives (.coldStart x) s (fun t =>
    (t.hearth.start = some (false, .failed Code.fwCompat) ∧ t.mem = s.mem) ∧ t.hearth.mismatch = mismatches (settledImages x) ∧
      t.ras.head = s.ras.head + (if slotOk (newerSlot x) then 0 else 1)) := by
  obtain ⟨b, t, hf, f, p, l, k, rfl⟩ := firmware_some (s := s.fused x) hslot
  rw [List.isEmpty_eq_false_iff.mpr h, if_neg Bool.false_ne_true] at hf
  exact ⟨_, exec_coldStart_refused hb (fuseLoad_passes hg hs) hf, ⟨phase_start hb _, rfl⟩, rfl, rfl⟩

variable (hcompat : mismatches (settledImages x) = [])
include hcompat

/-- The state from which a compatible cold start trains its memory. -/
theorem coldStart_tail : ∃ u, exec (.coldStart x) s = .next (State.coldTail u x) ∧ Trains s x u := by
  obtain ⟨b, t, hf, f, p, l, k, rfl⟩ := firmware_some (s := s.fused x) hslot
  rw [hcompat, List.isEmpty_nil, if_pos rfl] at hf
  exact ⟨_, exec_coldStart_tail hb (fuseLoad_passes hg hs) hf, hb, rfl, rfl, rfl, rfl, rfl, rfl, rfl, rfl, rfl⟩

theorem coldStart_memTrain (h : x.train = false) : Gives (.coldStart x) s (fun t =>
    t.hearth.start = some (false, .failed Code.memTrain) ∧ t.mem = s.mem) := by
  obtain ⟨u, hexec, hu⟩ := coldStart_tail hb hg hs hslot hcompat
  rw [coldTail_untrained h] at hexec
  exact ⟨_, hexec, phase_start hu.start _, hu.mem⟩

theorem coldStart_memSpare (ht : x.train = true) (h : x.memSpare = false) : Gives (.coldStart x) s (fun t =>
    t.hearth.start = some (false, .failed Code.memNoSpare) ∧ t.mem.dram = s.mem.dram) := by
  obtain ⟨u, hexec, hu⟩ := coldStart_tail hb hg hs hslot hcompat
  obtain ⟨hh, hd⟩ := remapLanes_keeps (laneFindings u x) u
  rw [coldTail_noSpare ht (.inl h)] at hexec
  exact ⟨_, hexec, phase_start ((congrArg Hearth.start hh).trans hu.start) _, hd.trans (congrArg Mem.dram hu.mem)⟩

variable (ht : x.train = true) (hm : x.memSpare = true)
include ht hm

omit hm in
/-- Two failing lanes of one half or channel. -/
theorem coldStart_laneTwice {k lane other : Nat} (hl : laneFindings s x = [(k, lane)]) (ho : tget s.mem.lanes k = some other)
    (hne : other ≠ lane) : Gives (.coldStart x) s (fun t =>
      t.hearth.start = some (false, .failed Code.memNoSpare) ∧ t.mem = s.mem) := by
  obtain ⟨u, hexec, hu⟩ := coldStart_tail hb hg hs hslot hcompat
  have hl' : laneFindings u x = [(k, lane)] := (laneFindings_congr hu.mem x).trans hl
  have hremap := remapLanes_second (s := u) (lane := lane) (hu.mem ▸ ho) hne
  rw [coldTail_noSpare ht (.inr (by rw [hl', hremap])), hl', hremap] at hexec
  exact ⟨_, hexec, phase_start hu.start _, hu.mem⟩

/-- What a passed cold start leaves, with `n` entries logged and the lanes mapped. -/
def Passed (s : State) (x : ColdStartResult) (t : State) (n : W32) (lanes : Tab Nat) : Prop :=
  t.hearth.start = some (false, .passed) ∧ t.hearth.images = settledImages x ∧ t.mem.dram = [] ∧ t.mem.poison = [] ∧
  t.mem.trained = true ∧ t.mem.ecc = s.mem.eccNext ∧ t.mem.lanes = lanes ∧ t.hearth.startMs = 1800 ∧
  t.glb.grid = fuseGrid s.part.e (s.part.goodRooms &&& x.rooms) ∧ t.glb.maint = s.pins.strapMaint ∧
  t.glb.compat = s.pins.strapCompat ∧ t.rooms = [] ∧ t.ras.retired = 0 ∧ t.ras.rows = [] ∧ t.ras.head = s.ras.head + n

/-- Lanes that are mapped out without a failure, in `n` entries, let the start pass. -/
theorem coldStart_passes {lanes : Tab Nat} {n : W32}
    (hr : ∀ u : State, u.mem = s.mem → ∃ v m, u.remapLanes (laneFindings u x) = (v, true) ∧ Logs { u with mem := m } v n ∧
      m.eccNext = s.mem.eccNext ∧ m.lanes = lanes) :
    Gives (.coldStart x) s (fun t => Passed s x t ((if slotOk (newerSlot x) then 0 else 1) + (4 + n)) lanes) := by
  obtain ⟨u, hexec, hu⟩ := coldStart_tail hb hg hs hslot hcompat
  obtain ⟨v, m, hremap, ⟨f, p, l, k, rfl⟩, hecc, hlanes⟩ := hr u hu.mem
  rw [coldTail_passes ht hm (by rw [hremap]), hremap] at hexec
  obtain ⟨h1, h2, h3, h4, h5, h6, h7, h8, h9⟩ := coldEnd_facts (x := x) (s := { u with
    mem := m, free := f, porch := p, ras := { u.ras with log := l, head := u.ras.head + n, lost := k } }) hu.start
  refine ⟨_, hexec, h1, h2.trans hu.images, ?_, ?_, ?_, ?_, ?_, h4, ?_, ?_, ?_, h6.trans hu.rooms, h7.trans hu.retired, h8.trans hu.rows, ?_⟩
  · rw [h3]; rfl
  · rw [h3]; rfl
  · rw [h3]; rfl
  · rw [h3]; exact hecc
  · rw [h3]; exact hlanes
  · rw [h5]; exact hu.grid
  · rw [h5]; exact hu.maint
  · rw [h5]; exact hu.compat
  · refine h9.trans ?_
    rw [hu.head, BitVec.add_assoc, BitVec.add_assoc, BitVec.add_comm n 4]

theorem coldStart_noLanes (hl : laneFindings s x = []) :
    Gives (.coldStart x) s (fun t => Passed s x t ((if slotOk (newerSlot x) then 0 else 1) + 4) s.mem.lanes) := by
  refine coldStart_passes (n := 0) hb hg hs hslot hcompat ht hm fun u hu => ⟨_, { u.mem with laneMarks := [] }, ?_, Logs.refl _, ?_, ?_⟩
  · rw [laneFindings_congr hu x, hl]
    rfl
  · exact (congrArg Mem.eccNext hu :)
  · exact (congrArg Mem.lanes hu :)

/-- A failing lane whose half or channel still has its spare. -/
theorem coldStart_freshLane {k lane : Nat} (hl : laneFindings s x = [(k, lane)]) (hk : tget s.mem.lanes k = none) :
    Gives (.coldStart x) s (fun t => Passed s x t ((if slotOk (newerSlot x) then 0 else 1) + 5) (tset s.mem.lanes k lane)) := by
  refine coldStart_passes (n := 1) hb hg hs hslot hcompat ht hm fun u hu => ?_
  obtain ⟨f, p, l, c, hlog⟩ := Logs.log (u.modMem (fun m => { m with lanes := tset m.lanes k lane }))
    { status := Code.memLaneSpared, unit := 4, index := k, addr := lane }
  refine ⟨_, { u.mem with lanes := tset u.mem.lanes k lane, laneMarks := [] }, ?_, ⟨f, p, l, c, rfl⟩, ?_, ?_⟩
  · rw [laneFindings_congr hu x, hl, remapLanes_fresh (hu ▸ hk), hlog]
    rfl
  · exact (congrArg Mem.eccNext hu :)
  · exact (congrArg (fun m => tset m.lanes k lane) hu :)

/-- A failing lane that is mapped out already. -/
theorem coldStart_knownLane {k lane : Nat} (hl : laneFindings s x = [(k, lane)]) (hk : tget s.mem.lanes k = some lane) :
    Gives (.coldStart x) s (fun t => Passed s x t ((if slotOk (newerSlot x) then 0 else 1) + 4) s.mem.lanes) := by
  refine coldStart_passes (n := 0) hb hg hs hslot hcompat ht hm fun u hu => ⟨_, { u.mem with laneMarks := [] }, ?_, Logs.refl _, ?_, ?_⟩
  · rw [laneFindings_congr hu x, hl, remapLanes_known (hu ▸ hk)]
    rfl
  · exact (congrArg Mem.eccNext hu :)
  · exact (congrArg Mem.lanes hu :)

end

/-- Settles O56: the beginnings of a start and the supplies, then the steps of a start. -/
theorem starts : Obligations.Starts := by
  refine ⟨?_, fun s => ?_, fun s => ?_⟩
  · intro begun kind s
    have begins : ∀ (u : State) (asked : Bool), begun u (u.beginStart asked) (u.startsCold asked) := fun u asked =>
      ⟨rfl, rfl, rfl, rfl, rfl, rfl, rfl, rfl, rfl, rfl, rfl, rfl, rfl, rfl, rfl, rfl, rfl, rfl, rfl, rfl, rfl, atStart_dram _ _, rfl,
        rfl, rfl, fun k => tget_foldl_tset _ k _ _, fun i q hq => ⟨_, ports_atStart _ _ hq, by
          rw [atStart_state, Bool.not_not]⟩⟩
    have hkind : ∀ u asked, u.startsCold asked = kind u asked := startsCold_eq
    refine ⟨fun hd hp hg => ⟨_, exec_perstDeassert_powered hd hp hg, begins _ true, rfl⟩, exec_perstDeassert_unpowered,
      fun hd hp hs => ⟨_, exec_perstDeassert_waiting hd hp hs, hkind s false ▸ begins _ false, rfl⟩,
      fun hd hu => ⟨_, exec_linkDown_begins hd hu, hkind s false ▸ begins _ false, rfl⟩,
      exec_linkDown_ignored, fun hd hp hm ha hb hl => ?_⟩
    have hu := regsUp_of hd hp hm
    exact ⟨⟨_, exec_restartWarm_begins hd hu hl ha hb, hkind s false ▸ begins _ false, rfl, rfl⟩,
      ⟨_, exec_restartCold_begins hd hu hl ha hb, begins _ true, rfl, rfl⟩⟩
  · refine ⟨rfl, ⟨_, rfl, rfl, rfl, rfl, rfl, rfl, rfl, rfl, rfl, rfl, rfl, rfl, rfl, rfl, rfl, rfl, rfl⟩, exec_perstAssert_off,
      fun hd => ⟨_, exec_perstAssert_live hd, rfl, rfl, rfl, rfl, rfl, rfl, rfl, rfl, rfl, atStart_dram _ _, rfl⟩, fun h => ?_,
      fun h => ?_, exec_supplyFault_off⟩
    · have hd : s.glb.dev ≠ .off := by rintro hoff; simp [hoff] at h
      obtain ⟨p, r, v, hf, hhead⟩ := fatal_inService h { status := Code.supplyFault }
      exact ⟨_, (exec_supplyFault_live hd).trans (congrArg Host.Outcome.next hf), rfl, rfl, rfl, rfl, hhead, rfl, rfl, rfl⟩
    · have hd : s.glb.dev ≠ .off := by rintro hoff; simp [hoff] at h
      exact (exec_supplyFault_live hd).trans (congrArg Host.Outcome.next (fatal_otherwise (not_inService h) _))
  · refine ⟨fun w => exec_startComplete_passed, exec_startComplete_ignored, fun w c => startStepFail_leads, fun x hb => ?_,
      fun x hb => ?_⟩
    · intro good first second fails
      refine ⟨fun h => ⟨_, exec_coldStart_unfused hb (fuseLoad_fails h), phase_start hb _, rfl⟩, fun hg hs =>
        ⟨coldStart_fwAuth hb hg hs, fun hslot => ?_⟩⟩
      intro images logged bad marks passed
      refine ⟨coldStart_fwCompat hb hg hs hslot, fun hcompat => ⟨coldStart_memTrain hb hg hs hslot hcompat,
        coldStart_memSpare hb hg hs hslot hcompat, fun ht hm => ⟨coldStart_noLanes hb hg hs hslot hcompat ht hm, fun k lane hl =>
          ⟨coldStart_freshLane hb hg hs hslot hcompat ht hm hl, coldStart_knownLane hb hg hs hslot hcompat ht hm hl,
            fun other ho hne => coldStart_laneTwice hb hg hs hslot hcompat ht hl ho hne⟩⟩⟩⟩
    · intro fails
      refine ⟨fun h => ⟨_, exec_warmStart_train hb h, phase_start hb _, rfl⟩,
        fun ht h => ⟨_, exec_warmStart_quick hb ht h, phase_start hb _, rfl⟩,
        fun ht hq h => ⟨_, exec_warmStart_hashes hb ht hq h, phase_start hb _, rfl⟩, fun l ht hq hh hm hl => ?_⟩
      obtain ⟨hstart, hpre, hglb, hdram⟩ := warmEnd_facts (x := x)
        (s := s.sampleStraps.modMem (fun m => { m with laneMarks := [] })) hb hl
      refine ⟨_, exec_warmStart_passes hb ht hq hh hm, hstart, hpre, congrArg Global.maint hglb, fun a => ?_⟩
      rw [hdram]
      exact byte_zero_eq _ _ _ a

end Sys2Proof.Machine
end
